-- ==== Sys2Proof/Word.lean ====
section
/-!
DEFINITION. The bit-vector types of the register space and of stored data.
-/

namespace Sys2Proof

/-- One byte of DRAM, flash or a message. -/
abbrev Byte := BitVec 8

/-- One register: 32 bits, read and written whole (R424). -/
abbrev Word := BitVec 32

/-- A register address of 20 bits: page number in bits 19..12, offset in bits 11..0 (R424). -/
abbrev RegAddr := BitVec 20

end Sys2Proof
end

