-- ==== Sys2Proof/Config.lean ====
section
/-!
DEFINITION. Figures the manual fixes for the device, and the free values it leaves open.
-/

namespace Sys2Proof.Config

/-- Units of device time (19.53125 ps, R285) in one microsecond. -/
abbrev unitsPerUs : Nat := 51200

/-- Units of device time in one CK_CORE cycle (1.6 GHz, Table 1-5). -/
abbrev unitsPerCore : Nat := 32

/-- Units of device time in one CK_TIME cycle (800 MHz, Table 1-5). -/
abbrev unitsPerTimeClock : Nat := 64

/-- A free value: a byte the manual leaves undefined (an aborted flash program or erase, log 6). Nothing constrains it. -/
opaque freeByte : Nat → Byte

/-- A free value: a 32-bit word the manual leaves undefined (log 6). Nothing constrains it. -/
opaque freeWord : Nat → Word

/-- A free value: a number the manual leaves undefined (log 6). Nothing constrains it. -/
opaque freeNat : Nat → Nat

/-- The key-hash fuses (R317, R466): the SHA-256 of the image-signing key, which each part's order names (log 4). -/
opaque keyHash : List Byte

end Sys2Proof.Config
end

