-- ==== Sys2Proof/Syntax.lean ====
section
/-!
DEFINITION. The commands the block takes: one constructor for each row of spec/opcode_table.json. The table gives its rows
no operand fields; the operands are what the rule of each row says the step depends on (log 9).
-/

namespace Sys2Proof

/-- Who makes a register access (Table 16-1). -/
inductive Src where
  | host (port : Fin 16)
  | sideband
  | core
deriving DecidableEq, Repr

/-- An error that a DRAM read meets: the footprint it is read from (`mirror`, R66), whether it hits the block record or a line,
which line of the access, the symbol of the codeword (0 to 63 data, 64 to 67 check, 68 to 71 line number, R205, R232), and the
bits that are inverted. -/
structure RdErr where
  mirror : Bool
  isRec : Bool
  line : Nat
  pos : Nat
  mask : Byte
deriving DecidableEq, Repr

/-- What a command slot of a channel finds: the banks whose timing lets no command issue (bit 16·rank + bank), and errors met
by a scrub of this slot, and a parity error in the queues, or in the redirect entries (R230, R399). -/
structure SlotIn where
  busy : BitVec 32
  errs : List RdErr
  parity : Bool
  tableParity : Bool := false
deriving DecidableEq, Repr

/-- The background activities of a channel (Table 7-13). -/
inductive BgAct where
  | scrub | zq | osc | mr4 | snap
deriving DecidableEq, Repr

/-- The refresh multiplier that MR4 reports (R219). -/
inductive RefMult where
  | x1 | half | quarter
deriving DecidableEq, Repr

/-- The writable queue configuration registers (R151). -/
inductive QReg where
  | qbase | qcbase | qcfg
deriving DecidableEq, Repr

/-- The kinds of training campaign (Table 8-1): fast, full, set-point and short. -/
inductive Campaign where
  | fast | full | setPoint | short
deriving DecidableEq, Repr

/-- Where a full or set-point training failed (Table 8-2): command-bus training at 3200 MT/s or at the target, WCK levelling, read
training, write training, or the centring of the read or the write delays. -/
inductive TrainFail where
  | cbt | cbtTarget | wck | read | write | centreRead | centreWrite
deriving DecidableEq, Repr

/-- What the ranks of a channel report in step 1 or F1 (R238): how many there are, the density code of each, their identification codes,
the activation count at which they ask for refresh management (R198), 0 for none, and whether what else R199 asks of them holds. -/
structure Parts where
  ranks2 : Bool
  density0 : Fin 16
  density1 : Fin 16
  id : BitVec 64
  rfm : Nat
  fits : Bool
deriving DecidableEq, Repr

/-- What a fast path finds (Table 8-3): whether the CA check of F1 failed, the bits with an error at each of the three points of F3 and
in its read-DQ-calibration test, and the largest drift of F4 in ps. -/
structure FastCheck where
  caBad : Bool
  fifo : List (BitVec 18)
  rdc : BitVec 18
  drift : Int
deriving DecidableEq, Repr

/-- What a campaign finds (R236 to R239): the parts, the check of a fast path, where another training failed, and bytes 24 to 215 of
Table 8-6 as it measured them. -/
structure CampaignResult where
  parts : Parts
  check : FastCheck
  fail : Option TrainFail
  measured : List Byte
deriving DecidableEq, Repr

/-- What an attempt of a short retraining found (R254): how far each common delay moves to its centre, read delays of rank 0 lanes 0 and 1
and rank 1 lanes 0 and 1, then the write delays in the same order; and the new oscillator baseline, bytes 200 to 207 of Table 8-6. -/
structure Recentred where
  moves : List Int
  osc : List Byte
deriving DecidableEq, Repr

/-- What a chunk met (R181, R188, R193, R179): read errors keyed by memory line number, a lockstep mismatch, parity errors of a
table set or of the recipe copy, an uncorrectable error of the staging store, cache lines found uncorrectable, errors of the local
store that were corrected, and whether the joiner concerned is the upper one of a pair. -/
structure ChunkIn where
  errs : List RdErr
  mismatch : Bool
  tpar : Option (Fin 8)
  recipePar : Bool
  lsunc : Bool
  cacheUnc : List Nat
  corrected : Nat
  upper : Bool
deriving DecidableEq, Repr

/-- A received training block (R93): whether TSM stood whole at the expected spacing, word 1, when the block arrived in words of
the lane, whether this end's receiver has finished adapting, and the EQREQ that it makes of the far transmitter (R95). -/
structure TrainIn where
  tsm : Bool
  word1 : BitVec 128
  arrival : Nat
  adapted : Bool
  eqreq : BitVec 8
deriving DecidableEq, Repr

/-- Wake events of the device (R349): a signal on a lane in standby, a message that must be sent, a sideband or management-core
access to a unit that sleeps. -/
inductive WakeCause where
  | laneSignal (port : Fin 16)
  | message (port : Fin 16)
  | sideband
  | core
deriving DecidableEq, Repr

/-- What starts SAFE entry (R405): a write of SCMD.ENTER with a key, a parity error in a register or table of a page, or in a
port's copy of the region bounds (R399), or one on a data path of a unit with no page (Table 15-1, code 0x0B). -/
inductive SafeCause where
  | command (src : Src) (key : BitVec 16)
  | parity (page : Fin 256)
  | bounds (port : Fin 16)
  | dataPath
deriving DecidableEq, Repr

/-- Causes of a cold reset (R313). -/
inductive ColdCause where
  | pwrok | resetN | rail
deriving DecidableEq, Repr

/-- Boundary-scan instructions (R453). `other` is an unlisted instruction. -/
inductive TapInst where
  | bypass | idcode | samplePreload | extest | extestPulse | extestTrain | other
deriving DecidableEq, Repr

/-- How a read word of the sideband ends (R384): the controller acknowledges its first `acked` bytes, and then refuses the next one, or,
with `cut`, a START or STOP falls into that one (R389). -/
structure ReadEnd where
  acked : Fin 6
  cut : Bool := false
deriving DecidableEq, Repr

/-- Where a START or STOP falls on the sideband (R389): between bytes, inside the 8 bits of a byte, or in its acknowledge slot. -/
inductive BusPos where
  | boundary | inByte | inAck
deriving DecidableEq, Repr

/-- A received time group (R287, R288): its four words and the receive timestamp in units. -/
structure TimeGroup where
  words : List (BitVec 128)
  rx : BitVec 64
deriving DecidableEq, Repr

/-- A received ring message (Table 10-3): header and data. `poison` lists its lines that came as poison lines (R305, log 89). -/
structure RingMsg where
  hdr : BitVec 128
  data : List Byte
  poison : List Nat := []
deriving DecidableEq, Repr

/-- What a read of a flash page meets (R358): the bits its check code corrected, or an uncorrectable page with the bits that are
wrong in the bytes as read. -/
structure FlashIn where
  cbits : Fin 9
  uncor : Bool
  flips : List (Fin 256 × Byte)
deriving DecidableEq, Repr

/-- The commands: one constructor for each row of spec/opcode_table.json. -/
inductive Instr where
  /-- REGISTER_WRITE (R5). A write to a register that has no row of its own acts on each field according to its access type, after the admission, seal and reach checks of its source. -/
  | registerWrite (src : Src) (addr : RegAddr) (val : Word) (parity : Bool)
  /-- EVT_FORCE (R428). A write to EVT_FORCE sets the chosen event bits, fills the capture, triggers the page vector if enabled and logs an entry with ACTION 0. -/
  | evtForce (src : Src) (page : Fin 256) (mask : Word)
  /-- EVTCLR (R427). CTRL.EVTCLR clears every EVT bit of the page, subject to R6. -/
  | evtClr (src : Src) (page : Fin 256)
  /-- CAPCLR (R427). CTRL.CAPCLR clears ERR_CAP0, ERR_CAP1 and STAT.EVTCNT of the page. -/
  | capClr (src : Src) (page : Fin 256)
  /-- MERIDIAN_PULSE (R298). At the first CK_CORE cycle at or after PT(k), the pulse starting epoch k reaches every unit in the same cycle and every unit takes the new epoch number. -/
  | meridianPulse
  /-- BLANKING_WINDOW_OPEN (R434). The blanking window of the epoch opens BLANK.US before the closing pulse, letting schedulers pull in refresh and background work and starting a pending STEP ramp. -/
  | blankingWindowOpen
  /-- RD (R140). A host read request is checked under Table 4-7, refused or sent to its ordering point, selecting the visible copy of an epoch-buffered region. -/
  | rd (port : Fin 16) (tag : Fin 512) (len : Fin 64) (tc : BitVec 2) (maxage : BitVec 8) (addr : BitVec 40)
  /-- WR_ACK (R140). An acknowledged host write is checked under Table 4-7 and R141 and goes to its ordering point once earlier posted writes have passed. -/
  | wrAck (port : Fin 16) (tag : Fin 512) (len : Fin 64) (tc : BitVec 2) (addr : BitVec 40) (data : List Byte)
  /-- WR_POST (R140). A posted host write is checked under Table 4-7 and R141, dropped and counted if refused, otherwise sent to its ordering point. -/
  | wrPost (port : Fin 16) (len : Fin 64) (tc : BitVec 2) (addr : BitVec 40) (data : List Byte)
  /-- COMMIT (R48). A host commit is checked under Table 4-7 and R130 and waits until every earlier write from the writer port to the region has passed its ordering point. -/
  | commit (port : Fin 16) (tag : Fin 512) (touch : Bool) (region : Fin 256) (frame : BitVec 16)
  /-- COMMIT_ACCEPT (R48). The region and epoch unit accepts a commit, records E_c and FRAME, makes the writable copy pending and starts fill-forward. -/
  | commitAccept (region : Fin 256)
  /-- FILL_FORWARD_DONE (R52). When fill-forward of a committing copy has finished, the commit completes with OK and the copy may become eligible. -/
  | fillForwardDone (region : Fin 256) (bad : List (Nat × Nat))
  /-- REG_RD (R131). A host register read is checked under Table 4-7 and completes with CPLD and the register value or a refusal status. -/
  | regRd (port : Fin 16) (tag : Fin 512) (raddr : RegAddr) (parity : Bool) (rd : FlashIn)
  /-- REG_WR (R131). A host register write is checked under Table 4-7, performed in port order and completed once it has taken effect. -/
  | regWr (port : Fin 16) (tag : Fin 512) (raddr : RegAddr) (data : Word) (parity : Bool)
  /-- DOORBELL (R132). A doorbell from the queue owner, once earlier posted writes have passed, updates the queue PIDX if valid or puts the queue in ERROR. -/
  | doorbell (port : Fin 16) (queue : Fin 256) (pidx : BitVec 16)
  /-- ORDERING_POINT_PASS (R13). A waiting access passes its line's ordering point once a queue entry is free, admitting all its lines at once, updating tags and line-write maps and acknowledging writes. -/
  | orderingPointPass (access : Nat)
  /-- SCHEDULER_SLOT (R210). At each command slot the channel controller issues the first candidate of Table 7-9 that its DRAM timing allows. -/
  | schedulerSlot (ch : Fin 64) (slot : SlotIn)
  /-- READ_COMPLETE (R60). Data of a read returns through the line check, king-post compare and age check and completes with the first applicable status of Table 2-5. -/
  | readComplete (access : Nat) (errs : List RdErr)
  /-- PHY_FAULT (R230). The safety monitor reports a channel PHY fault, which fails the channel. -/
  | phyFault (ch : Fin 64) (canDrive : Bool)
  /-- REFRESH_TICK (R216). Every tREFIpb the refresh credit of a rank falls by one. -/
  | refreshTick (ch : Fin 64) (rank : Fin 2)
  /-- BACKGROUND_DUE (R221). A background activity of a channel (ZQ latch, oscillator, MR4 read, scrub pacing) becomes due at its period. -/
  | backgroundDue (ch : Fin 64) (act : BgAct)
  /-- BACKGROUND_SLACK_OUT (R221). A due background activity whose slack runs out is raised to order 5 for exactly one slot. -/
  | backgroundSlackOut (ch : Fin 64) (act : BgAct)
  /-- OSC_MEASURE_DONE (R223). A WCK-to-DQ measurement ends; small drift moves the DQ delays and drift beyond TRKMAX is a tracking loss. -/
  | oscMeasureDone (ch : Fin 64) (drift : Int)
  /-- MR4_READ_DONE (R219). The MR4 read result sets the refresh multiplier of the rank and sets HOT at 0.25×. -/
  | mr4ReadDone (ch : Fin 64) (rank : Fin 2) (mult : RefMult)
  /-- SCRUB_PASS_DEADLINE (R224). A scrub pass not finished within PERIOD sets SCRUB_LATE. -/
  | scrubPassDeadline (ch : Fin 64)
  /-- TELEMETRY_SNAP (R221). CCMD.SNAP requests an atomic copy of the channel counters into the snapshot registers in one background slot. -/
  | telemetrySnap (src : Src) (ch : Fin 64)
  /-- CH_CLRCNT (R231). CCMD.CLRCNT clears every counter of the channel page, RFSTAT.MINCRED and TRCNT. -/
  | chClrcnt (src : Src) (ch : Fin 64)
  /-- POWERDOWN_ENTRY (R228). A channel idle for PDCFG.IDLE cycles with nothing owed enters power-down. -/
  | powerdownEntry (ch : Fin 64)
  /-- ROW_REDIRECT (R226). The management core copies a repair-candidate row line by line into a spare row at its ordering points. -/
  | rowRedirect (ch : Fin 64) (errs : List RdErr)
  /-- REDIRECT_DONE (R226). When a redirect has copied the whole row, the entry becomes valid, RD_NEW is set and the almanac is updated. -/
  | redirectDone (ch : Fin 64)
  /-- DESCRIPTOR_FETCH (R152). The data of a descriptor fetch returns; a poisoned fetch ends the descriptor with a POISONED record. -/
  | descriptorFetch (queue : Fin 256) (errs : List RdErr)
  /-- DESCRIPTOR_START (R155). An eligible descriptor receives a job slot, selects visible copies and epoch E, and passes or fails the checks of Table 5-1. -/
  | descriptorStart (queue : Fin 256)
  /-- CHUNK_TAKE (R187). A free joiner or lockstep pair takes the next chunk of 64 lamps in king-post-first order. -/
  | chunkTake (group : Fin 8) (unit : Fin 16)
  /-- CHUNK_COMPLETE (R187). A joiner finishes its chunk after fetching records and pixels, computing each lamp and sending its output. -/
  | chunkComplete (group : Fin 8) (unit : Fin 16) (faults : ChunkIn)
  /-- GROUP_RETURN (R193). A joiner group returns to service after its fault, keeping recipes, valid sets and unfenced caches, or goes out of service if all pairs are fenced. -/
  | groupReturn (group : Fin 8)
  /-- MOVE_PIECE (R159). The move engine admits one piece of a COPY or FILL, never crossing a 4 KiB block. -/
  | movePiece (queue : Fin 256) (idx : BitVec 16) (errs : List RdErr)
  /-- JOB_COMPLETE (R156). When every output of a descriptor has passed its ordering point or left its port, it completes with the first applicable status and its record is written. -/
  | jobComplete (queue : Fin 256) (idx : BitVec 16)
  /-- COMPLETION_RECORD_PASS (R162). A completion record passes its ordering point, RETIRED advances and the queue vector is triggered unless NOIRQ. -/
  | completionRecordPass (queue : Fin 256) (idx : BitVec 16)
  /-- QPIDX_WRITE (R148). A register write to QPIDX acts as a doorbell from the owner, sideband or management core. -/
  | qpidxWrite (src : Src) (queue : Fin 256) (pidx : BitVec 16)
  /-- QUEUE_ENABLE (R151). QCTL.ENABLE, held until nothing is in progress, checks the rings and starts the queue in RUN with indices 0 or leaves it DISABLED. -/
  | queueEnable (src : Src) (queue : Fin 256)
  /-- QUEUE_DISABLE (R164). QCTL.DISABLE stops fetching, lets work in progress complete in DRAINING and then disables the queue. -/
  | queueDisable (src : Src) (queue : Fin 256)
  /-- QUEUE_ABORT (R164). QCTL.ABORT discards every descriptor in progress and disables the queue. -/
  | queueAbort (src : Src) (queue : Fin 256)
  /-- QUEUE_CLRCNT (R170). QCTL.CLRCNT clears QCNT before any other bit of the same write. -/
  | queueClrcnt (src : Src) (queue : Fin 256)
  /-- QUEUE_CONFIG_WRITE (R151). A write to QBASE, QCBASE or QCFG takes effect only while the queue is DISABLED, otherwise sets CAUSE 0x05. -/
  | queueConfigWrite (src : Src) (queue : Fin 256) (reg : QReg) (val : Word)
  /-- QUEUE_DRAINED (R164). A DRAINING or held-enable queue reaches no descriptor in progress and enters DISABLED or takes the held enable. -/
  | queueDrained (queue : Fin 256)
  /-- IRQ_SEND (R167). A pending unmasked vector whose port is ACTIVE, gap passed and batch or hold condition met sends an IRQ, latches the device time and becomes INFLIGHT. -/
  | irqSend (vec : Fin 512)
  /-- HOLD_EXPIRE (R167). The HOLD timer of a vector expires, allowing its gathered triggers to be sent. -/
  | holdExpire (vec : Fin 512)
  /-- VECTOR_FIRE (R171). VCMD.FIRE triggers the selected vector once. -/
  | vectorFire (src : Src)
  /-- VECTOR_CLRPEND (R171). VCMD.CLRPEND clears PENDING and GATHER of the selected vector. -/
  | vectorClrpend (src : Src)
  /-- REGION_ENABLE (R40). RCMD.ENABLE checks the region attributes and, if valid, enables it and starts the initialisation walk, or sets CFGERR. -/
  | regionEnable (src : Src)
  /-- INIT_DONE (R41). The initialisation walk of a region ends, zeros and ANCIENT records in place, and sets INIT_DONE. -/
  | initDone (region : Fin 256)
  /-- REGION_DISABLE (R42). RCMD.DISABLE disables the region, drops pending and writable copies and discards commits still filling forward. -/
  | regionDisable (src : Src)
  /-- REGION_CLRCNT (R80). RCMD.CLRCNT clears RLATE and RSKIP of the selected region. -/
  | regionClrcnt (src : Src)
  /-- SLOT_TABLE_BUILD (R35). Once every start-up campaign has ended, the management core builds the slot table and derives MEMSIZE and ISIZE. -/
  | slotTableBuild
  /-- KP_RESYNC_DONE (R67). The copy of the out-of-service king-post footprint from the surviving one finishes and the region returns to DUAL. -/
  | kpResyncDone (region : Fin 256) (bad : List (Nat × Nat))
  /-- EPCH_CLRCNT (R434). ECMD.CLRCNT clears LATE, SKIP and FLIPS. -/
  | epchClrcnt (src : Src)
  /-- FLIT_RECEIVE (R119). A codeword is decoded; a good in-order TX flit is accepted with its messages, credits and acknowledgements, otherwise it is discarded and a NAK episode begins. -/
  | flitReceive (link : Fin 20) (words : List (Fin 4 × BitVec 128)) (parity : Bool)
  /-- FLIT_SEND (R117). In every codeword time the transmitter sends a TX flit of messages and credits, or a NULL flit. -/
  | flitSend (link : Fin 20)
  /-- ACK_TIMER (R120). ACKDLY after the oldest unacknowledged accepted flit, the receiver returns an ACK. -/
  | ackTimer (link : Fin 20)
  /-- REPLAY_TIMEOUT (R121). When the oldest unacknowledged flit has waited RPLTO, every unacknowledged flit is replayed. -/
  | replayTimeout (link : Fin 20)
  /-- XCMD_CLRCNT (R145). XCMD.CLRCNT clears the port's transaction counters. -/
  | xcmdClrcnt (src : Src) (link : Fin 20)
  /-- MARKER_GROUP (R88). A marker group is received and checked on every lane of the active set; a missing or misplaced word marks the lane faulty. -/
  | markerGroup (link : Fin 20) (words : List (Option (Fin 4 × BitVec 128)))
  /-- MARKER_GROUP_DUE (R88). After 16,384 codewords the transmitter completes the round and sends a marker group. -/
  | markerGroupDue (link : Fin 20)
  /-- LANE_FAULT (R98). Loss of signal or CDR lock on an active lane is detected and starts retirement or retraining. -/
  | laneFault (link : Fin 20) (lane : Fin 8)
  /-- RETIRE_REQ (R99). A received RETIRE_REQ control group stops the transmit stream and is answered with RETIRE_ACK and a new set, unless the device is leader with its own request out. -/
  | retireReq (link : Fin 20) (mask : BitVec 8)
  /-- RETIRE_ACK (R99). A received RETIRE_ACK sets the new active set, sends a marker group and discards the port's open transactions, or retrains if below MINW. -/
  | retireAck (link : Fin 20) (mask : BitVec 8)
  /-- RETIRE_REQ_REPEAT (R99). While no RETIRE_ACK has arrived, the RETIRE_REQ is repeated every 1 µs. -/
  | retireReqRepeat (link : Fin 20)
  /-- RETIRE_TO (R103). No RETIRE_ACK 16 µs after the first request makes the port retrain and sets RETIRE_TO and LINK_DOWN. -/
  | retireTo (link : Fin 20)
  /-- PORT_ENABLE (R89). A write of 1 to LCFG.ENABLE, after the seal and with the SerDes reference on, starts training from DETECT. -/
  | portEnable (src : Src) (link : Fin 20)
  /-- PORT_DISABLE (R143). A write of 0 to LCFG.ENABLE turns the port OFF and loses its open transactions without completions. -/
  | portDisable (src : Src) (link : Fin 20)
  /-- RETRAIN (R143). LCMD.RETRAIN leaves the current state and trains from DETECT, discarding open transactions once back in ACTIVE. -/
  | retrain (src : Src) (link : Fin 20)
  /-- LANE_CLRCNT (R111). LCMD.CLRCNT clears LCNT and every lane counter. -/
  | laneClrcnt (src : Src) (link : Fin 20)
  /-- SIGNAL_DETECT (R89). A receiver detects signal, passing DETECT, starting an attempt from LISTEN or waking a port in standby. -/
  | signalDetect (link : Fin 20) (lane : Fin 8)
  /-- CDR_LOCK (R89). A lane's CDR locks and its receiver adapts to the preset, passing LOCK. -/
  | cdrLock (link : Fin 20) (lane : Fin 8)
  /-- TRAINING_BLOCK (R93). A received training block updates alignment match, equaliser requests, deskew, configuration and phase passes of its lane. -/
  | trainingBlock (link : Fin 20) (lane : Fin 8) (block : TrainIn)
  /-- PHASE_TIMEOUT (R90). A training phase not ended after 2 ms drops its unpassed lanes, or fails the attempt and starts the next or enters LISTEN. -/
  | phaseTimeout (link : Fin 20)
  /-- LISTEN_PERIOD (R92). Each LLISTEN.PERIOD in LISTEN the port makes a new training attempt. -/
  | listenPeriod (link : Fin 20)
  /-- ALGN_SLIP (R94). ALGN.SLIP moves the word boundary of each selected lane by one symbol and restarts its match test. -/
  | algnSlip (src : Src) (link : Fin 20) (mask : BitVec 8)
  /-- ALGN_DROP (R94). ALGN.DROP drops the selected lanes from training. -/
  | algnDrop (src : Src) (link : Fin 20) (mask : BitVec 8)
  /-- RETRY_PERIOD (R106). Every RETRYPER the management core starts a background retry of each retired lane, or resends WIDEN_REQ. -/
  | retryPeriod (link : Fin 20)
  /-- SOAK_END (R106). At the end of SOAK both ends report their checker errors, and a lane that passed joins the good lanes or a failed retry counts toward RETRYMAX. -/
  | soakEnd (link : Fin 20) (lane : Fin 8) (localErrs : Nat) (farPassed : Bool)
  /-- WIDEN_REQ (R106). A received WIDEN_REQ is answered with WIDEN_ACK and a marker group on the wider set. -/
  | widenReq (link : Fin 20) (mask : BitVec 8)
  /-- WIDEN_ACK (R106). A received WIDEN_ACK makes each end finish its codeword and send a marker group on the wider set. -/
  | widenAck (link : Fin 20) (mask : BitVec 8)
  /-- WIDEN_ACK_TIMEOUT (R106). No WIDEN_ACK within 10 µs keeps the current set until the next period. -/
  | widenAckTimeout (link : Fin 20)
  /-- LANE_TEST (R110). A write of LyCTL with non-zero TXPAT or RXCHK puts the lane in PRBS test, or is refused with CFG_ERR. -/
  | laneTest (src : Src) (link : Fin 20) (lane : Fin 8) (val : Word)
  /-- PRBS_INJECT (R109). LyCTL.INJECT inverts one bit of the generated pattern. -/
  | prbsInject (src : Src) (link : Fin 20) (lane : Fin 8)
  /-- CHECKER_LOCK (R109). After 64 symbols without error the PRBS checker locks. -/
  | checkerLock (link : Fin 20) (lane : Fin 8) (syms : List (Fin 4))
  /-- CHK_LOSS (R109). 256 or more bit errors within 1,024 bits make the checker lose lock and reload. -/
  | chkLoss (link : Fin 20) (lane : Fin 8) (syms : List (Fin 4))
  /-- PORT_STANDBY_START (R347). A port idle for PCFG.IDLE with nothing pending is sent a DIM or DARK standby control group. -/
  | portStandbyStart (link : Fin 20)
  /-- STBY_ACK (R347). A received STBY_ACK stops the transmitters and puts the port in standby. -/
  | stbyAck (link : Fin 20)
  /-- STBY_TIMEOUT (R347). No STBY_ACK within 10 µs keeps the port in service and counts a refusal. -/
  | stbyTimeout (link : Fin 20)
  /-- PORT_WAKE (R348). A port in standby is woken by fill words, relocks on its kept settings and resumes after marker groups. -/
  | portWake (link : Fin 20) (locked : BitVec 8)
  /-- WAKE_LOCK_TIMEOUT (R348). A lane not locked within twice the wake time is faulty. -/
  | wakeLockTimeout (link : Fin 20) (lane : Fin 8)
  /-- POWER_STATE_ENTRY (R346). When every active port is in standby and no work runs, the device enters its target state S. -/
  | powerStateEntry
  /-- DEVICE_WAKE (R349). The first wake event makes every unit leave DIM or DARK in parallel and sets WAKE. -/
  | deviceWake (cause : WakeCause)
  /-- RETAIN (R350). PCMD.RETAIN is checked and either refused with a cause or starts RETENTION entry. -/
  | retain (src : Src)
  /-- RETENTION_ENTERED (R351). Once open transactions complete and channels are in self-refresh, the state is saved and the gated rails switch off. -/
  | retentionEntered
  /-- RETAIN_ABANDON (R351). A transaction still open 1 ms after entry starts abandons RETENTION entry with cause BUSY. -/
  | retainAbandon
  /-- RETENTION_WAKE (R352). A sideband address match in RETENTION is NACKed and starts the timed exit. -/
  | retentionWake
  /-- RETENTION_EXIT_DONE (R352). The exit ends with ports ACTIVE and sets RET_WOKE. -/
  | retentionExitDone
  /-- TRAINING_CAMPAIGN (R234). The management core starts a fast, full, set-point or short campaign on a channel. -/
  | trainingCampaign (ch : Fin 64) (kind : Campaign)
  /-- CAMPAIGN_END (R239). A campaign ends; the channel passes and opens admissions, becomes ABSENT at start-up or FAILED in service. -/
  | campaignEnd (ch : Fin 64) (result : CampaignResult)
  /-- CHANNEL_NORESP (R238). A channel that has not answered 10 ms after step 1 or F1 is ABSENT with cause NORESP. -/
  | channelNoresp (ch : Fin 64)
  /-- SWEEP_GO (R243). SWCMD.GO clears the BERR counters and starts a delay sweep, or is refused with CFGERR. -/
  | sweepGo (src : Src) (ch : Fin 64)
  /-- SWEEP_ABORT (R243). SWCMD.ABORT ends the sweep at the current point. -/
  | sweepAbort (src : Src) (ch : Fin 64) (beats : List (List (BitVec 18)))
  /-- SWEEP_DONE (R243). A sweep ends, records the failing bits per point and restores the previous delay. -/
  | sweepDone (ch : Fin 64) (beats : List (List (BitVec 18)))
  /-- SWEEP_TRUNCATE (R243). A sweep that reaches 1 ms ends at the current point and sets TRUNC. -/
  | sweepTruncate (ch : Fin 64) (beats : List (List (BitVec 18)))
  /-- URDATA_ACCESS (R241). Each read or write of URDATA accesses the selected user-pattern entry and advances URSEL.INDEX. -/
  | urdataAccess (src : Src) (ch : Fin 64) (write : Option Word)
  /-- DSPREQ (R251). CLK.DSPREQ.GO requests a set-point change, which changes nothing, is refused, deferred or starts. -/
  | dspreq (src : Src) (target : BitVec 2)
  /-- SET_POINT_CHANGE_START (R253). A deferred change starts when running campaigns reach the end of their current step, abandoning them. -/
  | setPointChangeStart
  /-- SET_POINT_CHANGE_END (R252). When every channel has passed or failed, DSPSTAT.CURRENT takes the new code and DSP_DONE is set. -/
  | setPointChangeEnd
  /-- ALMANAC_WRITE (R249). The management core writes a new almanac copy, image record last, after a training, redirect or set-point change. -/
  | almanacWrite
  /-- SHORT_RETRAIN_DONE (R254). A short retraining attempt ends; a pass reopens admissions and a second failure fails the channel. -/
  | shortRetrainDone (ch : Fin 64) (pass : Bool) (found : Recentred)
  /-- REFCLK_QUALIFIED (R273). REFCLK present long enough qualifies and starts acquisition or relocking with a frequency check. -/
  | refclkQualified (ferr : Int)
  /-- FREERUN (R265). REFCLK not qualified 10 ms after start makes the VCO run open-loop and the dividers synchronise. -/
  | freerun
  /-- PLL_LOCK (R264). The lock sequence ends with dividers synchronised, STATE LOCKED and DETV set. -/
  | pllLock
  /-- REFCLK_LOSS (R271). A missing REFCLK edge or lost amplitude puts the PLL in COAST on its held frequency. -/
  | refclkLoss
  /-- REF_STEP (R270). A REFCLK frequency step beyond 2 ppm puts the PLL in COAST from the control held before the step. -/
  | refStep
  /-- UNLOCK (R269). Loss of lock with REFCLK present puts the PLL in COAST and sets UNLOCK. -/
  | unlock
  /-- RELOCK_RAMP_STEP (R273). Every 10 µs in RELOCK the output frequency moves by at most 2 ppm toward 96 times REFCLK. -/
  | relockRampStep
  /-- PHASE_MEASURED (R273). The phase offset is measured after relock, leading to SLEW for small offsets or PJWAIT for large ones. -/
  | phaseMeasured (dphi : Int)
  /-- PJCMD_SLEW (R276). PJCMD.SLEW in PJWAIT slews the phase back at SLEWRATE per epoch. -/
  | pjcmdSlew (src : Src)
  /-- PJCMD_STEP (R277). PJCMD.STEP in PJWAIT schedules a phase step in the next suitable blanking window, or is refused. -/
  | pjcmdStep (src : Src)
  /-- STEP_DONE (R277). The PLL step ramp ends, the loop closes and the PLL returns to LOCKED. -/
  | stepDone
  /-- CLOCK_MONITOR_FAIL (R270). An output or monitor-oscillator frequency, or divider alignment, outside its window is a device-scope fault. -/
  | clockMonitorFail (mon : Fin 8)
  /-- CLK_OUTPUT_ENABLE (R260). A write of OUTk.EN starts or stops CK_JOIN or the SerDes reference, or is ignored with CFGERR. -/
  | clkOutputEnable (src : Src) (out : Fin 6) (en : Bool)
  /-- FDLY_WRITE (R262). A write of OUTk.FDLY moves the output delay one 5 ps step per µs, or is ignored with CFGERR. -/
  | fdlyWrite (src : Src) (out : Fin 6) (fdly : BitVec 8)
  /-- DSEED_WRITE (R268). A write to DSEED reloads the dither LFSR at the next phase-detector cycle. -/
  | dseedWrite (src : Src) (seed : Word)
  /-- CLK_CLRCNT (R280). CLK.CCMD.CLRCNT clears CSTCNT and CSTTIME. -/
  | clkClrcnt (src : Src)
  /-- LDLY_SEND (R289). Every SYNCINT each end of a link sends an LDLY time group with its timestamps. -/
  | ldlySend (port : Fin 4)
  /-- LDLY (R289). A received LDLY yields a round trip and link delay, and may detect or end a path step. -/
  | ldly (port : Fin 4) (group : TimeGroup)
  /-- SYNC_SEND (R290). Every SYNCINT the ring entry sends a SYNC out of both ring ports. -/
  | syncSend
  /-- SYNC (R291). A received SYNC is forwarded with updated CORR and HOPS, and yields an offset that the time unit acts on by state. -/
  | sync (port : Fin 4) (group : TimeGroup)
  /-- SYNC_LOSS (R293). When no direction has had a SYNC within 3 × SYNCINT the time unit enters HOLD. -/
  | syncLoss
  /-- TIME_SET (R286). TCMD.SET on a master loads SETH and SETL into device time and moves PTIME with it. -/
  | timeSet (src : Src)
  /-- EPADOPT (R299). TCMD.EPADOPT takes the domain epoch number at the next pulse. -/
  | epadopt (src : Src)
  /-- TIME_STEP (R292). TCMD.STEP in BIGWAIT steps device time by −θ in a blanking window. -/
  | timeStep (src : Src)
  /-- TIME_SLEW (R292). TCMD.SLEW in BIGWAIT slews device time out at SLEW.RATE. -/
  | timeSlew (src : Src)
  /-- RESUME (R296). TCMD.RESUME makes the time unit leave HOLD or ASYM at the next pair. -/
  | resume (src : Src)
  /-- TIME_CLRCNT (R308). TCMD.CLRCNT clears TCNT. -/
  | timeClrcnt (src : Src)
  /-- ROLE_CHANGE (R465). A write of TCFG.ROLE switches between MEMBER and MASTER at once. -/
  | roleChange (src : Src) (master : Bool)
  /-- PERL_WRITE (R297). A write of PERL on a master holds its value until PERH is written. -/
  | perlWrite (src : Src) (val : Word)
  /-- PERH_WRITE (R297). A write of PERH on a master sets PERIOD, taking effect at the next pulse or starting a new schedule. -/
  | perhWrite (src : Src) (val : Word)
  /-- FSYNC_EDGE (R297). A rising edge of FSYNC_IN is timestamped and moves the master's pulse phase, or is ignored with FSYNC_ERR. -/
  | fsyncEdge
  /-- NOWL_READ (R285). A read of TIME.NOWL returns device time and latches NOWH. -/
  | nowlRead (src : Src)
  /-- KPW (R302). A received king-post mirror write is admitted in sequence order at the destination and answered with KPACK. -/
  | kpw (port : Fin 4) (msg : RingMsg)
  /-- KPACK (R302). A received KPACK lets the source acknowledge the mirrored host write. -/
  | kpack (port : Fin 4) (msg : RingMsg)
  /-- MIRROR_DETACH (R303). A KPACK missing for 20 µs or no named port ACTIVE puts a mirror entry in DETACHED. -/
  | mirrorDetach (entry : Fin 16)
  /-- MIRROR_ENABLE (R303). A write of MCFG.EN enables a mirror entry and starts RESYNC, or is refused with CFG_ERR. -/
  | mirrorEnable (src : Src)
  /-- MIRROR_RESYNC_DONE (R303). The source's copy of the region ends and the entry enters ATTACHED. -/
  | mirrorResyncDone (entry : Fin 16)
  /-- HOCMD_ARM (R304). HOCMD.ARM makes the device the ARMED receiver of a handover. -/
  | hocmdArm (src : Src)
  /-- HOCMD_START (R304). HOCMD.START makes the device the sender, checks the conditions and marks every enabled granule dirty. -/
  | hocmdStart (src : Src)
  /-- HOCMD_ABORT (R307). HOCMD.ABORT aborts the handover with cause HOST. -/
  | hocmdAbort (src : Src)
  /-- HODATA (R305). A received handover data block is admitted at the receiver's ordering points. -/
  | hodata (port : Fin 4) (msg : RingMsg)
  /-- HOREC (R305). A received handover block record is stored with its block. -/
  | horec (port : Fin 4) (msg : RingMsg)
  /-- HOREG (R304). A received region description is compared with the receiver's region. -/
  | horeg (port : Fin 4) (msg : RingMsg)
  /-- HOSTATE (R306). A received region state is held for application at the switch. -/
  | hostate (port : Fin 4) (msg : RingMsg)
  /-- HOCTL_START (R304). A received HOCTL START begins a handover at the armed receiver. -/
  | hoctlStart (port : Fin 4) (msg : RingMsg)
  /-- HOCTL_ARMED (R304). A received HOCTL ARMED tells the sender that the receiver is armed. -/
  | hoctlArmed (port : Fin 4) (msg : RingMsg)
  /-- HOCTL_SWITCH (R306). A received SWITCH names the switch epoch and is answered with READY. -/
  | hoctlSwitch (port : Fin 4) (msg : RingMsg)
  /-- HOCTL_READY (R306). A received READY by P − 1 µs commits both devices to switch at P. -/
  | hoctlReady (port : Fin 4) (msg : RingMsg)
  /-- HOCTL_ABORT (R307). A received ABORT aborts the handover with its cause. -/
  | hoctlAbort (port : Fin 4) (msg : RingMsg)
  /-- HOCTL_DONE (R306). A received DONE ends the handover at the partner. -/
  | hoctlDone (port : Fin 4) (msg : RingMsg)
  /-- HANDOVER_PASS_END (R306). A copy pass ends; with at most FINAL MiB dirty the sender chooses a switch pulse, otherwise starts another pass. -/
  | handoverPassEnd
  /-- HANDOVER_FREEZE (R306). At the chosen pulse minus the guard time, host writes and commits to the sender complete with BUSY. -/
  | handoverFreeze
  /-- HANDOVER_FINAL_CHECK (R306). At P − 2 µs the sender sends HOSTATE and SWITCH if ready, or postpones and counts toward MAXPOST. -/
  | handoverFinalCheck
  /-- HANDOVER_LINK_TIMEOUT (R307). No named port ACTIVE for LINKTO aborts the handover with cause LINK. -/
  | handoverLinkTimeout
  /-- COLD_RESET (R313). PWROK low, RESET_N low for 1 µs, a rail detector trip or RSTCMD.COLD puts the device in cold reset. -/
  | coldReset (cause : ColdCause)
  /-- COLD_RESET_RELEASE (R314). The later of PWROK and RESET_N rises, straps are sampled and the PLL lock sequence starts. -/
  | coldResetRelease (straps : BitVec 5)
  /-- RAIL_TRIP (R456). A rail outside its range for more than 2 µs is detected and causes a cold reset. -/
  | railTrip (outside : Nat)
  /-- RSTCMD_COLD (R326). RSTCMD with key and COLD makes a cold reset after completing the write. -/
  | rstcmdCold (src : Src)
  /-- RSTCMD_WARM (R328). RSTCMD with key and WARM stops ports and jobs, puts channels in self-refresh, resets logic and restarts boot. -/
  | rstcmdWarm (src : Src)
  /-- RSTCMD_CORE (R330). RSTCMD with key and CORE resets the management core, aborts flash work and reruns image selection. -/
  | rstcmdCore (src : Src)
  /-- PORT_RESET (R331). An RSTPORT bit resets a host or ring port's link state and retrains it if enabled. -/
  | portReset (src : Src) (link : Fin 20)
  /-- CHANNEL_RESET (R332). RSTCH.GO resets a channel, keeping queued writes, and retrains it. -/
  | channelReset (src : Src) (ch : Fin 64) (bad : List Nat)
  /-- CHANNEL_RESET_DONE (R332). A channel reset ends, after any poison walk and drain, with the channel READY or FAILED and RST_DONE set. -/
  | channelResetDone (ch : Fin 64) (pass : Bool)
  /-- BAY_RESET (R333). An RSTBAY bit resets the bay's channels and joiner group and self-tests its pairs. -/
  | bayReset (src : Src) (bay : Fin 8) (bad : List (Fin 64 × Nat))
  /-- FLASH_CHECK_DONE (R316). The boot ROM's flash check ends with erase flags, slot and almanac records read. -/
  | flashCheckDone (bad : List (Nat × FlashIn))
  /-- IMAGE_SELECT (R318). The boot ROM verifies slots in SEQ order and starts the first valid image, or enters NOIMAGE. -/
  | imageSelect (bad : List (Nat × FlashIn))
  /-- SEAL (R322). BCMD.SEAL from the management core makes every RWL field and PROT read-only. -/
  | bcmdSeal (src : Src)
  /-- BCMD_RUN (R338). BCMD.RUN clears WDSTAT.CONSEC. -/
  | bcmdRun (src : Src)
  /-- READY (R324). When training, the slot table and every enabled port are done, the device reaches READY and releases FAULT_N. -/
  | ready
  /-- STARTUP_TESTS_DONE (R416). The start-up latent tests end, failures sending the device to SAFE in place of READY. -/
  | startupTestsDone (device : BitVec 5) (pairs : List (Fin 64)) (chans : List (Fin 64))
  /-- WDKICK (R335). A correct WDKICK from the management core restarts the watchdog, a wrong value expires it. -/
  | wdkick (src : Src) (val : Word)
  /-- WATCHDOG_EXPIRE (R337). The watchdog period runs out and makes a core reset, counting consecutive expiries. -/
  | watchdogExpire
  /-- MBOX_READ (R372). Mailbox READ reads one flash page into MBUF and reports CBITS. -/
  | mboxRead (src : Src)
  /-- MBOX_PROGRAM (R362). Mailbox PROGRAM programs MBUF into an erased page. -/
  | mboxProgram (src : Src)
  /-- MBOX_ERASE (R361). Mailbox ERASE erases a slot sector or performs a logical erase in a data area. -/
  | mboxErase (src : Src)
  /-- MBOX_SUSPEND (R363). Mailbox SUSPEND suspends the erase in progress in a bank. -/
  | mboxSuspend (src : Src)
  /-- MBOX_RESUME (R363). Mailbox RESUME restarts a suspended erase. -/
  | mboxResume (src : Src)
  /-- MBOX_DONE (R372). A mailbox command ends, clearing BUSY, writing RESULT and setting MBOX_DONE. -/
  | mboxDone (rd : FlashIn)
  /-- FLASH_OPERATION_DONE (R361). A program, erase or erase-flag cell write ends, closing the erase flag or retiring a sector after a second verify failure. -/
  | flashOperationDone (bank : Fin 2) (verify : Bool)
  /-- RWDATA_READ (R356). A read of FLSH.RWDATA returns four flash bytes, updates RWSTAT and advances RWADDR, or completes with BUSY on a busy bank. -/
  | rwdataRead (src : Src) (rd : FlashIn)
  /-- ROTATION_STEP (R366). A rotation step moves TAIL and copies a mapped sector to HEAD to free space in a data area. -/
  | rotationStep (area : Fin 2)
  /-- OPEN_SECTOR_ERASE (R316). Boot firmware erases every OPEN sector within 1 s after READY. -/
  | openSectorErase (sector : Fin 1024)
  /-- FLASH_REFRESH_READ (R368). At least every 7 days the management core reads every mapped sector and slot, moving data sectors with weak pages. -/
  | flashRefreshRead (area : Fin 2) (bad : List (Nat × FlashIn))
  /-- FLASH_CLRCNT (R374). FCMD.CLRCNT clears FCNT. -/
  | flashClrcnt (src : Src)
  /-- FAULT_LOG_WRITE (R414). The management core copies a capture-buffer entry into both fault logs and frees it. -/
  | faultLogWrite
  /-- SB_START (R378). A START or repeated START on the sideband ends any transaction in progress and begins a new one. -/
  | sbStart (pos : BusPos)
  /-- SB_STOP (R378). A STOP ends the sideband transaction, discarding an uncommitted word. -/
  | sbStop (pos : BusPos)
  /-- SB_ADDRESS (R381). The device address byte and the three address bytes are matched and acknowledged or NACKed. -/
  | sbAddress (byte : Byte) (rd : FlashIn)
  /-- SB_WRITE_WORD (R383). A sideband write word commits as one register write at its acknowledge, after any check byte. -/
  | sbWriteWord (bytes : List Byte) (full : Bool)
  /-- SB_READ_WORD (R384). A sideband read word is read from its register with full read effects and shifted out. -/
  | sbReadWord (acked : ReadEnd) (rd : FlashIn)
  /-- SDA_TO (R390). The device holding SDA low with SCL unchanged for SDATO resets the target state machine. -/
  | sdaTo
  /-- SCL_TO (R390). SCL low for SCLTO resets the target state machine. -/
  | sclTo
  /-- BUS_HELD (R390). SDA held low by another party for SDATO sets HELD and BUS_HELD. -/
  | busHeld
  /-- SB_CLRCNT (R394). SBND.SCMD.CLRCNT clears ERRCNT and XCNT. -/
  | sbClrcnt (src : Src)
  /-- SAFE_ENTER (R405). SCMD.ENTER with its key, or a device-scope fault, starts SAFE entry and asserts FAULT_N. -/
  | safeEnter (cause : SafeCause)
  /-- SAFE_ENTRY_DONE (R405). Channels in self-refresh and all open transactions discarded, the device is in SAFE. -/
  | safeEntryDone
  /-- SCAN_PASS (R400). The configuration scanner completes a pass over the protected stores, a mismatch being a device-scope fault. -/
  | scanPass (bad : List Nat)
  /-- TEMP_SAMPLE (R401). Every 100 µs the nine sensors are sampled for warning, trip and sensor disagreement. -/
  | tempSample (temps : List Int)
  /-- LATENT_TEST_ROUND (R417). Every LTCFG.PERIOD the management core runs the in-service latent tests. -/
  | latentTestRound (failed : List (Fin 8 × Fin 64))
  /-- LTRUN (R417). SCMD.LTRUN starts a latent-test round at once. -/
  | ltrun (src : Src)
  /-- LT_OVERDUE (R419). A class not passed within twice PERIOD sets OVERDUE and LT_OVERDUE. -/
  | ltOverdue
  /-- DIAG_LOST (R419). A halted core, or a core held in reset for more than PERIOD, sets DIAG_LOST. -/
  | diagLost
  /-- MONITOR_SELF_COMPARE (R409). The two safety-monitor channels differing for 1 µs is a device-scope fault. -/
  | monitorSelfCompare
  /-- FN_MISMATCH (R410). FAULT_N read back differing from its driven level for 10 µs sets FN_MISMATCH. -/
  | fnMismatch (level : Bool)
  /-- SAFE_CLRCNT (R422). SAFE.SCMD.CLRCNT clears FCNT except FCNT.SAFE. -/
  | safeClrcnt (src : Src)
  /-- TABLE_LOAD (R177). TLCMD.GO starts loading a transfer-table set from memory, or is refused with CFGERR. -/
  | tableLoad (src : Src) (group : Fin 8)
  /-- TABLE_LOAD_DONE (R177). A table load ends, marking the set valid or leaving it invalid, and sets TLOAD_DONE. -/
  | tableLoadDone (group : Fin 8) (errs : List RdErr)
  /-- SETV (R178). TLCMD.SETV marks a table set valid unless it is in use. -/
  | setv (src : Src) (group : Fin 8)
  /-- TWDATA_WRITE (R178). A write to TWDATA stores the selected entry, invalidates the set and advances INDEX, unless refused. -/
  | twdataWrite (src : Src) (group : Fin 8) (val : Word)
  /-- TWDATA_READ (R178). A read of TWDATA returns the selected entry and advances INDEX. -/
  | twdataRead (src : Src) (group : Fin 8)
  /-- UNFENCE (R194). JCMD.UNFENCE starts the self-test of a fenced pair. -/
  | unfence (src : Src) (group : Fin 8) (pair : Fin 8)
  /-- UNFENCE_TEST_DONE (R194). The pair self-test ends, unfencing the pair or setting UNFENCE_FAIL. -/
  | unfenceTestDone (group : Fin 8) (pair : Fin 8) (pass : Bool)
  /-- CINVAL (R190). JCMD.CINVAL drops every record-cache entry that no job in progress uses. -/
  | cinval (src : Src) (group : Fin 8)
  /-- JG_CLRCNT (R196). JCMD.CLRCNT clears JCNT, FCNT and CCNT. -/
  | jgClrcnt (src : Src) (group : Fin 8)
  /-- SLEW_EPOCH_WITHOUT_PULSE (R276). Where no meridian pulse has occurred in the last 100 ms, the PLL slew engine counts each 10 ms as one epoch and moves its phase target, ending the slew with SLEW_DONE and RELOCK when it reaches 0. -/
  | slewEpochWithoutPulse
  /-- TIME_SLEW_END (R292). A time-unit slew of device time at SLEW.RATE reaches its end, the unit leaves SLEW and sets TIME.EVT.SLEW_DONE. -/
  | timeSlewEnd
  /-- TAP_INSTRUCTION (R453). A new boundary-scan instruction takes effect in the TAP; EXTEST, EXTEST_PULSE or EXTEST_TRAIN force FAULT_N low and stop admission of traffic, other instructions release that hold, and outside test mode unlisted instructions select BYPASS. -/
  | tapInstruction (inst : TapInst)
  /-- PARTNER_NO_ANSWER (R352). A port whose partner does not answer within 40 µs of step 6 of the RETENTION exit trains under R89. -/
  | partnerNoAnswer (link : Fin 20)
deriving DecidableEq, Repr

end Sys2Proof
end

