-- ==== Sys2Proof/Machine/Fields.lean ====
section
/-!
DEFINITION. The register fields of every page, one line each, as the field tables of spec/ give them: offset of the register
in its page (of the first one, where registers repeat), lowest bit, width, access type (Table 0-5) and reset value. Fields of
the common header are in `PageHdr`. The bit numbers of each page's EVT follow, and the register map of each kind of page.
-/

namespace Sys2Proof.Machine

/-- The access types of Table 0-5 (a reserved field, RSV, has no entry: it reads 0 and ignores writes). -/
inductive FTy where
  | ro | rw | w1c | w1s | wo | rwl
deriving DecidableEq, Repr

/-- One register field: offset in its page, lowest bit, width, access type and reset value. -/
structure Fld where
  off : Nat
  lo : Nat
  w : Nat
  ty : FTy
  rst : Nat
deriving DecidableEq, Repr

/-- The same field of the register `d` bytes further on (repeated registers). -/
def Fld.shift (f : Fld) (d : Nat) : Fld := { f with off := f.off + d }

/-- One register, or `cnt` registers `stride` bytes apart, with its fields. -/
structure RegEnt where
  off : Nat
  stride : Nat
  cnt : Nat
  flds : List Fld
deriving DecidableEq, Repr

/-! spec/02_frame_store.md R80, Table 2-9 -/
abbrev F.RGN_SEL_REGION : Fld := ⟨0x40, 0, 8, .rw, 0⟩
abbrev F.RGN_RBASE_BASE : Fld := ⟨0x44, 0, 18, .rw, 0⟩
abbrev F.RGN_RSIZE_SIZE : Fld := ⟨0x48, 0, 18, .rw, 0⟩
abbrev F.RGN_RSTALE_PATTERN : Fld := ⟨0x54, 0, 32, .rw, 0⟩
abbrev F.RGN_RLATE_COUNT : Fld := ⟨0x5c, 0, 32, .ro, 0⟩
abbrev F.RGN_RSKIP_COUNT : Fld := ⟨0x60, 0, 32, .ro, 0⟩
abbrev F.RGN_SPLIT_RESERVE : Fld := ⟨0x84, 0, 12, .rw, 0⟩
abbrev F.RGN_MEMSIZE_SIZE : Fld := ⟨0x88, 0, 18, .ro, 0⟩
abbrev F.RGN_ISIZE_SIZE : Fld := ⟨0x8c, 0, 18, .ro, 0⟩
abbrev F.RGN_SLOTSEL_SLOT : Fld := ⟨0x90, 0, 8, .rw, 0⟩
abbrev F.RGN_KPSUM_UNITS : Fld := ⟨0x98, 0, 10, .ro, 0⟩
/-! spec/02_frame_store.md R80, Table 2-10 -/
abbrev F.RGN_RATTR_WRITER : Fld := ⟨0x4c, 16, 4, .rw, 0⟩
abbrev F.RGN_RATTR_COPIES : Fld := ⟨0x4c, 10, 2, .rw, 1⟩
abbrev F.RGN_RATTR_KP : Fld := ⟨0x4c, 9, 1, .rw, 0⟩
abbrev F.RGN_RATTR_PINNED : Fld := ⟨0x4c, 8, 1, .rw, 0⟩
abbrev F.RGN_RATTR_AGED : Fld := ⟨0x4c, 7, 1, .rw, 0⟩
/-! spec/02_frame_store.md R80, Table 2-11 -/
abbrev F.RGN_RPIN_BAYSET : Fld := ⟨0x50, 24, 8, .rw, 0⟩
abbrev F.RGN_RPIN_MBAY : Fld := ⟨0x50, 20, 3, .rw, 0⟩
abbrev F.RGN_RPIN_PBAY : Fld := ⟨0x50, 16, 3, .rw, 0⟩
abbrev F.RGN_RPIN_RESOFF : Fld := ⟨0x50, 0, 12, .rw, 0⟩
/-! spec/02_frame_store.md R80, Table 2-12 -/
abbrev F.RGN_RSTAT_KPSTATE : Fld := ⟨0x58, 28, 2, .ro, 0⟩
abbrev F.RGN_RSTAT_NPEND : Fld := ⟨0x58, 26, 2, .ro, 0⟩
abbrev F.RGN_RSTAT_VIS : Fld := ⟨0x58, 24, 2, .ro, 0⟩
abbrev F.RGN_RSTAT_PEND : Fld := ⟨0x58, 22, 2, .ro, 0⟩
abbrev F.RGN_RSTAT_WRT : Fld := ⟨0x58, 20, 2, .ro, 0⟩
abbrev F.RGN_RSTAT_WRTV : Fld := ⟨0x58, 19, 1, .ro, 0⟩
abbrev F.RGN_RSTAT_INIT : Fld := ⟨0x58, 17, 1, .ro, 0⟩
abbrev F.RGN_RSTAT_EN : Fld := ⟨0x58, 16, 1, .ro, 0⟩
abbrev F.RGN_RSTAT_OLDPINS : Fld := ⟨0x58, 0, 16, .ro, 0⟩
/-! spec/02_frame_store.md R80, Table 2-13 -/
abbrev F.RGN_RCMD_CLRCNT : Fld := ⟨0x64, 2, 1, .wo, 0⟩
abbrev F.RGN_RCMD_DISABLE : Fld := ⟨0x64, 1, 1, .wo, 0⟩
abbrev F.RGN_RCMD_ENABLE : Fld := ⟨0x64, 0, 1, .wo, 0⟩
abbrev F.RGN_MEMCFG_K : Fld := ⟨0x80, 16, 9, .ro, 0⟩
abbrev F.RGN_MEMCFG_S : Fld := ⟨0x80, 7, 9, .ro, 0⟩
abbrev F.RGN_MEMCFG_N : Fld := ⟨0x80, 0, 7, .ro, 0⟩
abbrev F.RGN_SLOT_VALID : Fld := ⟨0x94, 15, 1, .ro, 0⟩
abbrev F.RGN_SLOT_CHAN : Fld := ⟨0x94, 8, 6, .ro, 0⟩
abbrev F.RGN_SLOT_ORD : Fld := ⟨0x94, 0, 8, .ro, 0⟩
/-! spec/03_host_lanes.md R111, Table 3-8 -/
abbrev F.HP_LCFG_ENABLE : Fld := ⟨0x40, 31, 1, .rw, 0⟩
abbrev F.HP_LCFG_AUTOWIDEN : Fld := ⟨0x40, 30, 1, .rw, 1⟩
abbrev F.HP_LCFG_RATE : Fld := ⟨0x40, 28, 2, .rw, 0⟩
abbrev F.HP_LCFG_MINWIDTH : Fld := ⟨0x40, 26, 2, .rw, 0⟩
abbrev F.HP_LCFG_PCREQ : Fld := ⟨0x40, 16, 8, .rw, 0xff⟩
abbrev F.HP_LTRAIN_STATE : Fld := ⟨0x44, 28, 4, .ro, 0⟩
abbrev F.HP_LTRAIN_ATTEMPT : Fld := ⟨0x44, 26, 2, .ro, 0⟩
abbrev F.HP_LTRAIN_FAILPH : Fld := ⟨0x44, 22, 4, .ro, 0⟩
abbrev F.HP_LTRAIN_RATE : Fld := ⟨0x44, 21, 1, .ro, 0⟩
abbrev F.HP_LTRAIN_WIDTH : Fld := ⟨0x44, 17, 4, .ro, 0⟩
abbrev F.HP_LLISTEN_PERIOD : Fld := ⟨0x48, 0, 14, .rw, 0x64⟩
/-! spec/03_host_lanes.md R111, Table 3-9 -/
abbrev F.HP_LANES_ACTIVE : Fld := ⟨0x4c, 24, 8, .ro, 0⟩
abbrev F.HP_LANES_RETIRED : Fld := ⟨0x4c, 16, 8, .ro, 0⟩
abbrev F.HP_LANES_FAILED : Fld := ⟨0x4c, 8, 8, .ro, 0⟩
abbrev F.HP_LANES_PCTX : Fld := ⟨0x4c, 0, 8, .ro, 0⟩
abbrev F.HP_LRET_RETRYMAX : Fld := ⟨0x50, 24, 8, .rw, 0x10⟩
abbrev F.HP_LRET_RETRYPER : Fld := ⟨0x50, 12, 12, .rw, 0x64⟩
abbrev F.HP_LRET_SOAK : Fld := ⟨0x50, 4, 8, .rw, 0xa⟩
abbrev F.HP_ALGN_WIN : Fld := ⟨0x54, 25, 3, .rw, 4⟩
abbrev F.HP_ALGN_BUSY : Fld := ⟨0x54, 24, 1, .ro, 0⟩
abbrev F.HP_ALGN_DROP : Fld := ⟨0x54, 16, 8, .wo, 0⟩
abbrev F.HP_ALGN_SLIP : Fld := ⟨0x54, 8, 8, .wo, 0⟩
abbrev F.HP_ALGN_MATCH : Fld := ⟨0x54, 0, 8, .ro, 0⟩
abbrev F.HP_LCNT_RETIRES : Fld := ⟨0x58, 24, 8, .ro, 0⟩
abbrev F.HP_LCNT_WIDENS : Fld := ⟨0x58, 16, 8, .ro, 0⟩
abbrev F.HP_LCNT_RETRAINS : Fld := ⟨0x58, 8, 8, .ro, 0⟩
abbrev F.HP_LCNT_LRETRY : Fld := ⟨0x58, 0, 8, .ro, 0⟩
abbrev F.HP_LCMD_RETRAIN : Fld := ⟨0x5c, 1, 1, .wo, 0⟩
abbrev F.HP_LCMD_CLRCNT : Fld := ⟨0x5c, 0, 1, .wo, 0⟩
/-! spec/03_host_lanes.md R111, Table 3-10 -/
abbrev F.HP_LyCTL_TXPRE : Fld := ⟨0x100, 28, 3, .rw, 0⟩
abbrev F.HP_LyCTL_TXPAT : Fld := ⟨0x100, 26, 2, .rw, 0⟩
abbrev F.HP_LyCTL_RXCHK : Fld := ⟨0x100, 24, 2, .rw, 0⟩
abbrev F.HP_LyCTL_TESTPC : Fld := ⟨0x100, 23, 1, .rw, 0⟩
abbrev F.HP_LyCTL_INJECT : Fld := ⟨0x100, 22, 1, .wo, 0⟩
abbrev F.HP_LySTAT_LOCK : Fld := ⟨0x104, 31, 1, .ro, 0⟩
abbrev F.HP_LySTAT_SIGDET : Fld := ⟨0x104, 30, 1, .ro, 0⟩
abbrev F.HP_LySTAT_ALIGNED : Fld := ⟨0x104, 29, 1, .ro, 0⟩
abbrev F.HP_LySTAT_PCRX : Fld := ⟨0x104, 28, 1, .ro, 0⟩
abbrev F.HP_LySTAT_CHKLOCK : Fld := ⟨0x104, 27, 1, .ro, 0⟩
abbrev F.HP_LySTAT_USE : Fld := ⟨0x104, 25, 2, .ro, 0⟩
abbrev F.HP_LySTAT_SLIPS : Fld := ⟨0x104, 18, 6, .ro, 0⟩
abbrev F.HP_LySTAT_SKEW : Fld := ⟨0x104, 12, 6, .ro, 0⟩
abbrev F.HP_LySTAT_PRE : Fld := ⟨0x104, 8, 4, .ro, 0⟩
abbrev F.HP_LySTAT_POST : Fld := ⟨0x104, 4, 4, .ro, 0⟩
/-! spec/03_host_lanes.md R111, Table 3-11 -/
abbrev F.HP_LyBERR_COUNT : Fld := ⟨0x108, 0, 32, .ro, 0⟩
abbrev F.HP_LySERR_COUNT : Fld := ⟨0x10c, 0, 32, .ro, 0⟩
abbrev F.HP_LyFECC_COUNT : Fld := ⟨0x110, 0, 32, .ro, 0⟩
abbrev F.HP_LyLOSS_LOL : Fld := ⟨0x114, 16, 16, .ro, 0⟩
abbrev F.HP_LyLOSS_RELOCK : Fld := ⟨0x114, 0, 16, .ro, 0⟩
/-! spec/04_host_transactions.md R145, Table 4-11 -/
abbrev F.HP_XCFG_RPLTO : Fld := ⟨0x80, 16, 8, .rw, 0xa⟩
abbrev F.HP_XCFG_RPLMAX : Fld := ⟨0x80, 12, 4, .rw, 4⟩
abbrev F.HP_XCFG_ACKDLY : Fld := ⟨0x80, 0, 8, .rw, 0x32⟩
abbrev F.HP_XSTAT_TAGS : Fld := ⟨0x84, 22, 10, .ro, 0⟩
abbrev F.HP_XSTAT_RPLOCC : Fld := ⟨0x84, 11, 11, .ro, 0⟩
abbrev F.HP_XCRDP_PHDR : Fld := ⟨0x88, 20, 12, .ro, 0⟩
abbrev F.HP_XCRDP_PDAT : Fld := ⟨0x88, 4, 16, .ro, 0⟩
abbrev F.HP_XCNT1_REPLAYS : Fld := ⟨0x8c, 16, 16, .ro, 0⟩
abbrev F.HP_XCNT1_NAKSENT : Fld := ⟨0x8c, 0, 16, .ro, 0⟩
abbrev F.HP_XFECU_COUNT : Fld := ⟨0x90, 0, 32, .ro, 0⟩
abbrev F.HP_XCRCE_COUNT : Fld := ⟨0x94, 0, 32, .ro, 0⟩
abbrev F.HP_XSTS1_DENIED : Fld := ⟨0x98, 16, 16, .ro, 0⟩
abbrev F.HP_XSTS1_UNSUP : Fld := ⟨0x98, 0, 16, .ro, 0⟩
abbrev F.HP_XSTS2_DISC : Fld := ⟨0x9c, 16, 16, .ro, 0⟩
abbrev F.HP_XSTS2_BUSY : Fld := ⟨0x9c, 0, 16, .ro, 0⟩
abbrev F.HP_XPDROP_POST : Fld := ⟨0xa0, 16, 16, .ro, 0⟩
abbrev F.HP_XPDROP_DBELL : Fld := ⟨0xa0, 0, 16, .ro, 0⟩
abbrev F.HP_XCMD_CLRCNT : Fld := ⟨0xa4, 0, 1, .wo, 0⟩
/-! spec/05_work_queues_and_vectors.md R170, Table 5-9 -/
abbrev F.WQ_QBASE_BLOCK : Fld := ⟨0x100, 0, 27, .rw, 0⟩
abbrev F.WQ_QCBASE_BLOCK : Fld := ⟨0x104, 0, 27, .rw, 0⟩
abbrev F.WQ_QCFG_OWNER : Fld := ⟨0x108, 28, 4, .rwl, 0⟩
abbrev F.WQ_QCFG_JG : Fld := ⟨0x108, 24, 3, .rw, 0⟩
abbrev F.WQ_QCFG_SIZE : Fld := ⟨0x108, 16, 4, .rw, 4⟩
abbrev F.WQ_QCFG_DEPTH : Fld := ⟨0x108, 12, 3, .rw, 0⟩
abbrev F.WQ_QCFG_PRIO : Fld := ⟨0x108, 8, 2, .rw, 0⟩
abbrev F.WQ_QCTL_CLRCNT : Fld := ⟨0x10c, 3, 1, .wo, 0⟩
abbrev F.WQ_QCTL_ABORT : Fld := ⟨0x10c, 2, 1, .wo, 0⟩
abbrev F.WQ_QCTL_DISABLE : Fld := ⟨0x10c, 1, 1, .wo, 0⟩
abbrev F.WQ_QCTL_ENABLE : Fld := ⟨0x10c, 0, 1, .wo, 0⟩
abbrev F.WQ_QPIDX_PIDX : Fld := ⟨0x110, 0, 16, .rw, 0⟩
abbrev F.WQ_QSTAT_STATE : Fld := ⟨0x114, 30, 2, .ro, 0⟩
abbrev F.WQ_QSTAT_INPROG : Fld := ⟨0x114, 24, 4, .ro, 0⟩
abbrev F.WQ_QSTAT_CAUSE : Fld := ⟨0x114, 8, 8, .ro, 0⟩
abbrev F.WQ_QIDX_FETCH : Fld := ⟨0x118, 16, 16, .ro, 0⟩
abbrev F.WQ_QIDX_RETIRED : Fld := ⟨0x118, 0, 16, .ro, 0⟩
abbrev F.WQ_QCNT_DONE : Fld := ⟨0x11c, 16, 16, .ro, 0⟩
abbrev F.WQ_QCNT_DISC : Fld := ⟨0x11c, 0, 16, .ro, 0⟩
/-! spec/05_work_queues_and_vectors.md R171, Table 5-11 -/
abbrev F.VEC_SEL_VECTOR : Fld := ⟨0x40, 0, 9, .rw, 0⟩
abbrev F.VEC_VADDRL_ADDR : Fld := ⟨0x44, 0, 32, .rw, 0⟩
abbrev F.VEC_VADDRH_ADDR : Fld := ⟨0x48, 0, 32, .rw, 0⟩
abbrev F.VEC_VDATA_DATA : Fld := ⟨0x4c, 0, 32, .rw, 0⟩
abbrev F.VEC_VCTL_MASK : Fld := ⟨0x50, 31, 1, .rw, 1⟩
abbrev F.VEC_VCTL_TIMEV : Fld := ⟨0x50, 30, 1, .rw, 0⟩
abbrev F.VEC_VCTL_PENDING : Fld := ⟨0x50, 29, 1, .ro, 0⟩
abbrev F.VEC_VCTL_INFLIGHT : Fld := ⟨0x50, 28, 1, .ro, 0⟩
abbrev F.VEC_VCTL_GATHER : Fld := ⟨0x50, 20, 8, .ro, 0⟩
abbrev F.VEC_VCTL_DPORT : Fld := ⟨0x50, 0, 4, .rw, 0⟩
abbrev F.VEC_VMOD_BATCH : Fld := ⟨0x54, 24, 8, .rw, 1⟩
abbrev F.VEC_VMOD_HOLD : Fld := ⟨0x54, 12, 12, .rw, 0⟩
abbrev F.VEC_VMOD_GAP : Fld := ⟨0x54, 0, 12, .rw, 0⟩
abbrev F.VEC_VLTL_TIME : Fld := ⟨0x58, 0, 32, .ro, 0⟩
abbrev F.VEC_VLTH_TIME : Fld := ⟨0x5c, 0, 32, .ro, 0⟩
abbrev F.VEC_VCMD_FIRE : Fld := ⟨0x60, 1, 1, .wo, 0⟩
abbrev F.VEC_VCMD_CLRPEND : Fld := ⟨0x60, 0, 1, .wo, 0⟩
abbrev F.VEC_VPENDk_PEND : Fld := ⟨0x80, 0, 32, .ro, 0⟩
/-! spec/06_joiners.md R196, Table 6-8 -/
abbrev F.JG_JSTAT_BUSY : Fld := ⟨0x40, 16, 16, .ro, 0⟩
abbrev F.JG_JSTAT_STATE : Fld := ⟨0x40, 6, 2, .ro, 0⟩
abbrev F.JG_JSTAT_JOBS : Fld := ⟨0x40, 0, 6, .ro, 0⟩
abbrev F.JG_FENCE_PAIRS : Fld := ⟨0x44, 0, 8, .ro, 0⟩
abbrev F.JG_TLSRC_BLOCK : Fld := ⟨0x48, 0, 27, .rw, 0⟩
abbrev F.JG_TLCMD_GO : Fld := ⟨0x4c, 31, 1, .wo, 0⟩
abbrev F.JG_TLCMD_BUSY : Fld := ⟨0x4c, 30, 1, .ro, 0⟩
abbrev F.JG_TLCMD_SETV : Fld := ⟨0x4c, 29, 1, .wo, 0⟩
abbrev F.JG_TLCMD_TSET : Fld := ⟨0x4c, 0, 3, .rw, 0⟩
abbrev F.JG_TVALID_SETS : Fld := ⟨0x50, 0, 8, .ro, 0⟩
abbrev F.JG_TWSEL_TSET : Fld := ⟨0x54, 16, 3, .rw, 0⟩
abbrev F.JG_TWSEL_PRIM : Fld := ⟨0x54, 12, 2, .rw, 0⟩
abbrev F.JG_TWSEL_INDEX : Fld := ⟨0x54, 0, 12, .rw, 0⟩
abbrev F.JG_TWDATA_ENTRY : Fld := ⟨0x58, 0, 16, .rw, 0⟩
abbrev F.JG_JCMD_PAIR : Fld := ⟨0x5c, 8, 3, .wo, 0⟩
abbrev F.JG_JCMD_CLRCNT : Fld := ⟨0x5c, 2, 1, .wo, 0⟩
abbrev F.JG_JCMD_UNFENCE : Fld := ⟨0x5c, 1, 1, .wo, 0⟩
abbrev F.JG_JCMD_CINVAL : Fld := ⟨0x5c, 0, 1, .wo, 0⟩
abbrev F.JG_CACHE_ENTRIES : Fld := ⟨0x60, 28, 4, .ro, 0⟩
abbrev F.JG_CACHE_RECORDS : Fld := ⟨0x60, 0, 17, .ro, 0⟩
abbrev F.JG_JCNT_DONE : Fld := ⟨0x64, 16, 16, .ro, 0⟩
abbrev F.JG_JCNT_DISC : Fld := ⟨0x64, 0, 16, .ro, 0⟩
abbrev F.JG_FCNT_LSMISM : Fld := ⟨0x68, 16, 16, .ro, 0⟩
abbrev F.JG_FCNT_LSUNC : Fld := ⟨0x68, 8, 8, .ro, 0⟩
abbrev F.JG_FCNT_TPAR : Fld := ⟨0x68, 0, 8, .ro, 0⟩
abbrev F.JG_CCNT_HIT : Fld := ⟨0x6c, 16, 16, .ro, 0⟩
abbrev F.JG_CCNT_MISS : Fld := ⟨0x6c, 0, 16, .ro, 0⟩
/-! spec/06_joiners.md R196, Table 6-9 -/
abbrev F.JG_RCFGr_VALID : Fld := ⟨0x100, 31, 1, .rw, 0⟩
abbrev F.JG_RCFGr_TSET : Fld := ⟨0x100, 24, 3, .rw, 0⟩
abbrev F.JG_RCFGr_DMODE : Fld := ⟨0x100, 20, 2, .rw, 0⟩
abbrev F.JG_RCFGr_PACK : Fld := ⟨0x100, 16, 2, .rw, 0⟩
abbrev F.JG_RCFGr_SFMT : Fld := ⟨0x100, 12, 2, .rw, 0⟩
abbrev F.JG_RSTRIDEr_STRIDE : Fld := ⟨0x104, 0, 16, .rw, 1⟩
abbrev F.JG_RPFILLr_P2 : Fld := ⟨0x108, 16, 8, .rw, 0⟩
abbrev F.JG_RPFILLr_P1 : Fld := ⟨0x108, 8, 8, .rw, 0⟩
abbrev F.JG_RPFILLr_P0 : Fld := ⟨0x108, 0, 8, .rw, 0⟩
/-! spec/07_dram_channels.md R231, Table 7-16 -/
abbrev F.CH_CINFO_RATE : Fld := ⟨0x40, 30, 2, .ro, 0⟩
abbrev F.CH_CINFO_RANKS : Fld := ⟨0x40, 29, 1, .ro, 0⟩
abbrev F.CH_CINFO_DENSITY : Fld := ⟨0x40, 26, 3, .ro, 0⟩
abbrev F.CH_CINFO_BGMODE : Fld := ⟨0x40, 25, 1, .ro, 0⟩
abbrev F.CH_CINFO_UBLK : Fld := ⟨0x40, 0, 21, .ro, 0⟩
abbrev F.CH_CSTAT_STATE : Fld := ⟨0x44, 28, 4, .ro, 0⟩
abbrev F.CH_CSTAT_RFMULT : Fld := ⟨0x44, 26, 2, .ro, 0⟩
abbrev F.CH_CSTAT_DRAIN : Fld := ⟨0x44, 25, 1, .ro, 0⟩
abbrev F.CH_CSTAT_HOLD : Fld := ⟨0x44, 24, 1, .ro, 0⟩
abbrev F.CH_CSTAT_RDQ : Fld := ⟨0x44, 8, 7, .ro, 0⟩
abbrev F.CH_CSTAT_WRQ : Fld := ⟨0x44, 0, 7, .ro, 0⟩
abbrev F.CH_WQWM_HIGH : Fld := ⟨0x48, 8, 6, .rw, 0x30⟩
abbrev F.CH_WQWM_LOW : Fld := ⟨0x48, 0, 6, .rw, 0x10⟩
abbrev F.CH_QLIM_BULKR : Fld := ⟨0x4c, 8, 6, .rw, 0x28⟩
abbrev F.CH_QLIM_BULKW : Fld := ⟨0x4c, 0, 6, .rw, 0x28⟩
abbrev F.CH_RFCFG_PBEN : Fld := ⟨0x50, 31, 1, .rw, 1⟩
abbrev F.CH_RFCFG_PULLIN : Fld := ⟨0x50, 8, 4, .rw, 8⟩
abbrev F.CH_RFCFG_IDLEPULL : Fld := ⟨0x50, 4, 4, .rw, 1⟩
abbrev F.CH_RFCFG_STEER : Fld := ⟨0x50, 0, 4, .rw, 4⟩
abbrev F.CH_RFSTAT_CREDIT : Fld := ⟨0x54, 24, 8, .ro, 0⟩
abbrev F.CH_RFSTAT_MINCRED : Fld := ⟨0x54, 16, 8, .ro, 0⟩
abbrev F.CH_RFINTR_COUNT : Fld := ⟨0x58, 0, 32, .ro, 0⟩
abbrev F.CH_RFHOLD_COUNT : Fld := ⟨0x5c, 0, 32, .ro, 0⟩
abbrev F.CH_SCRCFG_EN : Fld := ⟨0x60, 31, 1, .rw, 1⟩
abbrev F.CH_SCRCFG_PERIOD : Fld := ⟨0x60, 0, 5, .rw, 0x18⟩
abbrev F.CH_SCRPOS_PASSES : Fld := ⟨0x64, 16, 16, .ro, 0⟩
abbrev F.CH_SCRPOS_POS : Fld := ⟨0x64, 0, 16, .ro, 0⟩
abbrev F.CH_CALCFG_ZQPER : Fld := ⟨0x68, 24, 8, .rw, 0x20⟩
abbrev F.CH_CALCFG_OSCPER : Fld := ⟨0x68, 16, 8, .rw, 4⟩
abbrev F.CH_CALCFG_OSCTHR : Fld := ⟨0x68, 8, 8, .rw, 4⟩
abbrev F.CH_CALCFG_TRKMAX : Fld := ⟨0x68, 0, 8, .rw, 0x28⟩
abbrev F.CH_PDCFG_IDLE : Fld := ⟨0x6c, 0, 16, .rw, 0x100⟩
abbrev F.CH_ECFG_KPDET : Fld := ⟨0x70, 31, 1, .rw, 1⟩
abbrev F.CH_ECFG_AUTORD : Fld := ⟨0x70, 30, 1, .rw, 1⟩
abbrev F.CH_ECFG_PPRTHR : Fld := ⟨0x70, 16, 8, .rw, 4⟩
abbrev F.CH_ECFG_FAILTHR : Fld := ⟨0x70, 8, 8, .rw, 0x10⟩
abbrev F.CH_CECNT_COUNT : Fld := ⟨0x74, 0, 32, .ro, 0⟩
abbrev F.CH_UECNT_COUNT : Fld := ⟨0x78, 0, 32, .ro, 0⟩
abbrev F.CH_HAZCNT_HAZARD : Fld := ⟨0x7c, 16, 16, .ro, 0⟩
abbrev F.CH_HAZCNT_DRAINS : Fld := ⟨0x7c, 0, 16, .ro, 0⟩
abbrev F.CH_RDSEL_ENTRY : Fld := ⟨0x80, 0, 4, .rw, 0⟩
abbrev F.CH_RDENT_VALID : Fld := ⟨0x84, 31, 1, .ro, 0⟩
abbrev F.CH_RDENT_PEND : Fld := ⟨0x84, 30, 1, .ro, 0⟩
abbrev F.CH_RDENT_SPARE : Fld := ⟨0x84, 24, 6, .ro, 0⟩
abbrev F.CH_RDENT_RANK : Fld := ⟨0x84, 21, 1, .ro, 0⟩
abbrev F.CH_RDENT_BANK : Fld := ⟨0x84, 17, 4, .ro, 0⟩
abbrev F.CH_RDENT_ROW : Fld := ⟨0x84, 0, 17, .ro, 0⟩
abbrev F.CH_SNRD_COUNT : Fld := ⟨0x90, 0, 32, .ro, 0⟩
abbrev F.CH_SNWR_COUNT : Fld := ⟨0x94, 0, 32, .ro, 0⟩
abbrev F.CH_SNRT_COUNT : Fld := ⟨0x98, 0, 32, .ro, 0⟩
abbrev F.CH_SNEP_EPOCH : Fld := ⟨0x9c, 0, 32, .ro, 0⟩
abbrev F.CH_CCMD_SNAP : Fld := ⟨0xa0, 1, 1, .wo, 0⟩
abbrev F.CH_CCMD_CLRCNT : Fld := ⟨0xa0, 0, 1, .wo, 0⟩
/-! spec/08_dram_training.md R256, Table 8-10 -/
abbrev F.CLK_DSPREQ_GO : Fld := ⟨0xc0, 31, 1, .wo, 0⟩
abbrev F.CLK_DSPREQ_TARGET : Fld := ⟨0xc0, 0, 2, .rw, 0⟩
abbrev F.CLK_DSPSTAT_CURRENT : Fld := ⟨0xc4, 30, 2, .ro, 0⟩
abbrev F.CLK_DSPSTAT_TARGET : Fld := ⟨0xc4, 28, 2, .ro, 0⟩
abbrev F.CLK_DSPSTAT_STATE : Fld := ⟨0xc4, 26, 2, .ro, 0⟩
abbrev F.CLK_DSPSTAT_REFUSED : Fld := ⟨0xc4, 24, 2, .ro, 0⟩
abbrev F.CLK_DSPSTAT_ALMV : Fld := ⟨0xc4, 20, 4, .ro, 0⟩
/-! spec/08_dram_training.md R257, Table 8-12 -/
abbrev F.CH_TRSTAT_CAUSE : Fld := ⟨0x100, 28, 4, .ro, 0⟩
abbrev F.CH_TRSTAT_STEP : Fld := ⟨0x100, 24, 4, .ro, 0⟩
abbrev F.CH_TRSTAT_PATH : Fld := ⟨0x100, 22, 2, .ro, 0⟩
abbrev F.CH_TRSTAT_FSP : Fld := ⟨0x100, 20, 2, .ro, 0⟩
abbrev F.CH_TRCNT_FULL : Fld := ⟨0x104, 24, 8, .ro, 0⟩
abbrev F.CH_TRCNT_FAST : Fld := ⟨0x104, 16, 8, .ro, 0⟩
abbrev F.CH_TRCNT_SHORT : Fld := ⟨0x104, 8, 8, .ro, 0⟩
abbrev F.CH_TRCNT_ABANDON : Fld := ⟨0x104, 0, 8, .ro, 0⟩
abbrev F.CH_PGCTL_MODE : Fld := ⟨0x108, 28, 3, .rw, 0⟩
abbrev F.CH_PGCTL_ULEN : Fld := ⟨0x108, 22, 6, .rw, 0⟩
abbrev F.CH_PGCTL_INVERT : Fld := ⟨0x108, 0, 18, .rw, 0⟩
abbrev F.CH_PGSEED_SEED : Fld := ⟨0x10c, 0, 31, .rw, 0x7fffffff⟩
abbrev F.CH_URSEL_INDEX : Fld := ⟨0x110, 0, 6, .rw, 0⟩
abbrev F.CH_URDATA_BEAT : Fld := ⟨0x114, 0, 18, .rw, 0⟩
abbrev F.CH_SWCTL_KIND : Fld := ⟨0x118, 28, 4, .rw, 0⟩
abbrev F.CH_SWCTL_RANK : Fld := ⟨0x118, 27, 1, .rw, 0⟩
abbrev F.CH_SWCTL_OP : Fld := ⟨0x118, 25, 2, .rw, 0⟩
abbrev F.CH_SWCTL_SEL : Fld := ⟨0x118, 20, 5, .rw, 0⟩
abbrev F.CH_SWCTL_STEP : Fld := ⟨0x118, 12, 8, .rw, 1⟩
abbrev F.CH_SWCTL_BURSTS : Fld := ⟨0x118, 0, 12, .rw, 0x40⟩
abbrev F.CH_SWRANGE_STOP : Fld := ⟨0x11c, 16, 10, .rw, 0x3ff⟩
abbrev F.CH_SWRANGE_START : Fld := ⟨0x11c, 0, 10, .rw, 0⟩
abbrev F.CH_SWCMD_ABORT : Fld := ⟨0x120, 1, 1, .wo, 0⟩
abbrev F.CH_SWCMD_GO : Fld := ⟨0x120, 0, 1, .wo, 0⟩
abbrev F.CH_SWSTAT_BUSY : Fld := ⟨0x124, 31, 1, .ro, 0⟩
abbrev F.CH_SWSTAT_TRUNC : Fld := ⟨0x124, 30, 1, .ro, 0⟩
abbrev F.CH_SWSTAT_NPTS : Fld := ⟨0x124, 0, 8, .ro, 0⟩
abbrev F.CH_SWRSEL_POINT : Fld := ⟨0x128, 0, 7, .rw, 0⟩
abbrev F.CH_SWRES_FAIL : Fld := ⟨0x12c, 0, 18, .ro, 0⟩
abbrev F.CH_BERRk_ODD : Fld := ⟨0x130, 16, 16, .ro, 0⟩
abbrev F.CH_BERRk_EVEN : Fld := ⟨0x130, 0, 16, .ro, 0⟩
abbrev F.CH_DLYSEL_KIND : Fld := ⟨0x154, 28, 4, .rw, 0⟩
abbrev F.CH_DLYSEL_RANK : Fld := ⟨0x154, 27, 1, .rw, 0⟩
abbrev F.CH_DLYSEL_SEL : Fld := ⟨0x154, 0, 5, .rw, 0⟩
abbrev F.CH_DLYVAL_VALUE : Fld := ⟨0x158, 0, 10, .rw, 0⟩
/-! spec/09_root_pll_and_clocks.md R280, Table 9-9 -/
abbrev F.CLK_PLLCTL_PDSEL : Fld := ⟨0x40, 30, 2, .rw, 0⟩
abbrev F.CLK_PLLCTL_DITHEN : Fld := ⟨0x40, 29, 1, .rw, 1⟩
abbrev F.CLK_PLLSTAT_STATE : Fld := ⟨0x44, 28, 4, .ro, 0⟩
abbrev F.CLK_PLLSTAT_LOCK : Fld := ⟨0x44, 27, 1, .ro, 0⟩
abbrev F.CLK_PLLSTAT_LOCKA : Fld := ⟨0x44, 26, 1, .ro, 0⟩
abbrev F.CLK_PLLSTAT_DETV : Fld := ⟨0x44, 25, 1, .ro, 0⟩
abbrev F.CLK_PLLSTAT_REFPRES : Fld := ⟨0x44, 24, 1, .ro, 0⟩
abbrev F.CLK_PLLSTAT_PDMODE : Fld := ⟨0x44, 22, 2, .ro, 0⟩
abbrev F.CLK_FBSTAT1_NINT : Fld := ⟨0x48, 24, 8, .ro, 0⟩
abbrev F.CLK_FBSTAT1_FRACH : Fld := ⟨0x48, 0, 8, .ro, 0⟩
abbrev F.CLK_FBSTAT0_FRACL : Fld := ⟨0x4c, 0, 32, .ro, 0⟩
abbrev F.CLK_DSEED_SEED : Fld := ⟨0x50, 0, 32, .rw, 0x1d872b41⟩
abbrev F.CLK_CSTCFG_QUALT : Fld := ⟨0x54, 0, 10, .rw, 0xa⟩
abbrev F.CLK_PJCFG_AUTO : Fld := ⟨0x58, 30, 2, .rw, 0⟩
abbrev F.CLK_PJCFG_SLEWRATE : Fld := ⟨0x58, 0, 8, .rw, 0xa⟩
abbrev F.CLK_PJCMD_STEP : Fld := ⟨0x5c, 1, 1, .wo, 0⟩
abbrev F.CLK_PJCMD_SLEW : Fld := ⟨0x5c, 0, 1, .wo, 0⟩
abbrev F.CLK_PJSTAT_OFFSET : Fld := ⟨0x60, 16, 16, .ro, 0⟩
abbrev F.CLK_PJSTAT_JUMP : Fld := ⟨0x60, 0, 16, .ro, 0⟩
abbrev F.CLK_CSTCNT_COASTS : Fld := ⟨0x64, 16, 16, .ro, 0⟩
abbrev F.CLK_CSTCNT_JUMPS : Fld := ⟨0x64, 0, 16, .ro, 0⟩
abbrev F.CLK_CSTTIME_MS : Fld := ⟨0x68, 0, 32, .ro, 0⟩
abbrev F.CLK_HOFS_FERR : Fld := ⟨0x6c, 16, 16, .ro, 0⟩
abbrev F.CLK_OUTk_EN : Fld := ⟨0x70, 31, 1, .rw, 1⟩
abbrev F.CLK_OUTk_DIV : Fld := ⟨0x70, 16, 8, .ro, 0⟩
abbrev F.CLK_OUTk_FDLY : Fld := ⟨0x70, 0, 8, .rw, 0⟩
abbrev F.CLK_MONSTAT_OUTFAIL : Fld := ⟨0x88, 0, 6, .ro, 0⟩
abbrev F.CLK_CCMD_CLRCNT : Fld := ⟨0x8c, 0, 1, .wo, 0⟩
/-! spec/10_ridge_ring_and_time.md R308, Table 10-6 -/
abbrev F.TIME_TCFG_ROLE : Fld := ⟨0x40, 30, 2, .rw, 0⟩
abbrev F.TIME_TCFG_UPRING : Fld := ⟨0x40, 29, 1, .rw, 0⟩
abbrev F.TIME_TCFG_FSYNC : Fld := ⟨0x40, 28, 1, .rw, 0⟩
abbrev F.TIME_TCFG_DSEL : Fld := ⟨0x40, 26, 2, .rw, 0⟩
abbrev F.TIME_TCFG_BIGACT : Fld := ⟨0x40, 24, 2, .rw, 0⟩
abbrev F.TIME_TCFG_DOMAIN : Fld := ⟨0x40, 16, 8, .rw, 0⟩
abbrev F.TIME_TCFG_SYNCINT : Fld := ⟨0x40, 0, 7, .rw, 1⟩
abbrev F.TIME_TSTAT_STATE : Fld := ⟨0x44, 28, 4, .ro, 0⟩
abbrev F.TIME_TSTAT_VALE : Fld := ⟨0x44, 27, 1, .ro, 0⟩
abbrev F.TIME_TSTAT_VALW : Fld := ⟨0x44, 26, 1, .ro, 0⟩
abbrev F.TIME_TSTAT_STEPE : Fld := ⟨0x44, 25, 1, .ro, 0⟩
abbrev F.TIME_TSTAT_STEPW : Fld := ⟨0x44, 24, 1, .ro, 0⟩
abbrev F.TIME_TSTAT_EPOK : Fld := ⟨0x44, 23, 1, .ro, 0⟩
abbrev F.TIME_TSTAT_HOPS : Fld := ⟨0x44, 18, 5, .ro, 0x1f⟩
abbrev F.TIME_TSTAT_AGREE : Fld := ⟨0x44, 13, 5, .ro, 0⟩
abbrev F.TIME_NOWL_TIME : Fld := ⟨0x48, 0, 32, .ro, 0⟩
abbrev F.TIME_NOWH_TIME : Fld := ⟨0x4c, 0, 32, .ro, 0⟩
abbrev F.TIME_SETL_TIME : Fld := ⟨0x50, 0, 32, .rw, 0⟩
abbrev F.TIME_SETH_TIME : Fld := ⟨0x54, 0, 32, .rw, 0⟩
abbrev F.TIME_PERL_PERIOD : Fld := ⟨0x58, 0, 32, .rw, 0⟩
abbrev F.TIME_PERH_PERIOD : Fld := ⟨0x5c, 0, 16, .rw, 0⟩
abbrev F.TIME_EPOCH_NUMBER : Fld := ⟨0x60, 0, 32, .ro, 0⟩
abbrev F.TIME_PTIMEL_TIME : Fld := ⟨0x64, 0, 32, .ro, 0⟩
abbrev F.TIME_PTIMEH_TIME : Fld := ⟨0x68, 0, 32, .ro, 0⟩
abbrev F.TIME_OFSE_THETA : Fld := ⟨0x6c, 0, 32, .ro, 0⟩
abbrev F.TIME_OFSW_THETA : Fld := ⟨0x70, 0, 32, .ro, 0⟩
abbrev F.TIME_SLEW_RATE : Fld := ⟨0x74, 0, 10, .rw, 0x64⟩
abbrev F.TIME_FSDLY_DELAY : Fld := ⟨0x78, 0, 32, .rw, 0⟩
abbrev F.TIME_TCMD_CLRCNT : Fld := ⟨0x7c, 5, 1, .wo, 0⟩
abbrev F.TIME_TCMD_SET : Fld := ⟨0x7c, 4, 1, .wo, 0⟩
abbrev F.TIME_TCMD_EPADOPT : Fld := ⟨0x7c, 3, 1, .wo, 0⟩
abbrev F.TIME_TCMD_STEP : Fld := ⟨0x7c, 2, 1, .wo, 0⟩
abbrev F.TIME_TCMD_SLEW : Fld := ⟨0x7c, 1, 1, .wo, 0⟩
abbrev F.TIME_TCMD_RESUME : Fld := ⟨0x7c, 0, 1, .wo, 0⟩
abbrev F.TIME_TCNT_PSTEPS : Fld := ⟨0x80, 24, 8, .ro, 0⟩
abbrev F.TIME_TCNT_ASYMS : Fld := ⟨0x80, 16, 8, .ro, 0⟩
abbrev F.TIME_TCNT_LOSSES : Fld := ⟨0x80, 8, 8, .ro, 0⟩
abbrev F.TIME_TCNT_BIGS : Fld := ⟨0x80, 0, 8, .ro, 0⟩
/-! spec/10_ridge_ring_and_time.md R310, Table 10-9 -/
abbrev F.RING_RCFG_SPLIT : Fld := ⟨0x200, 31, 1, .rw, 0⟩
abbrev F.RING_BTRAIN_STATE : Fld := ⟨0x204, 28, 4, .ro, 0⟩
abbrev F.RING_BTRAIN_ATTEMPT : Fld := ⟨0x204, 26, 2, .ro, 0⟩
abbrev F.RING_BTRAIN_FAILPH : Fld := ⟨0x204, 22, 4, .ro, 0⟩
abbrev F.RING_BTRAIN_RATE : Fld := ⟨0x204, 21, 1, .ro, 0⟩
abbrev F.RING_BTRAIN_WIDTH : Fld := ⟨0x204, 17, 4, .ro, 0⟩
abbrev F.RING_LASYMA_PS : Fld := ⟨0x208, 0, 16, .rw, 0⟩
abbrev F.RING_LASYMB_PS : Fld := ⟨0x20c, 0, 16, .rw, 0⟩
abbrev F.RING_RTA_UNITS : Fld := ⟨0x210, 0, 32, .ro, 0⟩
abbrev F.RING_RTB_UNITS : Fld := ⟨0x214, 0, 32, .ro, 0⟩
abbrev F.RING_NBRL_ID : Fld := ⟨0x218, 0, 32, .ro, 0⟩
abbrev F.RING_NBRH_ID : Fld := ⟨0x21c, 0, 32, .ro, 0⟩
abbrev F.RING_HOCFG_PORTS : Fld := ⟨0x220, 30, 2, .rw, 3⟩
abbrev F.RING_HOCFG_FINAL : Fld := ⟨0x220, 16, 8, .rw, 4⟩
abbrev F.RING_HOCFG_MAXPOST : Fld := ⟨0x220, 12, 4, .rw, 8⟩
abbrev F.RING_HOCFG_LINKTO : Fld := ⟨0x220, 0, 12, .rw, 0x64⟩
abbrev F.RING_HOCMD_ABORT : Fld := ⟨0x224, 2, 1, .wo, 0⟩
abbrev F.RING_HOCMD_ARM : Fld := ⟨0x224, 1, 1, .wo, 0⟩
abbrev F.RING_HOCMD_START : Fld := ⟨0x224, 0, 1, .wo, 0⟩
abbrev F.RING_HOSTAT_STATE : Fld := ⟨0x228, 28, 4, .ro, 0⟩
abbrev F.RING_HOSTAT_CAUSE : Fld := ⟨0x228, 24, 4, .ro, 0⟩
abbrev F.RING_HOSTAT_PASS : Fld := ⟨0x228, 16, 8, .ro, 0⟩
abbrev F.RING_HOSTAT_POSTPONES : Fld := ⟨0x228, 8, 8, .ro, 0⟩
abbrev F.RING_HODIRTY_COUNT : Fld := ⟨0x22c, 0, 21, .ro, 0⟩
abbrev F.RING_MSEL_ENTRY : Fld := ⟨0x240, 0, 4, .rw, 0⟩
abbrev F.RING_MCFG_EN : Fld := ⟨0x244, 31, 1, .rw, 0⟩
abbrev F.RING_MCFG_ROLE : Fld := ⟨0x244, 30, 1, .rw, 0⟩
abbrev F.RING_MCFG_PREG : Fld := ⟨0x244, 8, 8, .rw, 0⟩
abbrev F.RING_MCFG_LREG : Fld := ⟨0x244, 0, 8, .rw, 0⟩
abbrev F.RING_MSTAT_STATE : Fld := ⟨0x248, 30, 2, .ro, 0⟩
abbrev F.RING_MSTAT_DETACHES : Fld := ⟨0x248, 0, 16, .ro, 0⟩
/-! spec/11_start_and_reset.md R339, Table 11-9 -/
abbrev F.BOOT_BSTAT_MODE : Fld := ⟨0x40, 30, 2, .ro, 0⟩
abbrev F.BOOT_BSTAT_STATE : Fld := ⟨0x40, 26, 4, .ro, 0⟩
abbrev F.BOOT_BSTAT_SLOT : Fld := ⟨0x40, 25, 1, .ro, 0⟩
abbrev F.BOOT_BSTAT_SEALED : Fld := ⟨0x40, 24, 1, .ro, 0⟩
abbrev F.BOOT_BSTAT_PATH : Fld := ⟨0x40, 22, 2, .ro, 0⟩
abbrev F.BOOT_BSTAT_RUN : Fld := ⟨0x40, 21, 1, .ro, 0⟩
abbrev F.BOOT_RCAUSE_SWCOLD : Fld := ⟨0x44, 5, 1, .w1c, 0⟩
abbrev F.BOOT_RCAUSE_RESETN : Fld := ⟨0x44, 4, 1, .w1c, 0⟩
abbrev F.BOOT_RCAUSE_PWRON : Fld := ⟨0x44, 3, 1, .w1c, 0⟩
abbrev F.BOOT_RCAUSE_WARM : Fld := ⟨0x44, 2, 1, .w1c, 0⟩
abbrev F.BOOT_RCAUSE_CORE : Fld := ⟨0x44, 1, 1, .w1c, 0⟩
abbrev F.BOOT_RCAUSE_WD : Fld := ⟨0x44, 0, 1, .w1c, 0⟩
abbrev F.BOOT_IMGSTAT_AVALID : Fld := ⟨0x48, 31, 1, .ro, 0⟩
abbrev F.BOOT_IMGSTAT_BVALID : Fld := ⟨0x48, 30, 1, .ro, 0⟩
abbrev F.BOOT_IMGSTAT_AOPEN : Fld := ⟨0x48, 29, 1, .ro, 0⟩
abbrev F.BOOT_IMGSTAT_BOPEN : Fld := ⟨0x48, 28, 1, .ro, 0⟩
abbrev F.BOOT_IMGSTAT_DOPEN0 : Fld := ⟨0x48, 27, 1, .ro, 0⟩
abbrev F.BOOT_IMGSTAT_DOPEN1 : Fld := ⟨0x48, 26, 1, .ro, 0⟩
abbrev F.BOOT_IMGSTAT_FAILA : Fld := ⟨0x48, 16, 8, .ro, 0⟩
abbrev F.BOOT_IMGSTAT_FAILB : Fld := ⟨0x48, 8, 8, .ro, 0⟩
abbrev F.BOOT_SEQA_SEQ : Fld := ⟨0x4c, 0, 32, .ro, 0⟩
abbrev F.BOOT_SEQB_SEQ : Fld := ⟨0x50, 0, 32, .ro, 0⟩
abbrev F.BOOT_BTIME_READYT : Fld := ⟨0x54, 16, 16, .ro, 0⟩
abbrev F.BOOT_BCMD_RUN : Fld := ⟨0x58, 1, 1, .wo, 0⟩
abbrev F.BOOT_BCMD_SEAL : Fld := ⟨0x58, 0, 1, .wo, 0⟩
abbrev F.BOOT_RSTCMD_KEY : Fld := ⟨0x5c, 16, 16, .wo, 0⟩
abbrev F.BOOT_RSTCMD_COLD : Fld := ⟨0x5c, 2, 1, .wo, 0⟩
abbrev F.BOOT_RSTCMD_WARM : Fld := ⟨0x5c, 1, 1, .wo, 0⟩
abbrev F.BOOT_RSTCMD_CORE : Fld := ⟨0x5c, 0, 1, .wo, 0⟩
abbrev F.BOOT_RSTPORT_W : Fld := ⟨0x60, 17, 1, .wo, 0⟩
abbrev F.BOOT_RSTPORT_E : Fld := ⟨0x60, 16, 1, .wo, 0⟩
abbrev F.BOOT_RSTPORT_HOST : Fld := ⟨0x60, 0, 16, .wo, 0⟩
abbrev F.BOOT_RSTCH_GO : Fld := ⟨0x64, 31, 1, .wo, 0⟩
abbrev F.BOOT_RSTCH_CHAN : Fld := ⟨0x64, 0, 6, .wo, 0⟩
abbrev F.BOOT_RSTBAY_BAYS : Fld := ⟨0x68, 0, 8, .wo, 0⟩
abbrev F.BOOT_WDCFG_EN : Fld := ⟨0x6c, 31, 1, .rw, 1⟩
abbrev F.BOOT_WDCFG_LIMIT : Fld := ⟨0x6c, 24, 3, .rw, 3⟩
abbrev F.BOOT_WDCFG_PERIOD : Fld := ⟨0x6c, 0, 14, .rw, 0x3e8⟩
abbrev F.BOOT_WDKICK_CODE : Fld := ⟨0x70, 0, 8, .wo, 0⟩
abbrev F.BOOT_WDSTAT_CLAMP : Fld := ⟨0x74, 31, 1, .ro, 0⟩
abbrev F.BOOT_WDSTAT_CONSEC : Fld := ⟨0x74, 28, 3, .ro, 0⟩
abbrev F.BOOT_WDSTAT_REMAIN : Fld := ⟨0x74, 0, 14, .ro, 0⟩
abbrev F.BOOT_RCNT_WDEXP : Fld := ⟨0x78, 24, 8, .ro, 0⟩
abbrev F.BOOT_RCNT_WARMS : Fld := ⟨0x78, 16, 8, .ro, 0⟩
abbrev F.BOOT_RCNT_CORES : Fld := ⟨0x78, 8, 8, .ro, 0⟩
abbrev F.BOOT_RCNT_PARTS : Fld := ⟨0x78, 0, 8, .ro, 0⟩
/-! spec/12_power_and_wake.md R353, Table 12-4 -/
abbrev F.PWR_PCFG_MAXST : Fld := ⟨0x40, 30, 2, .rw, 3⟩
abbrev F.PWR_PCFG_RETEN : Fld := ⟨0x40, 29, 1, .rw, 0⟩
abbrev F.PWR_PCFG_IDLE : Fld := ⟨0x40, 0, 16, .rw, 0x14⟩
abbrev F.PWR_PSTAT_STATE : Fld := ⟨0x44, 28, 4, .ro, 0⟩
abbrev F.PWR_PSTAT_TARGET : Fld := ⟨0x44, 24, 4, .ro, 0⟩
abbrev F.PWR_PSTAT_REFUSE : Fld := ⟨0x44, 20, 4, .ro, 0⟩
abbrev F.PWR_PSTAT_STBY : Fld := ⟨0x44, 0, 16, .ro, 0⟩
abbrev F.PWR_TOLMIN_UNLIM : Fld := ⟨0x48, 31, 1, .ro, 1⟩
abbrev F.PWR_TOLMIN_NS : Fld := ⟨0x48, 0, 31, .ro, 0⟩
abbrev F.PWR_PCMD_RETAIN : Fld := ⟨0x4c, 0, 1, .wo, 0⟩
abbrev F.PWR_PCNT_WAKES : Fld := ⟨0x50, 16, 16, .ro, 0⟩
abbrev F.PWR_PCNT_RETS : Fld := ⟨0x50, 0, 16, .ro, 0⟩
abbrev F.PWR_WAKESRC_KIND : Fld := ⟨0x54, 28, 4, .ro, 0⟩
abbrev F.PWR_WAKESRC_PORT : Fld := ⟨0x54, 0, 5, .ro, 0⟩
abbrev F.HP_LTOL_EN : Fld := ⟨0x200, 31, 1, .rw, 0⟩
abbrev F.HP_LTOL_SCALE : Fld := ⟨0x200, 10, 3, .rw, 0⟩
abbrev F.HP_LTOL_VALUE : Fld := ⟨0x200, 0, 10, .rw, 0⟩
abbrev F.HP_PSBY_LEVEL : Fld := ⟨0x204, 30, 2, .ro, 0⟩
abbrev F.HP_PSBY_REFUSED : Fld := ⟨0x204, 8, 8, .ro, 0⟩
abbrev F.HP_PSBY_ENTRIES : Fld := ⟨0x204, 0, 8, .ro, 0⟩
/-! spec/13_flash.md R374, Table 13-12 -/
abbrev F.FLSH_FCFG_CREN0 : Fld := ⟨0x40, 31, 1, .rw, 1⟩
abbrev F.FLSH_FCFG_CREN1 : Fld := ⟨0x40, 30, 1, .rw, 1⟩
abbrev F.FLSH_FCFG_AUTOSUSP : Fld := ⟨0x40, 29, 1, .rw, 1⟩
abbrev F.FLSH_FCFG_ROTLOW : Fld := ⟨0x40, 16, 8, .rw, 0x10⟩
abbrev F.FLSH_FCFG_WEAKTHR : Fld := ⟨0x40, 4, 4, .rw, 2⟩
abbrev F.FLSH_FSTAT_BUSY0 : Fld := ⟨0x44, 31, 1, .ro, 0⟩
abbrev F.FLSH_FSTAT_BUSY1 : Fld := ⟨0x44, 30, 1, .ro, 0⟩
abbrev F.FLSH_FSTAT_SUSP0 : Fld := ⟨0x44, 29, 1, .ro, 0⟩
abbrev F.FLSH_FSTAT_SUSP1 : Fld := ⟨0x44, 28, 1, .ro, 0⟩
abbrev F.FLSH_FSTAT_OP0 : Fld := ⟨0x44, 26, 2, .ro, 0⟩
abbrev F.FLSH_FSTAT_OP1 : Fld := ⟨0x44, 24, 2, .ro, 0⟩
abbrev F.FLSH_RWADDR_ADDR : Fld := ⟨0x48, 2, 24, .rw, 0⟩
abbrev F.FLSH_RWDATA_DATA : Fld := ⟨0x4c, 0, 32, .ro, 0⟩
abbrev F.FLSH_RWSTAT_UNCOR : Fld := ⟨0x50, 31, 1, .ro, 0⟩
abbrev F.FLSH_RWSTAT_WEAK : Fld := ⟨0x50, 30, 1, .ro, 0⟩
abbrev F.FLSH_RWSTAT_RANGE : Fld := ⟨0x50, 29, 1, .ro, 0⟩
abbrev F.FLSH_RWSTAT_CBITS : Fld := ⟨0x50, 24, 4, .ro, 0⟩
abbrev F.FLSH_MCMD_OP : Fld := ⟨0x54, 0, 4, .wo, 0⟩
abbrev F.FLSH_MADDR_ADDR : Fld := ⟨0x58, 0, 26, .rw, 0⟩
abbrev F.FLSH_MSTAT_BUSY : Fld := ⟨0x5c, 31, 1, .ro, 0⟩
abbrev F.FLSH_MSTAT_RESULT : Fld := ⟨0x5c, 27, 4, .ro, 0⟩
abbrev F.FLSH_MSTAT_CBITS : Fld := ⟨0x5c, 23, 4, .ro, 0⟩
abbrev F.FLSH_MSTAT_OP : Fld := ⟨0x5c, 16, 4, .ro, 0⟩
abbrev F.FLSH_WINd_HEAD : Fld := ⟨0x60, 24, 8, .ro, 0⟩
abbrev F.FLSH_WINd_TAIL : Fld := ⟨0x60, 16, 8, .ro, 0⟩
abbrev F.FLSH_WINd_FREE : Fld := ⟨0x60, 8, 8, .ro, 0⟩
abbrev F.FLSH_WINd_RETIRED : Fld := ⟨0x60, 0, 8, .ro, 0⟩
abbrev F.FLSH_CELLSEL_SECTOR : Fld := ⟨0x68, 0, 10, .rw, 0⟩
abbrev F.FLSH_CELL0_WORD : Fld := ⟨0x6c, 0, 32, .ro, 0⟩
abbrev F.FLSH_CELL1_GEN : Fld := ⟨0x70, 0, 32, .ro, 0⟩
abbrev F.FLSH_FCNT_WEAKS : Fld := ⟨0x74, 16, 16, .ro, 0⟩
abbrev F.FLSH_FCNT_UNCORS : Fld := ⟨0x74, 8, 8, .ro, 0⟩
abbrev F.FLSH_FCNT_RETIRES : Fld := ⟨0x74, 0, 8, .ro, 0⟩
abbrev F.FLSH_FCMD_CLRCNT : Fld := ⟨0x78, 0, 1, .wo, 0⟩
abbrev F.FLSH_MBUFk_DATA : Fld := ⟨0x100, 0, 32, .rw, 0⟩
/-! spec/14_sideband.md R394, Table 14-9 -/
abbrev F.SBND_SCFG_PECREQ : Fld := ⟨0x40, 31, 1, .rw, 0⟩
abbrev F.SBND_STIM_THOLD : Fld := ⟨0x44, 8, 6, .rw, 0xf⟩
abbrev F.SBND_STIM_FILT : Fld := ⟨0x44, 0, 4, .rw, 5⟩
abbrev F.SBND_TOUT_SCLTO : Fld := ⟨0x48, 16, 6, .rw, 0x19⟩
abbrev F.SBND_TOUT_SDATO : Fld := ⟨0x48, 0, 6, .rw, 0x19⟩
abbrev F.SBND_SSTAT_STATE : Fld := ⟨0x4c, 28, 4, .ro, 0⟩
abbrev F.SBND_SSTAT_SA : Fld := ⟨0x4c, 25, 3, .ro, 0⟩
abbrev F.SBND_SSTAT_HELD : Fld := ⟨0x4c, 24, 1, .ro, 0⟩
abbrev F.SBND_SSTAT_NAKCAUSE : Fld := ⟨0x4c, 20, 4, .ro, 0⟩
abbrev F.SBND_ERRCNT_PROTO : Fld := ⟨0x50, 24, 8, .ro, 0⟩
abbrev F.SBND_ERRCNT_PEC : Fld := ⟨0x50, 16, 8, .ro, 0⟩
abbrev F.SBND_ERRCNT_DENIED : Fld := ⟨0x50, 8, 8, .ro, 0⟩
abbrev F.SBND_ERRCNT_BUSY : Fld := ⟨0x50, 0, 8, .ro, 0⟩
abbrev F.SBND_XCNT_WR : Fld := ⟨0x54, 16, 16, .ro, 0⟩
abbrev F.SBND_XCNT_RD : Fld := ⟨0x54, 0, 16, .ro, 0⟩
abbrev F.SBND_SACC_WREN : Fld := ⟨0x58, 31, 1, .rwl, 1⟩
abbrev F.SBND_SACC_MBOX : Fld := ⟨0x58, 30, 1, .rwl, 1⟩
abbrev F.SBND_SCMD_CLRCNT : Fld := ⟨0x5c, 0, 1, .wo, 0⟩
/-! spec/15_faults_and_safety.md R422, Table 15-11 -/
abbrev F.SAFE_SCFG_KPACT : Fld := ⟨0x40, 31, 1, .rwl, 0⟩
abbrev F.SAFE_SCFG_TWARN : Fld := ⟨0x40, 16, 8, .rwl, 0x64⟩
abbrev F.SAFE_SSTAT_STATE : Fld := ⟨0x44, 28, 4, .ro, 0⟩
abbrev F.SAFE_SSTAT_FNDRV : Fld := ⟨0x44, 27, 1, .ro, 1⟩
abbrev F.SAFE_SSTAT_FNRB : Fld := ⟨0x44, 26, 1, .ro, 1⟩
abbrev F.SAFE_SSTAT_LASTMECH : Fld := ⟨0x44, 8, 8, .ro, 0⟩
abbrev F.SAFE_FCAUSE_MECH : Fld := ⟨0x48, 24, 8, .ro, 0⟩
abbrev F.SAFE_FCAUSE_PAGE : Fld := ⟨0x48, 16, 8, .ro, 0⟩
abbrev F.SAFE_FCAUSE_EVTBIT : Fld := ⟨0x48, 11, 5, .ro, 0⟩
abbrev F.SAFE_SCAN_PASSES : Fld := ⟨0x4c, 16, 16, .ro, 0⟩
abbrev F.SAFE_SCAN_LASTUS : Fld := ⟨0x4c, 0, 16, .ro, 0⟩
abbrev F.SAFE_LTCFG_PERIOD : Fld := ⟨0x50, 0, 11, .rwl, 0x3c⟩
abbrev F.SAFE_LTSTAT_FAIL : Fld := ⟨0x54, 24, 8, .ro, 0⟩
abbrev F.SAFE_LTSTAT_OVERDUE : Fld := ⟨0x54, 16, 8, .ro, 0⟩
abbrev F.SAFE_LTSTAT_AGE : Fld := ⟨0x54, 0, 16, .ro, 0⟩
abbrev F.SAFE_LOGSTAT_ENTRIES : Fld := ⟨0x58, 27, 5, .ro, 0⟩
abbrev F.SAFE_LOGSTAT_LOST : Fld := ⟨0x58, 19, 8, .ro, 0⟩
abbrev F.SAFE_LOGSTAT_LASTSEQ : Fld := ⟨0x58, 0, 16, .ro, 0⟩
abbrev F.SAFE_LOGSEL_ENTRY : Fld := ⟨0x5c, 4, 4, .rw, 0⟩
abbrev F.SAFE_LOGSEL_WORD : Fld := ⟨0x5c, 0, 4, .rw, 0⟩
abbrev F.SAFE_LOGDATA_DATA : Fld := ⟨0x60, 0, 32, .ro, 0⟩
abbrev F.SAFE_TEMP_TMAX : Fld := ⟨0x64, 16, 16, .ro, 0⟩
abbrev F.SAFE_TEMP_SENSOR : Fld := ⟨0x64, 12, 4, .ro, 0⟩
abbrev F.SAFE_FCNT_PORT : Fld := ⟨0x68, 24, 8, .ro, 0⟩
abbrev F.SAFE_FCNT_CHAN : Fld := ⟨0x68, 16, 8, .ro, 0⟩
abbrev F.SAFE_FCNT_GROUP : Fld := ⟨0x68, 8, 8, .ro, 0⟩
abbrev F.SAFE_FCNT_SAFE : Fld := ⟨0x68, 0, 8, .ro, 0⟩
abbrev F.SAFE_SCMD_KEY : Fld := ⟨0x6c, 16, 16, .wo, 0⟩
abbrev F.SAFE_SCMD_LTRUN : Fld := ⟨0x6c, 2, 1, .wo, 0⟩
abbrev F.SAFE_SCMD_ENTER : Fld := ⟨0x6c, 1, 1, .wo, 0⟩
abbrev F.SAFE_SCMD_CLRCNT : Fld := ⟨0x6c, 0, 1, .wo, 0⟩
/-! spec/16_register_pages.md R432, Table 16-7 -/
abbrev F.PROT_ROUTEx_PORT : Fld := ⟨0x900, 0, 16, .rwl, 0⟩
/-! spec/16_register_pages.md R433, Table 16-10 -/
abbrev F.DEV_DEVIDL_ID : Fld := ⟨0x40, 0, 32, .ro, 0⟩
abbrev F.DEV_DEVIDH_ID : Fld := ⟨0x44, 0, 32, .ro, 0⟩
abbrev F.DEV_PARTID_PART : Fld := ⟨0x48, 16, 16, .ro, 0x64⟩
abbrev F.DEV_PARTID_STEP : Fld := ⟨0x48, 8, 8, .ro, 0xb0⟩
abbrev F.DEV_PARTID_PKG : Fld := ⟨0x48, 0, 8, .ro, 1⟩
abbrev F.DEV_DSTAT_READY : Fld := ⟨0x4c, 31, 1, .ro, 0⟩
abbrev F.DEV_DSTAT_SAFE : Fld := ⟨0x4c, 30, 1, .ro, 0⟩
abbrev F.DEV_DSTAT_SEALED : Fld := ⟨0x4c, 29, 1, .ro, 0⟩
abbrev F.DEV_DSTAT_KEYSET : Fld := ⟨0x4c, 28, 1, .ro, 0⟩
abbrev F.DEV_DSTAT_BAYPRES : Fld := ⟨0x4c, 20, 8, .ro, 0⟩
abbrev F.DEV_DSTAT_NCHAN : Fld := ⟨0x4c, 0, 7, .ro, 0⟩
abbrev F.DEV_SCRATCH_DATA : Fld := ⟨0x50, 0, 32, .rw, 0⟩
abbrev F.DEV_KEYHk_HASH : Fld := ⟨0x60, 0, 32, .ro, 0⟩
abbrev F.DEV_EPENDk_PEND : Fld := ⟨0x80, 0, 32, .ro, 0⟩
/-! spec/16_register_pages.md R434, Table 16-12 -/
abbrev F.EPCH_GUARD_US : Fld := ⟨0x40, 0, 10, .rw, 0x32⟩
abbrev F.EPCH_BLANK_US : Fld := ⟨0x44, 0, 16, .rw, 0⟩
abbrev F.EPCH_ESTAT_INBLANK : Fld := ⟨0x48, 31, 1, .ro, 0⟩
abbrev F.EPCH_ESTAT_PASTDL : Fld := ⟨0x48, 30, 1, .ro, 0⟩
abbrev F.EPCH_ESTAT_GUARDNOW : Fld := ⟨0x48, 16, 10, .ro, 0x32⟩
abbrev F.EPCH_ESTAT_BLANKNOW : Fld := ⟨0x48, 0, 16, .ro, 0⟩
abbrev F.EPCH_LATE_COUNT : Fld := ⟨0x4c, 0, 32, .ro, 0⟩
abbrev F.EPCH_SKIP_COUNT : Fld := ⟨0x50, 0, 32, .ro, 0⟩
abbrev F.EPCH_FLIPS_COUNT : Fld := ⟨0x54, 0, 32, .ro, 0⟩
abbrev F.EPCH_ECMD_CLRCNT : Fld := ⟨0x58, 0, 1, .wo, 0⟩
/-! spec/16_register_pages.md R435, Table 16-13 -/
abbrev F.BAY_BSTAT_PRESENT : Fld := ⟨0x40, 24, 8, .ro, 0⟩
abbrev F.BAY_BSTAT_FAILED : Fld := ⟨0x40, 16, 8, .ro, 0⟩
abbrev F.BAY_BSTAT_INRESET : Fld := ⟨0x40, 8, 8, .ro, 0⟩
abbrev F.BAY_BSTAT_PHYGATED : Fld := ⟨0x40, 0, 1, .ro, 0⟩
abbrev F.BAY_BCNT_RESETS : Fld := ⟨0x44, 16, 16, .ro, 0⟩
abbrev F.BAY_BCNT_FAULTS : Fld := ⟨0x44, 0, 16, .ro, 0⟩
/-! spec/16_register_pages.md R432, Table 16-7 -/
abbrev F.PROT_MRIGHT : Fld := ⟨0x100, 0, 32, .rwl, 0⟩
abbrev F.PROT_RRIGHT : Fld := ⟨0x500, 0, 32, .rwl, 0⟩

/-! Event bit numbers (the EVT tables of the pages) -/
abbrev E.RGN_KP_REPAIR : Nat := 8
abbrev E.RGN_META_ERR : Nat := 7
abbrev E.RGN_KP_LOST : Nat := 6
abbrev E.RGN_KP_MISMATCH : Nat := 5
abbrev E.RGN_KP_SINGLE : Nat := 4
abbrev E.RGN_SKIP : Nat := 3
abbrev E.RGN_LATE : Nat := 2
abbrev E.RGN_CFGERR : Nat := 1
abbrev E.RGN_INIT_DONE : Nat := 0
abbrev E.HP_CFG_ERR : Nat := 10
abbrev E.HP_CTRL_ERR : Nat := 9
abbrev E.HP_CHK_LOSS : Nat := 8
abbrev E.HP_RETIRE_TO : Nat := 7
abbrev E.HP_LANE_FAILED : Nat := 6
abbrev E.HP_WIDEN : Nat := 5
abbrev E.HP_RETIRE : Nat := 4
abbrev E.HP_LISTEN : Nat := 3
abbrev E.HP_TRAIN_FAIL : Nat := 2
abbrev E.HP_LINK_DOWN : Nat := 1
abbrev E.HP_LINK_UP : Nat := 0
abbrev E.HP_UNEXPECTED : Nat := 16
abbrev E.HP_TAG_ERR : Nat := 15
abbrev E.HP_POSTED_DROP : Nat := 14
abbrev E.HP_PROTO : Nat := 13
abbrev E.HP_REPLAY_FAIL : Nat := 12
abbrev E.HP_REPLAY : Nat := 11
abbrev E.VEC_WAITPORT : Nat := 1
abbrev E.VEC_CFGERR : Nat := 0
abbrev E.JG_OUTSVC : Nat := 7
abbrev E.JG_UNFENCE_FAIL : Nat := 6
abbrev E.JG_LSUNC : Nat := 5
abbrev E.JG_TPAR : Nat := 4
abbrev E.JG_FENCED : Nat := 3
abbrev E.JG_LSMISM : Nat := 2
abbrev E.JG_CFGERR : Nat := 1
abbrev E.JG_TLOAD_DONE : Nat := 0
abbrev E.CH_SCRUB_PASS : Nat := 11
abbrev E.CH_SCRUB_LATE : Nat := 10
abbrev E.CH_CFGERR : Nat := 9
abbrev E.CH_FAIL : Nat := 8
abbrev E.CH_TRACK : Nat := 7
abbrev E.CH_RD_FULL : Nat := 6
abbrev E.CH_RD_NEW : Nat := 5
abbrev E.CH_HOT : Nat := 4
abbrev E.CH_RFINTR : Nat := 3
abbrev E.CH_ADDR_ERR : Nat := 2
abbrev E.CH_UE : Nat := 1
abbrev E.CH_CE : Nat := 0
abbrev E.CLK_DSP_DONE : Nat := 31
abbrev E.CLK_DSP_DEFER : Nat := 30
abbrev E.CLK_DSP_REFUSED : Nat := 29
abbrev E.CLK_DSP_FAIL : Nat := 28
abbrev E.CLK_CFGERR : Nat := 11
abbrev E.CLK_MON_FAIL : Nat := 10
abbrev E.CLK_SYNC_ERR : Nat := 9
abbrev E.CLK_STEP_DONE : Nat := 8
abbrev E.CLK_SLEW_DONE : Nat := 7
abbrev E.CLK_PHASE_JUMP : Nat := 6
abbrev E.CLK_RELOCK : Nat := 5
abbrev E.CLK_REF_STEP : Nat := 4
abbrev E.CLK_COAST : Nat := 3
abbrev E.CLK_FREERUN : Nat := 2
abbrev E.CLK_UNLOCK : Nat := 1
abbrev E.CLK_LOCK : Nat := 0
abbrev E.TIME_CFGERR : Nat := 11
abbrev E.TIME_FSYNC_ERR : Nat := 10
abbrev E.TIME_HOPS : Nat := 9
abbrev E.TIME_EPOCH_MISM : Nat := 8
abbrev E.TIME_SYNC_LOSS : Nat := 7
abbrev E.TIME_SYNC_OK : Nat := 6
abbrev E.TIME_STEP_DONE : Nat := 5
abbrev E.TIME_SLEW_DONE : Nat := 4
abbrev E.TIME_BIGOFS : Nat := 3
abbrev E.TIME_RESUMED : Nat := 2
abbrev E.TIME_ASYMMETRY : Nat := 1
abbrev E.TIME_PATH_STEP : Nat := 0
abbrev E.RING_HO_POSTPONE : Nat := 22
abbrev E.RING_HO_ABORT : Nat := 21
abbrev E.RING_HO_DONE : Nat := 20
abbrev E.RING_M_DETACH : Nat := 19
abbrev E.RING_M_ATTACH : Nat := 18
abbrev E.RING_BLINK : Nat := 17
abbrev E.BOOT_CFGERR : Nat := 8
abbrev E.BOOT_RST_DONE : Nat := 7
abbrev E.BOOT_FLASH_ABORT : Nat := 6
abbrev E.BOOT_WD_LIMIT : Nat := 5
abbrev E.BOOT_WD_EXPIRE : Nat := 4
abbrev E.BOOT_IMG_FALLBACK : Nat := 3
abbrev E.BOOT_IMG_FAIL : Nat := 2
abbrev E.BOOT_SEALED : Nat := 1
abbrev E.BOOT_READY : Nat := 0
abbrev E.PWR_CFGERR : Nat := 3
abbrev E.PWR_RET_REFUSED : Nat := 2
abbrev E.PWR_RET_WOKE : Nat := 1
abbrev E.PWR_WAKE : Nat := 0
abbrev E.FLSH_CFGERR : Nat := 5
abbrev E.FLSH_MBOX_DONE : Nat := 4
abbrev E.FLSH_AREA_FULL : Nat := 3
abbrev E.FLSH_RETIRE : Nat := 2
abbrev E.FLSH_UNCOR : Nat := 1
abbrev E.FLSH_WEAK : Nat := 0
abbrev E.SBND_CFGERR : Nat := 8
abbrev E.SBND_WR_DENIED : Nat := 7
abbrev E.SBND_RD_ABORT : Nat := 6
abbrev E.SBND_PEC_ERR : Nat := 5
abbrev E.SBND_PROTO : Nat := 4
abbrev E.SBND_BUS_HELD : Nat := 3
abbrev E.SBND_SCL_TO : Nat := 2
abbrev E.SBND_SDA_TO : Nat := 1
abbrev E.SBND_BUSY_NAK : Nat := 0
abbrev E.SAFE_CFGERR : Nat := 9
abbrev E.SAFE_DIAG_LOST : Nat := 8
abbrev E.SAFE_FN_MISMATCH : Nat := 7
abbrev E.SAFE_LOG_LOST : Nat := 6
abbrev E.SAFE_LT_OVERDUE : Nat := 5
abbrev E.SAFE_LT_FAIL : Nat := 4
abbrev E.SAFE_TEMP_WARN : Nat := 3
abbrev E.SAFE_KP_FAULT : Nat := 2
abbrev E.SAFE_SCOPE_FAULT : Nat := 1
abbrev E.SAFE_SAFE_ENTRY : Nat := 0
abbrev E.DEV_CFGERR : Nat := 1
abbrev E.DEV_REGADDR : Nat := 0
abbrev E.EPCH_CFGERR : Nat := 3
abbrev E.EPCH_SKIP : Nat := 2
abbrev E.EPCH_LATE : Nat := 1
abbrev E.EPCH_PULSE : Nat := 0
abbrev E.BAY_RESET_DONE : Nat := 1
abbrev E.BAY_BAY_FAULT : Nat := 0

/-- Register map of a DEV page from offset 0x040. -/
def regMapDev : List RegEnt := [
  ⟨0x40, 0, 1, [F.DEV_DEVIDL_ID]⟩,
  ⟨0x44, 0, 1, [F.DEV_DEVIDH_ID]⟩,
  ⟨0x48, 0, 1, [F.DEV_PARTID_PART, F.DEV_PARTID_STEP, F.DEV_PARTID_PKG]⟩,
  ⟨0x4c, 0, 1, [F.DEV_DSTAT_READY, F.DEV_DSTAT_SAFE, F.DEV_DSTAT_SEALED, F.DEV_DSTAT_KEYSET, F.DEV_DSTAT_BAYPRES, F.DEV_DSTAT_NCHAN]⟩,
  ⟨0x50, 0, 1, [F.DEV_SCRATCH_DATA]⟩,
  ⟨0x60, 4, 8, [F.DEV_KEYHk_HASH]⟩,
  ⟨0x80, 4, 8, [F.DEV_EPENDk_PEND]⟩
  ]

/-- Register map of a CLK page from offset 0x040. -/
def regMapClk : List RegEnt := [
  ⟨0x40, 0, 1, [F.CLK_PLLCTL_PDSEL, F.CLK_PLLCTL_DITHEN]⟩,
  ⟨0x44, 0, 1, [F.CLK_PLLSTAT_STATE, F.CLK_PLLSTAT_LOCK, F.CLK_PLLSTAT_LOCKA, F.CLK_PLLSTAT_DETV, F.CLK_PLLSTAT_REFPRES, F.CLK_PLLSTAT_PDMODE]⟩,
  ⟨0x48, 0, 1, [F.CLK_FBSTAT1_NINT, F.CLK_FBSTAT1_FRACH]⟩,
  ⟨0x4c, 0, 1, [F.CLK_FBSTAT0_FRACL]⟩,
  ⟨0x50, 0, 1, [F.CLK_DSEED_SEED]⟩,
  ⟨0x54, 0, 1, [F.CLK_CSTCFG_QUALT]⟩,
  ⟨0x58, 0, 1, [F.CLK_PJCFG_AUTO, F.CLK_PJCFG_SLEWRATE]⟩,
  ⟨0x5c, 0, 1, [F.CLK_PJCMD_STEP, F.CLK_PJCMD_SLEW]⟩,
  ⟨0x60, 0, 1, [F.CLK_PJSTAT_OFFSET, F.CLK_PJSTAT_JUMP]⟩,
  ⟨0x64, 0, 1, [F.CLK_CSTCNT_COASTS, F.CLK_CSTCNT_JUMPS]⟩,
  ⟨0x68, 0, 1, [F.CLK_CSTTIME_MS]⟩,
  ⟨0x6c, 0, 1, [F.CLK_HOFS_FERR]⟩,
  ⟨0x70, 4, 6, [F.CLK_OUTk_EN, F.CLK_OUTk_DIV, F.CLK_OUTk_FDLY]⟩,
  ⟨0x88, 0, 1, [F.CLK_MONSTAT_OUTFAIL]⟩,
  ⟨0x8c, 0, 1, [F.CLK_CCMD_CLRCNT]⟩,
  ⟨0xc0, 0, 1, [F.CLK_DSPREQ_GO, F.CLK_DSPREQ_TARGET]⟩,
  ⟨0xc4, 0, 1, [F.CLK_DSPSTAT_CURRENT, F.CLK_DSPSTAT_TARGET, F.CLK_DSPSTAT_STATE, F.CLK_DSPSTAT_REFUSED, F.CLK_DSPSTAT_ALMV]⟩
  ]

/-- Register map of a BOOT page from offset 0x040. -/
def regMapBoot : List RegEnt := [
  ⟨0x40, 0, 1, [F.BOOT_BSTAT_MODE, F.BOOT_BSTAT_STATE, F.BOOT_BSTAT_SLOT, F.BOOT_BSTAT_SEALED, F.BOOT_BSTAT_PATH, F.BOOT_BSTAT_RUN]⟩,
  ⟨0x44, 0, 1, [F.BOOT_RCAUSE_SWCOLD, F.BOOT_RCAUSE_RESETN, F.BOOT_RCAUSE_PWRON, F.BOOT_RCAUSE_WARM, F.BOOT_RCAUSE_CORE, F.BOOT_RCAUSE_WD]⟩,
  ⟨0x48, 0, 1, [F.BOOT_IMGSTAT_AVALID, F.BOOT_IMGSTAT_BVALID, F.BOOT_IMGSTAT_AOPEN, F.BOOT_IMGSTAT_BOPEN, F.BOOT_IMGSTAT_DOPEN0, F.BOOT_IMGSTAT_DOPEN1, F.BOOT_IMGSTAT_FAILA, F.BOOT_IMGSTAT_FAILB]⟩,
  ⟨0x4c, 0, 1, [F.BOOT_SEQA_SEQ]⟩,
  ⟨0x50, 0, 1, [F.BOOT_SEQB_SEQ]⟩,
  ⟨0x54, 0, 1, [F.BOOT_BTIME_READYT]⟩,
  ⟨0x58, 0, 1, [F.BOOT_BCMD_RUN, F.BOOT_BCMD_SEAL]⟩,
  ⟨0x5c, 0, 1, [F.BOOT_RSTCMD_KEY, F.BOOT_RSTCMD_COLD, F.BOOT_RSTCMD_WARM, F.BOOT_RSTCMD_CORE]⟩,
  ⟨0x60, 0, 1, [F.BOOT_RSTPORT_W, F.BOOT_RSTPORT_E, F.BOOT_RSTPORT_HOST]⟩,
  ⟨0x64, 0, 1, [F.BOOT_RSTCH_GO, F.BOOT_RSTCH_CHAN]⟩,
  ⟨0x68, 0, 1, [F.BOOT_RSTBAY_BAYS]⟩,
  ⟨0x6c, 0, 1, [F.BOOT_WDCFG_EN, F.BOOT_WDCFG_LIMIT, F.BOOT_WDCFG_PERIOD]⟩,
  ⟨0x70, 0, 1, [F.BOOT_WDKICK_CODE]⟩,
  ⟨0x74, 0, 1, [F.BOOT_WDSTAT_CLAMP, F.BOOT_WDSTAT_CONSEC, F.BOOT_WDSTAT_REMAIN]⟩,
  ⟨0x78, 0, 1, [F.BOOT_RCNT_WDEXP, F.BOOT_RCNT_WARMS, F.BOOT_RCNT_CORES, F.BOOT_RCNT_PARTS]⟩
  ]

/-- Register map of a PWR page from offset 0x040. -/
def regMapPwr : List RegEnt := [
  ⟨0x40, 0, 1, [F.PWR_PCFG_MAXST, F.PWR_PCFG_RETEN, F.PWR_PCFG_IDLE]⟩,
  ⟨0x44, 0, 1, [F.PWR_PSTAT_STATE, F.PWR_PSTAT_TARGET, F.PWR_PSTAT_REFUSE, F.PWR_PSTAT_STBY]⟩,
  ⟨0x48, 0, 1, [F.PWR_TOLMIN_UNLIM, F.PWR_TOLMIN_NS]⟩,
  ⟨0x4c, 0, 1, [F.PWR_PCMD_RETAIN]⟩,
  ⟨0x50, 0, 1, [F.PWR_PCNT_WAKES, F.PWR_PCNT_RETS]⟩,
  ⟨0x54, 0, 1, [F.PWR_WAKESRC_KIND, F.PWR_WAKESRC_PORT]⟩
  ]

/-- Register map of a SAFE page from offset 0x040. -/
def regMapSafe : List RegEnt := [
  ⟨0x40, 0, 1, [F.SAFE_SCFG_KPACT, F.SAFE_SCFG_TWARN]⟩,
  ⟨0x44, 0, 1, [F.SAFE_SSTAT_STATE, F.SAFE_SSTAT_FNDRV, F.SAFE_SSTAT_FNRB, F.SAFE_SSTAT_LASTMECH]⟩,
  ⟨0x48, 0, 1, [F.SAFE_FCAUSE_MECH, F.SAFE_FCAUSE_PAGE, F.SAFE_FCAUSE_EVTBIT]⟩,
  ⟨0x4c, 0, 1, [F.SAFE_SCAN_PASSES, F.SAFE_SCAN_LASTUS]⟩,
  ⟨0x50, 0, 1, [F.SAFE_LTCFG_PERIOD]⟩,
  ⟨0x54, 0, 1, [F.SAFE_LTSTAT_FAIL, F.SAFE_LTSTAT_OVERDUE, F.SAFE_LTSTAT_AGE]⟩,
  ⟨0x58, 0, 1, [F.SAFE_LOGSTAT_ENTRIES, F.SAFE_LOGSTAT_LOST, F.SAFE_LOGSTAT_LASTSEQ]⟩,
  ⟨0x5c, 0, 1, [F.SAFE_LOGSEL_ENTRY, F.SAFE_LOGSEL_WORD]⟩,
  ⟨0x60, 0, 1, [F.SAFE_LOGDATA_DATA]⟩,
  ⟨0x64, 0, 1, [F.SAFE_TEMP_TMAX, F.SAFE_TEMP_SENSOR]⟩,
  ⟨0x68, 0, 1, [F.SAFE_FCNT_PORT, F.SAFE_FCNT_CHAN, F.SAFE_FCNT_GROUP, F.SAFE_FCNT_SAFE]⟩,
  ⟨0x6c, 0, 1, [F.SAFE_SCMD_KEY, F.SAFE_SCMD_LTRUN, F.SAFE_SCMD_ENTER, F.SAFE_SCMD_CLRCNT]⟩
  ]

/-- Register map of a FLSH page from offset 0x040. -/
def regMapFlsh : List RegEnt := [
  ⟨0x40, 0, 1, [F.FLSH_FCFG_CREN0, F.FLSH_FCFG_CREN1, F.FLSH_FCFG_AUTOSUSP, F.FLSH_FCFG_ROTLOW, F.FLSH_FCFG_WEAKTHR]⟩,
  ⟨0x44, 0, 1, [F.FLSH_FSTAT_BUSY0, F.FLSH_FSTAT_BUSY1, F.FLSH_FSTAT_SUSP0, F.FLSH_FSTAT_SUSP1, F.FLSH_FSTAT_OP0, F.FLSH_FSTAT_OP1]⟩,
  ⟨0x48, 0, 1, [F.FLSH_RWADDR_ADDR]⟩,
  ⟨0x4c, 0, 1, [F.FLSH_RWDATA_DATA]⟩,
  ⟨0x50, 0, 1, [F.FLSH_RWSTAT_UNCOR, F.FLSH_RWSTAT_WEAK, F.FLSH_RWSTAT_RANGE, F.FLSH_RWSTAT_CBITS]⟩,
  ⟨0x54, 0, 1, [F.FLSH_MCMD_OP]⟩,
  ⟨0x58, 0, 1, [F.FLSH_MADDR_ADDR]⟩,
  ⟨0x5c, 0, 1, [F.FLSH_MSTAT_BUSY, F.FLSH_MSTAT_RESULT, F.FLSH_MSTAT_CBITS, F.FLSH_MSTAT_OP]⟩,
  ⟨0x60, 4, 2, [F.FLSH_WINd_HEAD, F.FLSH_WINd_TAIL, F.FLSH_WINd_FREE, F.FLSH_WINd_RETIRED]⟩,
  ⟨0x68, 0, 1, [F.FLSH_CELLSEL_SECTOR]⟩,
  ⟨0x6c, 0, 1, [F.FLSH_CELL0_WORD]⟩,
  ⟨0x70, 0, 1, [F.FLSH_CELL1_GEN]⟩,
  ⟨0x74, 0, 1, [F.FLSH_FCNT_WEAKS, F.FLSH_FCNT_UNCORS, F.FLSH_FCNT_RETIRES]⟩,
  ⟨0x78, 0, 1, [F.FLSH_FCMD_CLRCNT]⟩,
  ⟨0x100, 4, 64, [F.FLSH_MBUFk_DATA]⟩
  ]

/-- Register map of a SBND page from offset 0x040. -/
def regMapSbnd : List RegEnt := [
  ⟨0x40, 0, 1, [F.SBND_SCFG_PECREQ]⟩,
  ⟨0x44, 0, 1, [F.SBND_STIM_THOLD, F.SBND_STIM_FILT]⟩,
  ⟨0x48, 0, 1, [F.SBND_TOUT_SCLTO, F.SBND_TOUT_SDATO]⟩,
  ⟨0x4c, 0, 1, [F.SBND_SSTAT_STATE, F.SBND_SSTAT_SA, F.SBND_SSTAT_HELD, F.SBND_SSTAT_NAKCAUSE]⟩,
  ⟨0x50, 0, 1, [F.SBND_ERRCNT_PROTO, F.SBND_ERRCNT_PEC, F.SBND_ERRCNT_DENIED, F.SBND_ERRCNT_BUSY]⟩,
  ⟨0x54, 0, 1, [F.SBND_XCNT_WR, F.SBND_XCNT_RD]⟩,
  ⟨0x58, 0, 1, [F.SBND_SACC_WREN, F.SBND_SACC_MBOX]⟩,
  ⟨0x5c, 0, 1, [F.SBND_SCMD_CLRCNT]⟩
  ]

/-- Register map of a PROT page from offset 0x040. -/
def regMapProt : List RegEnt := [
  ⟨0x100, 4, 256, [F.PROT_MRIGHT]⟩,
  ⟨0x500, 4, 256, [F.PROT_RRIGHT]⟩,
  ⟨0x900, 4, 16, [F.PROT_ROUTEx_PORT]⟩
  ]

/-- Register map of a VEC page from offset 0x040. -/
def regMapVec : List RegEnt := [
  ⟨0x40, 0, 1, [F.VEC_SEL_VECTOR]⟩,
  ⟨0x44, 0, 1, [F.VEC_VADDRL_ADDR]⟩,
  ⟨0x48, 0, 1, [F.VEC_VADDRH_ADDR]⟩,
  ⟨0x4c, 0, 1, [F.VEC_VDATA_DATA]⟩,
  ⟨0x50, 0, 1, [F.VEC_VCTL_MASK, F.VEC_VCTL_TIMEV, F.VEC_VCTL_PENDING, F.VEC_VCTL_INFLIGHT, F.VEC_VCTL_GATHER, F.VEC_VCTL_DPORT]⟩,
  ⟨0x54, 0, 1, [F.VEC_VMOD_BATCH, F.VEC_VMOD_HOLD, F.VEC_VMOD_GAP]⟩,
  ⟨0x58, 0, 1, [F.VEC_VLTL_TIME]⟩,
  ⟨0x5c, 0, 1, [F.VEC_VLTH_TIME]⟩,
  ⟨0x60, 0, 1, [F.VEC_VCMD_FIRE, F.VEC_VCMD_CLRPEND]⟩,
  ⟨0x80, 4, 16, [F.VEC_VPENDk_PEND]⟩
  ]

/-- Register map of a TIME page from offset 0x040. -/
def regMapTime : List RegEnt := [
  ⟨0x40, 0, 1, [F.TIME_TCFG_ROLE, F.TIME_TCFG_UPRING, F.TIME_TCFG_FSYNC, F.TIME_TCFG_DSEL, F.TIME_TCFG_BIGACT, F.TIME_TCFG_DOMAIN, F.TIME_TCFG_SYNCINT]⟩,
  ⟨0x44, 0, 1, [F.TIME_TSTAT_STATE, F.TIME_TSTAT_VALE, F.TIME_TSTAT_VALW, F.TIME_TSTAT_STEPE, F.TIME_TSTAT_STEPW, F.TIME_TSTAT_EPOK, F.TIME_TSTAT_HOPS, F.TIME_TSTAT_AGREE]⟩,
  ⟨0x48, 0, 1, [F.TIME_NOWL_TIME]⟩,
  ⟨0x4c, 0, 1, [F.TIME_NOWH_TIME]⟩,
  ⟨0x50, 0, 1, [F.TIME_SETL_TIME]⟩,
  ⟨0x54, 0, 1, [F.TIME_SETH_TIME]⟩,
  ⟨0x58, 0, 1, [F.TIME_PERL_PERIOD]⟩,
  ⟨0x5c, 0, 1, [F.TIME_PERH_PERIOD]⟩,
  ⟨0x60, 0, 1, [F.TIME_EPOCH_NUMBER]⟩,
  ⟨0x64, 0, 1, [F.TIME_PTIMEL_TIME]⟩,
  ⟨0x68, 0, 1, [F.TIME_PTIMEH_TIME]⟩,
  ⟨0x6c, 0, 1, [F.TIME_OFSE_THETA]⟩,
  ⟨0x70, 0, 1, [F.TIME_OFSW_THETA]⟩,
  ⟨0x74, 0, 1, [F.TIME_SLEW_RATE]⟩,
  ⟨0x78, 0, 1, [F.TIME_FSDLY_DELAY]⟩,
  ⟨0x7c, 0, 1, [F.TIME_TCMD_CLRCNT, F.TIME_TCMD_SET, F.TIME_TCMD_EPADOPT, F.TIME_TCMD_STEP, F.TIME_TCMD_SLEW, F.TIME_TCMD_RESUME]⟩,
  ⟨0x80, 0, 1, [F.TIME_TCNT_PSTEPS, F.TIME_TCNT_ASYMS, F.TIME_TCNT_LOSSES, F.TIME_TCNT_BIGS]⟩
  ]

/-- Register map of a RGN page from offset 0x040. -/
def regMapRgn : List RegEnt := [
  ⟨0x40, 0, 1, [F.RGN_SEL_REGION]⟩,
  ⟨0x44, 0, 1, [F.RGN_RBASE_BASE]⟩,
  ⟨0x48, 0, 1, [F.RGN_RSIZE_SIZE]⟩,
  ⟨0x4c, 0, 1, [F.RGN_RATTR_WRITER, F.RGN_RATTR_COPIES, F.RGN_RATTR_KP, F.RGN_RATTR_PINNED, F.RGN_RATTR_AGED]⟩,
  ⟨0x50, 0, 1, [F.RGN_RPIN_BAYSET, F.RGN_RPIN_MBAY, F.RGN_RPIN_PBAY, F.RGN_RPIN_RESOFF]⟩,
  ⟨0x54, 0, 1, [F.RGN_RSTALE_PATTERN]⟩,
  ⟨0x58, 0, 1, [F.RGN_RSTAT_KPSTATE, F.RGN_RSTAT_NPEND, F.RGN_RSTAT_VIS, F.RGN_RSTAT_PEND, F.RGN_RSTAT_WRT, F.RGN_RSTAT_WRTV, F.RGN_RSTAT_INIT, F.RGN_RSTAT_EN, F.RGN_RSTAT_OLDPINS]⟩,
  ⟨0x5c, 0, 1, [F.RGN_RLATE_COUNT]⟩,
  ⟨0x60, 0, 1, [F.RGN_RSKIP_COUNT]⟩,
  ⟨0x64, 0, 1, [F.RGN_RCMD_CLRCNT, F.RGN_RCMD_DISABLE, F.RGN_RCMD_ENABLE]⟩,
  ⟨0x80, 0, 1, [F.RGN_MEMCFG_K, F.RGN_MEMCFG_S, F.RGN_MEMCFG_N]⟩,
  ⟨0x84, 0, 1, [F.RGN_SPLIT_RESERVE]⟩,
  ⟨0x88, 0, 1, [F.RGN_MEMSIZE_SIZE]⟩,
  ⟨0x8c, 0, 1, [F.RGN_ISIZE_SIZE]⟩,
  ⟨0x90, 0, 1, [F.RGN_SLOTSEL_SLOT]⟩,
  ⟨0x94, 0, 1, [F.RGN_SLOT_VALID, F.RGN_SLOT_CHAN, F.RGN_SLOT_ORD]⟩,
  ⟨0x98, 0, 1, [F.RGN_KPSUM_UNITS]⟩
  ]

/-- Register map of a EPCH page from offset 0x040. -/
def regMapEpch : List RegEnt := [
  ⟨0x40, 0, 1, [F.EPCH_GUARD_US]⟩,
  ⟨0x44, 0, 1, [F.EPCH_BLANK_US]⟩,
  ⟨0x48, 0, 1, [F.EPCH_ESTAT_INBLANK, F.EPCH_ESTAT_PASTDL, F.EPCH_ESTAT_GUARDNOW, F.EPCH_ESTAT_BLANKNOW]⟩,
  ⟨0x4c, 0, 1, [F.EPCH_LATE_COUNT]⟩,
  ⟨0x50, 0, 1, [F.EPCH_SKIP_COUNT]⟩,
  ⟨0x54, 0, 1, [F.EPCH_FLIPS_COUNT]⟩,
  ⟨0x58, 0, 1, [F.EPCH_ECMD_CLRCNT]⟩
  ]

/-- The lane and transaction registers of a host port or ring port page (R310). -/
def regMapLink : List RegEnt := [
  ⟨0x40, 0, 1, [F.HP_LCFG_ENABLE, F.HP_LCFG_AUTOWIDEN, F.HP_LCFG_RATE, F.HP_LCFG_MINWIDTH, F.HP_LCFG_PCREQ]⟩,
  ⟨0x44, 0, 1, [F.HP_LTRAIN_STATE, F.HP_LTRAIN_ATTEMPT, F.HP_LTRAIN_FAILPH, F.HP_LTRAIN_RATE, F.HP_LTRAIN_WIDTH]⟩,
  ⟨0x48, 0, 1, [F.HP_LLISTEN_PERIOD]⟩,
  ⟨0x4c, 0, 1, [F.HP_LANES_ACTIVE, F.HP_LANES_RETIRED, F.HP_LANES_FAILED, F.HP_LANES_PCTX]⟩,
  ⟨0x50, 0, 1, [F.HP_LRET_RETRYMAX, F.HP_LRET_RETRYPER, F.HP_LRET_SOAK]⟩,
  ⟨0x54, 0, 1, [F.HP_ALGN_WIN, F.HP_ALGN_BUSY, F.HP_ALGN_DROP, F.HP_ALGN_SLIP, F.HP_ALGN_MATCH]⟩,
  ⟨0x58, 0, 1, [F.HP_LCNT_RETIRES, F.HP_LCNT_WIDENS, F.HP_LCNT_RETRAINS, F.HP_LCNT_LRETRY]⟩,
  ⟨0x5c, 0, 1, [F.HP_LCMD_RETRAIN, F.HP_LCMD_CLRCNT]⟩,
  ⟨0x80, 0, 1, [F.HP_XCFG_RPLTO, F.HP_XCFG_RPLMAX, F.HP_XCFG_ACKDLY]⟩,
  ⟨0x84, 0, 1, [F.HP_XSTAT_TAGS, F.HP_XSTAT_RPLOCC]⟩,
  ⟨0x88, 0, 1, [F.HP_XCRDP_PHDR, F.HP_XCRDP_PDAT]⟩,
  ⟨0x8c, 0, 1, [F.HP_XCNT1_REPLAYS, F.HP_XCNT1_NAKSENT]⟩,
  ⟨0x90, 0, 1, [F.HP_XFECU_COUNT]⟩,
  ⟨0x94, 0, 1, [F.HP_XCRCE_COUNT]⟩,
  ⟨0x98, 0, 1, [F.HP_XSTS1_DENIED, F.HP_XSTS1_UNSUP]⟩,
  ⟨0x9c, 0, 1, [F.HP_XSTS2_DISC, F.HP_XSTS2_BUSY]⟩,
  ⟨0xa0, 0, 1, [F.HP_XPDROP_POST, F.HP_XPDROP_DBELL]⟩,
  ⟨0xa4, 0, 1, [F.HP_XCMD_CLRCNT]⟩,
  ⟨0x100, 32, 8, [F.HP_LyCTL_TXPRE, F.HP_LyCTL_TXPAT, F.HP_LyCTL_RXCHK, F.HP_LyCTL_TESTPC, F.HP_LyCTL_INJECT]⟩,
  ⟨0x104, 32, 8, [F.HP_LySTAT_LOCK, F.HP_LySTAT_SIGDET, F.HP_LySTAT_ALIGNED, F.HP_LySTAT_PCRX, F.HP_LySTAT_CHKLOCK, F.HP_LySTAT_USE, F.HP_LySTAT_SLIPS, F.HP_LySTAT_SKEW, F.HP_LySTAT_PRE, F.HP_LySTAT_POST]⟩,
  ⟨0x108, 32, 8, [F.HP_LyBERR_COUNT]⟩,
  ⟨0x10c, 32, 8, [F.HP_LySERR_COUNT]⟩,
  ⟨0x110, 32, 8, [F.HP_LyFECC_COUNT]⟩,
  ⟨0x114, 32, 8, [F.HP_LyLOSS_LOL, F.HP_LyLOSS_RELOCK]⟩
  ]

/-- Register map of a HP page from offset 0x040. -/
def regMapHp : List RegEnt := regMapLink ++ [
  ⟨0x200, 0, 1, [F.HP_LTOL_EN, F.HP_LTOL_SCALE, F.HP_LTOL_VALUE]⟩,
  ⟨0x204, 0, 1, [F.HP_PSBY_LEVEL, F.HP_PSBY_REFUSED, F.HP_PSBY_ENTRIES]⟩
  ]

/-- Register map of a BAY page from offset 0x040. -/
def regMapBay : List RegEnt := [
  ⟨0x40, 0, 1, [F.BAY_BSTAT_PRESENT, F.BAY_BSTAT_FAILED, F.BAY_BSTAT_INRESET, F.BAY_BSTAT_PHYGATED]⟩,
  ⟨0x44, 0, 1, [F.BAY_BCNT_RESETS, F.BAY_BCNT_FAULTS]⟩
  ]

/-- Register map of a CH page from offset 0x040. -/
def regMapCh : List RegEnt := [
  ⟨0x40, 0, 1, [F.CH_CINFO_RATE, F.CH_CINFO_RANKS, F.CH_CINFO_DENSITY, F.CH_CINFO_BGMODE, F.CH_CINFO_UBLK]⟩,
  ⟨0x44, 0, 1, [F.CH_CSTAT_STATE, F.CH_CSTAT_RFMULT, F.CH_CSTAT_DRAIN, F.CH_CSTAT_HOLD, F.CH_CSTAT_RDQ, F.CH_CSTAT_WRQ]⟩,
  ⟨0x48, 0, 1, [F.CH_WQWM_HIGH, F.CH_WQWM_LOW]⟩,
  ⟨0x4c, 0, 1, [F.CH_QLIM_BULKR, F.CH_QLIM_BULKW]⟩,
  ⟨0x50, 0, 1, [F.CH_RFCFG_PBEN, F.CH_RFCFG_PULLIN, F.CH_RFCFG_IDLEPULL, F.CH_RFCFG_STEER]⟩,
  ⟨0x54, 0, 1, [F.CH_RFSTAT_CREDIT, F.CH_RFSTAT_MINCRED]⟩,
  ⟨0x58, 0, 1, [F.CH_RFINTR_COUNT]⟩,
  ⟨0x5c, 0, 1, [F.CH_RFHOLD_COUNT]⟩,
  ⟨0x60, 0, 1, [F.CH_SCRCFG_EN, F.CH_SCRCFG_PERIOD]⟩,
  ⟨0x64, 0, 1, [F.CH_SCRPOS_PASSES, F.CH_SCRPOS_POS]⟩,
  ⟨0x68, 0, 1, [F.CH_CALCFG_ZQPER, F.CH_CALCFG_OSCPER, F.CH_CALCFG_OSCTHR, F.CH_CALCFG_TRKMAX]⟩,
  ⟨0x6c, 0, 1, [F.CH_PDCFG_IDLE]⟩,
  ⟨0x70, 0, 1, [F.CH_ECFG_KPDET, F.CH_ECFG_AUTORD, F.CH_ECFG_PPRTHR, F.CH_ECFG_FAILTHR]⟩,
  ⟨0x74, 0, 1, [F.CH_CECNT_COUNT]⟩,
  ⟨0x78, 0, 1, [F.CH_UECNT_COUNT]⟩,
  ⟨0x7c, 0, 1, [F.CH_HAZCNT_HAZARD, F.CH_HAZCNT_DRAINS]⟩,
  ⟨0x80, 0, 1, [F.CH_RDSEL_ENTRY]⟩,
  ⟨0x84, 0, 1, [F.CH_RDENT_VALID, F.CH_RDENT_PEND, F.CH_RDENT_SPARE, F.CH_RDENT_RANK, F.CH_RDENT_BANK, F.CH_RDENT_ROW]⟩,
  ⟨0x90, 0, 1, [F.CH_SNRD_COUNT]⟩,
  ⟨0x94, 0, 1, [F.CH_SNWR_COUNT]⟩,
  ⟨0x98, 0, 1, [F.CH_SNRT_COUNT]⟩,
  ⟨0x9c, 0, 1, [F.CH_SNEP_EPOCH]⟩,
  ⟨0xa0, 0, 1, [F.CH_CCMD_SNAP, F.CH_CCMD_CLRCNT]⟩,
  ⟨0x100, 0, 1, [F.CH_TRSTAT_CAUSE, F.CH_TRSTAT_STEP, F.CH_TRSTAT_PATH, F.CH_TRSTAT_FSP]⟩,
  ⟨0x104, 0, 1, [F.CH_TRCNT_FULL, F.CH_TRCNT_FAST, F.CH_TRCNT_SHORT, F.CH_TRCNT_ABANDON]⟩,
  ⟨0x108, 0, 1, [F.CH_PGCTL_MODE, F.CH_PGCTL_ULEN, F.CH_PGCTL_INVERT]⟩,
  ⟨0x10c, 0, 1, [F.CH_PGSEED_SEED]⟩,
  ⟨0x110, 0, 1, [F.CH_URSEL_INDEX]⟩,
  ⟨0x114, 0, 1, [F.CH_URDATA_BEAT]⟩,
  ⟨0x118, 0, 1, [F.CH_SWCTL_KIND, F.CH_SWCTL_RANK, F.CH_SWCTL_OP, F.CH_SWCTL_SEL, F.CH_SWCTL_STEP, F.CH_SWCTL_BURSTS]⟩,
  ⟨0x11c, 0, 1, [F.CH_SWRANGE_STOP, F.CH_SWRANGE_START]⟩,
  ⟨0x120, 0, 1, [F.CH_SWCMD_ABORT, F.CH_SWCMD_GO]⟩,
  ⟨0x124, 0, 1, [F.CH_SWSTAT_BUSY, F.CH_SWSTAT_TRUNC, F.CH_SWSTAT_NPTS]⟩,
  ⟨0x128, 0, 1, [F.CH_SWRSEL_POINT]⟩,
  ⟨0x12c, 0, 1, [F.CH_SWRES_FAIL]⟩,
  ⟨0x130, 4, 9, [F.CH_BERRk_ODD, F.CH_BERRk_EVEN]⟩,
  ⟨0x154, 0, 1, [F.CH_DLYSEL_KIND, F.CH_DLYSEL_RANK, F.CH_DLYSEL_SEL]⟩,
  ⟨0x158, 0, 1, [F.CH_DLYVAL_VALUE]⟩
  ]

/-- Register map of a JG page from offset 0x040. -/
def regMapJg : List RegEnt := [
  ⟨0x40, 0, 1, [F.JG_JSTAT_BUSY, F.JG_JSTAT_STATE, F.JG_JSTAT_JOBS]⟩,
  ⟨0x44, 0, 1, [F.JG_FENCE_PAIRS]⟩,
  ⟨0x48, 0, 1, [F.JG_TLSRC_BLOCK]⟩,
  ⟨0x4c, 0, 1, [F.JG_TLCMD_GO, F.JG_TLCMD_BUSY, F.JG_TLCMD_SETV, F.JG_TLCMD_TSET]⟩,
  ⟨0x50, 0, 1, [F.JG_TVALID_SETS]⟩,
  ⟨0x54, 0, 1, [F.JG_TWSEL_TSET, F.JG_TWSEL_PRIM, F.JG_TWSEL_INDEX]⟩,
  ⟨0x58, 0, 1, [F.JG_TWDATA_ENTRY]⟩,
  ⟨0x5c, 0, 1, [F.JG_JCMD_PAIR, F.JG_JCMD_CLRCNT, F.JG_JCMD_UNFENCE, F.JG_JCMD_CINVAL]⟩,
  ⟨0x60, 0, 1, [F.JG_CACHE_ENTRIES, F.JG_CACHE_RECORDS]⟩,
  ⟨0x64, 0, 1, [F.JG_JCNT_DONE, F.JG_JCNT_DISC]⟩,
  ⟨0x68, 0, 1, [F.JG_FCNT_LSMISM, F.JG_FCNT_LSUNC, F.JG_FCNT_TPAR]⟩,
  ⟨0x6c, 0, 1, [F.JG_CCNT_HIT, F.JG_CCNT_MISS]⟩,
  ⟨0x100, 16, 16, [F.JG_RCFGr_VALID, F.JG_RCFGr_TSET, F.JG_RCFGr_DMODE, F.JG_RCFGr_PACK, F.JG_RCFGr_SFMT]⟩,
  ⟨0x104, 16, 16, [F.JG_RSTRIDEr_STRIDE]⟩,
  ⟨0x108, 16, 16, [F.JG_RPFILLr_P2, F.JG_RPFILLr_P1, F.JG_RPFILLr_P0]⟩
  ]

/-- Register map of a WQ page from offset 0x040. -/
def regMapWq : List RegEnt := [
  ⟨0x100, 64, 16, [F.WQ_QBASE_BLOCK]⟩,
  ⟨0x104, 64, 16, [F.WQ_QCBASE_BLOCK]⟩,
  ⟨0x108, 64, 16, [F.WQ_QCFG_OWNER, F.WQ_QCFG_JG, F.WQ_QCFG_SIZE, F.WQ_QCFG_DEPTH, F.WQ_QCFG_PRIO]⟩,
  ⟨0x10c, 64, 16, [F.WQ_QCTL_CLRCNT, F.WQ_QCTL_ABORT, F.WQ_QCTL_DISABLE, F.WQ_QCTL_ENABLE]⟩,
  ⟨0x110, 64, 16, [F.WQ_QPIDX_PIDX]⟩,
  ⟨0x114, 64, 16, [F.WQ_QSTAT_STATE, F.WQ_QSTAT_INPROG, F.WQ_QSTAT_CAUSE]⟩,
  ⟨0x118, 64, 16, [F.WQ_QIDX_FETCH, F.WQ_QIDX_RETIRED]⟩,
  ⟨0x11c, 64, 16, [F.WQ_QCNT_DONE, F.WQ_QCNT_DISC]⟩
  ]

/-- Register map of the RING_W page from offset 0x040 (R310). -/
def regMapRingW : List RegEnt := regMapLink ++ [
  ⟨0x200, 0, 1, [F.RING_RCFG_SPLIT]⟩,
  ⟨0x204, 0, 1, [F.RING_BTRAIN_STATE, F.RING_BTRAIN_ATTEMPT, F.RING_BTRAIN_FAILPH, F.RING_BTRAIN_RATE, F.RING_BTRAIN_WIDTH]⟩,
  ⟨0x208, 0, 1, [F.RING_LASYMA_PS]⟩,
  ⟨0x20c, 0, 1, [F.RING_LASYMB_PS]⟩,
  ⟨0x210, 0, 1, [F.RING_RTA_UNITS]⟩,
  ⟨0x214, 0, 1, [F.RING_RTB_UNITS]⟩,
  ⟨0x218, 0, 1, [F.RING_NBRL_ID]⟩,
  ⟨0x21c, 0, 1, [F.RING_NBRH_ID]⟩
  ]

/-- Register map of the RING_E page from offset 0x040: handover and mirror registers exist here only (R310). -/
def regMapRing : List RegEnt := regMapRingW ++ [
  ⟨0x220, 0, 1, [F.RING_HOCFG_PORTS, F.RING_HOCFG_FINAL, F.RING_HOCFG_MAXPOST, F.RING_HOCFG_LINKTO]⟩,
  ⟨0x224, 0, 1, [F.RING_HOCMD_ABORT, F.RING_HOCMD_ARM, F.RING_HOCMD_START]⟩,
  ⟨0x228, 0, 1, [F.RING_HOSTAT_STATE, F.RING_HOSTAT_CAUSE, F.RING_HOSTAT_PASS, F.RING_HOSTAT_POSTPONES]⟩,
  ⟨0x22c, 0, 1, [F.RING_HODIRTY_COUNT]⟩,
  ⟨0x240, 0, 1, [F.RING_MSEL_ENTRY]⟩,
  ⟨0x244, 0, 1, [F.RING_MCFG_EN, F.RING_MCFG_ROLE, F.RING_MCFG_PREG, F.RING_MCFG_LREG]⟩,
  ⟨0x248, 0, 1, [F.RING_MSTAT_STATE, F.RING_MSTAT_DETACHES]⟩
  ]

/-- The EVT bits that each kind of page defines (the others are RSV, R427). -/
abbrev evtMaskDev : Word := 0x3
abbrev evtMaskClk : Word := 0xf0000fff
abbrev evtMaskBoot : Word := 0x1ff
abbrev evtMaskPwr : Word := 0xf
abbrev evtMaskSafe : Word := 0x3ff
abbrev evtMaskFlsh : Word := 0x3f
abbrev evtMaskSbnd : Word := 0x1ff
abbrev evtMaskProt : Word := 0x0
abbrev evtMaskVec : Word := 0x3
abbrev evtMaskTime : Word := 0xfff
abbrev evtMaskRgn : Word := 0x1ff
abbrev evtMaskEpch : Word := 0xf
abbrev evtMaskHp : Word := 0x1ffff
abbrev evtMaskBay : Word := 0x3
abbrev evtMaskCh : Word := 0xfff
abbrev evtMaskJg : Word := 0xff
abbrev evtMaskWq : Word := 0xffffffff
abbrev evtMaskRing : Word := 0x7fffff
abbrev evtMaskRingW : Word := 0x3ffff

end Sys2Proof.Machine
end

