-- ==== Sys2Proof/Machine/Tab.lean ====
section
/-!
DEFINITION. Sparse tables of plain data: a list of (key, value) pairs sorted by key. A key that is not listed holds the
table's default, which the reader names.
-/

namespace Sys2Proof.Machine

/-- A sparse table. -/
abbrev Tab (α : Type) := List (Nat × α)

/-- The value at `k`, `d` when it is not listed. -/
def tget {α : Type} (d : α) : Tab α → Nat → α
  | [], _ => d
  | (a, v) :: t, k => if a = k then v else tget d t k

/-- The table with `v` at `k`. -/
def tset {α : Type} : Tab α → Nat → α → Tab α
  | [], k, v => [(k, v)]
  | (a, w) :: t, k, v =>
    if k < a then (k, v) :: (a, w) :: t
    else if k = a then (k, v) :: t
    else (a, w) :: tset t k v

/-- The table without an entry at `k`. -/
def tdel {α : Type} : Tab α → Nat → Tab α
  | [], _ => []
  | (a, w) :: t, k => if a = k then tdel t k else (a, w) :: tdel t k

/-- Store `v` at `k` in canonical form: nothing is listed at `k` when `v` is what an unlisted key reads as. -/
def cset {α : Type} [DecidableEq α] (t : Tab α) (k : Nat) (d v : α) : Tab α :=
  if v = d then tdel t k else tset (tdel t k) k v

/-- Is the key listed? -/
def thas {α : Type} (t : Tab α) (k : Nat) : Bool :=
  t.any (fun e => e.1 == k)

/-- Entry `i` of a list of defaults: replace the `i`-th element, extending the list with `d` where it is shorter. -/
def lset {α : Type} (d : α) : List α → Nat → α → List α
  | [], 0, v => [v]
  | [], i + 1, v => d :: lset d [] i v
  | _ :: t, 0, v => v :: t
  | a :: t, i + 1, v => a :: lset d t i v

end Sys2Proof.Machine
end

