-- ==== Sys2Proof/Machine/State.lean ====
section
/-!
DEFINITION. The state of the block: plain data. Every structure gives each field its reset value; `State.reset` is the
machine with every field at it.
-/

namespace Sys2Proof.Machine

/-- Why the machine stops with a fault. -/
inductive Fault where
  /-- A bus fault of the management core: an access to a reserved page (R425, Table 16-1) or a read of a busy flash bank (R356).
  Raised by the register accesses of source `core`. Safe: the manual names this outcome and gives no further effect. -/
  | busFault (addr : RegAddr)
deriving DecidableEq, Repr

/-- Why the machine refuses a command. -/
inductive Refusal where
  /-- The command has no meaning in the model yet. Raised by `exec` only. Safe: nothing can be proved of it. -/
  | notModelled (mnemonic : String)
deriving DecidableEq, Repr

/-- Traffic classes (Table 1-3), lowest priority first in `TClass.rank`. -/
inductive TClass where
  | bg | bulk | rt | kp
deriving DecidableEq, Repr

/-- Status codes (Table 4-6). -/
inductive Status where
  | ok | stale | discarded | poisoned | denied | unsupported | busy
deriving DecidableEq, Repr

/-- The common header of a page (R427, Tables 16-2 and 16-3). -/
structure PageHdr where
  evt : Word := 0
  evtEn : Word := 0
  cap0 : Word := 0
  cap1 : Word := 0
  evtCnt : Nat := 0
  denies : Nat := 0
deriving DecidableEq, Repr

/-! ### The frame store -/

/-- A block record (Table 7-7). AGED is set when the block's region is enabled and stands until it is disabled, so it is that of the
region (`agedAt`). `bad` says that the record's line holds a poison codeword since a parity error of the record cache (R332). -/
structure Rec where
  tag : Word := 0
  lw : BitVec 64 := 0
  ancient : Bool := true
  bad : Bool := false
deriving DecidableEq, Repr

/-- What one copy of an epoch-buffered region is for (Table 2-3). -/
inductive Role where
  | visible | pending | writable | idle
deriving DecidableEq, Repr

/-- One copy of a region (R44 to R54). `ord` numbers the accepted commit that completed its content, `base` the one that had
completed it when it was opened for writing; `none` stands for the zeros of R41. -/
structure Copy where
  role : Role := .idle
  ec : Word := 0
  acceptedAt : Nat := 0
  ffDone : Bool := false
  touch : Bool := false
  late : Bool := false
  ord : Option Nat := none
  base : Option Nat := none
  pins : Nat := 0
deriving DecidableEq, Repr

/-- King-post states (R67). -/
inductive KpState where
  | dual | single | resync
deriving DecidableEq, Repr

/-- A region-table entry (Table 2-2, Table 2-12). `toCopy` lists the lines that the copy of RESYNC has still to make, as copy, block and
line, line 64 standing for the block record; `none` before it has begun. -/
structure Region where
  base : Nat := 0
  size : Nat := 0
  copies : Nat := 1
  kp : Bool := false
  pinned : Bool := false
  aged : Bool := false
  writer : Nat := 0
  bayset : BitVec 8 := 0
  mbay : Nat := 0
  pbay : Nat := 0
  resoff : Nat := 0
  stale : Word := 0
  en : Bool := false
  init : Bool := false
  cps : List Copy := []
  nextOrd : Nat := 0
  frame : Option (BitVec 16) := none
  kpState : KpState := .dual
  kpLost : Bool := false
  toCopy : Option (List (Nat × Nat × Nat)) := none
  rlate : Nat := 0
  rskip : Nat := 0
deriving DecidableEq, Repr

/-- Who a commit belongs to: `gone` when its port left ACTIVE and its completion has been settled (R76, R143). -/
inductive CommitSrc where
  | host (port tag : Nat)
  | queue (q idx : Nat)
  | gone
deriving DecidableEq, Repr

/-- A commit that has passed its checks and waits to be accepted (R48), or is accepted and waits for fill-forward (R52). `tracked` says that
it holds an entry of its port's tracker (R137). -/
structure Commit where
  src : CommitSrc
  port : Nat
  region : Nat
  touch : Bool
  frame : BitVec 16
  seq : Nat
  accepted : Bool := false
  copy : Option Nat := none
  ec : Word := 0
  fill : List (Nat × Nat) := []
  tracked : Bool := false
deriving DecidableEq, Repr

/-! ### Accesses and channels -/

/-- Who issued an access (R13): a host port; a descriptor fetch; a fetch of the joiner or pair `unit` of a group; the source of a COPY;
a table load; the output of a descriptor, with the chunk (or the first line of a piece) and the byte in it; a KPW with the ring link it
came in on, its number and its tag; a handover block. -/
inductive AccSrc where
  | hostNP (port tag : Nat)
  | hostPost (port : Nat)
  | descr (queue : Nat)
  | chunk (group unit : Nat)
  | move (queue idx : Nat)
  | table (group : Nat)
  | out (queue idx chunk off : Nat)
  | kpw (link seq : Nat) (tag : Word)
  | hodata
deriving DecidableEq, Repr

/-- How far an access has come: waiting at its ordering point (R13), passed it, or, for a unit of the device, refused there with a
DETAIL. -/
inductive AccPhase where
  | waiting | passed | refused (detail : Nat)
deriving DecidableEq, Repr

/-- One codeword read from DRAM: footprint, line of the access, 64 data bytes and 4 check bytes. -/
structure Got where
  mirror : Bool
  line : Nat
  data : List Byte
  chk : List Byte
deriving DecidableEq, Repr

/-- A memory access; `kp` says that its region is king-post. `chosen` says that a job or a message chose the copy (and a job the epoch)
beforehand; `recs` holds, by footprint, the 64 bytes of the block's record line as the read passed, `feet` where its footprints lie;
`recIn` the record that is stored with a handover block; `lapped` the lines that a later write has passed since this read did, or all when
its region has been disabled since; `tracked` that it holds an entry of its port's tracker (R137); `poison` the lines of a write that are
poison codewords. -/
structure Acc where
  id : Nat
  src : AccSrc
  write : Bool
  cls : TClass
  kp : Bool
  addr : Nat
  lines : Nat
  maxage : Nat
  region : Nat
  data : List (List Byte)
  phase : AccPhase := .waiting
  chosen : Bool := false
  copy : Nat := 0
  epoch : Word := 0
  got : List Got := []
  pinned : Bool := false
  recs : List (Bool × List Byte) := []
  feet : List (Bool × Nat × Nat) := []
  recIn : Option (List Byte) := none
  lapped : List Nat := []
  tracked : Bool := false
  poison : List Nat := []
deriving DecidableEq, Repr

/-- An entry of a channel queue: one 64-byte line (R209 to R214). `n` is the channel line number, `acc` and `idx` the access and its
line that a read belongs to, `data` and `poison` what a write stores. A started entry has had its activate (Table 7-9). -/
structure QEnt where
  seq : Nat
  cls : TClass
  n : Nat
  acc : Option Nat := none
  mirror : Bool := false
  idx : Nat := 0
  data : List Byte := []
  poison : Bool := false
  started : Bool := false
  promoted : Bool := false
  passedOver : Nat := 0
deriving DecidableEq, Repr

/-- A line of a check or record cache: its line number and whether it must be written back (R208). -/
structure CacheLine where
  n : Nat
  dirty : Bool := false
deriving DecidableEq, Repr

/-- An entry of the side queue of a channel (R208): a fill or a write-back of check or record line `n`, with the class of the
operation that caused it. A fill of a line that a write has changed meanwhile enters its cache dirty. -/
structure SideOp where
  n : Nat
  isRec : Bool
  back : Bool
  cls : TClass
  seq : Nat
  dirty : Bool := false
  started : Bool := false
  passedOver : Nat := 0
deriving DecidableEq, Repr

/-- Channel states (Table 7-16, CSTAT.STATE). -/
inductive ChState where
  | absent | training | ready | powerdown | selfref | failed | reset | tracking
deriving DecidableEq, Repr

/-- One redirect entry (R226, RDENT). -/
structure Redirect where
  valid : Bool := false
  pend : Bool := false
  spare : Nat := 0
  rank : Nat := 0
  bank : Nat := 0
  row : Nat := 0
deriving DecidableEq, Repr

/-- A row being copied to a spare row (R226): lines below `next` have been copied. -/
structure RowCopy where
  entry : Nat
  rank : Nat
  bank : Nat
  row : Nat
  next : Nat
deriving DecidableEq, Repr

/-- One rank of a channel: refresh credit, bank pairs refreshed in the round, multiplier, last refresh, when C last fell (R216 to R219,
R230). `held` is the bank pair of a steering hold, 8 for the whole rank; `mult` is what MR4 reported last and `span` the multiplier of the
interval that runs (R219). -/
structure Rank where
  credit : Int := 0
  round : List Nat := []
  mult : RefMult := .x1
  span : RefMult := .x1
  lastRef : Nat := 0
  lastTick : Nat := 0
  held : Option Nat := none
deriving DecidableEq, Repr

/-- What a running campaign is (Table 8-1). `ready` says that the ranks are initialised, so that refresh runs (R235), `stopped` that a
core reset cut it short and it has to be restarted (R255), `past` that a sweep of a step after command-bus training has run, so that the
channel has answered (R238). -/
structure Camp where
  kind : Campaign
  startup : Bool := false
  setPoint : Bool := false
  ready : Bool := false
  stopped : Bool := false
  past : Bool := false
  since : Nat := 0
  tries : Nat := 0
deriving DecidableEq, Repr

/-- A delay sweep in progress (R243). -/
structure Sweep where
  key : Nat
  saved : Nat
  points : Nat
  since : Nat
deriving DecidableEq, Repr

/-- One DRAM channel (R198 to R257). The rank records hold refresh; `delays` is keyed by 64·KIND + 32·RANK + SEL (DLYSEL); `fsp1` and
`fsp2` are the set points that FSP1 and FSP2 hold (R250); `id` is the identification the parts reported; `entry` holds, by set point,
the almanac entries of trainings that passed since the almanac was last written (R249); `decayed` says that the contents were lost
before self-refresh (R332). `osc` is the oscillator baseline in force (bytes 200 to 207 of Table 8-6, R254), `rdc` the beats in the DRAM's
read-DQ-calibration pattern registers (R241). `acts` is the rolling activation count of each bank and `rfmAt` the threshold that the parts state (R198);
`bgLast` says when each activity of Table 7-13 last became due, `drift` the move of the DQ delays that the next slot makes (R223);
`refSince` is when self-refresh was entered, `exiting` that its exit waits for the measurement of R229. `lost` says that a warm reset met the
channel before it had returned from a failure or a reset, so that its data is lost (R78). -/
structure Chan where
  state : ChState := .absent
  ranks : Nat := 1
  density : Nat := 0
  ublk : Nat := 0
  rate : Nat := 0
  present : Bool := false
  answered : Bool := false
  rq : List QEnt := []
  wq : List QEnt := []
  drain : Bool := false
  sinceBulk : Nat := 0
  rank : Tab Rank := []
  openRow : Tab Nat := []
  acts : Tab Nat := []
  rfmAt : Nat := 0
  due : List (BgAct × Nat) := []
  bgLast : Tab Nat := []
  urgent : List BgAct := []
  scrubPos : Nat := 0
  scrubFrom : Nat := 0
  scrubCorr : List Nat := []
  scrubLate : Bool := false
  drift : Int := 0
  cands : List Nat := []
  red : Tab Redirect := []
  rowCopy : Option RowCopy := none
  ueTimes : List Nat := []
  linesRd : Nat := 0
  linesWr : Nat := 0
  linesRt : Nat := 0
  checkCache : List CacheLine := []
  recCache : List CacheLine := []
  sideq : List SideOp := []
  minCredit : Int := 0
  idleSince : Nat := 0
  canDrive : Bool := true
  inReset : Bool := false
  refSince : Nat := 0
  exiting : Bool := false
  decayed : Bool := false
  lost : Bool := false
  camp : Option Camp := none
  fsp : Nat := 0
  fsp1 : Option Nat := none
  fsp2 : Option Nat := none
  id : BitVec 64 := 0
  entry : Tab (List Byte) := []
  osc : List Byte := []
  rdc : List Nat := []
  userRam : Tab Nat := []
  delays : Tab Nat := []
  sweep : Option Sweep := none
  results : List Nat := []
  berr : List Nat := []
deriving DecidableEq, Repr

/-! ### Queues, jobs, vectors, joiner groups -/

/-- Queue states (QSTAT.STATE). -/
inductive QState where
  | disabled | run | draining | error
deriving DecidableEq, Repr

/-- A descriptor that has been fetched and not started: its index, its 64 bytes, or the DETAIL of a poisoned fetch (R152). -/
structure Fetched where
  idx : BitVec 16
  bytes : List Byte
  poison : Option Nat := none
deriving DecidableEq, Repr

/-- A work queue (R147 to R151). `ahead` holds the indices whose records have passed before an earlier one. -/
structure Queue where
  state : QState := .disabled
  pidx : BitVec 16 := 0
  fetch : BitVec 16 := 0
  retired : BitVec 16 := 0
  cause : Nat := 0
  heldEnable : Bool := false
  fetched : List Fetched := []
  ahead : List (BitVec 16) := []
deriving DecidableEq, Repr

/-- What a finished chunk of a job produced (R185, R187); `missing` lists the byte ranges of its output that have not been written or
sent. -/
structure ChunkRes where
  bytes : List Byte
  lamps : Nat
  missing : List (Nat × Nat)
  sums : List Nat
  peaks : List Nat
  stale : Nat
deriving DecidableEq, Repr

/-- Where a job stands: running, waiting for a commit to be presented or completed, or holding its record (R162). -/
inductive JobPhase where
  | run | waitEpoch | committing | record (bytes : List Byte) (status : Nat)
deriving DecidableEq, Repr

/-- A descriptor in progress: it holds one job slot of its group (R153, R155, R176). `nextChunk` is the next chunk of lamps, or the
next line of a move; `fin` is the status and DETAIL of a descriptor that ended early; `lost` marks an output line that found no copy
(R156); `waitOn` lists the channels that the next piece of a move waits for (R9). -/
structure Job where
  queue : Nat
  idx : BitVec 16
  group : Nat
  order : Nat
  dtype : Nat
  bytes : List Byte
  kp : Bool := false
  owner : Nat := 0
  epoch : Word := 0
  rcfg : Word := 0
  rstride : Nat := 1
  rpfill : Word := 0
  pins : List (Nat × Nat) := []
  nextChunk : Nat := 0
  results : Tab ChunkRes := []
  done : Nat := 0
  waitOn : List Nat := []
  lost : Bool := false
  slot : Bool := true
  fin : Option (Nat × Nat) := none
  pois : Option Nat := none
  stale : Bool := false
  ageMax : Nat := 0
  staleCnt : Nat := 0
  ec : Word := 0
  cacheKey : Option Nat := none
  phase : JobPhase := .run
deriving DecidableEq, Repr

/-- A joiner, or a lockstep pair, at work on one chunk (R187). `unit` is the joiner within the group, the lower one of a pair. -/
structure Work where
  queue : Nat
  idx : BitVec 16
  chunk : Nat
  unit : Nat
  pair : Bool
  seq : Nat
deriving DecidableEq, Repr

/-- One entry of a group's record cache (R189): its lamp map, the joiners that hold its chunks in turn, and the record lines held, by
memory line number. -/
structure CacheEnt where
  key : Nat
  map : Nat
  nlamp : Nat
  owners : List Nat
  lines : Tab (List Byte)
deriving DecidableEq, Repr

/-- Group states (JSTAT.STATE). -/
inductive GState where
  | inService | returning | out
deriving DecidableEq, Repr

/-- A joiner group (R175 to R197). `tables` is keyed by 16384·set + 4096·primary + entry; `tload` is the table load that runs: its set,
its first address, and whether the conditions of R177 held. `corrected` counts the corrected errors of the local stores (R188); no
register shows it. -/
structure Group where
  state : GState := .inService
  fence : BitVec 8 := 0
  tvalid : BitVec 8 := 0
  tables : Tab Nat := []
  tload : Option (Nat × Nat × Bool) := none
  work : List Work := []
  cache : List CacheEnt := []
  nextKey : Nat := 0
  turn : Nat := 255
  tests : List Nat := []
  bayTest : Bool := false
  corrected : Nat := 0
deriving DecidableEq, Repr

/-- A vector-table entry (R165 to R169). `waited` says that the present wait for a port has been reported, `again` that the message was
lost and is to be sent again (R102). -/
structure Vec where
  addr : BitVec 64 := 0
  data : Word := 0
  mask : Bool := true
  timev : Bool := false
  dport : Nat := 0
  batch : Nat := 1
  hold : Nat := 0
  gap : Nat := 0
  pending : Bool := false
  gather : Nat := 0
  inflight : Bool := false
  kp : Bool := false
  heldSince : Option Nat := none
  holdDone : Bool := false
  again : Bool := false
  lastSent : Option Nat := none
  waited : Bool := false
  latched : BitVec 64 := 0
deriving DecidableEq, Repr

/-! ### Links: lanes, flits, messages -/

/-- Port states (Table 3-3). -/
inductive PState where
  | off | detect | lock | align | equalize | deskew | config | active | retire | listen | test
deriving DecidableEq, Repr

/-- Where a retry of a retired lane stands (R106). -/
inductive Retry where
  | none | training | soaking
deriving DecidableEq, Repr

/-- One lane of a port (R83 to R110, LySTAT). `pcreq` is LCFG.PCREQ as the attempt began, `adapted` and `eqreq` what the receiver found
in the latest block, `settled` that CONFIG is settled here, `confSent` and `confDone` count consecutive CONFIG blocks with DONE sent and
received; `blkSeq` and `sent` are the number of the next training block and the words of the last one; `gen` is the pattern generator and
`genOut` the symbols that it sent in the latest command. `shown` counts the blocks in a row that showed RXREADY of this end, as `ready`
counts those that showed it of the far end (R89); `misplaced` says that a marker word was missing or out of place on a locked lane (R98);
`soakErrs` counts the bit errors that the checker found in the soak (R106). -/
structure Lane where
  lock : Bool := false
  sigdet : Bool := false
  aligned : Bool := false
  pcrx : Bool := false
  pctx : Bool := false
  chkLock : Bool := false
  slips : Nat := 0
  skew : Nat := 0
  pre : Nat := 0
  post : Nat := 0
  matched : Nat := 0
  sinceSlip : Nat := 0
  inTrain : Bool := false
  passed : Bool := false
  ready : Nat := 0
  pcreq : Bool := false
  adapted : Bool := false
  eqreq : BitVec 8 := 0
  settled : Bool := false
  confSent : Nat := 0
  confDone : Nat := 0
  blkSeq : Nat := 0
  shown : Nat := 0
  sent : List (BitVec 128) := []
  farMask : BitVec 8 := 0
  farSeq : Option (Nat × Nat) := none
  eqstat : BitVec 4 := 0
  trained : Bool := false
  misplaced : Bool := false
  retry : Retry := .none
  retrySince : Nat := 0
  fails : Nat := 0
  scrTx : Nat := 0
  scrRx : Nat := 0
  lastTx : Nat := 0
  lastRx : Nat := 0
  gen : Nat := 0
  inject : Bool := false
  genOut : List (Fin 4) := []
  chk : Nat := 0
  chkGood : Nat := 0
  chkLost : Bool := false
  soakErrs : Nat := 0
  chkErrs : List Bool := []
deriving DecidableEq, Repr

/-- What a queued message is, for what its loss means (R102): a completion; a DISCARDED completion sent after the tags of its port
became free (R143); an interrupt, of king-post work or not; bytes `off` to `off` + `len` of the output of a chunk; a ring message. -/
inductive MsgKind where
  | cpl (tag : Nat) (hdr : BitVec 128)
  | told (tag : Nat) (hdr : BitVec 128)
  | irq (vec : Nat) (kp : Bool)
  | xwr (queue idx chunk off len : Nat)
  | ring (hdr : BitVec 128)
deriving DecidableEq, Repr

/-- A message to send (R124, R128): header and whole 16-byte data slots. `poison` lists its lines that go as poison lines (R305, log 89). -/
structure Msg where
  kind : MsgKind
  hdr : BitVec 128
  data : List Byte := []
  poison : List Nat := []
deriving DecidableEq, Repr

/-- A sent TX flit that is kept for replay (R121). -/
structure TxFlit where
  seq : Nat
  crcls : Nat
  crhdr : Nat
  crdat : Nat
  first : Nat
  payload : List Byte
  sentAt : Nat
  msgs : List MsgKind
deriving DecidableEq, Repr

/-- A retirement exchange (R99, R103): the mask asked for, when its first request went out, when the last one did, whether this
end asked, and whether it removes a lane (R404). -/
structure RetireX where
  mask : BitVec 8
  since : Nat
  lastReq : Nat
  mine : Bool
deriving DecidableEq, Repr

/-- Standby of a port (R346 to R348). -/
inductive Standby where
  | none | asked (dark : Bool) (since : Nat) | entered (dark : Bool) | waking (dark : Bool) (since : Nat)
deriving DecidableEq, Repr

/-- One port or half link: host port 0 to 15, ring port E (16) and W (17) or their halves A, and their halves B (18, 19; R282).
`toDiscard` holds the DISCARDED completions that wait for the port (R101, R143); `words` what the transmitter put
on its lanes since it began the last codeword. -/
structure Link where
  state : PState := .off
  attempt : Nat := 0
  failPh : Nat := 0
  rate100 : Bool := false
  inListen : Bool := false
  listenParity : Bool := false
  listenSince : Nat := 0
  phaseSince : Nat := 0
  active : BitVec 8 := 0
  retired : BitVec 8 := 0
  failed : BitVec 8 := 0
  good : BitVec 8 := 0
  lanes : Tab Lane := []
  gseqTx : Nat := 0
  gseqRx : Nat := 0
  cwTx : Nat := 0
  cwRx : Nat := 0
  wordTx : Nat := 0
  wordRx : Nat := 0
  retire : Option RetireX := none
  widen : Option (BitVec 8 × Nat) := none
  retryAt : Nat := 0
  nextSeq : Nat := 0
  lastSeq : Nat := 4095
  expSeq : Nat := 0
  replay : List TxFlit := []
  resend : List Nat := []
  replays : Nat := 0
  lastNak : Option (Nat × Nat) := none
  nakEpisode : Bool := false
  unacked : Nat := 0
  ackSince : Option Nat := none
  ackDue : Bool := false
  credHdr : List Nat := [0, 0, 0]
  credDat : List Nat := [0, 0, 0]
  oweHdr : List Nat := [0, 0, 0]
  oweDat : List Nat := [0, 0, 0]
  grantHdr : List Nat := [0, 0, 0]
  grantDat : List Nat := [0, 0, 0]
  txq : List Msg := []
  txPart : List Byte := []
  txPartKind : Option MsgKind := none
  rxPart : List Byte := []
  rxNeed : Nat := 0
  tags : List Nat := []
  toDiscard : List MsgKind := []
  standby : Standby := .none
  lastBusy : Nat := 0
  words : List (Nat × BitVec 128) := []
  groupOut : Option (Nat × BitVec 8) := none
deriving DecidableEq, Repr

/-! ### Fuses, boot, power, flash -/

/-- Values of manufacture (R433, R317, R466; log 4). -/
structure Fuses where
  devId : BitVec 64 := 1
  keySet : Bool := true
deriving DecidableEq, Repr

/-- Boot states (BSTAT.STATE). -/
inductive BState where
  | pll | flashchk | image | config | dram | links | ready | noimage | halted | warm | recovery
deriving DecidableEq, Repr

/-- Boot, resets and watchdog (R313 to R340). `held` says that the device is held in cold reset; `since` is the start of the last
cold or warm reset; `back` the state that a core reset returns to; `warm` that a warm reset has not reached READY; `bayWait` lists
bays whose reset has not ended, `enabledPorts` the ports that boot firmware enabled, `waiting` channel resets that wait for a set-point change; `later` lists
reset writes of host ports (port, tag, offset, value) whose completion has not left the port yet (R326); `almWant` that the training
almanac is to be written (R249); `drst` is the level of the BAYb_DRST_N balls (R441). -/
structure Boot where
  state : BState := .pll
  mode : BitVec 2 := 0
  sa : BitVec 3 := 0
  slotB : Bool := false
  isSealed : Bool := false
  path : Nat := 0
  run : Bool := false
  asideA : Bool := false
  asideB : Bool := false
  since : Nat := 0
  held : Bool := true
  warm : Bool := false
  back : Option BState := none
  coreUp : Bool := false
  testsDone : Bool := false
  enabledPorts : List Nat := []
  wdOn : Bool := false
  wdSince : Nat := 0
  wdPeriod : Nat := 1000
  wdWantA5 : Bool := false
  consec : Nat := 0
  bayWait : List Nat := []
  waiting : List (Nat × List Nat) := []
  later : List (Nat × Nat × Nat × Word) := []
  almWant : Bool := false
  drst : BitVec 8 := 0
deriving DecidableEq, Repr

/-- Power states of the device (Table 12-1). TRIM is `active` with a target of TRIM or deeper (R346). -/
inductive PwrState where
  | active | dim | dark | retention | entering | waking
deriving DecidableEq, Repr

/-- Power (R341 to R354). -/
structure Power where
  state : PwrState := .active
  refuse : Nat := 0
  since : Nat := 0
  addrMatch : Bool := false
  idleFrom : Nat := 0
  wasActive : List Nat := []
  filledAt : Option Nat := none
deriving DecidableEq, Repr

/-- An erase-flag cell (Table 13-3); both words all ones is the blank cell. -/
structure EraseCell where
  w0 : Word := 0xFFFFFFFF
  gen : Word := 0xFFFFFFFF
deriving DecidableEq, Repr

/-- Who asked for a flash operation. -/
inductive FlashOwner where
  | mailbox | firmware | rotation (src log : Nat) | almanac | faultLog
deriving DecidableEq, Repr

/-- An operation of a flash bank: programming a page, or step 1, 2 or 3 of an erase with the mapping its step 3 writes (R361). -/
inductive FlashWork where
  | program (addr : Nat) (data : List Byte)
  | erase (sector : Nat) (step : Nat) (map : Option Nat) (tries : Nat)
deriving DecidableEq, Repr

/-- A running or suspended operation. -/
structure FlashOp where
  work : FlashWork
  owner : FlashOwner
  since : Nat
deriving DecidableEq, Repr

/-- One flash bank (R356, R363). `rotated` says that rotation has had its slot since other work last took the bank (R366). -/
structure FlashBank where
  op : Option FlashOp := none
  susp : Option FlashOp := none
  suspends : Nat := 0
  rotated : Bool := false
deriving DecidableEq, Repr

/-- A mailbox command in progress (R372). -/
structure Mbox where
  op : Nat
  addr : Nat
  byCore : Bool
  started : Bool := false
  result : Option Nat := none
  cbits : Nat := 0
deriving DecidableEq, Repr

/-- An almanac write under way (R245): the area of the copy, its 128 KiB as they are to stand, and how far it is: 0 and 1 the erase of a
sector, 2 + p the program of page p. -/
structure AlmJob where
  area : Nat
  copy : List Byte
  next : Nat := 0
deriving DecidableEq, Repr

/-- A fault-log write under way (R414): the area, and 0 the erase of the next sector, 1 its header, 2 the entry. -/
structure LogJob where
  area : Nat := 0
  stage : Nat := 0
deriving DecidableEq, Repr

/-- The flash (R355 to R375). A byte is keyed by 65536 · device sector + offset; `toMove` lists device sectors with a weak page. Pages, as
256 · device sector + page: `badPages` have been read as uncorrectable, `inked` are programmed with bytes of 0xFF alone (R362). -/
structure Flash where
  bytes : List Host.Cell := []
  cells : Tab EraseCell := []
  bank : Tab FlashBank := []
  mbox : Option Mbox := none
  mbResult : Nat := 0
  mbCbits : Nat := 0
  mbOp : Nat := 0
  head : List Nat := [0, 0]
  tail : List Nat := [0, 0]
  gen : List Nat := [1, 1]
  logNext : Nat := 0
  logSeq : Nat := 0
  refreshed : List Nat := [0, 0]
  toMove : List Nat := []
  badPages : List Nat := []
  inked : List Nat := []
  almJob : Option AlmJob := none
  logJob : Option LogJob := none
  aborted : Bool := false
deriving DecidableEq, Repr

/-! ### Safety -/

/-- States of the safety monitor (SSTAT.STATE). -/
inductive SafeMode where
  | normal | entering | safe
deriving DecidableEq, Repr

/-- A capture-buffer entry, bytes 4 to 35 of Table 15-7 (the rest is constant or added when it is written to flash). -/
structure Capture where
  seq : Nat
  time : BitVec 64
  epoch : Word
  mech : Nat
  scope : Nat
  unit : Nat
  action : Nat
  page : Nat
  bit : Nat
  temp : Int
  cap0 : Word
  cap1 : Word
deriving DecidableEq, Repr

/-- The safety monitor (R396 to R423). `hotRun` and `sensorRun` count consecutive samples above the trip level and apart from the
median; `ltPass` is when each class last passed, `ltAt` when the last round ended, `ltRun` that LTRUN asked for one; `corrupt` are the
pages whose protected store differed in a scanner pass and has not been restored (R400, R408). -/
structure SafeUnit where
  state : SafeMode := .normal
  since : Nat := 0
  capture : List Capture := []
  nextSeq : Nat := 1
  lost : Nat := 0
  lastMech : Nat := 0
  caused : Bool := false
  fnDrv : Bool := true
  fnRb : Bool := true
  testFail : Bool := false
  armed : Bool := true
  hotRun : Nat := 0
  sensorRun : List Nat := [0, 0, 0, 0, 0, 0, 0, 0, 0]
  temps : List Int := []
  ltPass : List Nat := [0, 0, 0, 0, 0, 0, 0, 0]
  ltAt : Nat := 0
  ltRun : Bool := false
  ltFail : BitVec 8 := 0
  ltOverdue : BitVec 8 := 0
  scanAt : Nat := 0
  corrupt : List Nat := []
deriving DecidableEq, Repr

/-! ### Epochs and pulses -/

/-- Epoch bookkeeping (R53, R298, R434): current epoch, when the last pulse came, the pulse before, whether the window is open. -/
structure Merid where
  epoch : Word := 0
  lastPulse : Option Nat := none
  pulses : Nat := 0
  guardNow : Nat := 50
  blankNow : Nat := 0
  inBlank : Bool := false
  openedAt : Nat := 0
deriving DecidableEq, Repr

/-! ### The root PLL -/

/-- PLL states (PLLSTAT.STATE). -/
inductive PllState where
  | off | waitref | freerun | acquire | locked | coast | relock | pjwait | slew | step
deriving DecidableEq, Repr

/-- The root PLL (R258 to R281). `since` is step 1 of Table 9-3, or the start of a coast, `jump` and `offset` are those of PJSTAT in ps, `ramp` what is left of
the relock ramp in 0.001 ppm, `hostSlew` that PJCMD chose the slew, `stepWait` that a step waits for its window, `stepAt` its start,
`stepLost` that REFCLK went during the ramp, `slewAt` the latest slew epoch, `rampAt` the latest step of the relock ramp, `freq` how far REFCLK
lay from nominal when it last qualified, in 0.001 ppm (log 87), `lfsr` the dither register with the time it was loaded, `wck` the set point of the WCK divider, `dspFail` the first channel
that failed in the latest set-point change; `fine` holds for each output the delay in steps that a write of FDLY left from, and when. -/
structure Pll where
  state : PllState := .off
  since : Nat := 0
  refpres : Bool := false
  jump : Int := 0
  offset : Int := 0
  ferr : Int := 0
  ramp : Int := 0
  hostSlew : Bool := false
  stepWait : Bool := false
  stepAt : Nat := 0
  stepLost : Bool := false
  slewAt : Nat := 0
  rampAt : Nat := 0
  freq : Int := 0
  coastSince : Option Nat := none
  lfsr : Word := 0x1D872B41
  lfsrAt : Nat := 0
  wck : Nat := 0
  dspFail : Option Nat := none
  fine : Tab (Nat × Nat) := []
deriving DecidableEq, Repr

/-! ### Time and the ring -/

/-- States of the time unit (TSTAT.STATE). -/
inductive TState where
  | free | locked | hold | asym | bigwait | slew | step | master
deriving DecidableEq, Repr

/-- What a direction's latest SYNC gave (R291): offset in 1/512 unit, when it arrived, whether it carried STEP, its SEQ. `moved` is how far
device time has been stepped since, in the same unit. -/
structure Direction where
  theta : Int := 0
  moved : Int := 0
  seen : Option Nat := none
  stepSeen : Bool := false
  seq : Nat := 0
deriving DecidableEq, Repr

/-- The schedule of a SYNC (Table 10-1): domain time of the last pulse, its epoch, the period (32 integer, 16 fraction bits). -/
structure Schedule where
  ptime : BitVec 64 := 0
  epoch : Word := 0
  period : Nat := 0
  gmid : BitVec 64 := 0
  domain : Nat := 0
deriving DecidableEq, Repr

/-- The time unit (R285 to R299). `running` says that a master makes pulses, `perSet` is the PERIOD of the last PERH write and
`perNext` one that waits for the next pulse. `theta` is the latest θ acted on, in 1/512 unit; `corr` is the offset still to be
removed by slewing and `fsMove` the pulse phase still to be moved (R297), both in 10^−9 unit, with `acc` and `fsAcc` the part of a
unit not yet applied; `accept` that a resume took a disagreement with one direction trusted (R296), `holdStep` that HOLD came from a
path step (R295), at `holdAt`. -/
structure TimeUnit where
  dev : BitVec 64 := 0
  state : TState := .free
  sched : Schedule := {}
  running : Bool := false
  perSet : Nat := 0
  perlHeld : Option Word := none
  perNext : Option Nat := none
  lastPtime : BitVec 64 := 0
  dirE : Direction := {}
  dirW : Direction := {}
  theta : Int := 0
  corr : Int := 0
  acc : Int := 0
  hops : Nat := 31
  agree : Nat := 0
  resume : Bool := false
  accept : Bool := false
  adopt : Bool := false
  epOk : Bool := false
  holdStep : Bool := false
  holdAt : Nat := 0
  fsMove : Int := 0
  fsAcc : Int := 0
  syncSeq : Nat := 0
  syncAt : Option Nat := none
  nowh : Word := 0
deriving DecidableEq, Repr

/-- The time side of one ring link or half link (R287 to R295). `ldlyAt` is when the last LDLY went out (R289), `echo` holds TXTS, receive
timestamp and SEQ of the last LDLY, `rt` the last round trip, `rts` the round trips kept for R295, `fresh` how many are missing before a
SYNC is used (R289), `nbr` the SRCID of the last LDLY of the port, `peer` that of this half (R283), `dom` its DOMAIN (R304), `sent` the words of the last time group sent. -/
structure RingLink where
  ldlySeq : Nat := 0
  ldlyAt : Option Nat := none
  echo : Option (BitVec 64 × BitVec 64 × Nat) := none
  rt : Int := 0
  rts : List Int := []
  fresh : Nat := 4
  pathStep : Bool := false
  nbr : BitVec 64 := 0
  peer : BitVec 64 := 0
  dom : Nat := 0
  sent : List (BitVec 128) := []
deriving DecidableEq, Repr

/-- States of a mirror entry (MSTAT.STATE). -/
inductive MState where
  | off | resync | attached | detached
deriving DecidableEq, Repr

/-- A mirror entry (R301 to R303). `left` lists the blocks that the copy of RESYNC has still to send; `none` before it has begun. -/
structure Mirror where
  en : Bool := false
  dest : Bool := false
  preg : Nat := 0
  lreg : Nat := 0
  state : MState := .off
  detaches : Nat := 0
  left : Option (List Nat) := none
deriving DecidableEq, Repr

/-- A KPW that the partner has not acknowledged, with the host access that waits for it (R302). -/
structure KpwOut where
  seq : Nat
  entry : Nat
  addr : Nat
  data : List Byte
  poison : List Nat := []
  tag : Word
  since : Nat
  acc : Option Nat
deriving DecidableEq, Repr

/-- States of a handover (HOSTAT.STATE). -/
inductive HoState where
  | idle | armed | check | copy | freeze | receiving | done | aborted
deriving DecidableEq, Repr

/-- What a HOSTATE message told of one region (R306). -/
structure HoRegion where
  region : Nat
  rstat : Nat
  frame : BitVec 16
  rlate : Nat
  rskip : Nat
deriving DecidableEq, Repr

/-- A module handover (R304 to R307). `dirty` lists the dirty granules of 256 KiB, `pulse` and `epoch` name the switch, `left` the blocks that
the running pass has still to send, `sent` that SWITCH has been sent, `ready` that READY was exchanged in time, `acked` when the partner's
link acknowledged the READY of this device, `regsSeen` the regions that HOREG described. -/
structure Handover where
  state : HoState := .idle
  sender : Bool := false
  cause : Nat := 0
  pass : Nat := 0
  postpones : Nat := 0
  dirty : List Nat := []
  pulse : Option (BitVec 64) := none
  epoch : Word := 0
  frozen : Bool := false
  left : List Nat := []
  sent : Bool := false
  ready : Bool := false
  acked : Option (BitVec 64) := none
  regsSeen : List Nat := []
  states : List HoRegion := []
  linkDown : Option Nat := none
deriving DecidableEq, Repr

/-- The ring side of the device: `kpwNext` numbers the KPW messages sent, `kpwLast` is the last one settled here in sequence, `kpwDone` those
settled ahead of it (R302). -/
structure Ring where
  links : Tab RingLink := []
  mirrors : Tab Mirror := []
  kpwNext : Nat := 0
  kpwOut : List KpwOut := []
  kpwLast : Option Nat := none
  kpwDone : List Nat := []
  ho : Handover := {}
deriving DecidableEq, Repr

/-! ### The sideband target -/

/-- States of the sideband target (SBND.SSTAT.STATE). -/
inductive SbState where
  | idle | address | write | read | ignoring
deriving DecidableEq, Repr

/-- The sideband target (R376 to R395). `expectAddr` says that the next byte is a device address, `afterSr` that a repeated START
directly after the third address byte came before it, `fresh` that the third address byte was the last one acknowledged; `addr` holds
the register-address bytes received and `got` the bytes of a write word; `crc` is the running check byte, `word` the word to be sent,
`aborted` that the rest of the read is released, `sentCheck` the last check byte sent. `thold` to `sdato` are in force since the last START.
`out` counts the bytes of a read word that was cut short, and `lastAt` is when the bus last moved. -/
structure Sideband where
  state : SbState := .idle
  expectAddr : Bool := false
  afterSr : Bool := false
  fresh : Bool := false
  addr : List Byte := []
  p : Bool := false
  raddr : Nat := 0
  got : List Byte := []
  crc : Nat := 0
  word : Option Word := none
  aborted : Bool := false
  sentCheck : Byte := 0
  held : Bool := false
  nak : Nat := 0
  thold : Nat := 15
  filt : Nat := 5
  sclto : Nat := 25
  sdato : Nat := 25
  out : Nat := 0
  lastAt : Nat := 0
deriving DecidableEq, Repr

/-! ### The whole block -/

/-- A doorbell that waits for earlier posted writes of its port (R132). -/
structure Bell where
  port : Nat
  queue : Nat
  pidx : BitVec 16
  seq : Nat
deriving DecidableEq, Repr

/-- The state of the block. `flds` holds the register fields that are settings, counters or status of their own, keyed by
`fkey`; a field that is not listed holds its reset value. -/
structure State where
  pending : List Instr := []
  now : Nat := 0
  freeCtr : Nat := 0
  busResult : Option Word := none
  fuses : Fuses := {}
  hdrs : Tab PageHdr := []
  flds : Tab Nat := []
  links : Tab Link := []
  accs : List Acc := []
  nextId : Nat := 0
  commits : List Commit := []
  chans : Tab Chan := []
  mem : List Host.Cell := []
  recs : Tab Rec := []
  regions : Tab Region := []
  slots : List (Nat × Nat) := []
  built : Bool := false
  queues : Tab Queue := []
  jobs : List Job := []
  bells : List Bell := []
  vecs : Tab Vec := []
  groups : Tab Group := []
  merid : Merid := {}
  pll : Pll := {}
  time : TimeUnit := {}
  ring : Ring := {}
  sb : Sideband := {}
  boot : Boot := {}
  power : Power := {}
  flash : Flash := {}
  safe : SafeUnit := {}
  tap : TapInst := .idcode
deriving DecidableEq, Repr

/-- The block right after reset: in cold reset, with every field at its reset value, nothing stored and no command waiting. -/
def State.reset : State := {}

end Sys2Proof.Machine
end

