-- ==== Sys2Proof/Machine/Ops.lean ====
section
/-!
DEFINITION. Named operations over the state: the register fields, the units of the block, time and free values. Every other
file reads and writes the state through these.
-/

namespace Sys2Proof.Machine

/-! ### Pages (Table 16-4) -/

namespace Pg
abbrev dev : Nat := 0x00
abbrev clk : Nat := 0x01
abbrev boot : Nat := 0x02
abbrev pwr : Nat := 0x03
abbrev safe : Nat := 0x04
abbrev flsh : Nat := 0x05
abbrev sbnd : Nat := 0x06
abbrev prot : Nat := 0x07
abbrev vec : Nat := 0x08
abbrev time : Nat := 0x09
abbrev rgn : Nat := 0x0A
abbrev epch : Nat := 0x0B
/-- Host port `x`; links 16 and 17 are ring ports E and W (half A of a split port), 18 and 19 their halves B (R282). -/
abbrev link (l : Nat) : Nat := if l < 16 then 0x10 + l else 0xC0 + l % 2
abbrev bay (b : Nat) : Nat := 0x20 + b
abbrev ch (c : Nat) : Nat := 0x40 + c
abbrev jg (g : Nat) : Nat := 0x80 + g
abbrev wq (q : Nat) : Nat := 0x90 + q / 16
end Pg

/-- The assigned pages (R429). -/
def pageAssigned (n : Nat) : Bool :=
  n < 0x0C || (0x10 ≤ n && n < 0x28) || (0x40 ≤ n && n < 0x88) || (0x90 ≤ n && n < 0xA0) || n == 0xC0 || n == 0xC1

/-- The page's PAGE_ID.TYPE: the page number of unit 0 of its block (Table 16-3). -/
def pageType (n : Nat) : Nat :=
  if n < 0x10 then n else if n < 0x20 then 0x10 else if n < 0x28 then 0x20 else if n < 0x80 then 0x40
  else if n < 0x90 then 0x80 else if n < 0xA0 then 0x90 else 0xC0

/-- Bits of EVT that are not reserved (R427). -/
def evtMask (page : Nat) : Word :=
  match pageType page with
  | 0x00 => evtMaskDev
  | 0x01 => evtMaskClk
  | 0x02 => evtMaskBoot
  | 0x03 => evtMaskPwr
  | 0x04 => evtMaskSafe
  | 0x05 => evtMaskFlsh
  | 0x06 => evtMaskSbnd
  | 0x08 => evtMaskVec
  | 0x09 => evtMaskTime
  | 0x0A => evtMaskRgn
  | 0x0B => evtMaskEpch
  | 0x10 => evtMaskHp
  | 0x20 => evtMaskBay
  | 0x40 => evtMaskCh
  | 0x80 => evtMaskJg
  | 0x90 => evtMaskWq
  | 0xC0 => if page = 0xC1 then evtMaskRingW else evtMaskRing
  | _ => 0

/-- The registers of a page from offset 0x040. -/
def regMap (page : Nat) : List RegEnt :=
  match pageType page with
  | 0x00 => regMapDev
  | 0x01 => regMapClk
  | 0x02 => regMapBoot
  | 0x03 => regMapPwr
  | 0x04 => regMapSafe
  | 0x05 => regMapFlsh
  | 0x06 => regMapSbnd
  | 0x07 => regMapProt
  | 0x08 => regMapVec
  | 0x09 => regMapTime
  | 0x0A => regMapRgn
  | 0x0B => regMapEpch
  | 0x10 => regMapHp
  | 0x20 => regMapBay
  | 0x40 => regMapCh
  | 0x80 => regMapJg
  | 0x90 => regMapWq
  | 0xC0 => if page = 0xC1 then regMapRingW else regMapRing
  | _ => []

/-! ### Register fields -/

/-- The key of a field in `State.flds`. -/
def fkey (page off lo : Nat) : Nat := (page * 4096 + off) * 32 + lo

/-- The value of a register field. -/
def fget (s : State) (page : Nat) (f : Fld) : Nat := tget f.rst s.flds (fkey page f.off f.lo)

/-- Set a register field; only the bits of the field are kept. -/
def fset (page : Nat) (f : Fld) (v : Nat) (s : State) : State :=
  { s with flds := cset s.flds (fkey page f.off f.lo) f.rst (v % 2 ^ f.w) }

/-- Add to a counter field that saturates at its maximum. -/
def fadd (page : Nat) (f : Fld) (n : Nat) (s : State) : State :=
  fset page f (min (fget s page f + n) (2 ^ f.w - 1)) s

/-- Add 1 to a counter field that saturates at its maximum. -/
def fbump (page : Nat) (f : Fld) (s : State) : State := fadd page f 1 s

/-- Clear fields. -/
def fclear (page : Nat) (fs : List Fld) (s : State) : State :=
  fs.foldl (fun t f => fset page f 0 t) s

/-- Forget every listed field of a page for which `keep` does not hold: it returns to its reset value. -/
def freset (page : Nat) (keep : Nat → Bool) (s : State) : State :=
  { s with flds := s.flds.filter fun e => e.1 / 32 / 4096 != page || keep (e.1 / 32 % 4096) }

/-! ### Units of the block -/

def State.hdr (s : State) (page : Nat) : PageHdr := tget {} s.hdrs page
def State.link (s : State) (l : Nat) : Link := tget {} s.links l
def State.chan (s : State) (c : Nat) : Chan := tget {} s.chans c
def State.region (s : State) (r : Nat) : Region := tget {} s.regions r
def State.queue (s : State) (q : Nat) : Queue := tget {} s.queues q
def State.group (s : State) (g : Nat) : Group := tget {} s.groups g
def Link.lane (k : Link) (i : Nat) : Lane := tget {} k.lanes i

/-- The settings a vector has at reset (Table 5-6): TIMEV and DPORT of the epoch vectors, TIMEV of V392. -/
def vecDefault (v : Nat) : Vec :=
  if 256 ≤ v ∧ v < 272 then { timev := true, dport := v - 256 }
  else if v = 392 then { timev := true }
  else {}

def State.vec (s : State) (v : Nat) : Vec := tget (vecDefault v) s.vecs v

def State.rlink (s : State) (p : Nat) : RingLink := tget {} s.ring.links p
def State.mirror (s : State) (e : Nat) : Mirror := tget {} s.ring.mirrors e

def setHdr (page : Nat) (h : PageHdr) (s : State) : State := { s with hdrs := cset s.hdrs page {} h }
def setLink (l : Nat) (k : Link) (s : State) : State := { s with links := tset s.links l k }
def setChan (c : Nat) (k : Chan) (s : State) : State := { s with chans := tset s.chans c k }
def setRegion (r : Nat) (k : Region) (s : State) : State := { s with regions := tset s.regions r k }
def setQueue (q : Nat) (k : Queue) (s : State) : State := { s with queues := tset s.queues q k }
def setGroup (g : Nat) (k : Group) (s : State) : State := { s with groups := tset s.groups g k }
def setVec (v : Nat) (k : Vec) (s : State) : State := { s with vecs := tset s.vecs v k }

def setRlink (p : Nat) (k : RingLink) (s : State) : State := { s with ring := { s.ring with links := tset s.ring.links p k } }
def setMirror (e : Nat) (k : Mirror) (s : State) : State :=
  { s with ring := { s.ring with mirrors := tset s.ring.mirrors e k } }

def modHdr (page : Nat) (f : PageHdr → PageHdr) (s : State) : State := setHdr page (f (s.hdr page)) s
def modLink (l : Nat) (f : Link → Link) (s : State) : State := setLink l (f (s.link l)) s
def modChan (c : Nat) (f : Chan → Chan) (s : State) : State := setChan c (f (s.chan c)) s
def modRegion (r : Nat) (f : Region → Region) (s : State) : State := setRegion r (f (s.region r)) s
def modQueue (q : Nat) (f : Queue → Queue) (s : State) : State := setQueue q (f (s.queue q)) s
def modGroup (g : Nat) (f : Group → Group) (s : State) : State := setGroup g (f (s.group g)) s
def modVec (v : Nat) (f : Vec → Vec) (s : State) : State := setVec v (f (s.vec v)) s

def modRlink (p : Nat) (f : RingLink → RingLink) (s : State) : State := setRlink p (f (s.rlink p)) s
def modMirror (e : Nat) (f : Mirror → Mirror) (s : State) : State := setMirror e (f (s.mirror e)) s

/-- Change lane `i` of link `l`. -/
def modLane (l i : Nat) (f : Lane → Lane) (s : State) : State :=
  modLink l (fun k => { k with lanes := tset k.lanes i (f (k.lane i)) }) s

/-- Apply an operation for each element of a list, in order. -/
def forAll {α : Type} (xs : List α) (f : α → State → State) (s : State) : State := xs.foldl (fun t x => f x t) s

/-- Apply an operation when a condition holds. -/
def onlyIf (b : Bool) (f : State → State) (s : State) : State := if b then f s else s

/-! ### Time and free values -/

/-- Units of device time in `n` microseconds. -/
def us (n : Nat) : Nat := n * Config.unitsPerUs

/-- Units of device time in `n` milliseconds. -/
def ms (n : Nat) : Nat := us (n * 1000)

/-- Units of device time in `n` nanoseconds, rounded down. -/
def ns (n : Nat) : Nat := n * Config.unitsPerUs / 1000

/-- Units of device time that have passed since `t`. -/
def since (s : State) (t : Nat) : Nat := s.now - t

/-- Does device time slew now: is there a phase correction, and is it not frozen (R292, R293, R295)? -/
def slewing (s : State) : Bool := s.time.state == .locked || s.time.state == .slew

/-- What is left of `left` (10^−9 unit) after `most` of it has been removed. -/
def nearer (most : Nat) (left : Int) : Int := if 0 ≤ left then max 0 (left - most) else min 0 (left + most)

/-- Are the clocks off: in RETENTION, and on the way out of it until the PLL has locked again (R351, R352)? -/
def clocksOff (s : State) : Bool :=
  s.power.state == .retention || (s.power.state == .waking && (s.pll.state == .waitref || s.pll.state == .acquire))

/-- Does CK_TIME stand still: before the first lock, and while the clocks are off (R264, R352)? -/
def timeStands (s : State) : Bool := s.boot.state == .pll || clocksOff s

/-- Let `n` units pass: the clock, device time while CK_TIME runs, and the slews of device time and of a master's pulse phase, at
SLEW.RATE ps per ms each (R285, R292, R297). -/
def elapse (n : Nat) (s : State) : State :=
  if timeStands s then { s with now := s.now + n }
  else
    let most := n * fget s Pg.time F.TIME_SLEW_RATE
    let corr := if slewing s then nearer most s.time.corr else s.time.corr
    let acc := s.time.acc - (s.time.corr - corr)
    let fs := nearer most s.time.fsMove
    let fsAcc := s.time.fsAcc + (s.time.fsMove - fs)
    let mv := BitVec.ofInt 64 (fsAcc / 1000000000)
    { s with
      now := s.now + n
      time := { s.time with
        dev := s.time.dev + BitVec.ofInt 64 (n + acc / 1000000000), corr := corr, acc := acc % 1000000000
        fsMove := fs, fsAcc := fsAcc % 1000000000
        sched := { s.time.sched with ptime := s.time.sched.ptime + mv }, lastPtime := s.time.lastPtime + mv } }

/-- Let the clock reach `t`; it never runs back (log 2). -/
def waitUntil (t : Nat) (s : State) : State := elapse (t - s.now) s

/-- One cycle of CK_CORE with no command waiting (log 1). -/
def tick (s : State) : State := elapse Config.unitsPerCore s

/-- The counter that a free value is applied to, moved on. -/
def nextFree (s : State) : State := { s with freeCtr := s.freeCtr + 1 }

/-! ### Pulses of the schedule (R298) -/

/-- TCFG.ROLE is MASTER (R286). -/
def isMaster (s : State) : Bool := fget s Pg.time F.TIME_TCFG_ROLE == 1

/-- Does the device make pulses? -/
def pulsing (s : State) : Bool :=
  if isMaster s then s.time.running && s.time.sched.period != 0 else s.time.state != .free && s.time.sched.period != 0

/-- Device time less PTIME, signed. -/
def fromP (s : State) (t : BitVec 64) : Int := (t - s.time.sched.ptime).toInt

/-- PT of the pulse `i` pulses after the schedule's own. -/
def ptOf (c : Schedule) (i : Int) : BitVec 64 := c.ptime + BitVec.ofInt 64 (i * c.period / 65536)

/-- The latest pulse of a schedule with PT at or before device time `d` after its PTIME. -/
def idxAt (period : Nat) (d : Int) : Int := ((d + 1) * 65536 - 1) / period

/-- The pulse that comes next: the one after the last pulse issued, or a later one whose time has passed already. -/
def nextIdx (s : State) : Int :=
  let c := s.time.sched
  max ((fromP s s.time.lastPtime * 65536 + c.period / 2) / c.period + 1) (idxAt c.period (fromP s s.time.dev))

/-- Time and domain number of the next pulse. -/
def nextPulse (s : State) : Option (BitVec 64 × Word) :=
  if pulsing s then some (ptOf s.time.sched (nextIdx s), s.time.sched.epoch + BitVec.ofInt 32 (nextIdx s)) else none

/-- Device time of the pulse that closes the epoch in progress has this many units to go. -/
def toPulse (s : State) : Option Int := (nextPulse s).map fun p => (p.1 - s.time.dev).toInt

/-! ### Summary conditions -/

/-- Has the ROM ended a start without an image (R319, R338)? -/
def romEnded (s : State) : Bool := s.boot.state == .noimage || s.boot.state == .recovery || s.boot.state == .halted

/-- Is a warm reset in progress: begun, and not yet at READY or at an end without an image (R328, R412)? -/
def inWarm (s : State) : Bool := s.boot.warm && !romEnded s

/-- The boot state (BSTAT.STATE): a warm reset comes to the boot ROM 200 µs after its start (R328). -/
def bootNow (s : State) : BState :=
  if s.boot.state == .warm && decide (s.boot.since + us 200 ≤ s.now) then .flashchk else s.boot.state

/-- The device is in ENTERING or SAFE (R405). -/
def inSafe (s : State) : Bool := s.safe.state != .normal

/-- Is the channel present: it answered training at this start (R35)? -/
def chPresent (s : State) (c : Nat) : Bool := (s.chan c).present

/-- The present channels, ascending. -/
def presentList (s : State) : List Nat := (List.range 64).filter (chPresent s)

/-- Does the TAP hold EXTEST, EXTEST_PULSE or EXTEST_TRAIN (R453)? -/
def tapHolds (s : State) : Bool :=
  match s.tap with
  | .extest => true
  | .extestPulse => true
  | .extestTrain => true
  | _ => false

/-- Is FAULT_N driven low (R409, R453)? -/
def fnDriven (s : State) : Bool := s.safe.fnDrv || tapHolds s

/-- Does the link carry traffic? While the clocks are off every port is stopped (R351), and under boundary scan none is admitted (R453). -/
def linkActive (s : State) (l : Nat) : Bool := (s.link l).state == .active && !clocksOff s && !tapHolds s

/-- Does the link carry work, in ACTIVE or in an exchange (R98, R104)? -/
def inService (s : State) (l : Nat) : Bool := ((s.link l).state == .active || (s.link l).state == .retire) && !clocksOff s

/-- Has the link gone to standby: its far end sends nothing until one end wakes it (R347, R348)? -/
def sleeping (k : Link) : Bool :=
  match k.standby with
  | .entered _ => true
  | _ => false

/-- Is the link in standby, or not yet back from it (R347, R348)? -/
def asleep (k : Link) : Bool :=
  match k.standby with
  | .entered _ => true
  | .waking _ _ => true
  | _ => false

end Sys2Proof.Machine
end

