-- ==== Sys2Proof/Machine/Operands.lean ====
section
/-!
DEFINITION. Bit fields, byte orders and the layouts of messages: every operand form of the block.
-/

namespace Sys2Proof.Machine

/-- Bits [lo + w − 1 : lo] of a number. -/
def ext (v lo w : Nat) : Nat := v / 2 ^ lo % 2 ^ w

/-- A number made of fields: each pair is the lowest bit and the value. -/
def pack (fs : List (Nat × Nat)) : Nat := fs.foldl (fun a f => a + f.2 * 2 ^ f.1) 0

/-- A 32-bit register value made of fields. -/
def packW (fs : List (Nat × Nat)) : Word := BitVec.ofNat 32 (pack fs)

/-- 1 for true. -/
def b2n (b : Bool) : Nat := if b then 1 else 0

/-- Two's complement in `w` bits. -/
def intBits (w : Nat) (i : Int) : Nat := (i % (2 ^ w : Int)).toNat

/-- The signed number that `w` bits hold. -/
def signedOf (w n : Nat) : Int := if 2 ^ (w - 1) ≤ n % 2 ^ w then (n % 2 ^ w : Int) - 2 ^ w else (n % 2 ^ w : Int)

/-- `n` bytes, least significant first. -/
def leBytes : Nat → Nat → List Byte
  | 0, _ => []
  | n + 1, v => BitVec.ofNat 8 v :: leBytes n (v / 256)

/-- The number that bytes make, least significant first. -/
def leNat : List Byte → Nat
  | [] => 0
  | b :: t => b.toNat + 256 * leNat t

/-- Exactly `n` bytes: the list cut or filled up with zeros. -/
def padTo : Nat → List Byte → List Byte
  | 0, _ => []
  | n + 1, [] => 0 :: padTo n []
  | n + 1, b :: t => b :: padTo n t

/-- Bytes i to i + n − 1; bytes past the end read as 0. -/
def slice (bs : List Byte) (i n : Nat) : List Byte := padTo n (bs.drop i)

/-- The little-endian number in bytes i to i + n − 1. -/
def leAt (bs : List Byte) (i n : Nat) : Nat := leNat (slice bs i n)

/-- A list cut into pieces of `n`; the last one may be shorter. Fuel is the length of the list. -/
def piecesFuel (α : Type) : Nat → Nat → List α → List (List α)
  | 0, _, _ => []
  | _ + 1, _, [] => []
  | k + 1, n, xs => xs.take n :: piecesFuel α k n (xs.drop n)

/-- A list cut into pieces of `n`. -/
def pieces {α : Type} (n : Nat) (xs : List α) : List (List α) := piecesFuel α xs.length n xs

/-- Bits of a mask that are set, ascending. -/
def bitsSet (w v : Nat) : List Nat := (List.range w).filter fun i => v.testBit i

/-- The number of set bits. -/
def popCount (w v : Nat) : Nat := (bitsSet w v).length

/-! ### Status and traffic class -/

/-- Table 4-6. -/
def Status.code : Status → Nat
  | .ok => 0
  | .stale => 1
  | .discarded => 2
  | .poisoned => 3
  | .denied => 4
  | .unsupported => 5
  | .busy => 6

/-- The code of TC (Table 4-4). Background never reaches a message. -/
def TClass.code : TClass → Nat
  | .bg => 0
  | .bulk => 0
  | .rt => 1
  | .kp => 2

/-- Priority order of the classes (R15, Table 1-3). -/
def TClass.rank : TClass → Nat
  | .bg => 0
  | .bulk => 1
  | .rt => 2
  | .kp => 3

/-! ### Message headers (R128 to R135) -/

/-- CPL and CPLD (R135). `region` is the region concerned where the field is valid. -/
def cplHdr (withData : Bool) (tag len : Nat) (cls : TClass) (st : Status) (detail : Nat) (region : Option Nat)
    (reg : Option Word) : BitVec 128 :=
  BitVec.ofNat 128 (pack [(120, if withData then 0x21 else 0x20), (111, tag), (105, len), (103, cls.code), (99, st.code),
    (88, detail), (80, region.getD 0), (79, b2n region.isSome), (78, b2n reg.isSome), (0, (reg.getD 0).toNat)])

/-- IRQ (R133). -/
def irqHdr (vec : Nat) (v : Vec) : BitVec 128 :=
  BitVec.ofNat 128 (pack [(120, 0x10), (111, vec), (103, if v.kp then 2 else 1), (102, b2n v.timev), (64, v.data.toNat),
    (0, v.addr.toNat)])

/-- XWR (R134). -/
def xwrHdr (queue len16 addr : Nat) (kp : Bool) : BitVec 128 :=
  BitVec.ofNat 128 (pack [(120, 0x11), (103, if kp then 2 else 1), (88, queue), (80, len16), (0, addr % 2 ^ 64)])

/-- Opcode of a header. -/
def hdrOpc (h : BitVec 128) : Nat := ext h.toNat 120 8

/-- Data slots that follow a message of the host interface (Table 4-5). -/
def hostSlots (h : BitVec 128) : Nat :=
  let len := ext h.toNat 105 6
  match hdrOpc h with
  | 0x02 => 4 * (len + 1)
  | 0x03 => 4 * (len + 1)
  | 0x10 => ext h.toNat 102 1
  | 0x11 => ext h.toNat 80 8 + 1
  | 0x21 => if ext h.toNat 78 1 = 1 then 0 else 4 * (len + 1)
  | _ => 0

/-- CRC-32 of R185: polynomial 0x04C1_1DB7 reflected, initial value and final complement all ones, as R185 gives. One byte. -/
def crc32Byte (c : Nat) (b : Byte) : Nat :=
  (List.range 8).foldl (fun a _ => if a % 2 = 1 then (a / 2).xor 0xEDB88320 else a / 2) (c.xor b.toNat)

/-- The running CRC-32 register over bytes. -/
def crc32Run (c : Nat) (bs : List Byte) : Nat := bs.foldl crc32Byte c

/-- CRC-32 of R185 over bytes. -/
def crc32 (bs : List Byte) : Nat := (crc32Run 0xFFFFFFFF bs).xor 0xFFFFFFFF

end Sys2Proof.Machine
end

