-- ==== Sys2Proof/Machine/Ecc.lean ====
section
/-!
DEFINITION. Codes: the field GF(2^8) of R113, the Reed-Solomon codes of the DRAM line (R205 to R207) and of the lane codeword
(R113, R114), CRC-64 of the flit (R115) and CRC-8 of the sideband (R385). Field elements are numbers below 256.
-/

namespace Sys2Proof.Machine

/-! ### The field -/

/-- Multiplication by α (R113: x^8 + x^4 + x^3 + x^2 + 1). -/
def gfDouble (a : Nat) : Nat := if 128 ≤ a then (2 * a).xor 0x11D else 2 * a

/-- Multiplication, bit by bit of the second factor. -/
def gfMulFuel : Nat → Nat → Nat → Nat
  | 0, _, _ => 0
  | k + 1, a, b => (if b % 2 = 1 then a else 0).xor (gfMulFuel k (gfDouble a) (b / 2))

def gfMul (a b : Nat) : Nat := gfMulFuel 8 a b

/-- α^k. -/
def gfPow : Nat → Nat
  | 0 => 1
  | k + 1 => gfDouble (gfPow k)

/-- The inverse, a^254. -/
def gfInv (a : Nat) : Nat :=
  let a2 := gfMul a a
  let a4 := gfMul a2 a2
  let a8 := gfMul a4 a4
  let a16 := gfMul a8 a8
  let a32 := gfMul a16 a16
  let a64 := gfMul a32 a32
  let a128 := gfMul a64 a64
  gfMul a128 (gfMul a64 (gfMul a32 (gfMul a16 (gfMul a8 (gfMul a4 a2)))))

/-- The value of a polynomial, lowest coefficient first. -/
def polyEval (p : List Nat) (x : Nat) : Nat := p.foldr (fun c a => c.xor (gfMul a x)) 0

/-- Sum of polynomials, lowest coefficient first. -/
def polyAdd : List Nat → List Nat → List Nat
  | [], q => q
  | p, [] => p
  | a :: p, b :: q => a.xor b :: polyAdd p q

/-- A polynomial times a constant and x^m. -/
def polyScale (c m : Nat) (p : List Nat) : List Nat := List.replicate m 0 ++ p.map (gfMul c)

/-- Product of polynomials. -/
def polyMul : List Nat → List Nat → List Nat
  | [], _ => []
  | a :: p, q => polyAdd (polyScale a 0 q) (0 :: polyMul p q)

/-- The generator with the roots α^0 to α^(n−1), highest coefficient first and without the leading 1. -/
def rsGen (n : Nat) : List Nat :=
  (((List.range n).foldl (fun p i => polyMul p [gfPow i, 1]) [1]).reverse).drop 1

/-- m(x)·x^n mod g(x): the check symbols, highest coefficient first. -/
def rsCheck (n : Nat) (msg : List Nat) : List Nat :=
  msg.foldl (fun r m =>
    List.zipWith Nat.xor (r.drop 1 ++ [0]) ((rsGen n).map (gfMul ((r.headD 0).xor m)))) (List.replicate n 0)

/-! ### Decoding -/

/-- The state of the Berlekamp-Massey iteration. -/
structure BmState where
  c : List Nat
  b : List Nat
  len : Nat
  m : Nat
  last : Nat

/-- One step with syndrome number `k`. -/
def bmStep (syn : List Nat) (st : BmState) (k : Nat) : BmState :=
  let d := (List.range (st.len + 1)).foldl (fun a i =>
    if i ≤ k then a.xor (gfMul (st.c.getD i 0) (syn.getD (k - i) 0)) else a) 0
  if d = 0 then { st with m := st.m + 1 }
  else
    let c' := polyAdd st.c (polyScale (gfMul d (gfInv st.last)) st.m st.b)
    if 2 * st.len ≤ k then { c := c', b := st.c, len := k + 1 - st.len, m := 1, last := d }
    else { st with c := c', m := st.m + 1 }

/-- The error locator of a list of syndromes. -/
def bmLocator (syn : List Nat) : BmState :=
  (List.range syn.length).foldl (bmStep syn) { c := [1], b := [1], len := 0, m := 1, last := 1 }

/-- Errors of a word of `n` symbols with at most `t` errors: powers of x and error values; nothing when they are not locatable
as 1 to t errors. -/
def rsErrors (n t : Nat) (syn : List Nat) : Option (List (Nat × Nat)) :=
  let st := bmLocator syn
  let ps := (List.range n).filter fun p => polyEval st.c (gfInv (gfPow p)) = 0
  if st.len = 0 ∨ t < st.len ∨ ps.length ≠ st.len then none
  else
    let om := (polyMul syn st.c).take syn.length
    let dl := (List.range st.c.length).map fun i => if i % 2 = 0 then st.c.getD (i + 1) 0 else 0
    some (ps.map fun p =>
      let x := gfPow p
      let xi := gfInv x
      (p, gfMul x (gfMul (polyEval om xi) (gfInv (polyEval dl xi)))))

/-- Syndromes of the difference between the received and the recomputed check symbols (highest coefficient first). -/
def rsSyndromes (rem : List Nat) : List Nat :=
  (List.range rem.length).map fun i => polyEval rem.reverse (gfPow i)

/-! ### The DRAM line -/

/-- The 32-bit line number as four symbols, most significant first (R205). -/
def lineSyms (n : Nat) : List Nat := [n / 2 ^ 24 % 256, n / 2 ^ 16 % 256, n / 2 ^ 8 % 256, n % 256]

/-- The true check bytes of 64 bytes stored as line number `n` (R205). -/
def lineCheck (n : Nat) (data : List Byte) : List Byte :=
  (rsCheck 4 (lineSyms n ++ (padTo 64 data).map BitVec.toNat)).map (BitVec.ofNat 8)

/-- The check bytes of a poison codeword of line `n` (R207). -/
def poisonCheck (n : Nat) : List Byte := (lineCheck n []).map (· ^^^ 0xA5)

/-- What the decoder makes of a codeword (Table 7-8). -/
inductive Dec where
  | clean
  | poison
  /-- Corrected: positions of the bad bytes (0 to 63 data, 64 to 67 check) and the corrected data and check bytes. -/
  | corrected (pos : List Nat) (data chk : List Byte)
  | uncor
  | addrErr
deriving DecidableEq, Repr

/-- Decode a codeword in CORRECT2 mode (`detect` false) or DETECT mode (R206, Table 7-8). -/
def decodeLine (detect : Bool) (n : Nat) (data chk : List Byte) : Dec :=
  let rem := List.zipWith (fun a b => (a ^^^ b).toNat) (lineCheck n data) (padTo 4 chk)
  if rem = [0, 0, 0, 0] then .clean
  else if rem = [0xA5, 0xA5, 0xA5, 0xA5] then .poison
  else
    match rsErrors 72 2 (rsSyndromes rem) with
    | none => .uncor
    | some es =>
      if es.any (fun e => 68 ≤ e.1) then .addrErr
      else if detect then .uncor
      else
        let fix (i : Nat) (b : Byte) : Byte := es.foldl (fun a e => if 67 - e.1 = i then a ^^^ BitVec.ofNat 8 e.2 else a) b
        .corrected ((es.map fun e => 67 - e.1).reverse)
          ((List.range 64).map fun i => fix i ((padTo 64 data).getD i 0))
          ((List.range 4).map fun i => fix (64 + i) ((padTo 4 chk).getD i 0))

/-! ### The lane codeword -/

/-- One interleave of a codeword: the bytes of one parity (R113). -/
def everyOther : Bool → List Byte → List Nat
  | _, [] => []
  | true, _ :: t => everyOther false t
  | false, b :: t => b.toNat :: everyOther true t

/-- The 16 check bytes of a flit's 256 bytes (R113). -/
def fecCheck (flit : List Byte) : List Byte :=
  let a := rsCheck 8 (everyOther false flit)
  let b := rsCheck 8 (everyOther true flit)
  (List.zipWith (fun x y => [BitVec.ofNat 8 x, BitVec.ofNat 8 y]) a b).flatten

/-- Decode one interleave of 136 symbols: its corrected symbols and how many were corrected, or nothing (R114). -/
def fecInterleave (sym : List Nat) : Option (List Nat × Nat) :=
  let rem := List.zipWith Nat.xor (rsCheck 8 (sym.take 128)) (sym.drop 128)
  if rem.all (· == 0) then some (sym.take 128, 0)
  else
    match rsErrors 136 4 (rsSyndromes rem) with
    | none => none
    | some es =>
      some ((List.range 128).map fun i => es.foldl (fun a e => if 135 - e.1 = i then a.xor e.2 else a) (sym.getD i 0), es.length)

/-- Decode a codeword of 272 bytes: the flit's 256 bytes and the number of corrected bytes (R114). -/
def fecDecode (cw : List Byte) : Option (List Byte × Nat) :=
  match fecInterleave (everyOther false (padTo 272 cw)), fecInterleave (everyOther true (padTo 272 cw)) with
  | some (a, m), some (b, k) =>
    some ((List.zipWith (fun x y => [BitVec.ofNat 8 x, BitVec.ofNat 8 y]) a b).flatten, m + k)
  | _, _ => none

/-- The running register of the CRC-64 of R115 over one byte. -/
def crc64Byte (c : Nat) (b : Byte) : Nat :=
  (List.range 8).foldl (fun a _ => if a % 2 = 1 then (a / 2).xor 0xC96C5795D7870F42 else a / 2) (c.xor b.toNat)

/-- CRC-64 of R115 over bytes, as the number whose bit 0 is the coefficient of x^63. -/
def crc64 (bs : List Byte) : Nat :=
  (bs.foldl crc64Byte (2 ^ 64 - 1)).xor (2 ^ 64 - 1)

/-- CRC-8 of R385, continued from `c` over one byte. -/
def crc8Byte (c : Nat) (b : Byte) : Nat :=
  (List.range 8).foldl (fun a _ => if 128 ≤ a then ((2 * a) % 256).xor 0x07 else 2 * a) (c.xor b.toNat)

/-- CRC-8 of R385 over bytes. -/
def crc8 (bs : List Byte) : Nat := bs.foldl crc8Byte 0

end Sys2Proof.Machine
end

