-- ==== Sys2Proof/Machine/Flags.lean ====
section
/-!
DEFINITION. Event flags, captures and vectors: setting and clearing the bits of EVT (R427, R428, R6), triggering a vector
(R166 to R168), and writing the capture buffer of the fault log (R413).
-/

namespace Sys2Proof.Machine

/-- The vector of a page's events (Tables 5-6 and 16-4). -/
def pageVec (page : Nat) : Option Nat :=
  if page < 0x07 then some (384 + page)
  else if page = 0x07 then none
  else if page < 0x0C then some (383 + page)
  else if page < 0x10 then none
  else if page < 0x20 then some (272 + (page - 0x10))
  else if page < 0x28 then some (288 + (page - 0x20))
  else if page < 0x40 then none
  else if page < 0x80 then some (304 + (page - 0x40))
  else if page < 0x88 then some (296 + (page - 0x80))
  else if page < 0x90 then none
  else if page < 0xA0 then some (368 + (page - 0x90))
  else if page = 0xC0 then some 395
  else if page = 0xC1 then some 396
  else none

/-- Set PENDING and add to the gather count; the trigger that finds the count at 0 starts HOLD (R167). -/
def triggerOnly (v : Nat) (kp : Bool) (s : State) : State :=
  modVec v (fun e => { e with
    pending := true
    gather := min 255 (e.gather + 1)
    kp := e.kp || kp
    heldSince := if e.gather = 0 then some s.now else e.heldSince
    holdDone := if e.gather = 0 then false else e.holdDone }) s

/-- Does an unmasked message of vector `v` wait for a port that is not ACTIVE, with the wait not yet reported (R168)? -/
def waitsForPort (s : State) (v : Nat) : Bool :=
  let e := s.vec v
  e.pending && !e.mask && !e.waited && !linkActive s e.dport

/-- Set bits of one event register without any trigger: EVT, EVTCNT and the captures (R427, R428). -/
def setEvt (page bit : Nat) (c0 c1 : Option Word) (s : State) : State :=
  modHdr page (fun h => { h with
    evt := h.evt ||| BitVec.ofNat 32 (2 ^ bit)
    evtCnt := if h.evt.getLsbD bit then h.evtCnt else min 65535 (h.evtCnt + 1)
    cap0 := c0.getD h.cap0
    cap1 := c1.getD h.cap1 }) s

/-- Would setting this bit trigger the page's vector: is it clear now and enabled (R166)? -/
def evtFires (s : State) (page bit : Nat) : Bool :=
  let h := s.hdr page
  !h.evt.getLsbD bit && h.evtEn.getLsbD bit

/-- Report the wait of vector `v` in VEC.EVT.WAITPORT once (R168). The answer says whether V391 is to be triggered. -/
def reportWait (v : Nat) (s : State) : State × Bool :=
  if waitsForPort s v then
    (setEvt Pg.vec E.VEC_WAITPORT (some (BitVec.ofNat 32 v)) (some 0) (modVec v (fun e => { e with waited := true }) s),
      evtFires s Pg.vec E.VEC_WAITPORT)
  else (s, false)

/-- Report the wait of `v`, and that of V391 when the report triggers it. -/
def checkWait (v : Nat) (s : State) : State :=
  if (reportWait v s).2 then (reportWait 391 (triggerOnly 391 false (reportWait v s).1)).1 else (reportWait v s).1

/-- Trigger a vector (R167, R168). -/
def trigger (v : Nat) (kp : Bool) (s : State) : State := checkWait v (triggerOnly v kp s)

/-- Set an event bit of a page: its capture words (`none` leaves a word as it is), its count, and its vector when the bit goes
from 0 to 1 and is enabled (R166, R427, R428). -/
def raiseCaps (page bit : Nat) (c0 c1 : Option Word) (s : State) : State :=
  match pageVec page with
  | some v => if evtFires s page bit then trigger v false (setEvt page bit c0 c1 s) else setEvt page bit c0 c1 s
  | none => setEvt page bit c0 c1 s

/-- Set an event bit of a page whose captures are ERR_CAP0 = `c0` and ERR_CAP1 = `c1`. -/
def raise (page bit : Nat) (c0 c1 : Word) (s : State) : State := raiseCaps page bit (some c0) (some c1) s

/-- Set an event of a page whose ERR_CAP0 holds the event's bit number in bits 31..27 and other fields below. -/
def raiseN (page bit : Nat) (low : Nat) (s : State) : State := raise page bit (packW [(27, bit), (0, low)]) 0 s

/-- The header of a page after a write of 1s to bits of EVT (R5). -/
def clearEvt (page : Nat) (mask : Word) (s : State) : State :=
  modHdr page (fun h => { h with evt := h.evt &&& ~~~mask }) s

/-- STAT of a page (Table 16-3). -/
def statOf (h : PageHdr) : Word := packW [(31, b2n (h.evt &&& h.evtEn != 0)), (0, h.evtCnt)]

/-! ### The capture buffer -/

/-- The highest sensor reading (R401), 0 before the first sample. -/
def tempMax (s : State) : Int := s.safe.temps.foldl max (s.safe.temps.headD 0)

/-- SAFE.ERR_CAP0 for a SAFE event (R423). -/
def safeCap (bit mech page unit : Nat) : Word := packW [(27, bit), (16, mech), (8, page), (0, unit)]

/-- Set a SAFE event (R423). -/
def safeEvt (bit mech page unit : Nat) (s : State) : State := raise Pg.safe bit (safeCap bit mech page unit) 0 s

/-- The entry that a capture fills now (Table 15-7). -/
def captureOf (mech scope unit action page bit : Nat) (s : State) : Capture :=
  { seq := s.safe.nextSeq, time := s.time.dev, epoch := s.merid.epoch, mech := mech, scope := scope, unit := unit
    action := action, page := page, bit := bit, temp := tempMax s, cap0 := (s.hdr page).cap0, cap1 := (s.hdr page).cap1 }

/-- Write one entry of the capture buffer; a full buffer drops it, counts it in LOST, and sets LOG_LOST when LOST leaves 0
(R413). -/
def logEvent (mech scope unit action page bit : Nat) (s : State) : State :=
  if s.safe.capture.length < 16 then
    { s with safe := { s.safe with
        capture := s.safe.capture ++ [captureOf mech scope unit action page bit s]
        nextSeq := s.safe.nextSeq + 1
        lastMech := mech } }
  else
    onlyIf (s.safe.lost == 0) (safeEvt E.SAFE_LOG_LOST mech page unit)
      { s with safe := { s.safe with lost := min 255 (s.safe.lost + 1) } }

end Sys2Proof.Machine
end

