-- ==== Sys2Proof/Machine/Frame.lean ====
section
/-!
DEFINITION. The frame store: where a line of a channel lies (R202, R203, R226), DRAM contents and block records, the layout of the
memory space (R33 to R37), regions, copies and the footprints of king-post regions (R39 to R68).
-/

namespace Sys2Proof.Machine

/-! ### Lines and rows of a channel -/

/-- Rank, bank and row of a line of a channel (Table 7-5). -/
def coords (ranks n : Nat) : Nat × Nat × Nat :=
  let a := 64 * n
  let row := if ranks = 2 then a / 2 ^ 16 else a / 2 ^ 15
  (if ranks = 2 then ext a 15 1 else 0, (ext a 11 4).xor (row % 16), row)

/-- Bank of a line, counted over the ranks. -/
def bankOf (ranks n : Nat) : Nat := (coords ranks n).1 * 16 + (coords ranks n).2.1

/-- Key of the row that holds a line: row · 32 + 16 · rank + bank. -/
def rowKey (ranks n : Nat) : Nat := (coords ranks n).2.2 * 32 + bankOf ranks n

/-- First line of a row given by its key. -/
def rowFirstLine (ranks key : Nat) : Nat :=
  let row := key / 32
  let bx := (key % 16).xor (row % 16)
  (if ranks = 2 then row * 2 ^ 16 + (key / 16 % 2) * 2 ^ 15 + bx * 2 ^ 11 else row * 2 ^ 15 + bx * 2 ^ 11) / 64

/-- First line of spare row `p`: X + 273U + 2,048p, with X = 4,096U (Table 7-6). -/
def spareLine (k : Chan) (p : Nat) : Nat := (4369 * k.ublk + 2048 * p) / 64

/-- Key of the row that a redirect entry names. -/
def Redirect.key (e : Redirect) : Nat := e.row * 32 + e.rank * 16 + e.bank

/-- The redirects in force: first line of the row, first line of its spare row, and how many lines have moved (R226). -/
def redirects (k : Chan) : List (Nat × Nat × Nat) :=
  (k.red.filterMap fun e => if e.2.valid then some (rowFirstLine k.ranks e.2.key, spareLine k e.2.spare, 32) else none) ++
  match k.rowCopy with
  | some rc => [(rowFirstLine k.ranks (rc.row * 32 + rc.rank * 16 + rc.bank), spareLine k (tget ({} : Redirect) k.red rc.entry).spare, rc.next)]
  | none => []

/-- Where line `n` is stored: its own place, or its place in a spare row (R226). -/
def physLine (k : Chan) (n : Nat) : Nat :=
  match (redirects k).find? fun d => decide (d.1 ≤ n) && decide (n < d.1 + d.2.2) with
  | some d => d.2.1 + (n - d.1)
  | none => n

/-- The line that is stored at the place of line `m`, when `m` lies in a spare row in use. -/
def lineAt (k : Chan) (m : Nat) : Nat :=
  match (redirects k).find? fun d => decide (d.2.1 ≤ m) && decide (m < d.2.1 + d.2.2) with
  | some d => d.1 + (m - d.2.1)
  | none => m

/-- The check line that holds the check bytes of line `n` (Table 7-6). -/
def checkLine (k : Chan) (n : Nat) : Nat := 64 * k.ublk + n / 16

/-- The line of the record check area that holds the check bytes of record line `v` (Table 7-6). What it holds follows from the record line
(see `recLineBytes`), so no copy of it stands in the state. -/
def recCheckLine (k : Chan) (v : Nat) : Nat := 68 * k.ublk + k.ublk / 4 + v / 16

/-- The record line that holds the record of block `u` (Table 7-6). -/
def recLine (k : Chan) (u : Nat) : Nat := 68 * k.ublk + u / 4

/-! ### DRAM contents

A cell of `State.mem` is keyed by channel · 2^34 plus the channel data address for a byte of a data line or of a spare row, and by
channel · 2^34 + 2^33 + the offset from X, which is 4 · line number + i, for check byte i in the check area (Table 7-6, log 5). Block
records stand in `State.recs`, keyed by channel and block, or by their place in a spare row. -/

/-- The key of byte `i` of the line stored at the place of line `m` of channel `c`. -/
def dataKey (c m i : Nat) : Nat := c * 2 ^ 34 + 64 * m + i

/-- The key of check byte `i` of line `n` of channel `c` in the check area. -/
def chkKey (c n i : Nat) : Nat := c * 2 ^ 34 + 2 ^ 33 + 4 * n + i

/-- The key of check byte `i` of line `n`: in the check area, or in the spare row that its check line has moved to. -/
def chkAt (k : Chan) (c n i : Nat) : Nat :=
  let m := physLine k (checkLine k n)
  if m = checkLine k n then chkKey c n i else dataKey c m (4 * (n % 16) + i)

/-- What an unlisted byte reads as: 0 for data, the true check byte of a line of zeros for check data (log 5). -/
def memDefault (k : Nat) : Byte :=
  if k % 2 ^ 34 < 2 ^ 33 then 0 else (lineCheck (k % 2 ^ 33 / 4) []).getD (k % 4) 0

/-- Read one byte. -/
def memRead (m : List Host.Cell) (k : Nat) : Byte := tget (memDefault k) m k

/-- Write one byte, keeping the canonical form. -/
def memWrite (m : List Host.Cell) (k : Nat) (b : Byte) : List Host.Cell := cset m k (memDefault k) b

/-- Addresses strictly rising. -/
def keysRising : List Host.Cell → Bool
  | (a, _) :: (b, v) :: t => a < b && keysRising ((b, v) :: t)
  | _ => true

/-- The canonical form of the memory: addresses strictly rising and no entry equal to what an unlisted address reads as. -/
def Memory.wf (m : List Host.Cell) : Bool := keysRising m && m.all fun e => e.2 != memDefault e.1

/-- Write bytes at consecutive keys. -/
def memWriteList (m : List Host.Cell) (k : Nat) : List Byte → List Host.Cell
  | [] => m
  | b :: t => memWriteList (memWrite m k b) (k + 1) t

/-- The 64 stored bytes of a line. -/
def lineData (s : State) (c n : Nat) : List Byte :=
  let m := physLine (s.chan c) n
  (List.range 64).map fun i => memRead s.mem (dataKey c m i)

/-- The 4 stored check bytes of a line. -/
def lineChk (s : State) (c n : Nat) : List Byte := (List.range 4).map fun i => memRead s.mem (chkAt (s.chan c) c n i)

/-- Store a line's 64 data bytes and 4 check bytes as they are. -/
def putRaw (c n : Nat) (data chk : List Byte) (s : State) : State :=
  { s with mem := memWriteList (memWriteList s.mem (dataKey c (physLine (s.chan c) n) 0) (padTo 64 data)) (chkAt (s.chan c) c n 0) (padTo 4 chk) }

/-- Store a line with its true check bytes (R205). -/
def putLine (c n : Nat) (data : List Byte) (s : State) : State := putRaw c n data (lineCheck n data) s

/-- Store a poison codeword (R207). -/
def putPoison (c n : Nat) (s : State) : State := putRaw c n [] (poisonCheck n) s

/-- Invert bits of one symbol of a codeword of line `n`: 0 to 63 data, 64 to 67 check, 68 to 71 line number (R205). -/
def applyErr (dc : List Byte × List Byte) (pos : Nat) (mask : Byte) : List Byte × List Byte :=
  if pos < 64 then (dc.1.set pos (dc.1.getD pos 0 ^^^ mask), dc.2)
  else if pos < 68 then (dc.1, dc.2.set (pos - 64) (dc.2.getD (pos - 64) 0 ^^^ mask))
  else (dc.1, List.zipWith (· ^^^ ·) dc.2 (lineCheck (mask.toNat * 2 ^ (8 * (71 - pos))) []))

/-! ### Block records -/

/-- The key of the record of block `u` in the record area of channel `c`. -/
def recKey (c u : Nat) : Nat := c * 2 ^ 21 + u

/-- The key of the record of block `u`: in the record area, or in the spare row that its record line has moved to. -/
def recPlace (k : Chan) (c u : Nat) : Nat :=
  let m := physLine k (recLine k u)
  if m = recLine k u then recKey c u else 2 ^ 27 + c * 2 ^ 17 + 4 * (m - spareLine k 0) + u % 4

/-- The record of block `u` of channel `c`. -/
def State.brec (s : State) (c u : Nat) : Rec := tget {} s.recs (recPlace (s.chan c) c u)

def setRec (c u : Nat) (r : Rec) (s : State) : State := { s with recs := cset s.recs (recPlace (s.chan c) c u) {} r }

/-- The channel and block of the record under a key of `State.recs`, when that place is in use. -/
def recOwner (s : State) (key : Nat) : Option (Nat × Nat) :=
  let c := if key < 2 ^ 27 then key / 2 ^ 21 else (key - 2 ^ 27) / 2 ^ 17
  let k := s.chan c
  let o := (key - 2 ^ 27) % 2 ^ 17
  let u := if key < 2 ^ 27 then key % 2 ^ 21 else 4 * (lineAt k (spareLine k 0 + o / 4) - 68 * k.ublk) + o % 4
  if recPlace k c u = key then some (c, u) else none

/-- The listed records in use, as channel, block and record. -/
def liveRecs (s : State) : List (Nat × Nat × Rec) :=
  s.recs.filterMap fun e => match recOwner s e.1 with | some l => some (l.1, l.2, e.2) | none => none

/-- The channel and line that a cell of the memory belongs to, when its place is in use. -/
def cellLine (s : State) (key : Nat) : Option (Nat × Nat) :=
  let c := key / 2 ^ 34
  let o := key % 2 ^ 34
  let k := s.chan c
  if o < 2 ^ 33 then
    let n := lineAt k (o / 64)
    if physLine k n ≠ o / 64 then none
    else if 64 * k.ublk ≤ n ∧ n ≠ o / 64 then some (c, 16 * (n - 64 * k.ublk) + o % 64 / 4)
    else some (c, n)
  else
    let n := (o - 2 ^ 33) / 4
    if physLine k (checkLine k n) = checkLine k n then some (c, n) else none

/-- The 16 bytes of a record of a block whose region is aged or not (Table 7-7). -/
def recBytes (aged : Bool) (r : Rec) : List Byte :=
  leBytes 4 r.tag.toNat ++ leBytes 8 r.lw.toNat ++ [BitVec.ofNat 8 (b2n r.ancient + 2 * b2n aged), 0, 0, 0]

/-- The record that 16 bytes hold. -/
def recOfBytes (bs : List Byte) : Rec :=
  { tag := BitVec.ofNat 32 (leAt bs 0 4), lw := BitVec.ofNat 64 (leAt bs 4 8), ancient := (bs.getD 12 0).getLsbD 0 }

/-! ### The layout of the memory space -/

/-- The derived sizes of R33; units are 2 MiB. -/
structure Geom where
  n : Nat
  k : Nat
  s : Nat
  umin : Nat
  reserve : Nat
  g : Nat
  stripes : Nat
  isize : Nat
  asize : Nat
  memsize : Nat
deriving DecidableEq, Repr

/-- The smallest U of the present channels (R34). -/
def uMin (s : State) : Nat :=
  match (presentList s).map fun c => (s.chan c).ublk with
  | [] => 0
  | u :: t => t.foldl min u

/-- R33. Before the slot table is built every size is 0. -/
def geom (s : State) : Geom :=
  let n := (presentList s).length
  if !s.built || n == 0 then ⟨0, 0, 0, 0, fget s Pg.rgn F.RGN_SPLIT_RESERVE, 0, 0, 0, 0, 0⟩
  else
    let k := 256 / n
    let reserve := fget s Pg.rgn F.RGN_SPLIT_RESERVE
    let g := uMin s - reserve * 512
    let stripes := g / k
    let isize := stripes * (n * k) / 512
    ⟨n, k, n * k, uMin s, reserve, g, stripes, isize, n * reserve, isize + n * reserve⟩

/-- The present channels sorted by position within the bay, then by bay (R35). -/
def slotOrder (s : State) : List Nat :=
  (List.range 64).filterMap fun i => let c := 8 * (i % 8) + i / 8; if chPresent s c then some c else none

/-- The slot table of R35: channel and order number of each slot in use. -/
def slotsOf (s : State) : List (Nat × Nat) :=
  let l := slotOrder s
  if l.isEmpty then []
  else (List.range (l.length * (256 / l.length))).map fun i => (l.getD (i % l.length) 0, i / l.length)

/-- R36: channel and channel-local block of a block of the interleaved part. -/
def mapInterleaved (s : State) (b : Nat) : Nat × Nat :=
  let q := geom s
  let t := b / q.s
  let e := s.slots.getD ((b % q.s + t % q.s) % q.s) (0, 0)
  (e.1, t * q.k + e.2)

/-- Present channels of the bays in a set, ascending (R37). -/
def baysChans (s : State) (set : Nat) : List Nat := (presentList s).filter fun c => set.testBit (c / 8)

/-- The channels that hold a footprint of a region in the reserve (R37, R62). -/
def resChans (s : State) (r : Region) (mirror : Bool) : List Nat :=
  if r.kp then baysChans s (2 ^ (if mirror then r.mbay else r.pbay)) else baysChans s r.bayset.toNat

/-- Blocks of one copy. -/
def Region.blocks (r : Region) : Nat := r.size * 512

/-- Is the region stored in the reserve (R38)? -/
def Region.inReserve (r : Region) : Bool := r.kp || r.pinned

/-- Is the region epoch-buffered? -/
def Region.buffered (r : Region) : Bool := 2 ≤ r.copies

/-- Channel and channel-local block of block `blk` of copy `copy` of a region's footprint (R36, R37, R62). -/
def regionLoc (s : State) (r : Region) (mirror : Bool) (copy blk : Nat) : Nat × Nat :=
  let i := copy * r.blocks + blk
  if r.inReserve then
    let l := resChans s r mirror
    (l.getD (i % l.length) 0, (geom s).g + r.resoff * 512 + i / l.length)
  else mapInterleaved s (r.base * 512 + i)

/-- The copy and block of a region that a channel-local block holds, if any: the inverse of `regionLoc`. -/
def regionBlockAt (s : State) (r : Region) (mirror : Bool) (c u : Nat) : Option (Nat × Nat) :=
  let q := geom s
  let total := r.copies * r.blocks
  if r.inReserve then
    let l := resChans s r mirror
    let idx := l.findIdx (· == c)
    let base := q.g + r.resoff * 512
    let i := (u - base) * l.length + idx
    if idx < l.length ∧ base ≤ u ∧ i < total then some (i / r.blocks, i % r.blocks) else none
  else
    let slot := s.slots.findIdx (· == (c, u % q.k))
    let t := u / q.k
    let b := t * q.s + (slot + q.s - t % q.s) % q.s
    if slot < q.s ∧ r.base * 512 ≤ b ∧ b - r.base * 512 < total then
      some ((b - r.base * 512) / r.blocks, (b - r.base * 512) % r.blocks)
    else none

/-- Footprints of a region: the primary one, and the mirror of a king-post region. -/
def Region.feet (r : Region) : List Bool := if r.kp then [false, true] else [false]

/-- The enabled region, footprint, copy and block that a channel-local block belongs to. -/
def blockOwner (s : State) (c u : Nat) : Option (Nat × Bool × Nat × Nat) :=
  s.regions.findSome? fun e =>
    if !e.2.en then none
    else e.2.feet.findSome? fun m =>
      match regionBlockAt s e.2 m c u with
      | some (cp, b) => some (e.1, m, cp, b)
      | none => none

/-- AGED of a block: does it belong to an aged region (Table 7-7)? -/
def agedAt (s : State) (c u : Nat) : Bool :=
  match blockOwner s c u with
  | some o => (s.region o.1).aged
  | none => false

/-- The 64 bytes of record line `v`: the records of blocks 4v to 4v + 3 (Table 7-6). Its check bytes, at X + 272U + 4v, are always
those of the line as it stands; no bytes stand for a poison codeword (R332). -/
def recLineBytes (s : State) (c v : Nat) : List Byte :=
  if (List.range 4).any fun i => (s.brec c (4 * v + i)).bad then []
  else ((List.range 4).map fun i => recBytes (agedAt s c (4 * v + i)) (s.brec c (4 * v + i))).flatten

/-- The enabled region whose footprint holds a memory address, with its number. -/
def regionOf (s : State) (addr : Nat) : Option (Nat × Region) :=
  s.regions.find? fun e => e.2.en && e.2.base ≤ addr / 2 ^ 21 && addr / 2 ^ 21 < e.2.base + e.2.copies * e.2.size

/-- Does the address lie in the shadow range of its region (R39)? -/
def inShadow (r : Region) (addr : Nat) : Bool := r.base + r.size ≤ addr / 2 ^ 21

/-- Block of a copy that an address of the region names. -/
def regionBlk (r : Region) (addr : Nat) : Nat := addr / 4096 - r.base * 512

/-- Is the channel in the failed state? -/
def chFailed (s : State) (c : Nat) : Bool := (s.chan c).state == .failed

/-- Do accesses wait at the ordering points of this channel (R209, R223, R229, R332)? -/
def chHolds (s : State) (c : Nat) : Bool :=
  match (s.chan c).state with
  | .ready => false
  | .powerdown => false
  | _ => true

/-! ### Copies -/

/-- Index of the copy with a role. -/
def Region.idxOf (r : Region) (role : Role) : Option Nat :=
  let i := r.cps.findIdx fun c => c.role == role
  if i < r.cps.length then some i else none

/-- The visible copy. -/
def Region.vis (r : Region) : Nat := (r.idxOf .visible).getD 0

/-- Copy `i`. -/
def Region.cp (r : Region) (i : Nat) : Copy := r.cps.getD i {}

/-- Replace copy `i`. -/
def Region.setCp (r : Region) (i : Nat) (c : Copy) : Region := { r with cps := lset {} r.cps i c }

/-- Put a number into a list that is ordered by a key. -/
def insertKey (key : Nat → Nat) (x : Nat) : List Nat → List Nat
  | [] => [x]
  | y :: t => if key x ≤ key y then x :: y :: t else y :: insertKey key x t

/-- Pending copies in commit order. -/
def Region.pendings (r : Region) : List Nat :=
  ((List.range r.cps.length).filter fun i => (r.cp i).role == .pending).foldr (insertKey fun i => (r.cp i).ord.getD 0) []

/-- Is the content of `a` older than that of `b` (R46)? -/
def copyOlder (a b : Copy) : Bool :=
  match a.ord, b.ord with
  | none, none => false
  | none, some _ => true
  | some _, none => false
  | some x, some y => x < y

/-- The idle copy whose content is oldest, the lowest-numbered among equals (R46). -/
def Region.oldestIdle (r : Region) : Option Nat :=
  (List.range r.cps.length).foldl (fun best i =>
    if (r.cp i).role == .idle then
      match best with
      | none => some i
      | some b => if copyOlder (r.cp i) (r.cp b) then some i else some b
    else best) none

/-- The copy that a write of the writer goes to, or would open (R46); for a plain region the one copy. -/
def Region.writeCopy (r : Region) : Option Nat :=
  if !r.buffered then some 0
  else
    match r.idxOf .writable with
    | some i => some i
    | none =>
      match r.oldestIdle with
      | some i => if (r.cp i).pins = 0 then some i else none
      | none => none

/-- The block of copy `copy` of a region that a channel-local block holds in either footprint. -/
def blockInCopy (s : State) (r : Region) (copy c u : Nat) : Option Nat :=
  r.feet.findSome? fun m =>
    match regionBlockAt s r m c u with
    | some (k, b) => if k = copy then some b else none
    | none => none

/-- The record line of block `u` has changed: where the record cache holds it, or will, it must be written back (R208). -/
def dirtyRec (c u : Nat) (s : State) : State :=
  let n := recLine (s.chan c) u
  modChan c (fun k => { k with
    recCache := k.recCache.map fun l => if l.n = n then { l with dirty := true } else l
    sideq := k.sideq.map fun o => if o.n = n ∧ o.back = false then { o with dirty := true } else o }) s

/-- Change a record at once, as the opening of a copy and a flip change those of a whole copy. -/
def changeRec (c u : Nat) (r : Rec) (s : State) : State := dirtyRec c u (setRec c u r s)

/-- Change the records of one copy of a region that are listed, with their block number. -/
def mapCopyRecs (r : Region) (copy : Nat) (f : Nat → Rec → Rec) (s : State) : State :=
  forAll (liveRecs s) (fun e t =>
    match blockInCopy s r copy e.1 e.2.1 with
    | some b => changeRec e.1 e.2.1 (f b e.2.2) t
    | none => t) s

/-- Open copy `i` of a region for writing: it becomes the writable copy and its line-write maps are cleared (R46). -/
def openCopy (rn i : Nat) (s : State) : State :=
  let r := s.region rn
  setRegion rn (r.setCp i { (r.cp i) with role := .writable, base := (r.cp i).ord, ffDone := false, touch := false, late := false })
    (mapCopyRecs r i (fun _ e => { e with lw := 0 }) s)

/-- Add or remove pins of a copy (R47). -/
def pinCopy (rn i : Nat) (add : Bool) (s : State) : State :=
  modRegion rn (fun r =>
    if i < r.cps.length then r.setCp i { (r.cp i) with pins := if add then (r.cp i).pins + 1 else (r.cp i).pins - 1 } else r) s

/-- Pins on copies that are not visible (RSTAT.OLDPINS). -/
def Region.oldPins (r : Region) : Nat :=
  (r.cps.filter fun c => c.role != .visible).foldl (fun a c => a + c.pins) 0

/-! ### King-post footprints -/

/-- Footprints that serve a read: both while DUAL, the surviving one otherwise (R66, R67). -/
def Region.readFeet (r : Region) : List Bool :=
  if !r.kp then [false]
  else match r.kpState with
    | .dual => [false, true]
    | _ => [!r.kpLost]

/-- Footprints that a write goes to (R64, R67). -/
def Region.writeFeet (r : Region) : List Bool :=
  if !r.kp then [false]
  else match r.kpState with
    | .single => [!r.kpLost]
    | _ => [false, true]

/-- Where each footprint of an access lies: footprint, channel and first channel line number. -/
def footLines (s : State) (r : Region) (feet : List Bool) (cp addr : Nat) : List (Bool × Nat × Nat) :=
  feet.map fun m =>
    let loc := regionLoc s r m cp (regionBlk r addr)
    (m, loc.1, loc.2 * 64 + addr / 64 % 64)

/-- The copy that an access goes to: the one chosen beforehand, else the writable or the visible one. -/
def accCopy (r : Region) (a : Acc) : Nat := if a.chosen then a.copy else if a.write then r.writeCopy.getD 0 else r.vis

/-- Where the footprints of an access lie (R64, R66). -/
def accFeet (s : State) (a : Acc) : List (Bool × Nat × Nat) :=
  let r := s.region a.region
  footLines s r (if a.write then r.writeFeet else r.readFeet) (accCopy r a) a.addr

/-- Set an RGN event (R81). -/
def rgnEvt (bit rn : Nat) (s : State) : State := raise Pg.rgn bit (packW [(8, bit), (0, rn)]) 0 s

/-- Put every king-post region that holds part of a footprint in the channel into SINGLE on the other footprint (R67). -/
def kpSingleOne (c rn : Nat) (s : State) : State :=
  let r := s.region rn
  if r.en && r.kp && (resChans s r false).contains c && r.kpState == .dual then
    rgnEvt E.RGN_KP_SINGLE rn (setRegion rn { r with kpState := .single, kpLost := false } s)
  else if r.en && r.kp && (resChans s r true).contains c && r.kpState == .dual then
    rgnEvt E.RGN_KP_SINGLE rn (setRegion rn { r with kpState := .single, kpLost := true } s)
  else if r.en && r.kp && (resChans s r false ++ resChans s r true).contains c && r.kpState == .resync then
    rgnEvt E.RGN_KP_SINGLE rn (setRegion rn { r with kpState := .single } s)
  else s

def kpSingle (c : Nat) (s : State) : State := forAll (s.regions.map (·.1)) (kpSingleOne c) s

/-- King-post regions whose lost footprint has all of its channels back go to RESYNC (R67, step 6 of R332). -/
def kpReturnOne (rn : Nat) (s : State) : State :=
  let r := s.region rn
  if r.en && r.kp && r.kpState == .single && (resChans s r r.kpLost).all (fun c => !chHolds s c) then
    setRegion rn { r with kpState := .resync, toCopy := none } s
  else s

def kpReturn (s : State) : State := forAll (s.regions.map (·.1)) kpReturnOne s

/-- KPSUM: COPIES × SIZE over enabled king-post regions (R65). -/
def kpSum (s : State) : Nat :=
  s.regions.foldl (fun a e => if e.2.en && e.2.kp then a + e.2.copies * e.2.size else a) 0

/-! ### Queued content -/

/-- The newest queued write of a line in a write queue. -/
def queuedWrite (q : List QEnt) (n : Nat) : Option QEnt := (q.filter (·.n == n)).getLast?

/-- The bytes that an access passing its ordering point now would find in a line: the newest queued write, else the DRAM (R73). -/
def currentLine (s : State) (c n : Nat) : List Byte × List Byte :=
  match queuedWrite (s.chan c).wq n with
  | some l => if l.poison then (padTo 64 [], poisonCheck n) else (padTo 64 l.data, lineCheck n l.data)
  | none => (lineData s c n, lineChk s c n)

/-- Class of host and work accesses to a region (R139, R63). -/
def Region.cls (r : Region) : TClass := if r.kp then .kp else .bulk

end Sys2Proof.Machine
end

