-- ==== Sys2Proof/Machine/Egress.lean ====
section
/-!
DEFINITION. What leaves a port: messages, completions and their counts (R124, R135 to R146), and the events of the HP pages.
-/

namespace Sys2Proof.Machine

/-- Can the port still send what it holds? A port in a retirement exchange keeps its messages for the new framing (R101). -/
def linkUp (s : State) (l : Nat) : Bool :=
  match (s.link l).state with
  | .active => true
  | .retire => true
  | _ => false

/-- Is the port in a training phase? -/
def PState.training : PState → Bool
  | .detect => true
  | .lock => true
  | .align => true
  | .equalize => true
  | .deskew => true
  | .config => true
  | _ => false

/-- The header of the DISCARDED completion of a request whose completion would have had header `h` (R101, R143). -/
def discardHdr (h : BitVec 128) : BitVec 128 :=
  let f (lo w : Nat) : Nat := ext h.toNat lo w
  BitVec.ofNat 128 (pack [(120, 0x20), (111, f 111 9), (105, f 105 6), (103, f 103 2), (99, 2), (88, 0x14), (80, f 80 8),
    (79, f 79 1)])

/-- What a port that is not up does with a message (R143, R164): a request that it received before it went to training, a write of
RETRAIN among them, completes with DISCARDED once it is back; anything else is lost. -/
def notUp (l : Nat) (kind : MsgKind) (s : State) : State :=
  match kind with
  | .cpl tag h =>
    onlyIf (s.link l).state.training (modLink l fun k => { k with toDiscard := k.toDiscard ++ [.cpl tag (discardHdr h)] }) s
  | _ => s

/-- Queue a message for a port. -/
def queueMsg (l : Nat) (m : Msg) (s : State) : State :=
  if linkUp s l then modLink l (fun k => { k with txq := k.txq ++ [m] }) s else notUp l m.kind s

/-- Queue a message of these parts for a port. -/
def sendMsg (l : Nat) (kind : MsgKind) (hdr : BitVec 128) (data : List Byte) (s : State) : State :=
  queueMsg l { kind := kind, hdr := hdr, data := data } s

/-- A transaction event of a link page, with its capture (R146). -/
def hpEvt (l bit opc tag detail : Nat) (s : State) : State :=
  raiseCaps (Pg.link l) bit none (some (packW [(24, opc), (15, tag), (10, bit), (0, detail)])) s

/-- A lane event of a link page, with ERR_CAP0 (R112). -/
def laneEvt (l bit : Nat) (c0 : Word) (s : State) : State := raiseCaps (Pg.link l) bit (some c0) none s

/-- Count a refused request by its status (Table 4-11). -/
def countRefused (l : Nat) (st : Status) (s : State) : State :=
  match st with
  | .denied => fbump (Pg.link l) F.HP_XSTS1_DENIED s
  | .unsupported => fbump (Pg.link l) F.HP_XSTS1_UNSUP s
  | .busy => fbump (Pg.link l) F.HP_XSTS2_BUSY s
  | _ => s

/-- Count a DISCARDED completion. -/
def countSent (l : Nat) (st : Status) (s : State) : State :=
  onlyIf (st == .discarded) (fbump (Pg.link l) F.HP_XSTS2_DISC) s

/-- Send a completion without data (R135). The tag becomes free as it leaves the port. -/
def complete (port tag len : Nat) (cls : TClass) (st : Status) (detail : Nat) (region : Option Nat) (s : State) : State :=
  let h := cplHdr false tag len cls st detail region none
  sendMsg port (.cpl tag h) h [] (onlyIf (linkUp s port) (countSent port st) s)

/-- Send a completion with memory data (R135, R59). -/
def completeData (port tag len : Nat) (cls : TClass) (st : Status) (region : Option Nat) (data : List Byte) (s : State) : State :=
  let h := cplHdr true tag len cls st 0 region none
  sendMsg port (.cpl tag h) h data s

/-- Send a completion with register data (R135). -/
def completeReg (port tag : Nat) (w : Word) (s : State) : State :=
  let h := cplHdr true tag 0 .bulk .ok 0 none (some w)
  sendMsg port (.cpl tag h) h [] s

/-- Refuse an NP request: the completion and its count (R140). -/
def refuseNP (port tag len : Nat) (cls : TClass) (st : Status) (detail : Nat) (region : Option Nat) (s : State) : State :=
  complete port tag len cls st detail region (countRefused port st s)

/-- Drop a posted write without a completion: counted, with POSTED_DROP (R140). -/
def dropPosted (port : Nat) (st : Status) (detail : Nat) (s : State) : State :=
  hpEvt port E.HP_POSTED_DROP 0x03 0 detail (fbump (Pg.link port) F.HP_XPDROP_POST (countRefused port st s))

/-- Drop a doorbell (R132). -/
def dropDoorbell (port detail : Nat) (s : State) : State :=
  hpEvt port E.HP_POSTED_DROP 0x0C 0 detail (fbump (Pg.link port) F.HP_XPDROP_DBELL s)

/-- Standby is refused or not answered: the port stays in service for another IDLE (R347). -/
def standbyRefused (l : Nat) (s : State) : State :=
  match (s.link l).standby with
  | .asked _ _ => fbump (Pg.link l) F.HP_PSBY_REFUSED (modLink l (fun k => { k with standby := .none, lastBusy := s.now }) s)
  | _ => s

/-- A TX flit has arrived at a port: it refuses a standby that was asked for, and the port has not been idle (R346, R347). -/
def heard (l : Nat) (s : State) : State := modLink l (fun k => { k with lastBusy := s.now }) (standbyRefused l s)

/-- What a message does that arrives at a host port; only an ACTIVE port takes one. -/
def arrives (port : Nat) (f : State → State) (s : State) : State := if linkActive s port then f (heard port s) else s

/-- Take a tag into use. -/
def useTag (port tag : Nat) (s : State) : State := modLink port (fun k => { k with tags := k.tags ++ [tag] }) s

/-- An NP request whose tag is in use: dropped without a completion (R136). -/
def tagError (port opc tag : Nat) (s : State) : State := hpEvt port E.HP_TAG_ERR opc tag 0 s

/-! ### Work queues: their error state -/

/-- Offset of queue `q`'s register block moves a field of Table 5-9. -/
def qfld (q : Nat) (f : Fld) : Fld := f.shift (0x40 * (q % 16))

def qget (s : State) (q : Nat) (f : Fld) : Nat := fget s (Pg.wq q) (qfld q f)

/-- Set a WQ event with its capture (R170). `disc` chooses DISC_i, otherwise QERR_i. -/
def qEvt (q : Nat) (disc : Bool) (code : Nat) (s : State) : State :=
  raise (Pg.wq q) (if disc then 16 + q % 16 else q % 16) (packW [(4, code), (0, q % 16)]) 0 s

/-- Put a queue into ERROR with a cause (R150, R151, R163). -/
def queueError (q cause : Nat) (s : State) : State :=
  qEvt q false cause (modQueue q (fun k => { k with state := .error, cause := cause }) s)

/-- A refused write to a queue (Table 5-9): CAUSE 0x05 and QERR. -/
def queueRefused (q : Nat) (s : State) : State := qEvt q false 5 (modQueue q (fun k => { k with cause := 5 }) s)

/-- The enabled region that holds a ring of the queue. -/
def ringRegion (s : State) (q : Nat) (f : Fld) : Option Nat := (regionOf s (qget s q f * 4096)).map (·.1)

/-- Is this the job of descriptor `idx` of queue `q`? -/
def Job.is (j : Job) (q idx : Nat) : Bool := j.queue == q && j.idx.toNat == idx

/-- Bytes `a` to `b` of a chunk's output are lost. -/
def ChunkRes.unsent (x : ChunkRes) (a b : Nat) : ChunkRes := { x with missing := (a, b) :: x.missing }

/-- Bytes `a` to `b` of the output of chunk `k` of a job are lost (R102). -/
def Job.unsent (j : Job) (k a b : Nat) : Job :=
  { j with results := j.results.map fun e => if e.1 = k then (e.1, e.2.unsent a b) else e }

/-- Does the job hold its completion record already? -/
def Job.recorded (j : Job) : Bool := match j.phase with | .record _ _ => true | _ => false

/-- Change one job. -/
def modJob (q idx : Nat) (f : Job → Job) (s : State) : State :=
  { s with jobs := s.jobs.map fun j => if j.is q idx then f j else j }

/-- Does the commit belong to this descriptor? -/
def Commit.ofJob (c : Commit) (q idx : Nat) : Bool :=
  match c.src with
  | .queue q' i' => q' == q && i' == idx
  | _ => false

/-- Is this the work of descriptor `idx` of queue `q`? -/
def Work.ofJob (w : Work) (q idx : Nat) : Bool := w.queue == q && w.idx.toNat == idx

/-- Does an access belong to a descriptor: a fetch of a joiner that works on it, the source of its move, its output? -/
def Acc.ofJob (a : Acc) (s : State) (q idx : Nat) : Bool :=
  match a.src with
  | .chunk g u => (s.group g).work.any fun w => w.unit == u && w.ofJob q idx
  | .move q' i => q' == q && i == idx
  | .out q' i _ _ => q' == q && i == idx
  | _ => false

/-- End a descriptor in progress early with a status code and a DETAIL (R156, R164): its pins are released, its joiners stop, its
accesses that have not passed go, a commit not yet accepted is withdrawn. A commit already accepted stands (Table 2-7). -/
def endJob (q idx st detail : Nat) (s : State) : State :=
  match s.jobs.find? fun j => j.is q idx with
  | none => s
  | some j =>
    if j.fin.isSome || j.recorded then s
    else
      let t := forAll j.pins (fun p => pinCopy p.1 p.2 false) s
      modJob q idx (fun j => { j with fin := some (st, detail), phase := .run, pins := [], waitOn := [] })
        { t with
          accs := t.accs.filter fun a => !a.ofJob t q idx
          commits := (t.commits.filter fun c => !c.ofJob q idx || c.accepted).map fun c =>
            if c.ofJob q idx then { c with src := .gone } else c
          groups := t.groups.map fun g => (g.1, { g.2 with work := g.2.work.filter fun w => !w.ofJob q idx }) }

/-! ### Answering an access -/

/-- Note the first poisoned fetch or output of a job (R156). -/
def Job.poisoned (j : Job) (detail : Nat) : Job := { j with pois := some (j.pois.getD detail) }

/-- Bytes `a` to `b` of a chunk's output have been written or sent. -/
def ChunkRes.wrote (x : ChunkRes) (a b : Nat) : ChunkRes := { x with missing := x.missing.filter fun p => p != (a, b) }

/-- Bytes `a` to `b` of the output of chunk `k` of a job have been written or sent (R185). -/
def Job.wrote (j : Job) (k a b : Nat) : Job :=
  { j with results := j.results.map fun e => if e.1 = k then (e.1, e.2.wrote a b) else e }

/-- What a job takes from the end of one of its output writes: written, no copy to open, a failed channel, no region (R156). -/
def Job.settle (j : Job) (chunk off lines : Nat) (st : Status) (detail : Nat) : Job :=
  match st with
  | .ok => j.wrote chunk off (off + 64 * lines)
  | .poisoned => j.poisoned 0x10
  | _ => if detail = 0x0A then { j with lost := true } else j.poisoned 0x03

/-- Header of KPACK (R302). -/
def kpackHdr (seq : Nat) (st : Status) : BitVec 128 :=
  BitVec.ofNat 128 (pack [(120, 0x41), (111, seq), (103, 2), (99, st.code)])

/-- Send a ring message back on the ring link that a message came in on. -/
def ringReply (p : Nat) (hdr : BitVec 128) (s : State) : State := sendMsg (16 + p) (.ring hdr) hdr [] s

/-- The number that the next KPW to be admitted has (R302). Numbering begins at 0 when the first destination entry is enabled (log 90). -/
def kpwNextIn (s : State) : Nat := match s.ring.kpwLast with | some l => (l + 1) % 512 | none => 0

/-- Take the numbers that directly follow the last one settled in sequence out of those settled ahead. `fuel` bounds their count. -/
def kpwCatchUp : Nat → Ring → Ring
  | 0, r => r
  | n + 1, r =>
    match r.kpwLast with
    | some l => if r.kpwDone.contains ((l + 1) % 512) then
        kpwCatchUp n { r with kpwLast := some ((l + 1) % 512), kpwDone := r.kpwDone.filter (· != (l + 1) % 512) } else r
    | none => r

/-- A KPW has been admitted or refused: its number is settled (R302). -/
def kpwSettle (seq : Nat) (s : State) : State :=
  { s with ring :=
      if seq = kpwNextIn s then kpwCatchUp 512 { s.ring with kpwLast := some seq }
      else if s.ring.kpwDone.contains seq then s.ring
      else { s.ring with kpwDone := seq :: s.ring.kpwDone } }

/-- Answer an access with a status, and remove it: a completion for an NP request, a counted drop for a posted one, KPACK for a KPW,
a note in the job for its output. A fetch of a unit stays and tells its unit the DETAIL. DESIGN CHOICE: REGV of the completion names the
region found at admission, also when that region has been disabled since (R135, log 91). -/
def endAcc (a : Acc) (st : Status) (detail : Nat) (s : State) : State :=
  let t := { s with accs := s.accs.filter fun b => b.id != a.id }
  match a.src with
  | .hostNP port tag =>
    if st = .ok ∨ st = .poisoned then complete port tag (a.lines - 1) a.cls st detail (some a.region) t
    else refuseNP port tag (a.lines - 1) a.cls st detail (some a.region) t
  | .hostPost port => if st = .ok then t else dropPosted port st detail t
  | .kpw link seq _ =>
    ringReply link (kpackHdr seq st) (kpwSettle seq t)
  | .out q idx chunk off => modJob q idx (fun j => j.settle chunk off a.lines st detail) t
  | .hodata => t
  | _ => { s with accs := s.accs.map fun b => if b.id = a.id then { b with phase := .refused detail } else b }

/-- A valid producer index, or ERROR with cause 0x01; only a queue in RUN takes one (R148, R150). -/
def ringBell (q : Nat) (pidx : BitVec 16) (s : State) : State :=
  let k := s.queue q
  let n := 2 ^ qget s q F.WQ_QCFG_SIZE
  if inSafe s || k.state != .run || pidx == k.pidx then s
  else if (pidx - k.retired).toNat ≤ n ∧ (pidx - k.pidx).toNat ≤ n then setQueue q { k with pidx := pidx } s
  else queueError q 1 s

/-- A DOORBELL acts (R132): only the owner's, and only while the queue is in RUN. -/
def doorbellActs (b : Bell) (s : State) : State :=
  if qget s b.queue F.WQ_QCFG_OWNER != b.port then dropDoorbell b.port 0x05 s
  else if (s.queue b.queue).state != .run then dropDoorbell b.port 0 s
  else ringBell b.queue b.pidx s

/-- Does a posted write of the port that came before number `seq` wait at its ordering point (R132)? -/
def postWaits (s : State) (port seq : Nat) : Bool :=
  s.accs.any fun a => a.phase == .waiting && a.id < seq && a.src == .hostPost port

/-- Doorbells whose earlier posted writes have all passed act now, in order (R132). -/
def releaseBells (s : State) : State :=
  let out := s.bells.filter fun b => !postWaits s b.port b.seq
  forAll out doorbellActs { s with bells := s.bells.filter fun b => postWaits s b.port b.seq }

/-! ### Disabling a region -/

/-- Take back the pins that accesses and jobs hold on a region that goes away. A read of it that has passed rewrites no line any more, since
the region may be enabled anew before it ends (R41, R66). -/
def dropPins (rn : Nat) (s : State) : State :=
  { s with
    accs := s.accs.map fun a => if a.region = rn then { a with pinned := false, lapped := a.lapped ++ List.range a.lines } else a
    jobs := s.jobs.map fun j => { j with pins := j.pins.filter fun p => p.1 != rn } }

/-- End one commit of a region that is disabled (R42): an accepted one with DISCARDED, one that waits with DENIED, both with DETAIL
0x03. -/
def discardCommit (c : Commit) (s : State) : State :=
  let st : Status := if c.accepted then .discarded else .denied
  match c.src with
  | .host port tag => refuseNP port tag 0 (s.region c.region).cls st 3 (some c.region) s
  | .queue q idx =>
    { s with jobs := s.jobs.map fun j =>
        if j.is q idx then { j with fin := some (st.code, 3), ec := c.ec, phase := .run } else j }
  | .gone => s

/-- A queue that is not DISABLED and whose ring lies in the region enters ERROR (R151). In SAFE the queues are frozen (R164). -/
def ringLost (rn q : Nat) (s : State) : State :=
  let k := s.queue q
  if k.state != .disabled && !inSafe s &&
      (ringRegion s q F.WQ_QBASE_BLOCK == some rn || ringRegion s q F.WQ_QCBASE_BLOCK == some rn) then queueError q 2 s
  else s

/-- Disable a region (R42): its queues enter ERROR, its commits end, accesses that wait at its ordering points are refused with DENIED,
pending and writable copies are dropped. -/
def disableRegion (rn : Nat) (s : State) : State :=
  if (s.region rn).en then
    let t := forAll (s.commits.filter fun c => c.region = rn) discardCommit (forAll (s.queues.map (·.1)) (ringLost rn) s)
    let u := forAll (t.accs.filter fun a => a.region == rn && a.phase == .waiting) (fun a => endAcc a .denied 0x03)
      { t with commits := t.commits.filter fun c => c.region != rn }
    releaseBells (dropPins rn (setRegion rn { (u.region rn) with
      en := false, init := false, cps := [], frame := none, kpState := .dual, nextOrd := 0 } u))
  else s

/-- Disable every region. -/
def disableAll (s : State) : State := forAll (s.regions.map (·.1)) disableRegion s

end Sys2Proof.Machine
end

