-- ==== Sys2Proof/Machine/RingOps.lean ====
section
/-!
DEFINITION. Shared operations of mirroring (R301 to R303) and of a module handover (R304 to R307).
-/

namespace Sys2Proof.Machine

/-- Ring events have the event's bit number and a number of their own in ERR_CAP0 (R311). -/
def ringEvt (bit num : Nat) (s : State) : State := raiseCaps (Pg.link 16) bit (some (packW [(8, bit), (0, num)])) none s

/-- The ring links that HOCFG.PORTS names and that are ACTIVE (R301). -/
def namedLinks (s : State) : List Nat :=
  let p := fget s (Pg.link 16) F.RING_HOCFG_PORTS
  let names := if p = 1 then [16, 18] else if p = 2 then [17, 19] else [16, 18, 17, 19]
  names.filter (linkActive s)

/-- Send a ring message on the first named port that is ACTIVE; `poison` lists its poison lines. -/
def ringSendAs (hdr : BitVec 128) (data : List Byte) (poison : List Nat) (s : State) : State :=
  match namedLinks s with
  | [] => s
  | l :: _ => queueMsg l { kind := .ring hdr, hdr := hdr, data := data, poison := poison } s

/-- Send a ring message without poison lines. -/
def ringSend (hdr : BitVec 128) (data : List Byte) (s : State) : State := ringSendAs hdr data [] s

/-- Header of KPW (Table 10-3). -/
def kpwHdr (seq lines region addr : Nat) (tag : Word) (cls : TClass) : BitVec 128 :=
  BitVec.ofNat 128 (pack [(120, 0x40), (111, seq), (105, lines - 1), (103, cls.code), (88, region), (40, addr), (8, tag.toNat)])

/-- Header of HOCTL. -/
def hoctlHdr (code : Nat) (epoch : Word) (cause : Nat) : BitVec 128 :=
  BitVec.ofNat 128 (pack [(120, 0x44), (88, code), (32, epoch.toNat), (28, cause)])

/-- Header of HODATA, HOREC, HOREG or HOSTATE. -/
def hoHdr (opc len region addr : Nat) : BitVec 128 :=
  BitVec.ofNat 128 (pack [(120, opc), (105, len), (88, region), (40, addr)])

/-! ### Mirror entries -/

/-- A host write has waited for its KPACK long enough or has it: it is acknowledged (R302, R303). -/
def ackMirrored (id : Nat) (s : State) : State :=
  match s.accs.find? fun a => a.id = id with
  | some { src := .hostNP port tag, lines := n, cls := cls, region := rn, .. } =>
    complete port tag (n - 1) cls .ok 0 (some rn) { s with accs := s.accs.filter fun a => a.id != id }
  | _ => s

/-- Outstanding KPW messages of an entry count as not sent, and the host writes that waited for them are acknowledged on the local
entries alone (R303). -/
def dropKpw (e : Nat) (s : State) : State :=
  forAll (s.ring.kpwOut.filterMap fun k => if k.entry = e then k.acc else none) ackMirrored
    { s with ring := { s.ring with kpwOut := s.ring.kpwOut.filter fun k => k.entry != e } }

/-- Detach a mirror entry (R303). -/
def detachMirror (e : Nat) (s : State) : State :=
  let m := s.mirror e
  ringEvt E.RING_M_DETACH e (setMirror e { m with state := .detached, left := none, detaches := min 65535 (m.detaches + 1) } (dropKpw e s))

/-- The source entry that joins a region and is sending (R302, R303). -/
def mirrorSource (s : State) (rn : Nat) : Option Nat :=
  ((List.range 16).find? fun e =>
    let m := s.mirror e
    m.en && !m.dest && m.lreg == rn && (m.state == .attached || m.state == .resync))

/-- Is the region the destination of a mirror entry (R303)? -/
def mirrorDest (s : State) (rn : Nat) : Bool :=
  (List.range 16).any fun e => let m := s.mirror e; m.en && m.dest && m.lreg == rn

/-- Send lines of a mirrored region as a KPW (R302); `addr` counts from the base of the region, `poison` lists the lines that go as poison
lines. `acc` is the host access that waits for its KPACK. -/
def sendKpwAs (cls : TClass) (e addr : Nat) (data : List Byte) (poison : List Nat) (tag : Word) (acc : Option Nat) (s : State) : State :=
  let seq := s.ring.kpwNext
  ringSendAs (kpwHdr seq (data.length / 64) (s.mirror e).preg addr tag cls) data poison
    { s with ring := { s.ring with
        kpwNext := (seq + 1) % 512
        kpwOut := s.ring.kpwOut ++
          [{ seq := seq, entry := e, addr := addr, data := data, poison := poison, tag := tag, since := s.now, acc := acc }] } }

/-- Send one write to a mirrored region (R302): king-post class, and none in SAFE (R406). -/
def sendKpw (e addr : Nat) (data : List Byte) (poison : List Nat) (tag : Word) (acc : Option Nat) (s : State) : State :=
  onlyIf (!inSafe s) (sendKpwAs .kp e addr data poison tag acc) s

/-! ### Handover -/

/-- The 256 KiB granule of an address (R305). -/
def granuleOf (addr : Nat) : Nat := addr / 2 ^ 18

/-- Does this device keep a dirty map: is it sending (R305)? -/
def hoSending (s : State) : Bool :=
  s.ring.ho.sender && (s.ring.ho.state == .check || s.ring.ho.state == .copy || s.ring.ho.state == .freeze)

/-- Mark a granule dirty (R305). -/
def markDirty (addr : Nat) (s : State) : State :=
  onlyIf (hoSending s && !s.ring.ho.dirty.contains (granuleOf addr))
    (fun t => { t with ring := { t.ring with ho := { t.ring.ho with dirty := granuleOf addr :: t.ring.ho.dirty } } }) s

/-- Is a handover in progress here? -/
def hoBusy (s : State) : Bool :=
  match s.ring.ho.state with
  | .idle => false
  | .done => false
  | .aborted => false
  | _ => true

/-- End a handover with a cause, without telling the partner (R307). -/
def hoAbortLocal (cause : Nat) (s : State) : State :=
  let t := onlyIf (s.ring.ho.state == .receiving) disableAll s
  ringEvt E.RING_HO_ABORT cause
    { t with ring := { t.ring with ho := { t.ring.ho with
        state := .aborted, cause := cause, dirty := [], left := [], frozen := false, ready := false, acked := none, sent := false, pulse := none, states := [] } } }

/-- End a handover with a cause and send ABORT to the partner (R307, Table 10-4). -/
def hoAbort (cause : Nat) (s : State) : State :=
  if hoBusy s then hoAbortLocal cause (ringSend (hoctlHdr 5 0 cause) [] s) else s

end Sys2Proof.Machine
end

