-- ==== Sys2Proof/Machine/Fault.lean ====
section
/-!
DEFINITION. The reaction to a fault by its scope (R397 to R411, R422): device, channel, bay, joiner group and port.
-/

namespace Sys2Proof.Machine

/-- Drive FAULT_N low (R409). -/
def assertFault (s : State) : State := { s with safe := { s.safe with fnDrv := true, fnRb := true } }

/-- SAFE entry begins (R405, steps 1 and 2 of Table 15-4): ENTERING, FAULT_N low, and FCAUSE for the first cause since cold reset. -/
def enterSafe (mech page bit : Nat) (s : State) : State :=
  let u := if s.safe.caused then s
    else fset Pg.safe F.SAFE_FCAUSE_MECH mech (fset Pg.safe F.SAFE_FCAUSE_PAGE page (fset Pg.safe F.SAFE_FCAUSE_EVTBIT bit s))
  hoAbort 7 (assertFault { u with safe := { u.safe with state := .entering, since := s.now, caused := true } })

/-- A fault of device scope that enters SAFE whatever start is under way, with its capture entry; in ENTERING or SAFE it is only
logged. -/
def safeFault (mech page bit : Nat) (s : State) : State :=
  let t := logEvent mech 5 0 3 page bit s
  if inSafe s then t else enterSafe mech page bit t

/-- A device-scope fault (R405). During a warm reset it is logged, FAULT_N stays asserted, and the start-up tests and the scanner
decide (Table 15-5). -/
def deviceFault (mech page bit : Nat) (s : State) : State :=
  if inWarm s && !inSafe s then logEvent mech 5 0 0 page bit s else safeFault mech page bit s

/-- Log a scope fault and set SAFE.SCOPE_FAULT with its count (R404, Table 15-11). -/
def scopeReport (mech scope unit action page bit : Nat) (cnt : Fld) (s : State) : State :=
  safeEvt E.SAFE_SCOPE_FAULT mech page unit (fbump Pg.safe cnt (logEvent mech scope unit action page bit s))

/-- Set an event of a BAY page (R435). -/
def bayEvt (b bit chan : Nat) (s : State) : State := raise (Pg.bay b) bit (packW [(27, bit), (0, chan)]) 0 s

/-- BAY_FAULT with its count (R435). -/
def bayFault (b chan : Nat) (s : State) : State := bayEvt b E.BAY_BAY_FAULT chan (fbump (Pg.bay b) F.BAY_BCNT_FAULTS s)

/-- End one access with DISCARDED and its DETAIL, releasing its pin; an access of a unit goes without a completion. -/
def discardAcc (detail : Nat) (a : Acc) (s : State) : State :=
  let t := onlyIf a.pinned (pinCopy a.region a.copy false) { s with accs := s.accs.filter fun b => b.id != a.id }
  match a.src with
  | .hostNP port tag => complete port tag (a.lines - 1) a.cls .discarded detail (some a.region) t
  | _ => t

/-- The job that a joiner or pair works for. -/
def jobOfUnit (s : State) (g u : Nat) : Option (Nat × Nat) :=
  ((s.group g).work.find? fun w => w.unit == u).map fun w => (w.queue, w.idx.toNat)

/-- End what waits for an access in a channel that is lost (R9, Tables 2-7 and 5-5): a host read, or the descriptor whose operand it
is. A table load meets an unread line; a descriptor fetch is made again. -/
def scopeAcc (a : Acc) (s : State) : State :=
  match a.src with
  | .chunk g u =>
    match jobOfUnit s g u with
    | some j => endJob j.1 j.2 2 0x15 s
    | none => discardAcc 0x15 a s
  | .move q idx => endJob q idx 2 0x15 s
  | .out q idx _ _ => endJob q idx 2 0x15 s
  | .table _ => endAcc a .poisoned 0x10 s
  | _ => discardAcc 0x15 a s

/-- Does a read that has passed wait for a check or record line that the channel is fetching (R208)? -/
def fillsIn (s : State) (c : Nat) (a : Acc) : Bool :=
  a.phase == .passed && !a.write && a.feet.any fun f =>
    f.2.1 == c && ((s.chan c).sideq.any fun o => !o.back && (o.n == recLine (s.chan c) (f.2.2 / 64) ||
      (List.range a.lines).any fun i => o.n == checkLine (s.chan c) (f.2.2 + i)))

/-- Does an access have a read queued in the channel, or one there that waits for its check or record line? -/
def queuedIn (s : State) (c : Nat) (a : Acc) : Bool := ((s.chan c).rq.any fun e => e.acc == some a.id) || fillsIn s c a

/-- A king-post read goes on without what it has not yet in full from the footprint in a lost channel. -/
def dropFoot (s : State) (c : Nat) (a : Acc) : Acc :=
  if a.kp && fillsIn s c a then { a with got := a.got.filter fun g => !(a.feet.any fun f => f.1 == g.mirror && f.2.1 == c) } else a

/-- Is this an access of a host port, or one that no descriptor waits for? -/
def AccSrc.alone : AccSrc → Bool
  | .hostNP _ _ => true
  | .hostPost _ => true
  | .descr _ => true
  | .kpw _ _ _ => true
  | .hodata => true
  | _ => false

/-- Does channel scope end this access (R9): a read queued in the channel, or an access of a descriptor or a table load that waits for
it? A king-post read goes on with its other footprint. -/
def scopeTakes (s : State) (c : Nat) (a : Acc) : Bool :=
  !a.kp && (queuedIn s c a || (!a.src.alone && a.phase == .waiting && (accFeet s a).any fun f => f.2.1 == c))

/-- Channel scope (R9, R332): the reads queued in the channel end with DISCARDED, and so do the descriptors that wait for an operand
in it. -/
def discardReads (c : Nat) (s : State) : State :=
  let t := forAll (s.accs.filter (scopeTakes s c)) scopeAcc
    (modChan c (fun k => { k with rq := [] }) { s with accs := s.accs.map (dropFoot s c) })
  forAll (t.jobs.filter fun j => j.waitOn.contains c) (fun j => endJob j.queue j.idx.toNat 2 0x15) t

/-- Set an event of a CH page (R232). -/
def chEvt (c bit line : Nat) (c1 : Word) (s : State) : State := raise (Pg.ch c) bit (packW [(27, bit), (0, line)]) c1 s

/-- Has a rank gone more than 32 ms since its last refresh (R332)? -/
def refreshLost (s : State) (k : Chan) : Bool := k.rank.any fun e => decide (ms 32 < since s e.2.lastRef)

/-! ### Set-point changes (R251 to R253, R256) -/

/-- Set a set-point event (R256): the target and, for DSP_FAIL, the channel in ERR_CAP1. -/
def dspEvt (bit target ch : Nat) (s : State) : State :=
  raiseCaps Pg.clk bit none (some (packW [(27, bit), (6, target), (0, ch)])) s

/-- DSPSTAT.STATE: 0 IDLE, 1 DEFERRED, 2 SWITCHING, 3 TRAINING. -/
def dspState (s : State) : Nat := fget s Pg.clk F.CLK_DSPSTAT_STATE

/-- Is some channel in a campaign of the running set-point change that `p` holds for? -/
def dspCamp (s : State) (p : Camp → Bool) : Bool :=
  s.chans.any fun e => match e.2.camp with | some m => m.setPoint && p m | none => false

/-- The set-point trainings that waited for the last fast check begin now (S5). -/
def dspBegin (now : Nat) (k : Chan) : Chan :=
  { k with camp := k.camp.map fun m => if m.setPoint then { m with since := now } else m }

/-- After a campaign of a set-point change has ended: SWITCHING gives way to TRAINING when no fast check runs and set-point training
remains (S5). -/
def dspAdvance (s : State) : State :=
  onlyIf (dspState s == 2 && !dspCamp s (fun m => m.kind == .fast) && dspCamp s fun _ => true)
    (fun t => fset Pg.clk F.CLK_DSPSTAT_STATE 3 { t with chans := t.chans.map fun c => (c.1, dspBegin t.now c.2) }) s

/-- A channel fails while it is trained at a new set point: DSP_FAIL names the first such channel (R252, R256). -/
def dspFailed (c : Nat) (s : State) : State :=
  let first := s.pll.dspFail.getD c
  dspAdvance (dspEvt E.CLK_DSP_FAIL (fget s Pg.clk F.CLK_DSPSTAT_TARGET) first { s with pll := { s.pll with dspFail := some first } })

/-- How long a channel has been in self-refresh (R224): one in service, and one that failed, since its DRAM entered it. -/
def selfRefSpan (now : Nat) (k : Chan) : Nat :=
  match k.state with
  | .selfref => now - k.refSince
  | .failed => if k.canDrive then now - k.refSince else 0
  | .reset => now - k.refSince
  | _ => 0

/-- Fail a channel (R230): FAILED, self-refresh where the controller can drive the DRAM, the reads discarded, king-post
regions SINGLE, the reports of R404 and R435, and DSP_FAIL where it was trained at a new set point (R252). In ENTERING or SAFE it is only
logged. -/
def failChannel (c mech : Nat) (canDrive : Bool) (s : State) : State :=
  if inSafe s then logEvent mech 2 c 2 (Pg.ch c) E.CH_FAIL s
  else
    let t := discardReads c (kpSingle c (modChan c (fun k => { k with
      state := .failed, canDrive := canDrive, camp := none, sweep := none, drain := false, exiting := false
      scrubFrom := k.scrubFrom + selfRefSpan s.now k, refSince := s.now
      decayed := k.decayed || (canDrive && refreshLost s k)
      rank := k.rank.map fun e => (e.1, { e.2 with held := none, lastRef := if canDrive then s.now else e.2.lastRef }) }) s))
    let u := scopeReport mech 2 c 2 (Pg.ch c) E.CH_FAIL F.SAFE_FCNT_CHAN (chEvt c E.CH_FAIL 0 0 t)
    let v := onlyIf (match (s.chan c).camp with | some m => m.setPoint | none => false) (dspFailed c) u
    onlyIf (!v.ring.ho.sender) (hoAbort 8) (bayFault (c / 8) c v)

/-- A king-post failure (R411): KP_MISMATCH or KP_LOST. -/
def kpFailure (bit rn : Nat) (s : State) : State :=
  let act := fget s Pg.safe F.SAFE_SCFG_KPACT
  let t := rgnEvt bit rn s
  if act = 0 then safeEvt E.SAFE_KP_FAULT 3 Pg.rgn rn (logEvent 3 0 rn 0 Pg.rgn bit t)
  else
    let u := logEvent 3 0 rn 3 Pg.rgn bit (safeEvt E.SAFE_KP_FAULT 3 Pg.rgn rn t)
    if inSafe s || inWarm s then u else enterSafe 3 Pg.rgn bit u

/-! ### Joiner groups (R193, R404) -/

/-- Set a JG event: the joiner, 0xF when no single one is concerned, and the pair or table set (R197). -/
def jgEvt (g bit joiner low : Nat) (s : State) : State := raise (Pg.jg g) bit (packW [(8, bit), (4, low), (0, joiner)]) 0 s

/-- Does a joiner hold a part of a cache entry (R189)? -/
def CacheEnt.holds (e : CacheEnt) (u : Nat) : Bool := (e.owners.take ((e.nlamp + 63) / 64)).contains u

/-- Fence a pair: it takes no chunk of any kind, and cache entries that its joiners hold are dropped (R189, R193). -/
def fencePair (g pair : Nat) (s : State) : State :=
  jgEvt g E.JG_FENCED 0xF pair (modGroup g (fun k => { k with
    fence := k.fence ||| BitVec.ofNat 8 (2 ^ pair)
    cache := k.cache.filter fun e => !(e.holds (2 * pair) || e.holds (2 * pair + 1)) }) s)

/-- Forget the fetches of a group's joiners, or of one of them. -/
def dropFetches (g : Nat) (p : Nat → Bool) (s : State) : State :=
  { s with accs := s.accs.filter fun a => match a.src with | .chunk h u => !(h == g && p u) | _ => true }

/-- End every descriptor in progress in a group with DISCARDED and DETAIL 0x15 (Table 5-5). -/
def discardGroup (g : Nat) (s : State) : State :=
  modGroup g (fun k => { k with work := [] }) (dropFetches g (fun _ => true)
    (forAll (s.jobs.filter fun j => j.group == g && j.slot) (fun j => endJob j.queue j.idx.toNat 2 0x15) s))

/-- The last pair has been fenced while the group was in service: it is out of service (R193). -/
def groupEmpty (g : Nat) (s : State) : State :=
  onlyIf ((s.group g).fence == 0xFF && (s.group g).state == .inService)
    (fun t => jgEvt g E.JG_OUTSVC 0xF 0 (modGroup g (fun k => { k with state := .out }) t)) s

/-- A fault of joiner-group scope (R179, R188, R193): the event and its count, the report, the discards, and the group on its way
back to service. A lockstep mismatch also fences the pair. In ENTERING or SAFE it is only logged (Table 15-5). -/
def groupFault (g mech bit joiner low : Nat) (cnt : Fld) (s : State) : State :=
  let action := if mech = 4 then 2 else 1
  if inSafe s then logEvent mech 3 g action (Pg.jg g) bit s
  else
    let t := scopeReport mech 3 g action (Pg.jg g) bit F.SAFE_FCNT_GROUP (jgEvt g bit joiner low (fbump (Pg.jg g) cnt s))
    discardGroup g (modGroup g (fun k => { k with state := .returning }) (onlyIf (mech == 4) (fencePair g low) t))

/-- A fault in a port's buffers: counted and logged with SCOPE 1 (R404). The exchange itself is the port's. -/
def portFaultReport (l mech bit : Nat) (s : State) : State :=
  scopeReport mech 1 (if l < 16 then l else 16 + l % 2) 1 (Pg.link l) bit F.SAFE_FCNT_PORT s

end Sys2Proof.Machine
end

