-- ==== Sys2Proof/Machine/Chan.lean ====
section
/-!
DEFINITION. A DRAM channel: where a line lives (R202), what the decoder's outcomes count (R206, R225, R230), the queues and the
scheduler (R209 to R214), refresh (R216 to R219), background slots and scrub (R221 to R226), power-down (R228).
-/

namespace Sys2Proof.Machine

/-! ### Counting decoder outcomes -/

/-- The training almanac is to be written (R249). -/
def wantAlmanac (s : State) : State := { s with boot := { s.boot with almWant := true } }

/-- Is the management core being reset: has the boot ROM not yet come to its end (R330, steps 3 and 4 of Table 11-3)? -/
def inRom (s : State) : Bool :=
  match s.boot.state with
  | .pll => true
  | .warm => true
  | .flashchk => true
  | .image => true
  | _ => false

/-- Does the management core run (R24)? -/
def coreRuns (s : State) : Bool := s.boot.coreUp && s.boot.state != .halted && !inRom s

/-- Has the start-up training of the channel ended: it answered, or it is ABSENT with a cause (R239)? -/
def startupOver (s : State) (c : Nat) : Bool := (s.chan c).answered || fget s (Pg.ch c) F.CH_TRSTAT_CAUSE != 0

/-- Spare rows of a channel (Table 7-6). -/
def spareRows (k : Chan) : Nat := k.ublk / 30720

/-- A free spare row and a free redirect entry, if there are any (R226). -/
def freeRedirect (k : Chan) : Option (Nat × Nat) :=
  let used := k.red.filter fun e => e.2.valid || e.2.pend
  let busy := match k.rowCopy with | some rc => [(tget ({} : Redirect) k.red rc.entry).spare] | none => []
  let spare := (List.range (spareRows k)).find? fun i => !(used.any fun e => e.2.spare == i) && !busy.contains i
  let entry := (List.range 16).find? fun i =>
    !(used.any fun e => e.1 == i) && (match k.rowCopy with | some rc => rc.entry != i | none => true)
  match entry, spare with
  | some e, some p => some (e, p)
  | _, _ => none

/-- A row becomes a repair candidate (R226); with AUTORD and nothing free, RD_FULL is set. -/
def addCandidate (c row line : Nat) (s : State) : State :=
  let k := s.chan c
  let moved := k.red.any (fun e => e.2.valid && e.2.key == row) ||
    (match k.rowCopy with | some rc => rc.row * 32 + rc.rank * 16 + rc.bank == row | none => false)
  if k.cands.contains row || moved then s
  else
    let t := setChan c { k with cands := k.cands ++ [row] } s
    onlyIf (fget s (Pg.ch c) F.CH_ECFG_AUTORD == 1 && (freeRedirect k).isNone) (chEvt c E.CH_RD_FULL line 0) t

/-- ERR_CAP1 of an uncorrectable line (R232). -/
def uncorCap : Word := packW [(16, 0xFF)]

/-- A corrected line: CECNT, CE with the positions, and the row's count toward PPRTHR (R226, R232). -/
def countCorrected (c n : Nat) (pos : List Nat) (s : State) : State :=
  let t := chEvt c E.CH_CE n (packW [(16, pos.length), (8, pos.getD 1 0), (0, pos.getD 0 0)])
    (fbump (Pg.ch c) F.CH_CECNT_COUNT s)
  let k := t.chan c
  let seen := if k.scrubCorr.contains n then k.scrubCorr else n :: k.scrubCorr
  let row := rowKey k.ranks n
  onlyIf (decide (fget t (Pg.ch c) F.CH_ECFG_PPRTHR ≤ (seen.filter fun m => rowKey k.ranks m == row).length)) (addCandidate c row n)
    (setChan c { k with scrubCorr := seen } t)

/-- Is the channel in a short retraining? -/
def Chan.retrains (k : Chan) : Bool := match k.camp with | some m => m.kind == .short | none => false

/-- An uncorrectable line: UECNT, UE, the row as a candidate, and the channel's failure at FAILTHR lines within 1 ms, or at once in a
short retraining (R230, R255). -/
def countUncor (c n : Nat) (scrub addr : Bool) (s : State) : State :=
  let t := onlyIf addr (chEvt c E.CH_ADDR_ERR n uncorCap) (chEvt c E.CH_UE n uncorCap (fbump (Pg.ch c) F.CH_UECNT_COUNT s))
  let k := t.chan c
  let times := (k.ueTimes ++ [t.now]).filter fun x => t.now < x + ms 1
  let u := addCandidate c (rowKey k.ranks n) n (setChan c { k with ueTimes := times } t)
  onlyIf ((decide (fget u (Pg.ch c) F.CH_ECFG_FAILTHR ≤ times.length) || k.retrains) && !chFailed u c) (failChannel c (if scrub then 2 else 1) true) u

/-- Count what the decoder made of line `n`. -/
def countDec (c n : Nat) (scrub : Bool) (d : Dec) (s : State) : State :=
  match d with
  | .clean => s
  | .poison => s
  | .corrected pos _ _ => countCorrected c n pos s
  | .uncor => countUncor c n scrub false s
  | .addrErr => countUncor c n scrub true s

/-- Is the decoder in DETECT mode for a line of this class (R206)? -/
def detectMode (s : State) (c : Nat) (kp : Bool) : Bool := kp && fget s (Pg.ch c) F.CH_ECFG_KPDET == 1

/-- The data of a codeword that is good, corrected where need be. -/
def Dec.data (d : Dec) (raw : List Byte) : Option (List Byte) :=
  match d with
  | .clean => some raw
  | .corrected _ b _ => some b
  | _ => none

/-! ### Caches (R208)

The check and record caches hold lines, most recently used first. What a cached line holds stands in `State.mem` and `State.recs`
from the moment it is written there (log 66). -/

/-- Room in the side queue for one more fill of this class. DESIGN CHOICE: one of its 8 entries is kept for king-post operations, so that
none waits for other work (R222, log 93). -/
def Chan.sideRoom (k : Chan) (cls : TClass) : Bool := decide (k.sideq.length < if cls == .kp then 8 else 7)

/-- The cached lines of one of the caches. -/
def Chan.cache (k : Chan) (isRec : Bool) : List CacheLine := if isRec then k.recCache else k.checkCache

def Chan.setCache (k : Chan) (isRec : Bool) (l : List CacheLine) : Chan :=
  if isRec then { k with recCache := l } else { k with checkCache := l }

/-- Is line `n` in the cache, on its way there, or is there room to fetch it? -/
def Chan.cacheReach (k : Chan) (isRec : Bool) (n : Nat) (cls : TClass) : Bool :=
  (k.cache isRec).any (·.n == n) || k.sideq.any (fun o => o.n == n && !o.back) || k.sideRoom cls

/-- Is a fill of line `n` on its way? -/
def Chan.filling (k : Chan) (n : Nat) : Bool := k.sideq.any fun o => o.n == n && !o.back

/-- The higher of two classes. -/
def TClass.top (a b : TClass) : TClass := if a.rank < b.rank then b else a

/-- An operation of class `cls` waits for line `n`: what the side queue does for the line takes that class where it is higher (R18, R208). -/
def raiseSide (n : Nat) (cls : TClass) (q : List SideOp) : List SideOp :=
  q.map fun o => if o.n = n then { o with cls := o.cls.top cls } else o

/-- Use line `n` of a cache: a hit moves it to the front, a miss puts a fill into the side queue; `dirty` says that it is changed. -/
def Chan.useLine (k : Chan) (isRec : Bool) (n : Nat) (dirty : Bool) (cls : TClass) (seq : Nat) : Chan :=
  match (k.cache isRec).find? (·.n == n) with
  | some x => k.setCache isRec ({ x with dirty := x.dirty || dirty } :: (k.cache isRec).filter (·.n != n))
  | none =>
    if k.filling n then { k with sideq := (raiseSide n cls k.sideq).map fun o => if o.n = n ∧ o.back = false then { o with dirty := o.dirty || dirty } else o }
    else { k with sideq := raiseSide n cls k.sideq ++ [{ n := n, isRec := isRec, back := false, cls := cls, seq := seq, dirty := dirty }] }

/-- A fill ends: the line enters its cache, and a changed line that has to leave goes back through the side queue. -/
def Chan.filled (k : Chan) (o : SideOp) : Chan :=
  let cap := if o.isRec then 128 else 512
  let l := { n := o.n, dirty := o.dirty } :: k.cache o.isRec
  let out := (l.drop cap).filter (·.dirty)
  { k.setCache o.isRec (l.take cap) with
    sideq := k.sideq.filter (· != o) ++ out.map fun x => { n := x.n, isRec := o.isRec, back := true, cls := o.cls, seq := o.seq } }

/-- A data line's check line is used. -/
def touchCheck (c n : Nat) (dirty : Bool) (cls : TClass) (s : State) : State :=
  modChan c (fun k => k.useLine false (checkLine k n) dirty cls s.nextId) s

/-- A block's record line is used. -/
def touchRec (c u : Nat) (dirty : Bool) (cls : TClass) (s : State) : State :=
  modChan c (fun k => k.useLine true (recLine k u) dirty cls s.nextId) s

/-- Store a record through the record cache (R208). -/
def putRec (c u : Nat) (r : Rec) (cls : TClass) (s : State) : State := touchRec c u true cls (setRec c u r s)

/-! ### Admission to the queues -/

/-- Entries of a queue that one class holds. -/
def heldBy (q : List QEnt) (p : TClass → Bool) : Nat := (q.filter fun e => p e.cls).length

def isKp (c : TClass) : Bool := c == .kp
def isBulk (c : TClass) : Bool := c == .bulk
def isBg (c : TClass) : Bool := c == .bg

/-- May an access take `m` more entries of a queue at once (R209)? An access of more lines than its class may ever hold is taken when
the class holds none, so that R69 can be kept (log 42). -/
def entriesFit (q : List QEnt) (lim : Nat) (cls : TClass) (m : Nat) : Bool :=
  let other := heldBy q fun c => !isKp c
  let bulk := heldBy q isBulk
  decide (q.length + m ≤ 64) &&
  (isKp cls || decide (other + m ≤ 60) || (decide (60 < m) && other == 0)) &&
  (!isBulk cls || decide (bulk + m ≤ lim) || (decide (lim < m) && bulk == 0))

def readFree (s : State) (c : Nat) (cls : TClass) (m : Nat) : Bool :=
  entriesFit (s.chan c).rq (fget s (Pg.ch c) F.CH_QLIM_BULKR) cls m

def writeFree (s : State) (c : Nat) (cls : TClass) (m : Nat) : Bool :=
  entriesFit (s.chan c).wq (fget s (Pg.ch c) F.CH_QLIM_BULKW) cls m

def Chan.rk (k : Chan) (r : Nat) : Rank := tget {} k.rank r

/-- Rank and bank that line `n` occupies. -/
def placeBank (k : Chan) (n : Nat) : Nat := bankOf k.ranks (physLine k n)

/-- Row that line `n` occupies. -/
def placeRow (k : Chan) (n : Nat) : Nat := (coords k.ranks (physLine k n)).2.2

/-- Is the rank of line `n` at the postponement limit, so that only king-post operations are admitted to it (R218)? -/
def atLimit (s : State) (c n : Nat) (cls : TClass) : Bool :=
  !isKp cls && decide (((s.chan c).rk (placeBank (s.chan c) n / 16)).credit ≤ -64)

/-- An admitted operation wakes the channel from power-down (R228). -/
def wakeChan (c : Nat) (s : State) : State :=
  modChan c (fun k => { k with state := if k.state == .powerdown then .ready else k.state, idleSince := s.now }) s

/-- Promote the writes of some lines in the write queue to order 4 (R213). -/
def promoteWrites (ns : List Nat) (q : List QEnt) : List QEnt :=
  q.map fun e => if ns.contains e.n then { e with promoted := true } else e

/-- Put a read of consecutive lines into a channel's read queue; a queued write to one of them is a hazard (R209, R213). -/
def admitRead (c n lines : Nat) (mirror : Bool) (acc : Nat) (cls : TClass) (s : State) : State :=
  let ns := (List.range lines).map (n + ·)
  let hazards := (ns.filter fun m => (s.chan c).wq.any (·.n == m)).length
  wakeChan c (modChan c (fun k => { k with
    rq := k.rq ++ ns.map fun m => { seq := s.nextId, cls := cls, n := m, acc := some acc, mirror := mirror, idx := m - n }
    wq := promoteWrites ns k.wq }) { fadd (Pg.ch c) F.CH_HAZCNT_HAZARD hazards s with nextId := s.nextId + 1 })

/-- The entry of a write queue whose data a new write of line `n` replaces (R214): the newest of the line, unless a read of the line
was admitted after it. -/
def mergeTarget (k : Chan) (n : Nat) : Option QEnt :=
  match (k.wq.filter (·.n == n)).getLast? with
  | some e => if k.rq.any fun r => r.n == n && decide (e.seq < r.seq) then none else some e
  | none => none

/-- A line to be written: channel line number, 64 bytes, whether it is a poison codeword. -/
abbrev WLine := Nat × List Byte × Bool

/-- How many entries a write of these lines needs of its own (R214). -/
def ownEntries (k : Chan) (ns : List Nat) : Nat := (ns.filter fun n => (mergeTarget k n).isNone).length

/-- Put a write into a channel's write queue, all its lines at once (R69): a line that merges takes its place in the earlier entry,
the others one entry each. -/
def admitWrite (c : Nat) (ls : List WLine) (cls : TClass) (s : State) : State :=
  let seq := s.nextId
  wakeChan c (modChan c (fun k =>
    ls.foldl (fun k l =>
      match mergeTarget k l.1 with
      | some t => { k with wq := k.wq.map fun e => if e.seq = t.seq ∧ e.n = l.1 then { e with data := l.2.1, poison := l.2.2 } else e }
      | none => { k with wq := k.wq ++ [{ seq := seq, cls := cls, n := l.1, data := l.2.1, poison := l.2.2 }] }) k)
    { s with nextId := seq + 1 })

/-- May a write of lines from `n` on enter the queue of the channel now (R209, R218, R229)? -/
def writeFits (s : State) (c n lines : Nat) (cls : TClass) : Bool :=
  !chHolds s c && !atLimit s c n cls && writeFree s c cls (ownEntries (s.chan c) ((List.range lines).map (n + ·)))

/-! ### Refresh -/

def modRank (c r : Nat) (f : Rank → Rank) (s : State) : State := modChan c (fun k => { k with rank := tset k.rank r (f (k.rk r)) }) s

/-- The lower credit of the ranks (RFSTAT.CREDIT). -/
def Chan.credit (k : Chan) : Int := (List.range k.ranks).foldl (fun a r => min a (k.rk r).credit) (k.rk 0).credit

/-- The two banks of pair `p` of rank `r`: p and p + 8 (log 11). -/
def pairBanks (r p : Nat) : List Nat := [16 * r + p, 16 * r + p + 8]

/-- All banks of a rank. -/
def rankBanks (r : Nat) : List Nat := (List.range 16).map (16 * r + ·)

/-- The banks of a steering hold: one pair, or the whole rank with PBEN 0. -/
def heldBanks (r p : Nat) : List Nat := if p = 8 then rankBanks r else pairBanks r p

/-- A refresh or RFM command on some banks: their rows are closed (R211), and their activation counts fall by the threshold (log 67). -/
def closeBanks (bs : List Nat) (k : Chan) : Chan :=
  { k with
    openRow := k.openRow.filter fun e => !bs.contains e.1
    acts := (k.acts.map fun e => if bs.contains e.1 then (e.1, e.2 - k.rfmAt) else e).filter fun e => e.2 != 0 }

/-- One REFpb of bank pair `p` (R216). -/
def refreshPair (c r p : Nat) (s : State) : State :=
  modRank c r (fun x =>
    let round := if x.round.contains p then x.round else p :: x.round
    { x with credit := min 64 (x.credit + 1), round := if 8 ≤ round.length then [] else round, lastRef := s.now
             held := if x.held = some p then none else x.held }) (modChan c (closeBanks (pairBanks r p)) s)

/-- One REFab: 8 credits, and the round is complete (R216). -/
def refreshAll (c r : Nat) (s : State) : State :=
  modRank c r (fun x => { x with credit := min 64 (x.credit + 8), round := [], lastRef := s.now, held := none })
    (modChan c (closeBanks (rankBanks r)) s)

/-- Every operation in the queues of a channel, those of the side queue included: whether it is of the side queue, whether it writes,
and the operation. -/
structure Cand where
  side : Bool
  write : Bool
  e : QEnt
deriving DecidableEq, Repr

def SideOp.ent (o : SideOp) : QEnt := { seq := o.seq, cls := o.cls, n := o.n, started := o.started, passedOver := o.passedOver }

def Chan.ops (k : Chan) : List Cand :=
  (k.rq.map fun e => ⟨false, false, e⟩) ++ (k.wq.map fun e => ⟨false, true, e⟩) ++ (k.sideq.map fun o => ⟨true, o.back, o.ent⟩)

/-- Operations queued on some banks, of the classes that `p` names. -/
def opsOn (k : Chan) (bs : List Nat) (p : TClass → Bool) : Nat :=
  (k.ops.filter fun x => p x.e.cls && bs.contains (placeBank k x.e.n)).length

/-- Has an operation on one of these banks started? -/
def startedOn (k : Chan) (bs : List Nat) : Bool := k.ops.any fun x => x.e.started && bs.contains (placeBank k x.e.n)

def banksBusy (busy : BitVec 32) (bs : List Nat) : Bool := bs.any fun b => busy.getLsbD b

/-- No operation of these banks has started, and their timing lets a refresh issue. -/
def banksFree (k : Chan) (busy : BitVec 32) (bs : List Nat) : Bool := !startedOn k bs && !banksBusy busy bs

/-- Bank pairs still owed in the round. -/
def owedPairs (x : Rank) : List Nat := (List.range 8).filter fun p => !x.round.contains p

def isRtKp (c : TClass) : Bool := c == .kp || c == .rt

/-- A pair of rank `r` that may be refreshed now: owed, free of king-post and RT work. -/
def freePair (k : Chan) (busy : BitVec 32) (r : Nat) : Option Nat :=
  (owedPairs (k.rk r)).find? fun p => opsOn k (pairBanks r p) isRtKp == 0 && banksFree k busy (pairBanks r p)

/-- The owed pair with the fewest RT operations (R217). DESIGN CHOICE: among several, the lowest-numbered (log 94). -/
def fewestRt (k : Chan) (r : Nat) : Option Nat :=
  (owedPairs (k.rk r)).foldl (fun best p =>
    match best with
    | none => some p
    | some b => if opsOn k (pairBanks r p) (· == .rt) < opsOn k (pairBanks r b) (· == .rt) then some p else some b) none

/-- Has the rolling activation count of a bank reached the threshold of its parts (R198)? -/
def rfmDue (k : Chan) (b : Nat) : Bool := decide (0 < k.rfmAt) && decide (k.rfmAt ≤ tget 0 k.acts b)

/-! ### The scheduler -/

/-- Does the operation go to an open row (R211)? -/
def openHit (k : Chan) (e : QEnt) : Bool := tget (2 ^ 40) k.openRow (placeBank k e.n) == placeRow k e.n

/-- Is an operation that has not started kept from its bank by a steering hold, by a rank at the limit, or by an RFM that is due (R217,
R218, R198)? -/
def keptBack (k : Chan) (e : QEnt) : Bool :=
  let b := placeBank k e.n
  let x := k.rk (b / 16)
  !e.started && !isKp e.cls &&
    ((match x.held with | some p => (heldBanks (b / 16) p).contains b | none => false) ||
     decide (x.credit ≤ -64) || (rfmDue k b && !openHit k e))

/-- What an operation must wait for in the queues: a read for the older writes of its line (R213), a write for the older operations
of its line (R73, R214), the data of a line for a way into the check cache, a fill for a write-back of its line. -/
def orderFree (k : Chan) (x : Cand) : Bool :=
  if x.side then x.write || !(k.sideq.any fun o => o.back && o.n == x.e.n)
  else
    !(k.wq.any fun w => w.n == x.e.n && decide (w.seq < x.e.seq)) &&
    (!x.write || !(k.rq.any fun r => r.n == x.e.n && decide (r.seq < x.e.seq))) &&
    k.cacheReach false (checkLine k x.e.n) x.e.cls

/-- May the operation's next command issue: its column command to an open row, else its activate, for which no started operation may
need the bank? -/
def ready (k : Chan) (busy : BitVec 32) (x : Cand) : Bool :=
  let b := placeBank k x.e.n
  !busy.getLsbD b && !keptBack k x.e && orderFree k x && (openHit k x.e || !startedOn k [b])

/-- The oldest of some operations. -/
def oldest (xs : List Cand) : Option Cand :=
  xs.foldl (fun best x =>
    match best with
    | none => some x
    | some b => if x.e.seq < b.e.seq ∨ (x.e.seq = b.e.seq ∧ x.e.n < b.e.n) then some x else some b) none

/-- The first answer that there is. -/
def orTry {α : Type} (a b : Option α) : Option α := match a with | some x => some x | none => b

/-- Within one direction: the oldest open-row hit, else the oldest (R211). -/
def pickOp (k : Chan) (xs : List Cand) : Option Cand := orTry (oldest (xs.filter fun x => openHit k x.e)) (oldest xs)

/-- What a command slot does (Table 7-9). -/
inductive SlotAct where
  | op (x : Cand)
  | refAb (rank : Nat) (limit : Bool)
  | refPb (rank pair : Nat)
  | rfm (bank : Nat)
  | hold (rank pair : Nat)
  | bg (act : BgAct)
  | none
deriving DecidableEq, Repr

/-- One step of operations: one passed over by 16 younger ones first, then one direction, then the other (R211). -/
def stepAct (k : Chan) (busy : BitVec 32) (writesFirst : Bool) (p : Cand → Bool) : SlotAct :=
  let xs := k.ops.filter fun x => p x && ready k busy x
  match orTry (oldest (xs.filter fun x => decide (16 ≤ x.e.passedOver)))
      (orTry (pickOp k (xs.filter fun x => x.write == writesFirst)) (pickOp k (xs.filter fun x => x.write != writesFirst))) with
  | some x => .op x
  | Option.none => .none

/-- Is the channel draining (R212)? -/
def draining (k : Chan) : Bool := k.drain || !(k.rq.any fun e => !isKp e.cls)

/-- The first of several choices that is one. -/
def firstAct : List SlotAct → SlotAct
  | [] => .none
  | a :: t => if a = .none then firstAct t else a

/-- Order 2: REFab of a rank at the limit, once started and king-post operations have gone (R218). -/
def limitAct (k : Chan) (busy : BitVec 32) : SlotAct :=
  match (List.range k.ranks).find? fun r =>
      decide ((k.rk r).credit ≤ -64) && opsOn k (rankBanks r) isKp == 0 && banksFree k busy (rankBanks r) with
  | some r => .refAb r true
  | none => .none

/-- Is refresh per bank (RFCFG.PBEN)? -/
def perBank (s : State) (c : Nat) : Bool := fget s (Pg.ch c) F.CH_RFCFG_PBEN == 1

/-- One REFpb to an owed pair that is free, or with PBEN 0 a REFab of the rank when it is free (Table 7-10). -/
def pullAct (s : State) (c : Nat) (busy : BitVec 32) (p : Rank → Bool) : SlotAct :=
  let k := s.chan c
  firstAct ((List.range k.ranks).map fun r =>
    if !p (k.rk r) then .none
    else if !perBank s c then
      (if opsOn k (rankBanks r) isRtKp == 0 && banksFree k busy (rankBanks r) then .refAb r false else .none)
    else
      match freePair k busy r with
      | some q => .refPb r q
      | none => .none)

/-- Order 6, steering (R217): hold the owed pair with the fewest RT operations, or refresh the held one. -/
def steerAct (s : State) (c : Nat) (busy : BitVec 32) : SlotAct :=
  let k := s.chan c
  let st := fget s (Pg.ch c) F.CH_RFCFG_STEER
  firstAct ((List.range k.ranks).map fun r =>
    match (k.rk r).held with
    | some p => if !banksFree k busy (heldBanks r p) then .none else if p = 8 then .refAb r false else .refPb r p
    | none =>
      if st ≠ 0 ∧ (k.rk r).credit ≤ -8 * (st : Int) then
        if !perBank s c then .hold r 8
        else match fewestRt k r with
          | some p => .hold r p
          | none => .none
      else .none)

/-- Order 6, RFM (R198): a bank at the threshold whose operations have ended. -/
def rfmAct (k : Chan) (busy : BitVec 32) : SlotAct :=
  match (List.range (16 * k.ranks)).find? fun b => rfmDue k b && banksFree k busy [b] with
  | some b => .rfm b
  | none => .none

/-! ### The pace of scrub (R221, R224) -/

/-- Lines of the whole channel: the raw capacity in 64-byte lines (Table 7-6). -/
def scrubLines (k : Chan) : Nat := k.ublk * 1024 / 15

/-- When a pass that keeps its pace comes to line `p`: the pass takes SCRCFG.PERIOD hours. -/
def paceTime (s : State) (c p : Nat) : Nat :=
  let k := s.chan c
  k.scrubFrom + p * (fget s (Pg.ch c) F.CH_SCRCFG_PERIOD * 3600 * us 1000000) / max 1 (scrubLines k)

/-- Has the pace come to line `p`? -/
def paceAt (s : State) (c p : Nat) : Bool := decide (paceTime s c p ≤ s.now)

/-- May scrub run ahead of its pace: in blanking, by up to 65,536 lines (R221)? -/
def scrubAhead (s : State) (c : Nat) : Bool :=
  fget s (Pg.ch c) F.CH_SCRCFG_EN == 1 && paceAt s c ((s.chan c).scrubPos - 65536)

/-- Does no operation of a higher class than background wait, so that a background slot may run before its deadline (R17)? The bursts of a
sweep count as RT operations (R235). -/
def bgMay (k : Chan) : Bool := !(k.ops.any fun x => !isBg x.e.cls) && k.sweep.isNone

/-- Has the channel no queued operation (R217)? -/
def noOps (k : Chan) : Bool := k.ops.isEmpty && k.sweep.isNone

/-- A due activity whose slack has not run out. -/
def firstDue (k : Chan) : SlotAct := match k.due.find? fun d => !k.urgent.contains d.1 with | some d => .bg d.1 | none => .none

/-- Order 5: an activity whose slack has run out, with no king-post operation queued. -/
def urgentAct (k : Chan) : SlotAct :=
  if k.ops.any fun x => isKp x.e.cls then .none else match k.urgent with | a :: _ => .bg a | [] => .none

/-- Table 7-9: what the slot does. DESIGN CHOICE: within order 6 steering goes first, then RFM, then opportunistic refresh (log 94).
Operations of background class, such as the write-back of a scrub, come last (R15). -/
def chooseSlot (s : State) (c : Nat) (busy : BitVec 32) : SlotAct :=
  let k := s.chan c
  let pullin : Int := 8 * (fget s (Pg.ch c) F.CH_RFCFG_PULLIN : Int)
  let idlepull : Int := 8 * (fget s (Pg.ch c) F.CH_RFCFG_IDLEPULL : Int)
  firstAct [
    stepAct k busy false fun x => x.e.started,
    limitAct k busy,
    stepAct k busy false fun x => isKp x.e.cls,
    stepAct k busy true fun x => x.e.promoted,
    urgentAct k,
    steerAct s c busy,
    rfmAct k busy,
    pullAct s c busy fun x => x.credit < 0,
    (if 15 ≤ k.sinceBulk then stepAct k busy (draining k) fun x => isBulk x.e.cls else .none),
    stepAct k busy (draining k) fun x => x.e.cls == .rt,
    stepAct k busy (draining k) fun x => isBulk x.e.cls,
    (if s.merid.inBlank then pullAct s c busy fun x => x.credit < pullin else .none),
    (if noOps k then pullAct s c busy fun x => x.credit < idlepull else .none),
    (if s.merid.inBlank && bgMay k then firstDue k else .none),
    (if s.merid.inBlank && bgMay k && k.state != .training && scrubAhead s c then .bg .scrub else .none),
    (if bgMay k then stepAct k busy (draining k) fun x => isBg x.e.cls else .none),
    (if bgMay k then firstDue k else .none)]

/-- What a slot does in power-down: refresh that is due and slots at their deadline wake the channel for their duration (R228). -/
def downSlot (s : State) (c : Nat) (busy : BitVec 32) : SlotAct :=
  firstAct [limitAct (s.chan c) busy, urgentAct (s.chan c), steerAct s c busy, pullAct s c busy fun x => x.credit < 0]

/-- Count a line that has gone to or from the DRAM. -/
def countLine (write : Bool) (cls : TClass) (k : Chan) : Chan :=
  { k with
    linesRd := if write then k.linesRd else min (2 ^ 32 - 1) (k.linesRd + 1)
    linesWr := if write then min (2 ^ 32 - 1) (k.linesWr + 1) else k.linesWr
    linesRt := if isRtKp cls then min (2 ^ 32 - 1) (k.linesRt + 1) else k.linesRt }

/-- A burst has gone to the DRAM: the share of BULK (R16). -/
def countBurst (cls : TClass) (k : Chan) : Chan :=
  { k with sinceBulk := if isBulk cls then 0 else if cls == .kp then k.sinceBulk else k.sinceBulk + 1 }

/-- The step of Table 7-9 that an operation belongs to; background operations follow at 11. -/
def QEnt.step (e : QEnt) : Nat :=
  if isKp e.cls then 3 else if e.promoted then 4 else if e.cls == .rt then 8 else if isBulk e.cls then 9 else 11

/-- An operation is taken: the older ones of its step were passed over (R211). -/
def passOver (taken : QEnt) (q : List QEnt) : List QEnt :=
  q.map fun e => if e.step = taken.step ∧ e.seq < taken.seq then { e with passedOver := e.passedOver + 1 } else e

/-- The same for the side queue. -/
def passOverSide (taken : QEnt) (q : List SideOp) : List SideOp :=
  q.map fun o => if o.ent.step = taken.step ∧ o.seq < taken.seq then { o with passedOver := o.passedOver + 1 } else o

/-- Is this the same operation? -/
def QEnt.same (a b : QEnt) : Bool := a.seq == b.seq && a.n == b.n && a.mirror == b.mirror

/-- Remove an operation from a queue. -/
def dropOp (e : QEnt) (q : List QEnt) : List QEnt := q.filter fun a => !a.same e

/-- Mark an operation as started. -/
def startOp (e : QEnt) (q : List QEnt) : List QEnt := q.map fun a => if a.same e then { a with started := true } else a

/-- Give the codeword of a line that was read to its access. -/
def deliver (acc : Option Nat) (mirror : Bool) (idx : Nat) (data chk : List Byte) (s : State) : State :=
  match acc with
  | none => s
  | some id =>
    { s with accs := s.accs.map fun a =>
        if a.id = id then { a with got := a.got ++ [{ mirror := mirror, line := idx, data := data, chk := chk }] } else a }

/-- Write a queued line to the DRAM; from then the write counts as drained, its check bytes being in the cache (R208). -/
def drainLine (c : Nat) (e : QEnt) (s : State) : State :=
  touchCheck c e.n true e.cls (if e.poison then putPoison c e.n s else putLine c e.n e.data s)

/-- A line is read from the DRAM for its access. -/
def fetchLine (c : Nat) (e : QEnt) (s : State) : State :=
  touchCheck c e.n false e.cls (deliver e.acc e.mirror e.idx (lineData s c e.n) (lineChk s c e.n) s)

/-- The activate of an operation: its row is open, and the activation counts (R198). -/
def activate (x : Cand) (k : Chan) : Chan :=
  let b := placeBank k x.e.n
  { k with
    openRow := tset k.openRow b (placeRow k x.e.n)
    acts := if k.rfmAt = 0 then k.acts else tset k.acts b (tget 0 k.acts b + 1)
    rq := if x.side || x.write then k.rq else startOp x.e k.rq
    wq := if x.side || !x.write then k.wq else startOp x.e k.wq
    sideq := if x.side then k.sideq.map fun o => if o.n = x.e.n ∧ o.back = x.write then { o with started := true } else o else k.sideq }

/-- The column command of an operation of the side queue. -/
def issueSide (x : Cand) (k : Chan) : Chan :=
  match k.sideq.find? fun o => o.n == x.e.n && o.back == x.write with
  | none => k
  | some o => countBurst x.e.cls (if o.back then { k with sideq := k.sideq.filter (· != o) } else k.filled o)

/-- The column command of an operation of the queues: the operation is done. -/
def issueColumn (c : Nat) (x : Cand) (s : State) : State :=
  let t := modChan c (fun k => countBurst x.e.cls (countLine x.write x.e.cls { k with
    rq := if x.write then k.rq else dropOp x.e k.rq
    wq := if x.write then dropOp x.e k.wq else k.wq })) s
  if x.write then drainLine c x.e t else fetchLine c x.e t

/-- Issue the next command of an operation: its activate, or its column command once its row is open. -/
def issueOp (c : Nat) (x : Cand) (s : State) : State :=
  let k := s.chan c
  let k1 := if x.e.started then k else { k with rq := passOver x.e k.rq, wq := passOver x.e k.wq, sideq := passOverSide x.e k.sideq }
  let t := setChan c { k1 with idleSince := s.now } s
  if !openHit k x.e then modChan c (activate x) t
  else if x.side then modChan c (issueSide x) t
  else issueColumn c x t

/-- Enter or leave draining (R212). -/
def updateDrain (c : Nat) (s : State) : State :=
  let k := s.chan c
  if k.drain then
    onlyIf (decide (k.wq.length ≤ fget s (Pg.ch c) F.CH_WQWM_LOW)) (setChan c { k with drain := false }) s
  else if fget s (Pg.ch c) F.CH_WQWM_HIGH ≤ k.wq.length then
    fbump (Pg.ch c) F.CH_HAZCNT_DRAINS (setChan c { k with drain := true } s)
  else s

/-! ### Background slots -/

/-- What a scrub of a line comes to: it is done, or it must be tried again. -/
abbrev Scrub := Bool × State

/-- Write a line of a region's footprint back at its ordering point, when the write queue takes it (R224). -/
def writeBack (c n : Nat) (l : List Byte) (cls : TClass) (s : State) : Scrub :=
  if writeFits s c n 1 cls then (true, admitWrite c [(n, l, false)] cls s) else (false, s)

/-- Is the line of the other footprint good to repair from (R206, Table 2-6)? Its data. -/
def goodThere (s : State) (c n : Nat) : Option (List Byte) :=
  if chFailed s c then none else (decodeLine (detectMode s c true) n (lineData s c n) (lineChk s c n)).data (lineData s c n)

/-- The decoder's outcome for a record line with errors in it (R205, R206), and the bytes it gives. -/
def recLineDec (s : State) (c v : Nat) (bytes : List Byte) (kp : Bool) (errs : List RdErr) : Dec × List Byte :=
  let n := 68 * (s.chan c).ublk + v
  let good := if bytes.isEmpty then (padTo 64 [], poisonCheck n) else (bytes, lineCheck n bytes)
  let dc := (errs.filter (·.isRec)).foldl (fun d e => applyErr d e.pos e.mask) good
  let d := decodeLine (detectMode s c kp) n dc.1 dc.2
  (d, (d.data dc.1).getD [])

/-- Is the record of this outcome lost: not to be corrected, or a poison codeword? -/
def Dec.lost (d : Dec) : Bool := match d with | .uncor => true | .addrErr => true | .poison => true | _ => false

/-- The outcome of the codeword of the record line that holds the record of block `u`, with the errors met in it. -/
def recDec (s : State) (c u : Nat) (kp : Bool) (errs : List RdErr) : Dec := (recLineDec s c (u / 4) (recLineBytes s c (u / 4)) kp errs).1

/-- The record of block `u` of channel `c` is not good: it is taken from the other footprint of its king-post region, where that is in
service and holds a good one (R225, Table 2-6). -/
def recFromOther (c u rn : Nat) (m : Bool) (cp b : Nat) (s : State) : State :=
  let o := regionLoc s (s.region rn) (!m) cp b
  onlyIf (!chFailed s o.1 && !(recDec s o.1 o.2 true []).lost) (putRec c u (s.brec o.1 o.2) .kp) s

/-- Scrub line `n` (R224, R225). A line with a write in the queue is met again once that write, now promoted, has drained. A king-post line
that is not good is repaired from the other footprint, and its record where that is not good either. -/
def scrubData (c n : Nat) (errs : List RdErr) (s : State) : Scrub :=
  let k := s.chan c
  if k.wq.any (·.n == n) then (false, setChan c { k with wq := promoteWrites [n] k.wq } s)
  else if !k.cacheReach false (checkLine k n) .bg then (false, s)
  else
    let dc := errs.foldl (fun d e => if e.isRec then d else applyErr d e.pos e.mask) (lineData s c n, lineChk s c n)
    let own := blockOwner s c (n / 64)
    let kp := match own with | some o => (s.region o.1).kp | none => false
    let d := decodeLine (detectMode s c kp) n dc.1 dc.2
    let done (u : State) : State := countDec c n true d (touchCheck c n false .bg (modChan c (countLine false .bg) u))
    match d with
    | .corrected _ data _ => let w := writeBack c n data .bg s; if w.1 then (true, done w.2) else w
    | .clean => (true, done s)
    | _ =>
      match own with
      | some (rn, m, cp, b) =>
        let o := regionLoc s (s.region rn) (!m) cp b
        let on := o.2 * 64 + n % 64
        if !kp || (s.region rn).kpState != .dual then (true, done s)
        else if (s.chan o.1).wq.any (·.n == on) then (false, modChan o.1 (fun k => { k with wq := promoteWrites [on] k.wq }) s)
        else match goodThere s o.1 on with
          | some data =>
            let w := writeBack c n data .kp s
            if w.1 then
              (true, rgnEvt E.RGN_KP_REPAIR rn (onlyIf (recDec s c (n / 64) true errs).lost (recFromOther c (n / 64) rn m cp b) (done w.2)))
            else w
          | none => (true, done s)
      | none => (true, done s)

/-- Is a record old enough to be marked (R57, R224)? -/
def grownOld (epoch : Word) (aged : Bool) (r : Rec) : Bool := aged && !r.ancient && decide (2 ^ 30 ≤ (epoch - r.tag).toNat)

/-- A block whose record scrub found uncorrectable: META_ERR, and the record of the other footprint in its place where there is a good one
(Tables 2-14 and 7-14). -/
def scrubRecLost (c u : Nat) (s : State) : State :=
  match blockOwner s c u with
  | none => s
  | some (rn, m, cp, b) =>
    let t := rgnEvt E.RGN_META_ERR rn s
    let o := regionLoc s (s.region rn) (!m) cp b
    if (s.region rn).kp && (s.region rn).kpState == .dual && !chFailed s o.1 && !(recDec s o.1 o.2 true []).lost then
      rgnEvt E.RGN_KP_REPAIR rn (recFromOther c u rn m cp b t)
    else t

/-- Scrub one record line through its cache: the outcome of its codeword (R225), a corrected line being written back, and the old records of
its four blocks marked ANCIENT (R224). DESIGN CHOICE: a line whose blocks belong to king-post and to other regions is decoded as the first
of its blocks that a region owns (R206, log 94). -/
def scrubRecs (c v : Nat) (errs : List RdErr) (s : State) : State :=
  let us := (List.range 4).map (4 * v + ·)
  let kp := match us.findSome? (blockOwner s c) with | some o => (s.region o.1).kp | none => false
  let d := (recLineDec s c v (recLineBytes s c v) kp errs).1
  let t := countDec c (68 * (s.chan c).ublk + v) true d (touchRec c (4 * v) (match d with | .corrected _ _ _ => true | _ => false) .bg s)
  if d.lost then forAll us (scrubRecLost c) t
  else forAll us (fun u t =>
    onlyIf (grownOld t.merid.epoch (agedAt t c u) (t.brec c u)) (putRec c u { (t.brec c u) with ancient := true } .bg) t) t

/-- The line that scrub visits after line `pos`: lines of spare rows that are not in use are left out (R224). -/
def scrubNext (k : Chan) (pos : Nat) : Option Nat :=
  if pos + 1 < spareLine k 0 then some (pos + 1)
  else
    ((redirects k).map fun d => d.2).foldl (fun best r =>
      let p := max (pos + 1) r.1
      if r.1 + r.2 ≤ p then best
      else match best with
        | none => some p
        | some b => some (min b p)) none

/-- Scrub the line at position `pos` of the walk (R224): a line of a spare row is the line that has moved there. -/
def scrubLine (c pos : Nat) (errs : List RdErr) (s : State) : Scrub :=
  let k := s.chan c
  let n := lineAt k pos
  if n < 64 * k.ublk then scrubData c n errs s
  else if n < 68 * k.ublk then
    if k.cacheReach false n .bg then (true, modChan c (fun k => k.useLine false n false .bg s.nextId) s) else (false, s)
  else if n < 68 * k.ublk + k.ublk / 4 then
    if k.cacheReach true n .bg then (true, scrubRecs c (n - 68 * k.ublk) errs s) else (false, s)
  else if k.cacheReach false n .bg then (true, modChan c (fun k => k.useLine false n false .bg s.nextId) s)
  else (false, s)

/-- One scrub slot: one line, and the end of a pass (R224). -/
def scrubSlot (c : Nat) (errs : List RdErr) (s : State) : State :=
  let pos := (s.chan c).scrubPos
  let x := scrubLine c pos errs s
  if !x.1 then x.2
  else match scrubNext (x.2.chan c) pos with
    | some p => modChan c (fun k => { k with scrubPos := p }) x.2
    | none =>
      chEvt c E.CH_SCRUB_PASS 0 0 (fbump (Pg.ch c) F.CH_SCRPOS_PASSES
        (modChan c (fun k => { k with scrubPos := 0, scrubFrom := s.now, scrubCorr := [], scrubLate := false }) x.2))

/-- The telemetry snapshot (R221). -/
def takeSnapshot (c : Nat) (s : State) : State :=
  let k := s.chan c
  fset (Pg.ch c) F.CH_SNRD_COUNT k.linesRd (fset (Pg.ch c) F.CH_SNWR_COUNT k.linesWr (fset (Pg.ch c) F.CH_SNRT_COUNT k.linesRt
    (fset (Pg.ch c) F.CH_SNEP_EPOCH s.merid.epoch.toNat s)))

/-- Run the slot of a background activity; it is due again at its next period (R221). What a measurement or a mode-register read finds
comes with OSC_MEASURE_DONE and MR4_READ_DONE. -/
def runBackground (c : Nat) (act : BgAct) (errs : List RdErr) (s : State) : State :=
  let t := modChan c (fun k => { k with due := k.due.filter fun d => d.1 != act, urgent := k.urgent.filter (· != act) }) s
  match act with
  | .scrub => onlyIf (fget t (Pg.ch c) F.CH_SCRCFG_EN == 1) (scrubSlot c errs) t
  | .snap => takeSnapshot c t
  | .zq => t
  | .osc => t
  | .mr4 => t

/-- The lowest credit since the last clear (RFSTAT.MINCRED). -/
def noteCredit (c : Nat) (s : State) : State := modChan c (fun k => { k with minCredit := min k.minCredit k.credit }) s

/-- The refresh that ends a steering hold. -/
def refreshHeld (c r p : Nat) (s : State) : State := if p = 8 then refreshAll c r s else refreshPair c r p s

/-- Do what the slot chose. -/
def runSlot (c : Nat) (slot : SlotIn) (a : SlotAct) (s : State) : State :=
  match a with
  | .op x => issueOp c x s
  | .refAb r true => chEvt c E.CH_RFINTR 0 0 (fbump (Pg.ch c) F.CH_RFINTR_COUNT (refreshAll c r s))
  | .refAb r false => refreshAll c r s
  | .refPb r p => refreshPair c r p s
  | .rfm b => modChan c (closeBanks [b]) s
  | .hold r p =>
    let t := fbump (Pg.ch c) F.CH_RFHOLD_COUNT (modRank c r (fun x => { x with held := some p }) s)
    onlyIf (banksFree (s.chan c) slot.busy (heldBanks r p)) (refreshHeld c r p) t
  | .bg act => runBackground c act slot.errs s
  | .none => s

/-- Is the channel one whose controller issues commands? -/
def chRuns (s : State) (c : Nat) : Bool :=
  match (s.chan c).state with
  | .ready => true
  | .powerdown => true
  | .tracking => true
  | _ => false

/-- Does the refresh engine of the channel run: in service, and in a campaign once the ranks are initialised (R235)? -/
def refreshRuns (s : State) (c : Nat) : Bool :=
  chRuns s c || ((s.chan c).state == .training && match (s.chan c).camp with | some x => x.ready | none => false)

/-- May the slot of an activity run on a channel in TRAINING (R235)? -/
def trainMay (a : BgAct) : Bool := a == .mr4 || a == .snap

/-- A channel in TRAINING as the scheduler sees it: what its queues hold waits, and scrub, ZQ and oscillator slots do not run (R235). -/
def trainView (k : Chan) : Chan :=
  { k with rq := [], wq := [], sideq := [], due := k.due.filter fun d => trainMay d.1, urgent := k.urgent.filter trainMay }

/-- What a slot does in a campaign: refresh under its own rules, and the mode-register reads that they rest on (R235). -/
def trainSlot (s : State) (c : Nat) (busy : BitVec 32) : SlotAct := chooseSlot (setChan c (trainView (s.chan c)) s) c busy

/-- Set point of a channel in MT/s (Table 7-2). -/
def rateOf (code : Nat) : Nat := if code = 0 then 9600 else if code = 1 then 6400 else if code = 2 then 4800 else 3200

/-- A drift in ps as steps of 1/64 UI at the channel's data rate, to the nearest step (R223, R247, log 12). -/
def driftSteps (rate : Nat) (ps : Int) : Int := (ps * (64 * rateOf rate : Nat) + 500000) / 1000000

/-- Move the read and write DQ delays of a channel, per bit and common, by a number of steps, within their ten bits (R223, log 12). -/
def moveDelays (steps : Int) (k : Chan) : Chan :=
  { k with
    drift := 0
    delays := k.delays.map fun e => (e.1, if e.1 / 64 < 4 then min 1023 ((e.2 : Int) + steps).toNat else e.2) }

/-- The move of the DQ delays that a measurement asked for is made in the next slot (R223). -/
def moveDrift (c : Nat) (s : State) : State :=
  let k := s.chan c
  onlyIf (k.drift != 0) (setChan c (moveDelays k.drift k)) s

/-- One slot of a channel in power-down: what it leaves in the side queue wakes the channel (R228). -/
def powerDownSlot (c : Nat) (slot : SlotIn) (s : State) : State :=
  let t := runSlot c slot (downSlot s c slot.busy) s
  onlyIf (!(t.chan c).ops.isEmpty) (wakeChan c) t

/-- SCHEDULER_SLOT (R210): one command slot. A parity error in the queues, or in the redirect entries, which Table 15-2 counts as tables, fails
the channel (R230, R399). -/
def schedulerSlot (c : Nat) (slot : SlotIn) (s : State) : State :=
  if (slot.parity || slot.tableParity) && chPresent s c && !chFailed s c then failChannel c (if slot.parity then 0x0B else 0x0A) true s
  else if (s.chan c).state == .powerdown then powerDownSlot c slot s
  else if chRuns s c then
    let t := updateDrain c (moveDrift c s)
    updateDrain c (runSlot c slot (chooseSlot t c slot.busy) t)
  else if refreshRuns s c then runSlot c slot (trainSlot s c slot.busy) s
  else s

/-! ### The commands -/

/-- SCHEDULER_SLOT (R210). -/
def execSchedulerSlot (ch : Fin 64) (slot : SlotIn) (s : State) : Host.Outcome State Fault Refusal :=
  .next (schedulerSlot ch slot s)

/-- PHY_FAULT: the safety monitor reports a PHY fault (R230, code 0x10). -/
def execPhyFault (ch : Fin 64) (canDrive : Bool) (s : State) : Host.Outcome State Fault Refusal :=
  .next (if chPresent s ch && !chFailed s ch then failChannel ch 0x10 canDrive s else s)

/-- tREFIpb of a rank, 488 ns at the 1× rate; it halves and quarters with the multiplier that MR4 reports (Table 7-4). That of the interval
that runs stands until the next decrement (R219). -/
def refPeriod (x : Rank) : Nat :=
  match x.span with
  | .x1 => ns 488
  | .half => ns 244
  | .quarter => ns 122

/-- REFRESH_TICK: the credit of a rank falls by 1 every tREFIpb (R216). In self-refresh the DRAM refreshes itself (R229). -/
def refreshTick (c r : Nat) (s : State) : State :=
  if refreshRuns s c && decide (r < (s.chan c).ranks) then
    let x := (s.chan c).rk r
    let t := waitUntil (x.lastTick + refPeriod x) s
    noteCredit c (modRank c r (fun x => { x with credit := max (-64) (x.credit - 1), lastTick := x.lastTick + refPeriod x, span := x.mult }) t)
  else s

/-- REFRESH_TICK (R216). -/
def execRefreshTick (ch : Fin 64) (rank : Fin 2) (s : State) : Host.Outcome State Fault Refusal := .next (refreshTick ch rank s)

/-- Key of an activity in `Chan.bgLast`. -/
def bgKey (a : BgAct) : Nat :=
  match a with
  | .scrub => 0
  | .zq => 1
  | .osc => 2
  | .mr4 => 3
  | .snap => 4

/-- When an activity of Table 7-13 becomes due next: scrub when its pace comes to the line it stands at, the others a period after they
became due last. -/
def dueAt (s : State) (c : Nat) (a : BgAct) : Nat :=
  let last := tget 0 (s.chan c).bgLast (bgKey a)
  match a with
  | .scrub => paceTime s c (s.chan c).scrubPos
  | .zq => last + ms (fget s (Pg.ch c) F.CH_CALCFG_ZQPER)
  | .osc => last + ms (fget s (Pg.ch c) F.CH_CALCFG_OSCPER)
  | .mr4 => last + ms 16
  | .snap => s.now

/-- Put an activity into the list of those due, once. -/
def addDue (c : Nat) (a : BgAct) (s : State) : State :=
  modChan c (fun k => { k with due := if k.due.any (fun d => d.1 == a) then k.due else k.due ++ [(a, s.now)], bgLast := tset k.bgLast (bgKey a) s.now }) s

/-- BACKGROUND_DUE (R221): an activity becomes due at its period. A snapshot becomes due by a write to CCMD.SNAP only, and scrub only
while SCRCFG.EN is 1. -/
def backgroundDue (c : Nat) (a : BgAct) (s : State) : State :=
  if !(chRuns s c || (refreshRuns s c && trainMay a)) || a == .snap || (a == .scrub && fget s (Pg.ch c) F.CH_SCRCFG_EN == 0) then s
  else addDue c a (waitUntil (dueAt s c a) s)

/-- BACKGROUND_DUE (R221). -/
def execBackgroundDue (ch : Fin 64) (act : BgAct) (s : State) : Host.Outcome State Fault Refusal := .next (backgroundDue ch act s)

/-- When the slack of a due activity runs out (Table 7-13): scrub's when the walk is 1,024 lines behind its pace. -/
def slackEnd (s : State) (c : Nat) (a : BgAct) (due : Nat) : Nat :=
  match a with
  | .snap => due + us 100
  | .scrub => paceTime s c ((s.chan c).scrubPos + 1024)
  | _ => due + ms 1

/-- BACKGROUND_SLACK_OUT: the slack of a due activity has run out, so it takes order 5 (R221). -/
def execBackgroundSlackOut (ch : Fin 64) (act : BgAct) (s : State) : Host.Outcome State Fault Refusal :=
  .next (match (s.chan ch).due.find? fun d => d.1 == act with
    | some d => modChan ch (fun k => { k with urgent := if k.urgent.contains act then k.urgent else k.urgent ++ [act] })
        (waitUntil (slackEnd s ch act d.2) s)
    | none => s)

/-- A measurement beyond TRKMAX is a tracking loss (R223). -/
def trackingLoss (c : Nat) (s : State) : State :=
  chEvt c E.CH_TRACK 0 0 (kpSingle c (modChan c (fun k => { k with state := .tracking }) s))

/-- What a WCK-to-DQ measurement does that differs from the value stored at training by `drift` ps (R223). -/
def followDrift (c : Nat) (drift : Int) (s : State) : State :=
  if fget s (Pg.ch c) F.CH_CALCFG_TRKMAX < drift.natAbs then trackingLoss c s
  else if drift.natAbs < fget s (Pg.ch c) F.CH_CALCFG_OSCTHR then s
  else modChan c (fun k => { k with drift := driftSteps k.rate drift }) s

/-- The last steps of self-refresh exit (R229): tXSR, which is tRFCab and 7.5 ns, the ZQ latch, the measurement; C is 0 and admissions
are open again. -/
def finishExit (c : Nat) (drift : Int) (s : State) : State :=
  let k := s.chan c
  let t := waitUntil (k.idleSince + ns (if 2 ≤ k.density then 388 else 288)) s
  followDrift c drift (modChan c (fun k => { k with
    state := .ready, exiting := false, idleSince := t.now, bgLast := tset (tset k.bgLast 1 t.now) 2 t.now
    scrubFrom := k.scrubFrom + (t.now - k.refSince)
    rank := (List.range k.ranks).map fun r => (r, { (k.rk r) with credit := 0, round := [], held := none, lastRef := t.now, lastTick := t.now, span := (k.rk r).mult }) })
    t)

/-- OSC_MEASURE_DONE: a WCK-to-DQ measurement ends with a drift in ps (R223), also the one that ends self-refresh exit (R229). -/
def execOscMeasureDone (ch : Fin 64) (drift : Int) (s : State) : Host.Outcome State Fault Refusal :=
  .next (if (s.chan ch).exiting then finishExit ch drift s else if chRuns s ch then followDrift ch drift s else s)

/-- MR4_READ_DONE: the refresh multiplier that a rank reports (R219). -/
def execMr4ReadDone (ch : Fin 64) (rank : Fin 2) (mult : RefMult) (s : State) : Host.Outcome State Fault Refusal :=
  .next (if !refreshRuns s ch then s
    else
      let t := modRank ch rank (fun x => { x with mult := mult }) s
      if mult = .quarter then chEvt ch E.CH_HOT 0 0 t else t)

/-- SCRUB_PASS_DEADLINE (R224): PERIOD has gone by since the pass began, and the pass has not ended. -/
def scrubDeadline (c : Nat) (s : State) : State :=
  let k := s.chan c
  if !chRuns s c || k.scrubLate || fget s (Pg.ch c) F.CH_SCRCFG_EN == 0 then s
  else chEvt c E.CH_SCRUB_LATE 0 0 (modChan c (fun k => { k with scrubLate := true }) (waitUntil (paceTime s c (max 1 (scrubLines k))) s))

/-- SCRUB_PASS_DEADLINE (R224). -/
def execScrubPassDeadline (ch : Fin 64) (s : State) : Host.Outcome State Fault Refusal := .next (scrubDeadline ch s)

/-- Has the channel nothing queued? -/
def chIdle (k : Chan) : Bool := k.ops.isEmpty

/-- Is a channel idle with no refresh owed and no background slot past its deadline (R228)? -/
def mayPowerDown (k : Chan) : Bool := chIdle k && decide (0 ≤ k.credit) && k.urgent.isEmpty

/-- Units of one CK cycle of the channel controllers at a set point (Table 7-2), to the nearest unit (log 68). -/
def ckUnits (rate : Nat) : Nat := if rate = 0 then 43 else if rate = 1 then 64 else if rate = 2 then 85 else 128

/-- Does the power state ask the channels for power-down (R341)? -/
def askedDown (s : State) : Bool := s.power.state == .dim || s.power.state == .dark

/-- POWERDOWN_ENTRY (R228): the power state asks for power-down, or the channel has had no queued operation for PDCFG.IDLE cycles. -/
def powerDown (c : Nat) (s : State) : State :=
  let k := s.chan c
  let idle := fget s (Pg.ch c) F.CH_PDCFG_IDLE
  let down (t : State) : State := modChan c (fun k => { k with state := .powerdown }) t
  if k.state != .ready then s
  else if askedDown s && chIdle k then down s
  else if mayPowerDown k && idle != 0 then down (waitUntil (k.idleSince + idle * ckUnits k.rate) s)
  else s

/-- POWERDOWN_ENTRY (R228). -/
def execPowerdownEntry (ch : Fin 64) (s : State) : Host.Outcome State Fault Refusal := .next (powerDown ch s)

/-! ### Row redirect (R226) -/

/-- Move the copy of a row on by one line; from then on the line is in the spare row. -/
def copied (c : Nat) (s : State) : State :=
  modChan c (fun k => { k with rowCopy := k.rowCopy.map fun rc => { rc with next := rc.next + 1 } }) s

/-- Copy a data line: read and written in one at its ordering point, when no operation on it is queued and the write queue takes it. A
line that cannot be read is copied as a poison codeword. -/
def copyDataLine (c n : Nat) (errs : List RdErr) (s : State) : State :=
  let k := s.chan c
  if k.ops.any (fun x => !x.side && x.e.n == n) then setChan c { k with wq := promoteWrites [n] k.wq } s
  else if !writeFits s c n 1 .bulk || !readFree s c .bulk 1 || !k.cacheReach false (checkLine k n) .bulk then s
  else
    let dc := errs.foldl (fun d e => if e.isRec || e.line != n then d else applyErr d e.pos e.mask) (lineData s c n, lineChk s c n)
    let kp := match blockOwner s c (n / 64) with | some o => (s.region o.1).kp | none => false
    let d := decodeLine (detectMode s c kp) n dc.1 dc.2
    let t := copied c (countDec c n false d (touchCheck c n false .bulk (modChan c (countLine false .bulk) s)))
    match d.data dc.1 with
    | some data => admitWrite c [(n, data, false)] .bulk t
    | none => admitWrite c [(n, padTo 64 [], true)] .bulk t

/-- Copy a check line through its cache: the check bytes of its 16 lines. -/
def copyCheckLine (c l : Nat) (s : State) : State :=
  let k := s.chan c
  let ns := (List.range 16).map fun i => 16 * (l - 64 * k.ublk) + i
  let t := copied c (modChan c (fun k => k.useLine false l true .bulk s.nextId) s)
  forAll ns (fun n u => { u with mem := memWriteList u.mem (chkAt (u.chan c) c n 0) (lineChk s c n) }) t

/-- Copy a record line through its cache: its four records. -/
def copyRecLine (c l : Nat) (s : State) : State :=
  let k := s.chan c
  let bs := (List.range 4).map fun i => 4 * (l - 68 * k.ublk) + i
  let t := copied c (modChan c (fun k => k.useLine true l true .bulk s.nextId) s)
  forAll bs (fun u t => setRec c u (s.brec c u) t) t

/-- Copy the next line of the row that is being copied. -/
def copyNext (c : Nat) (rc : RowCopy) (errs : List RdErr) (s : State) : State :=
  let k := s.chan c
  let n := rowFirstLine k.ranks (rc.row * 32 + rc.rank * 16 + rc.bank) + rc.next
  if 32 ≤ rc.next then s
  else if n < 64 * k.ublk then copyDataLine c n errs s
  else if n < 68 * k.ublk then onlyIf (k.cacheReach false n .bulk) (copyCheckLine c n) s
  else if n < 68 * k.ublk + k.ublk / 4 then onlyIf (k.cacheReach true n .bulk) (copyRecLine c n) s
  else if n < spareLine k 0 then
    onlyIf (k.cacheReach false n .bulk) (fun t => copied c (modChan c (fun k => k.useLine false n true .bulk s.nextId) t)) s
  else copied c s

/-- ROW_REDIRECT (R226): the management core starts to redirect the oldest candidate row, or copies the next line of the row that it is
copying. Nothing is started without the core or without AUTORD. `errs` names lines by their channel line number. -/
def rowRedirect (c : Nat) (errs : List RdErr) (s : State) : State :=
  let k := s.chan c
  if !coreRuns s || inSafe s || !chRuns s c then s
  else match k.rowCopy, k.cands with
    | some rc, _ => copyNext c rc errs s
    | none, [] => s
    | none, row :: rest =>
      if fget s (Pg.ch c) F.CH_ECFG_AUTORD == 0 then s
      else match freeRedirect k with
        | none => chEvt c E.CH_RD_FULL (rowFirstLine k.ranks row) 0 (setChan c { k with cands := rest } s)
        | some (entry, spare) =>
          setChan c { k with
            cands := rest, rowCopy := some { entry := entry, rank := row / 16 % 2, bank := row % 16, row := row / 32, next := 0 }
            red := tset k.red entry { spare := spare, rank := row / 16 % 2, bank := row % 16, row := row / 32 } } s

/-- ROW_REDIRECT (R226). -/
def execRowRedirect (ch : Fin 64) (errs : List RdErr) (s : State) : Host.Outcome State Fault Refusal := .next (rowRedirect ch errs s)

/-- REDIRECT_DONE (R226): the row is complete: the entry is valid, its repair still to be programmed, RD_NEW is set, and the almanac is
to be written. -/
def redirectDone (c : Nat) (s : State) : State :=
  match (s.chan c).rowCopy with
  | none => s
  | some rc =>
    if rc.next < 32 then s
    else
      let k := s.chan c
      wantAlmanac (chEvt c E.CH_RD_NEW (rowFirstLine k.ranks (rc.row * 32 + rc.rank * 16 + rc.bank)) 0
        (setChan c { k with rowCopy := none, red := tset k.red rc.entry { (tget {} k.red rc.entry) with valid := true, pend := true } } s))

/-- REDIRECT_DONE (R226). -/
def execRedirectDone (ch : Fin 64) (s : State) : Host.Outcome State Fault Refusal := .next (redirectDone ch s)

end Sys2Proof.Machine
end

