-- ==== Sys2Proof/Machine/Access.lean ====
section
/-!
DEFINITION. Memory requests of the host ports: admission (Table 4-7), the ordering point (R13, R46, R69 to R73), the return of
read data (Tables 2-5 and 2-6), commits and fill-forward (R48 to R54), and the flip at a pulse.
-/

namespace Sys2Proof.Machine

/-! ### Rights (R431) -/

/-- Memory right of a port on a region: read (`write` false) or write. -/
def memRight (s : State) (port region : Nat) (write : Bool) : Bool :=
  (fget s Pg.prot (F.PROT_MRIGHT.shift (0x40 * port + 4 * (region / 16)))).testBit (2 * (region % 16) + b2n write)

/-- Register right of a port on a page. -/
def regRight (s : State) (port page : Nat) (write : Bool) : Bool :=
  (fget s Pg.prot (F.PROT_RRIGHT.shift (0x40 * port + 4 * (page / 16)))).testBit (2 * (page % 16) + b2n write)

/-- Right of a port's jobs to send output to port `p`. -/
def routeRight (s : State) (port p : Nat) : Bool :=
  (fget s Pg.prot (F.PROT_ROUTEx_PORT.shift (4 * port))).testBit p

/-! ### Admission -/

/-- What the checks of Table 4-7 say of a request: refused with a status, a DETAIL and the region concerned, or admitted. -/
structure Refused where
  st : Status
  detail : Nat
  region : Option Nat
deriving DecidableEq, Repr

/-- Does a handover make host requests to this device BUSY (R304, R306)? -/
def hoHolds (s : State) (write : Bool) : Bool :=
  (!s.ring.ho.sender && (s.ring.ho.state == .armed || s.ring.ho.state == .check || s.ring.ho.state == .receiving)) ||
  (s.ring.ho.sender && s.ring.ho.frozen && write)

/-- Table 4-7 for a memory request of `lines` lines; while RETENTION is entered every request is BUSY (R351). -/
def checkMem (s : State) (port : Nat) (write : Bool) (addr lines maxage : Nat) : Option Refused :=
  let own := (regionOf s addr).map (·.1)
  if inSafe s then some ⟨.discarded, 0x16, own⟩
  else if s.power.state == .entering then some ⟨.busy, 0x09, own⟩
  else if addr % 64 ≠ 0 ∨ 64 < addr % 4096 / 64 + lines then some ⟨.unsupported, 0x01, own⟩
  else if (geom s).memsize * 2 ^ 21 ≤ addr then some ⟨.unsupported, 0x02, none⟩
  else
    match regionOf s addr with
    | none => some ⟨.denied, 0x03, none⟩
    | some (rn, r) =>
      if inShadow r addr then some ⟨.denied, 0x04, some rn⟩
      else if !memRight s port rn write then some ⟨.denied, 0x05, some rn⟩
      else if write && ((r.buffered && r.writer != port) || mirrorDest s rn) then some ⟨.denied, 0x06, some rn⟩
      else if !write && maxage != 0 && !r.aged then some ⟨.unsupported, 0x07, some rn⟩
      else if r.init || hoHolds s write then some ⟨.busy, 0x09, some rn⟩
      else if write && r.writeCopy.isNone then some ⟨.busy, 0x0A, some rn⟩
      else none

/-- Every footprint that a write would go to lies in a failed channel (R141). -/
def writeLost (s : State) (r : Region) (addr : Nat) : Bool :=
  match r.writeCopy with
  | none => false
  | some cp => r.writeFeet.all fun m => chFailed s (regionLoc s r m cp (regionBlk r addr)).1

/-- The class of a request's completion: that of its region (R139). -/
def clsAt (s : State) (addr : Nat) : TClass :=
  match regionOf s addr with
  | some (_, r) => r.cls
  | none => .bulk

/-! ### The tracker (R136, R137) -/

/-- The port of an access, if a host issued it. -/
def AccSrc.port : AccSrc → Option Nat
  | .hostNP p _ => some p
  | .hostPost p => some p
  | _ => none

/-- Is this a posted access? -/
def AccSrc.posted : AccSrc → Bool
  | .hostPost _ => true
  | _ => false

/-- Is this a host commit of the port? -/
def Commit.ofPort (c : Commit) (port : Nat) : Bool := match c.src with | .host p _ => p == port | _ => false

/-- The turn of a request for a free tracker entry: king-post requests first (R15), then NP requests, which wait for no posted one that is
not in the tracker (R137). One that has passed its ordering point has its entry. -/
def trackTurn (waiting posted kp : Bool) : Nat :=
  if !waiting then 0 else if kp then (if posted then 2 else 1) else if posted then 4 else 3

/-- The requests of a port that need an entry: number, whether it is held, and the turn. -/
def portRequests (s : State) (port : Nat) : List (Nat × Bool × Nat) :=
  (s.accs.filterMap fun a => if a.src.port = some port then some (a.id, a.tracked, trackTurn (a.phase == .waiting) a.src.posted a.kp) else none) ++
  (s.commits.filterMap fun c => if c.ofPort port then some (c.seq, c.tracked, trackTurn (!c.accepted) false (s.region c.region).kp) else none)

/-- The requests without an entry, in the order in which they take one. -/
def trackQueue (rs : List (Nat × Bool × Nat)) : List Nat :=
  (List.range 5).flatMap fun t => ((rs.filter fun r => !r.2.1 && r.2.2 == t).map (·.1)).foldr (insertKey id) []

/-- The requests of a port that hold a tracker entry, of which there are 512. -/
def trackHeld (s : State) (port : Nat) : List Nat :=
  let rs := portRequests s port
  let held := (rs.filter (·.2.1)).map (·.1)
  held ++ (trackQueue rs).take (512 - held.length)

/-- Does a request of a port hold a tracker entry? One that holds none waits in the port's buffer. -/
def inTracker (s : State) (port seq : Nat) : Bool := (trackHeld s port).contains seq

/-- The entries that the requests of a port hold by now are theirs, whatever arrives next. -/
def settleTracker (port : Nat) (s : State) : State :=
  let l := trackHeld s port
  { s with
    accs := s.accs.map fun a => if a.src.port = some port ∧ l.contains a.id = true then { a with tracked := true } else a
    commits := s.commits.map fun c => if c.ofPort port = true ∧ l.contains c.seq = true then { c with tracked := true } else c }

/-- A new access that waits at its ordering point. -/
def newAcc (src : AccSrc) (write : Bool) (addr lines maxage : Nat) (data : List Byte) (s0 : State) : State :=
  let s := match src.port with | some p => settleTracker p s0 | none => s0
  match regionOf s addr with
  | none => s
  | some (rn, r) =>
    { s with
      nextId := s.nextId + 1
      accs := s.accs ++ [{ id := s.nextId, src := src, write := write, cls := r.cls, kp := r.kp, addr := addr, lines := lines, maxage := maxage
                           region := rn, data := if write then pieces 64 (padTo (64 * lines) data) else [] }] }

/-- A host read request (R140). -/
def hostRd (port tag len maxage addr : Nat) (s : State) : State :=
  if (s.link port).tags.contains tag then tagError port 0x01 tag s
  else
    let t := useTag port tag s
    match checkMem s port false addr (len + 1) maxage with
    | some e => refuseNP port tag len (clsAt s addr) e.st e.detail e.region t
    | none => newAcc (.hostNP port tag) false addr (len + 1) maxage [] t

/-- An acknowledged host write (R140, R141). -/
def hostWrAck (port tag len addr : Nat) (data : List Byte) (s : State) : State :=
  if (s.link port).tags.contains tag then tagError port 0x02 tag s
  else
    let t := useTag port tag s
    match checkMem s port true addr (len + 1) 0 with
    | some e => refuseNP port tag len (clsAt s addr) e.st e.detail e.region t
    | none =>
      match regionOf s addr with
      | some (rn, r) =>
        if writeLost s r addr then complete port tag len r.cls .poisoned 0x10 (some rn) t
        else newAcc (.hostNP port tag) true addr (len + 1) 0 data t
      | none => t

/-- A posted host write (R140, R141). -/
def hostWrPost (port len addr : Nat) (data : List Byte) (s : State) : State :=
  match checkMem s port true addr (len + 1) 0 with
  | some e => dropPosted port e.st e.detail s
  | none =>
    match regionOf s addr with
    | some (_, r) =>
      if writeLost s r addr then dropPosted port .poisoned 0x10 s
      else newAcc (.hostPost port) true addr (len + 1) 0 data s
    | none => s

/-- Table 4-7 for a COMMIT. -/
def checkCommit (s : State) (port rn : Nat) : Option (Status × Nat) :=
  let r := s.region rn
  if inSafe s then some (.discarded, 0x16)
  else if s.power.state == .entering then some (.busy, 0x09)
  else if !r.en then some (.denied, 0x03)
  else if !memRight s port rn true then some (.denied, 0x05)
  else if (r.buffered && r.writer != port) || mirrorDest s rn then some (.denied, 0x06)
  else if !r.buffered then some (.unsupported, 0x08)
  else if r.init || hoHolds s true then some (.busy, 0x09)
  else none

/-- A host commit (R48, R140): it waits to be accepted. -/
def hostCommit (port tag : Nat) (touch : Bool) (rn : Nat) (frame : BitVec 16) (s : State) : State :=
  if (s.link port).tags.contains tag then tagError port 0x04 tag s
  else
    let t := useTag port tag s
    match checkCommit s port rn with
    | some (st, d) => refuseNP port tag 0 (s.region rn).cls st d (some rn) t
    | none =>
      let t := settleTracker port t
      { t with
        nextId := t.nextId + 1
        commits := t.commits ++ [{ src := .host port tag, port := port, region := rn, touch := touch, frame := frame, seq := t.nextId }] }

/-! ### The ordering point -/

/-- Do two accesses share a line? -/
def sharesLine (a b : Acc) : Bool :=
  a.addr / 64 < b.addr / 64 + b.lines && b.addr / 64 < a.addr / 64 + a.lines

/-- Is this an output write of a descriptor, which counts as a write of the port that owns the queue (R45)? -/
def AccSrc.isOut : AccSrc → Bool
  | .out _ _ _ _ => true
  | _ => false

/-- Is this a KPW of the partner whose turn in the sequence has not come (R302)? -/
def outOfTurn (s : State) (a : Acc) : Bool := match a.src with | .kpw _ seq _ => seq != kpwNextIn s | _ => false

/-- Must an access wait behind an earlier one: one to the same line (R70, R209), a posted write of its port when it is an
acknowledged write (R72), an earlier number of the sequence when it is a KPW (R302)? KPWs of one line pass in sequence, not as they
came. -/
def waitsBehind (s : State) (a : Acc) : Bool :=
  outOfTurn s a || s.accs.any fun b => b.id < a.id && b.phase == .waiting && !outOfTurn s b &&
    (sharesLine a b || (a.write && !a.src.posted && b.src.posted && a.src.port.isSome && b.src.port == a.src.port))

/-- What a write does to a block record as it passes: the tag of a plain aged region, the line-write map of a buffered one (R46,
R55, R57). -/
def writeRec (r : Region) (epoch : Word) (first lines : Nat) (e : Rec) : Rec :=
  if r.buffered then { e with lw := e.lw ||| BitVec.ofNat 64 ((2 ^ lines - 1) * 2 ^ first) }
  else { e with ancient := false, tag := if r.aged then epoch else e.tag }

/-- Drop the lamp-record lines of an address range from every record cache (R190): the block and line numbers of the write. -/
def dropCached (addr lines : Nat) (s : State) : State :=
  { s with groups := s.groups.map fun g => (g.1, { g.2 with cache := g.2.cache.map fun e =>
      { e with lines := e.lines.filter fun l => l.1 < addr / 64 || addr / 64 + lines ≤ l.1 } }) }

/-- The queue lines of a write. -/
def writeLines (n : Nat) (data : List (List Byte)) (poison : List Bool) : List WLine :=
  (List.range data.length).map fun i => (n + i, data.getD i [], poison.getD i false)

/-- A write has passed reads of its lines that passed before it and are still out (R66, R67): they note it. -/
def noteOver (rn cp addr lines : Nat) (s : State) : State :=
  { s with accs := s.accs.map fun a =>
      if a.region = rn ∧ a.copy = cp ∧ a.phase = .passed ∧ a.write = false then
        { a with lapped := a.lapped ++ (List.range a.lines).filter fun i =>
            decide (addr / 64 ≤ a.addr / 64 + i) && decide (a.addr / 64 + i < addr / 64 + lines) }
      else a }

/-- A write of any unit passes its ordering point into copy `cp` (R13, R69): records, record caches, the write queues of its
footprints, the dirty map. -/
def placeWrite (rn cp addr : Nat) (data : List (List Byte)) (poison : List Bool) (cls : TClass) (s : State) : State :=
  let r := s.region rn
  let feet := footLines s r r.writeFeet cp addr
  let blk := regionBlk r addr
  let first := addr / 64 % 64
  let t := forAll feet (fun f u =>
    let loc := regionLoc u r f.1 cp blk
    let v := putRec loc.1 loc.2 (writeRec r u.merid.epoch first data.length (u.brec loc.1 loc.2)) cls u
    admitWrite f.2.1 (writeLines f.2.2 data poison) cls v) (noteOver rn cp addr data.length (dropCached addr data.length s))
  markDirty (addr + cp * r.size * 2 ^ 21) t

/-- May the footprints of a write take it now (R208, R209, R218, R229)? A footprint that is out of service is not asked. -/
def writeAdmits (s : State) (feet : List (Bool × Nat × Nat)) (lines : Nat) (cls : TClass) : Bool :=
  feet.all fun f =>
    writeFits s f.2.1 f.2.2 lines cls && (s.chan f.2.1).cacheReach true (recLine (s.chan f.2.1) (f.2.2 / 64)) cls

/-- May the footprints of a read take it now (R208, R209, R218, R229)? -/
def readAdmits (s : State) (feet : List (Bool × Nat × Nat)) (lines : Nat) (cls : TClass) : Bool :=
  feet.all fun f =>
    !chHolds s f.2.1 && readFree s f.2.1 cls lines && !atLimit s f.2.1 f.2.2 cls &&
      (s.chan f.2.1).cacheReach true (recLine (s.chan f.2.1) (f.2.2 / 64)) cls

/-- The tag that the block of a write carries after it (R302). -/
def tagAfter (s : State) (r : Region) (cp addr : Nat) : Word :=
  let l := regionLoc s r ((r.readFeet.headD false)) cp (regionBlk r addr)
  (s.brec l.1 l.2).tag

/-- The writable copy is opened where there is none (R46). -/
def openNow (rn cp : Nat) (s : State) : State :=
  let r := s.region rn
  onlyIf (r.buffered && (r.idxOf .writable).isNone) (openCopy rn cp) s

/-- A write of a unit other than a host port passes its ordering point: it opens the writable copy where there is none, and goes on
to the partner of a mirrored region (R46, R302). -/
def unitWrite (rn cp addr : Nat) (data : List (List Byte)) (poison : List Bool) (cls : TClass) (s : State) : State :=
  let r := s.region rn
  let u := placeWrite rn cp addr data poison cls (openNow rn cp s)
  match mirrorSource u rn with
  | none => u
  | some e => sendKpw e (addr - r.base * 2 ^ 21) (padTo (64 * data.length) data.flatten)
      ((List.range data.length).filter fun i => poison.getD i false) (tagAfter u r cp addr) none u

/-- A host write passes its ordering point and is acknowledged (R14, R72); a write to a mirrored region is sent on first, and its
acknowledgement waits for the partner (R302). -/
def passWrite (a : Acc) (r : Region) (cp : Nat) (s : State) : State :=
  let u := placeWrite a.region cp a.addr a.data [] a.cls (openNow a.region cp s)
  match mirrorSource u a.region with
  | none => endAcc a .ok 0 u
  | some e =>
    let waits := (u.mirror e).state == .attached && !a.src.posted
    let v := sendKpw e (a.addr - r.base * 2 ^ 21) (a.data.flatten) [] (tagAfter u r cp a.addr)
      (if waits then some a.id else none) u
    if waits then { v with accs := v.accs.map fun b => if b.id = a.id then { b with phase := .passed } else b }
    else endAcc a .ok 0 v

/-- Store the carried tag with the block (R302). -/
def setTags (rn addr : Nat) (tag : Word) (s : State) : State :=
  let r := s.region rn
  forAll r.writeFeet (fun m t =>
    let l := regionLoc t r m 0 (regionBlk r addr)
    setRec l.1 l.2 { (t.brec l.1 l.2) with tag := tag } t) s

/-- Store the record that came with a handover block (R305). -/
def setBlockRec (rn cp addr : Nat) (bs : List Byte) (s : State) : State :=
  let r := s.region rn
  forAll r.writeFeet (fun m t =>
    let l := regionLoc t r m cp (regionBlk r addr)
    setRec l.1 l.2 (recOfBytes bs) t) s

/-- Which lines of a write are poison codewords. -/
def Acc.poisonLines (a : Acc) : List Bool := (List.range a.lines).map a.poison.contains

/-- The write of an access passes into copy `cp`, each kind in its own way. -/
def passAs (a : Acc) (r : Region) (cp : Nat) (s : State) : State :=
  match a.src with
  | .hostNP _ _ => passWrite a r cp s
  | .hostPost _ => passWrite a r cp s
  | .kpw _ _ tag => endAcc a .ok 0 (setTags a.region a.addr tag (placeWrite a.region 0 a.addr a.data a.poisonLines .kp s))
  | .hodata =>
    let t := placeWrite a.region cp a.addr a.data a.poisonLines a.cls s
    endAcc a .ok 0 (match a.recIn with | some bs => setBlockRec a.region cp a.addr bs t | none => t)
  | _ => endAcc a .ok 0 (unitWrite a.region cp a.addr a.data [] a.cls s)

/-- A read passes its ordering point (R44, R47, R56, R66): it takes the visible copy and the epoch and pins the copy, unless its job
chose both, and enters the read queues of the footprints that serve. -/
def passRead (a : Acc) (r : Region) (s : State) : State :=
  let cp := accCopy r a
  let feet := (footLines s r r.readFeet cp a.addr).filter fun f => !chFailed s f.2.1
  let recs := (footLines s r r.readFeet cp a.addr).map fun f => (f.1, recLineBytes s f.2.1 (f.2.2 / 256))
  let all := footLines s r r.feet cp a.addr
  let t := { s with accs := s.accs.map fun b => if b.id = a.id then
      { b with phase := .passed, copy := cp, epoch := if a.chosen then a.epoch else s.merid.epoch, pinned := !a.chosen, recs := recs, feet := all } else b }
  forAll feet (fun f u => admitRead f.2.1 f.2.2 a.lines f.1 a.id a.cls (touchRec f.2.1 (f.2.2 / 64) false a.cls u))
    (onlyIf (!a.chosen) (pinCopy a.region cp true) t)

/-- What becomes of a waiting access at its ordering point: it waits, it ends there with a status and a DETAIL, it passes as a write
into a copy, or it passes as a read. -/
inductive AtPoint where
  | wait
  | ends (st : Status) (detail : Nat)
  | writes (cp : Nat)
  | reads
deriving DecidableEq, Repr

/-- The copy that a write goes to, where there is one to go to (R46). -/
def writeTo (r : Region) (a : Acc) : Option Nat := if a.chosen then some a.copy else r.writeCopy

/-- What becomes of an access, its order among the waiting ones apart (R13, R41, R42, R46, R141, R209). -/
def atPoint (s : State) (a : Acc) : AtPoint :=
  let r := s.region a.region
  if !r.en then .ends .denied 0x03
  else if r.init then .ends .busy 0x09
  else if a.write then
    match writeTo r a with
    | none => .ends .busy 0x0A
    | some cp =>
      let feet := footLines s r r.writeFeet cp a.addr
      if feet.all fun f => chFailed s f.2.1 then .ends .poisoned 0x10
      else if writeAdmits s feet a.lines a.cls then .writes cp
      else .wait
  else
    let feet := (footLines s r r.readFeet (accCopy r a) a.addr).filter fun f => !chFailed s f.2.1
    if readAdmits s feet a.lines a.cls then .reads else .wait

/-- The header and data credits that requests of class `c` (1 is P, 2 is NP) hold while they wait in the port's buffer (R126, R137). -/
def buffered (s : State) (port c : Nat) : Nat × Nat :=
  let as := s.accs.filter fun a => a.src.port == some port && (a.src.posted == (c == 1)) && !inTracker s port a.id
  let cs := s.commits.filter fun d => c == 2 && d.ofPort port && !inTracker s port d.seq
  (as.length + cs.length, (as.map fun a => if a.write then 4 * a.lines else 0).sum)

/-- The slice of an access's ordering point: the bay of the line, or of its primary copy (R12). -/
def sliceOf (s : State) (a : Acc) : Nat :=
  let r := s.region a.region
  (regionLoc s r false (accCopy r a) (regionBlk r a.addr)).1 / 8

/-- Does an access of a class above `cls` wait in a slice that could pass now (R15)? -/
def sliceOutranked (s : State) (slice : Nat) (cls : TClass) : Bool :=
  s.accs.any fun b => b.phase == .waiting && decide (cls.rank < b.cls.rank) && sliceOf s b == slice &&
    !waitsBehind s b && atPoint s b != .wait

/-- Does an access of a higher class wait in the same slice that could pass now (R15)? -/
def outranked (s : State) (a : Acc) : Bool := sliceOutranked s (sliceOf s a) a.cls

/-- ORDERING_POINT_PASS (R13): a waiting access passes once nothing holds it back. -/
def orderingPass (id : Nat) (s : State) : State :=
  match s.accs.find? fun a => a.id == id && a.phase == .waiting with
  | none => s
  | some a =>
    let held := match a.src.port with | some p => !inTracker s p a.id | none => false
    if inSafe s || held || waitsBehind s a || outranked s a then s
    else match atPoint s a with
      | .wait => s
      | .ends st d => endAcc a st d s
      | .writes cp => passAs a (s.region a.region) cp s
      | .reads => passRead a (s.region a.region) s

/-! ### Read data -/

/-- The line `i` that one footprint returned, with the errors of the read applied. -/
def gotLine (a : Acc) (errs : List RdErr) (m : Bool) (i : Nat) : Option (List Byte × List Byte) :=
  match a.got.find? fun g => g.mirror == m && g.line == i with
  | none => none
  | some g => some ((errs.filter fun e => e.mirror == m && !e.isRec && e.line == i).foldl (fun d e => applyErr d e.pos e.mask) (g.data, g.chk))

/-- Is the block stale for a reader (R56 to R58)? -/
def staleFor (maxage : Nat) (epoch : Word) (e : Rec) : Bool :=
  maxage != 0 && (e.ancient || decide (maxage < (epoch - e.tag).toNat))

/-- What a line of one footprint is for Table 2-6. -/
inductive FootLine where
  | good (data : List Byte)
  | bad
  | poison
deriving DecidableEq, Repr

/-- One footprint's copy of a line (R66). -/
def footLine (d : Dec) (raw : List Byte) (recOk : Bool) : FootLine :=
  if !recOk then .bad
  else match d with
    | .poison => .poison
    | .clean => .good raw
    | .corrected _ b _ => .good b
    | _ => .bad

/-- The outcome of one king-post line (Table 2-6). -/
inductive KpOut where
  | data (bs : List Byte)
  | repair (bs : List Byte) (toMirror : Bool)
  | mismatch
  | lost
  | poisoned
deriving DecidableEq, Repr

/-- Table 2-6 with both footprints. `tagsEqual` compares the two age tags. -/
def kpBoth (p m : FootLine) (tagsEqual : Bool) : KpOut :=
  match p, m with
  | .good x, .good y => if x = y ∧ tagsEqual then .data x else .mismatch
  | .good x, _ => .repair x true
  | _, .good y => .repair y false
  | .poison, .poison => .poisoned
  | _, _ => .lost

/-- Table 2-6 with one footprint left (SINGLE). -/
def kpOne (p : FootLine) : KpOut :=
  match p with
  | .good x => .data x
  | .poison => .poisoned
  | .bad => .lost

/-- Where the block of a read that has passed lies in one footprint: channel and channel-local block. -/
def accLoc (a : Acc) (m : Bool) : Nat × Nat :=
  match a.feet.find? fun f => f.1 == m with
  | some f => (f.2.1, f.2.2 / 64)
  | none => (64, 0)

/-- The block record of one footprint as the read found it: the decoder's outcome for its record line and the record it gives (R205,
R206). -/
def recRead (s : State) (a : Acc) (errs : List RdErr) (m : Bool) : Dec × Rec :=
  let l := accLoc a m
  match a.recs.find? fun e => e.1 == m with
  | none => (.uncor, {})
  | some e =>
    let x := recLineDec s l.1 (l.2 / 4) e.2 a.kp (errs.filter fun e => e.mirror == m)
    (x.1, recOfBytes (slice x.2 (16 * (l.2 % 4)) 16))

/-- Count the decoder's outcome of one line of one footprint. -/
def countGot (a : Acc) (errs : List RdErr) (m : Bool) (i : Nat) (s : State) : State :=
  match gotLine a errs m i with
  | none => s
  | some dc =>
    let l := accLoc a m
    let n := l.2 * 64 + a.addr / 64 % 64 + i
    countDec l.1 n false (decodeLine (detectMode s l.1 a.kp) n dc.1 dc.2) s

/-- Count the decoder's outcome of a block record; one that could not be corrected sets META_ERR (R81, R206). -/
def countRec (a : Acc) (errs : List RdErr) (m : Bool) (s : State) : State :=
  let l := accLoc a m
  let d := (recRead s a errs m).1
  onlyIf d.lost (rgnEvt E.RGN_META_ERR a.region) (countDec l.1 (68 * (s.chan l.1).ublk + l.2 / 4) false d s)

/-- Line `i` of an access in one footprint, as Table 2-6 sees it; nothing when the footprint did not answer. -/
def footOf (s : State) (a : Acc) (errs : List RdErr) (m : Bool) (i : Nat) : Option FootLine :=
  match gotLine a errs m i with
  | none => none
  | some dc =>
    let l := accLoc a m
    let n := l.2 * 64 + a.addr / 64 % 64 + i
    some (footLine (decodeLine (detectMode s l.1 a.kp) n dc.1 dc.2) dc.1 (!(recRead s a errs m).1.lost))

/-- Line `i` of an access outside king-post regions: its data, when it can be read. -/
def plainLine (a : Acc) (errs : List RdErr) (i : Nat) : Option (List Byte) :=
  match gotLine a errs false i with
  | none => none
  | some dc =>
    let l := accLoc a false
    (decodeLine false (l.2 * 64 + a.addr / 64 % 64 + i) dc.1 dc.2).data dc.1

/-- Table 2-6 for line `i`. -/
def kpLine (s : State) (a : Acc) (errs : List RdErr) (i : Nat) : KpOut :=
  match footOf s a errs false i, footOf s a errs true i with
  | some p, some m => kpBoth p m ((recRead s a errs false).2.tag == (recRead s a errs true).2.tag)
  | some p, none => kpOne p
  | none, some m => kpOne m
  | none, none => .lost

/-- The footprints in which an outcome rewrites line `i` of a king-post read (Table 2-6): none when a later write has passed the line
since, or for a footprint that is out of service. -/
def KpOut.feet (o : KpOut) (s : State) (a : Acc) (i : Nat) : List Bool :=
  let r := s.region a.region
  if !r.en || a.lapped.contains i then []
  else (match o with | .repair _ m => [m] | .mismatch => [false, true] | _ => []).filter fun m => r.writeFeet.contains m

/-- May the rewrites of a king-post read's lines enter the write queues now? -/
def repairsFit (s : State) (a : Acc) (outs : List (Nat × KpOut)) : Bool :=
  [false, true].all fun m =>
    let l := accLoc a m
    let ns := (outs.filter fun o => (o.2.feet s a o.1).contains m).map fun o => l.2 * 64 + a.addr / 64 % 64 + o.1
    ns.isEmpty || (!chHolds s l.1 && writeFree s l.1 .kp (ownEntries (s.chan l.1) ns) &&
      (s.chan l.1).cacheReach true (recLine (s.chan l.1) l.2) .kp)

/-- Rewrite line `i` of a king-post read in one footprint, at its ordering point (Table 2-6); a record that was not good is taken from
the other footprint. -/
def rewriteFoot (a : Acc) (errs : List RdErr) (i : Nat) (data : List Byte) (poison m : Bool) (s : State) : State :=
  let dst := accLoc a m
  let src := accLoc a (!m)
  let t := onlyIf (!poison && (recRead s a errs m).1.lost) (putRec dst.1 dst.2 (s.brec src.1 src.2) .kp) s
  admitWrite dst.1 [(dst.2 * 64 + a.addr / 64 % 64 + i, data, poison)] .kp t

/-- What a king-post line's outcome does to the store and reports (Table 2-6). -/
def kpEffect (a : Acc) (errs : List RdErr) (i : Nat) (o : KpOut) (s : State) : State :=
  let fs := o.feet s a i
  match o with
  | .data _ => s
  | .repair bs _ => if fs.isEmpty then s else rgnEvt E.RGN_KP_REPAIR a.region (forAll fs (rewriteFoot a errs i bs false) s)
  | .mismatch => kpFailure E.RGN_KP_MISMATCH a.region (forAll fs (rewriteFoot a errs i (padTo 64 []) true) s)
  | .lost => kpFailure E.RGN_KP_LOST a.region s
  | .poisoned => s

/-- The data of a king-post outcome. -/
def KpOut.bytes : KpOut → Option (List Byte)
  | .data b => some b
  | .repair b _ => some b
  | _ => none

/-- The stale pattern over `lines` lines (R59). -/
def stalePattern (w : Word) (lines : Nat) : List Byte := (List.replicate (16 * lines) (leBytes 4 w.toNat)).flatten

/-- Finish a read with a status: unpin, remove, complete (R60, Table 4-8). -/
def finishRead (a : Acc) (st : Status) (detail : Nat) (data : List Byte) (s : State) : State :=
  let t := onlyIf a.pinned (pinCopy a.region a.copy false) { s with accs := s.accs.filter fun b => b.id != a.id }
  match a.src with
  | .hostNP port tag =>
    if st = .ok ∨ st = .stale then completeData port tag (a.lines - 1) a.cls st (some a.region) data t
    else complete port tag (a.lines - 1) a.cls st detail (some a.region) t
  | _ => t

/-- A read outside king-post regions (Table 2-5). -/
def finishPlain (a : Acc) (errs : List RdErr) (s : State) : State :=
  let idx := List.range a.lines
  let t := countRec a errs false (forAll idx (countGot a errs false) s)
  let r := recRead s a errs false
  let ls := idx.map (plainLine a errs)
  if a.got.isEmpty then finishRead a .poisoned 0x10 [] s
  else if r.1.lost then finishRead a .poisoned 0x12 [] t
  else if staleFor a.maxage a.epoch r.2 then
    finishRead a .stale 0 (stalePattern (s.region a.region).stale a.lines) t
  else if ls.all (·.isSome) then finishRead a .ok 0 ((ls.map fun l => l.getD []).flatten) t
  else finishRead a .poisoned 0x11 [] t

/-- The footprints that answered a king-post read. -/
def gotFeet (a : Acc) : List Bool := [false, true].filter fun m => a.got.any fun g => g.mirror == m

/-- The record that a king-post read goes by: that of the first footprint with a good one. -/
def goodRec (s : State) (a : Acc) (errs : List RdErr) : Rec :=
  match (gotFeet a).find? fun m => !(recRead s a errs m).1.lost with
  | some m => (recRead s a errs m).2
  | none => {}

/-- Count the decoder's outcomes of a king-post read. -/
def countKp (a : Acc) (errs : List RdErr) (s : State) : State :=
  forAll (gotFeet a) (fun m u => countRec a errs m (forAll (List.range a.lines) (countGot a errs m) u)) s

/-- A read of a king-post region (Tables 2-5 and 2-6). It waits for room for its rewrites (R63). -/
def finishKp (a : Acc) (errs : List RdErr) (s : State) : State :=
  let outs := (List.range a.lines).map fun i => (i, kpLine s a errs i)
  if !repairsFit s a outs then s
  else
    let u := forAll outs (fun o => kpEffect a errs o.1 o.2) (countKp a errs s)
    let r := goodRec s a errs
    if outs.any fun o => o.2.bytes.isNone then finishRead a .poisoned 0x13 [] u
    else if staleFor a.maxage a.epoch r then finishRead a .stale 0 (stalePattern (s.region a.region).stale a.lines) u
    else finishRead a .ok 0 ((outs.map fun o => o.2.bytes.getD []).flatten) u

/-- Has every line of a read come back, with its check and record lines (R208)? A footprint in a failed channel is not waited for. -/
def readBack (s : State) (a : Acc) : Bool :=
  a.phase == .passed && !(s.chans.any fun c => c.2.rq.any fun e => e.acc == some a.id) &&
  a.feet.all fun f =>
    let k := s.chan f.2.1
    k.state == .failed || !k.filling (recLine k (f.2.2 / 64)) && (List.range a.lines).all fun i => !k.filling (checkLine k (f.2.2 + i))

/-- READ_COMPLETE (R60): the data of a host read is back. In ENTERING or SAFE the read is within a fault scope (Table 2-5, row 1). -/
def readComplete (id : Nat) (errs : List RdErr) (s : State) : State :=
  match s.accs.find? fun a => a.id == id && !a.write && a.src.port.isSome with
  | none => s
  | some a => if !readBack s a then s else if inSafe s then discardAcc 0x16 a s else if a.kp then finishKp a errs s else finishPlain a errs s

/-! ### Commits -/

/-- Is the commit ordered behind a write of its port that has not passed, output of the port's queues among them (R45, R48, R72), or without a
tracker entry (R137)? -/
def commitBlocked (s : State) (c : Commit) : Bool :=
  (match c.src with | .host p _ => !inTracker s p c.seq | _ => false) ||
  s.accs.any fun a => a.write && a.phase == .waiting && a.id < c.seq &&
    ((a.src.port == some c.port && (a.region == c.region || a.src.posted)) || (a.src.isOut && a.region == c.region))

/-- Blocks of a copy with a listed line-write map. -/
def listedMaps (s : State) (r : Region) (copy : Nat) : List (Nat × BitVec 64) :=
  (liveRecs s).filterMap fun e =>
    if e.2.2.lw = 0#64 then none
    else match regionBlockAt s r (r.readFeet.headD false) e.1 e.2.1 with
      | some (k, b) => if k = copy then some (b, e.2.2.lw) else none
      | none => none

/-- Is the content of copy `k` newer than the base of the committing copy (R51)? -/
def newerThan (base : Option Nat) (k : Copy) : Bool :=
  match base, k.ord with
  | _, none => false
  | none, some _ => true
  | some b, some o => b < o

/-- The line-write map of block `b` in a list of maps. -/
def mapOf (l : List (Nat × BitVec 64)) (b : Nat) : BitVec 64 :=
  match l.find? fun e => e.1 == b with
  | some e => e.2
  | none => 0

/-- The lines that fill-forward copies into copy `i` (R51), as block and line. -/
def fillSet (s : State) (r : Region) (i : Nat) : List (Nat × Nat) :=
  let own := listedMaps s r i
  let others := (List.range r.cps.length).filter fun k => k ≠ i ∧ newerThan (r.cp i).base (r.cp k)
  let maps := (others.map (listedMaps s r)).flatten
  let blocks := maps.foldl (fun a e => if a.contains e.1 then a else a ++ [e.1]) []
  (blocks.map fun b =>
    let un := maps.foldl (fun a e => if e.1 = b then a ||| e.2 else a) (0 : BitVec 64)
    (bitsSet 64 (un &&& ~~~(mapOf own b)).toNat).map fun j => (b, j)).flatten

/-- Answer the commit: a completion to a host, or its job goes on to its record (R52, R160). -/
def endCommit (c : Commit) (st : Status) (detail : Nat) (ec : Word) (s : State) : State :=
  match c.src with
  | .host port tag =>
    if st = .ok then complete port tag 0 (s.region c.region).cls st detail (some c.region) s
    else refuseNP port tag 0 (s.region c.region).cls st detail (some c.region) s
  | .queue q idx =>
    { s with jobs := s.jobs.map fun j =>
        if j.is q idx then { j with phase := .run, ec := ec, fin := some (st.code, detail) } else j }
  | .gone => s

/-- COMMIT_ACCEPT (R48 to R50, R130): the first waiting commit of the region is accepted. -/
def commitAccept (rn : Nat) (s : State) : State :=
  match s.commits.find? fun c => c.region == rn && !c.accepted with
  | none => s
  | some c =>
    let r := s.region rn
    let rest := { s with commits := s.commits.filter fun d => d.seq != c.seq }
    if inSafe s || commitBlocked s c then s
    else if !r.en then endCommit c .denied 0x03 0 rest
    else if r.init then endCommit c .busy 0x09 0 rest
    else if r.frame = some c.frame then endCommit c .ok 0 s.merid.epoch rest
    else
      match r.idxOf .writable with
      | none => endCommit c .ok 0 s.merid.epoch (setRegion rn { r with frame := some c.frame } rest)
      | some i =>
        let cp : Copy := { (r.cp i) with role := .pending, ec := s.merid.epoch, acceptedAt := s.now, ord := some r.nextOrd
                                         touch := c.touch, ffDone := false, late := false }
        let c' : Commit := { c with accepted := true, copy := some i, ec := s.merid.epoch, fill := fillSet s r i }
        setRegion rn ({ r with frame := some c.frame, nextOrd := r.nextOrd + 1 }.setCp i cp)
          { s with commits := s.commits.map fun d => if d.seq = c.seq then c' else d }

/-- The newest complete copy that a fill-forward takes lines from (R51): the latest earlier pending copy, else the visible one. -/
def fillSource (r : Region) (i : Nat) : Nat :=
  let mine := (r.cp i).ord.getD 0
  match (r.pendings.filter fun k => (r.cp k).ord.getD 0 < mine).getLast? with
  | some k => k
  | none => r.vis

/-- The good bytes of a line in the first footprint that serves and holds it well, as a handover or a mirror sends them. -/
def goodLine (s : State) (r : Region) (cp blk line : Nat) : Option (List Byte) :=
  r.readFeet.findSome? fun m =>
    let l := regionLoc s r m cp blk
    let n := l.2 * 64 + line
    let dc := currentLine s l.1 n
    if chFailed s l.1 then none else (decodeLine (detectMode s l.1 r.kp) n dc.1 dc.2).data dc.1

/-! ### Reads and copies in one step

A line of fill-forward, of RESYNC, of a mirror copy or of a handover passes its ordering point and is read in one step (R13). -/

/-- Can line `n` of channel `c` be read now at BULK class: admissions are open, a read entry is free, the rank is not at its limit, no
queued write of the line has to drain, the check line can be had (R208, R209, R213, R218)? -/
def lineReadable (s : State) (c n : Nat) : Bool :=
  !chHolds s c && readFree s c .bulk 1 && !atLimit s c n .bulk && !((s.chan c).wq.any (·.n == n)) &&
    (s.chan c).cacheReach false (checkLine (s.chan c) n) .bulk

/-- A read of line `n` meets queued writes of it: they are promoted, and the hazard is counted once (R213). -/
def readHazard (c n : Nat) (s : State) : State :=
  if (s.chan c).wq.any fun e => e.n == n && !e.promoted then
    modChan c (fun k => { k with wq := promoteWrites [n] k.wq }) (fbump (Pg.ch c) F.CH_HAZCNT_HAZARD s)
  else s

/-- One block that is read whole at its ordering point, from the first footprint that serves (R303, R305). -/
structure BlockRead where
  region : Nat
  copy : Nat
  block : Nat
deriving DecidableEq, Repr

/-- The places of the block in the footprints that serve and are in service: channel and channel-local block. -/
def BlockRead.places (x : BlockRead) (s : State) : List (Nat × Nat) :=
  let r := s.region x.region
  (r.readFeet.map fun m => regionLoc s r m x.copy x.block).filter fun l => !chFailed s l.1

/-- The bytes of copy 0's address range that name the block. -/
def BlockRead.addr (x : BlockRead) (s : State) : Nat := ((s.region x.region).base * 512 + x.block) * 4096

/-- Can the block be read now: every line of it in every footprint, no access to it waiting from before, none of a higher class in its slice
that could pass (R13, R15)? A block that lies in failed channels alone is not waited for. -/
def BlockRead.can (x : BlockRead) (s : State) : Bool :=
  let r := s.region x.region
  !(s.accs.any fun a => a.phase == .waiting && a.region == x.region && accCopy r a == x.copy &&
      decide (a.addr / 64 < x.addr s / 64 + 64) && decide (x.addr s / 64 < a.addr / 64 + a.lines)) &&
  !sliceOutranked s ((regionLoc s r false x.copy x.block).1 / 8) (if r.kp then .kp else .bulk) &&
  (x.places s).all fun l => (List.range 64).all fun i => lineReadable s l.1 (l.2 * 64 + i)

/-- The writes queued for the block are promoted, so that it can be read (R213). -/
def BlockRead.promote (x : BlockRead) (s : State) : State :=
  forAll (x.places s) (fun l t => forAll (List.range 64) (fun i => readHazard l.1 (l.2 * 64 + i)) t) s

/-- Lines of the block that no footprint holds well. -/
def BlockRead.unreadable (x : BlockRead) (s : State) : List Nat :=
  (List.range 64).filter fun i => (goodLine s (s.region x.region) x.copy x.block i).isNone

/-- The bytes of the block, with zeros for a line that cannot be read. -/
def BlockRead.bytes (x : BlockRead) (s : State) : List Byte :=
  ((List.range 64).map fun i => (goodLine s (s.region x.region) x.copy x.block i).getD (padTo 64 [])).flatten

/-- What the reads of the block count: the lines read, the decoder's outcomes, the check lines used (R206, R208). -/
def BlockRead.count (x : BlockRead) (s : State) : State :=
  let kp := (s.region x.region).kp
  forAll (x.places s) (fun l t => forAll (List.range 64) (fun i u =>
    let n := l.2 * 64 + i
    countDec l.1 n false (decodeLine (detectMode s l.1 kp) n (lineData s l.1 n) (lineChk s l.1 n))
      (touchCheck l.1 n false .bulk (modChan l.1 (countLine false .bulk) u))) t) s

/-- One line is read from one place and written to others in one step at its ordering point, at BULK class (R51, R67). -/
structure LineCopy where
  src : List (Nat × Nat)
  dst : List (Nat × Nat)
  bad : Bool
  kp : Bool
deriving DecidableEq, Repr

/-- Can the line be copied now: a source to read from, room for the writes? A line in a failed channel makes it wait (Table 2-7). -/
def LineCopy.can (x : LineCopy) (s : State) : Bool :=
  x.src.any (fun p => !chFailed s p.1) &&
  x.src.all (fun p => chFailed s p.1 || lineReadable s p.1 p.2) &&
  x.dst.all fun p => writeFits s p.1 p.2 1 .bulk

/-- The writes queued for the source line are promoted, so that the copy can go on (R213). -/
def LineCopy.promote (x : LineCopy) (s : State) : State :=
  forAll x.src (fun p => readHazard p.1 p.2) s

/-- Copy the line: its good data, corrected where need be, or a poison codeword. A line found uncorrectable is counted (R51). -/
def LineCopy.run (x : LineCopy) (s : State) : State :=
  let live := x.src.filter fun p => !chFailed s p.1
  let dec (p : Nat × Nat) : Dec := decodeLine (detectMode s p.1 x.kp) p.2 (lineData s p.1 p.2) (lineChk s p.1 p.2)
  let t := forAll live (fun p u => countDec p.1 p.2 false (if x.bad then .uncor else dec p)
    (touchCheck p.1 p.2 false .bulk (modChan p.1 (countLine false .bulk) u))) s
  match if x.bad then none else live.findSome? fun p => (dec p).data (lineData s p.1 p.2) with
  | some d => forAll x.dst (fun p => admitWrite p.1 [(p.2, d, false)] .bulk) t
  | none => forAll x.dst (fun p => admitWrite p.1 [(p.2, padTo 64 [], true)] .bulk) t

/-- The copy of one line of a fill-forward (R51). -/
def fillCopy (s : State) (r : Region) (src dst : Nat) (bad : List (Nat × Nat)) (bl : Nat × Nat) : LineCopy :=
  let place (m : Bool) (cp : Nat) : Nat × Nat := let l := regionLoc s r m cp bl.1; (l.1, l.2 * 64 + bl.2)
  { src := r.readFeet.map (place · src), dst := r.writeFeet.map (place · dst), bad := bad.contains bl, kp := r.kp }

/-- Copy a line of a fill-forward if it can be copied now. -/
def fillLine (rn seq src dst : Nat) (bad : List (Nat × Nat)) (bl : Nat × Nat) (s : State) : State :=
  let x := fillCopy s (s.region rn) src dst bad bl
  if !x.can s then x.promote s
  else
    let t := x.run s
    { t with commits := t.commits.map fun c => if c.seq = seq then { c with fill := c.fill.erase bl } else c }

/-- FILL_FORWARD_DONE (R51, R52): the fill-forward of the region's earliest accepted commit goes as far as the queues take its lines, and
with the last of them the commit completes. `bad` names source lines, as block and line, that are found uncorrectable. -/
def fillForwardDone (rn : Nat) (bad : List (Nat × Nat)) (s : State) : State :=
  match s.commits.find? fun c => c.region == rn && c.accepted with
  | none => s
  | some c =>
    let r := s.region rn
    let i := c.copy.getD 0
    if inSafe s then s
    else
      let t := forAll c.fill (fillLine rn c.seq (fillSource r i) i bad) s
      match t.commits.find? fun d => d.seq == c.seq with
      | none => t
      | some d =>
        if !d.fill.isEmpty then t
        else endCommit c .ok 0 c.ec (modRegion rn (fun q => q.setCp i { (q.cp i) with ffDone := true })
          { t with commits := t.commits.filter fun d => d.seq != c.seq })

/-! ### The flip (R53 to R55) -/

/-- Is pending copy `i` eligible for a pulse now (R53)? -/
def eligible (s : State) (r : Region) (i : Nat) : Bool :=
  (r.cp i).ffDone && decide ((r.cp i).acceptedAt + us s.merid.guardNow ≤ s.now)

/-- EPCH events (R434): the event's bit number and the region in ERR_CAP0, the epoch that the pulse starts in ERR_CAP1. -/
def epchEvt (bit region : Nat) (epoch : Word) (s : State) : State := raise Pg.epch bit (packW [(27, bit), (0, region)]) epoch s

/-- A pending copy misses the first pulse after its acceptance (R54). -/
def markLate (rn : Nat) (epoch : Word) (i : Nat) (s : State) : State :=
  let r := s.region rn
  epchEvt E.EPCH_LATE rn epoch (fbump Pg.epch F.EPCH_LATE_COUNT (rgnEvt E.RGN_LATE rn
    (setRegion rn ({ r with rlate := min (2 ^ 32 - 1) (r.rlate + 1) }.setCp i { (r.cp i) with late := true }) s)))

/-- An older pending copy is skipped (R53). -/
def skipCopy (rn : Nat) (epoch : Word) (i : Nat) (s : State) : State :=
  let r := s.region rn
  epchEvt E.EPCH_SKIP rn epoch (fbump Pg.epch F.EPCH_SKIP_COUNT (rgnEvt E.RGN_SKIP rn
    (setRegion rn ({ r with rskip := min (2 ^ 32 - 1) (r.rskip + 1) }.setCp i { (r.cp i) with role := .idle }) s)))

/-- The records of the copy that becomes visible: its write set takes E_c + 1, every other block the tag of the old visible copy
(R55). -/
def flipRecs (r : Region) (oldC newC : Nat) (s : State) : State :=
  let cp := r.cp newC
  let listed := (liveRecs s).filterMap fun e =>
    match regionBlockAt s r (r.readFeet.headD false) e.1 e.2.1 with
    | some (k, b) => if k = oldC ∨ k = newC then some b else none
    | none => none
  let blocks := if cp.touch then List.range r.blocks else listed
  forAll blocks (fun b t =>
    forAll r.feet (fun m u =>
      let o := regionLoc u r m oldC b
      let n := regionLoc u r m newC b
      let e := u.brec n.1 n.2
      let old := s.brec o.1 o.2
      if cp.touch || e.lw != 0 then changeRec n.1 n.2 { e with tag := cp.ec + 1, ancient := false } u
      else changeRec n.1 n.2 { e with tag := old.tag, ancient := old.ancient } u) t) s

/-- The copy becomes visible. -/
def flipTo (rn oldC newC : Nat) (s : State) : State :=
  let r := s.region rn
  let t := if r.aged then flipRecs r oldC newC s else s
  let q := ((t.region rn).setCp oldC { (r.cp oldC) with role := .idle }).setCp newC { (r.cp newC) with role := .visible }
  let u := setRegion rn q t
  let n := fget u Pg.epch F.EPCH_FLIPS_COUNT
  forAll (List.range (r.size * 8)) (fun g => markDirty ((r.base + newC * r.size) * 2 ^ 21 + g * 2 ^ 18))
    (fset Pg.epch F.EPCH_FLIPS_COUNT (n + 1) u)

/-- One region at a pulse that starts epoch `epoch` (R53, R54). -/
def flipRegion (epoch : Word) (rn : Nat) (s : State) : State :=
  let r := s.region rn
  if !r.en || !r.buffered then s
  else
    let el := r.pendings.filter (eligible s r)
    let lates := r.pendings.filter fun i => !eligible s r i && !(r.cp i).late
    let t := forAll lates (markLate rn epoch) s
    match el.getLast? with
    | none => t
    | some i =>
      let mine := (r.cp i).ord.getD 0
      let older := r.pendings.filter fun k => (r.cp k).ord.getD 0 < mine
      flipTo rn r.vis i (forAll older (skipCopy rn epoch) t)

/-- Every region at a pulse. No copy flips in SAFE, or between a warm reset and READY (R329, R406). -/
def flipAll (epoch : Word) (s : State) : State :=
  if inSafe s || s.boot.warm then s else forAll (s.regions.map (·.1)) (flipRegion epoch) s

/-! ### The commands -/

/-- RD (R140): a read request arrives at an ACTIVE port. -/
def execRd (port : Fin 16) (tag : Fin 512) (len : Fin 64) (_tc : BitVec 2) (maxage : BitVec 8) (addr : BitVec 40) (s : State) :
    Host.Outcome State Fault Refusal :=
  .next (arrives port (hostRd port tag len maxage.toNat addr.toNat) s)

/-- WR_ACK (R140). -/
def execWrAck (port : Fin 16) (tag : Fin 512) (len : Fin 64) (_tc : BitVec 2) (addr : BitVec 40) (data : List Byte) (s : State) :
    Host.Outcome State Fault Refusal :=
  .next (arrives port (hostWrAck port tag len addr.toNat data) s)

/-- WR_POST (R140). -/
def execWrPost (port : Fin 16) (len : Fin 64) (_tc : BitVec 2) (addr : BitVec 40) (data : List Byte) (s : State) :
    Host.Outcome State Fault Refusal :=
  .next (arrives port (hostWrPost port len addr.toNat data) s)

/-- COMMIT (R48, R140). -/
def execCommit (port : Fin 16) (tag : Fin 512) (touch : Bool) (region : Fin 256) (frame : BitVec 16) (s : State) :
    Host.Outcome State Fault Refusal :=
  .next (arrives port (hostCommit port tag touch region frame) s)

/-- COMMIT_ACCEPT (R48). -/
def execCommitAccept (region : Fin 256) (s : State) : Host.Outcome State Fault Refusal := .next (commitAccept region s)

/-- FILL_FORWARD_DONE (R52). -/
def execFillForwardDone (region : Fin 256) (bad : List (Nat × Nat)) (s : State) : Host.Outcome State Fault Refusal :=
  .next (fillForwardDone region bad s)

/-- ORDERING_POINT_PASS (R13). -/
def execOrderingPointPass (access : Nat) (s : State) : Host.Outcome State Fault Refusal :=
  .next (releaseBells (orderingPass access s))

/-- READ_COMPLETE (R60). -/
def execReadComplete (access : Nat) (errs : List RdErr) (s : State) : Host.Outcome State Fault Refusal :=
  .next (readComplete access errs s)

end Sys2Proof.Machine
end

