-- ==== Sys2Proof/Machine/Line.lean ====
section
/-!
DEFINITION. What stands on a lane: PAM4 symbols and precoding (R83, R84), scrambling (R87), and the words of marker, control and
time groups with their CRC-16 (R88, Table 3-2). With them the wake of a port from standby and
of the device from DIM or DARK (R348, R349), whose fill words start on the lanes.
-/

namespace Sys2Proof.Machine

/-! ### Symbols -/

/-- Level index of symbol `i` of a word (Table 3-1): bit 2i is sent first. -/
def levelAt (w : BitVec 128) (i : Nat) : Nat :=
  match w.getLsbD (2 * i), w.getLsbD (2 * i + 1) with
  | false, false => 0
  | false, true => 1
  | true, true => 2
  | true, false => 3

/-- The bit pair of a level index, as two bits with the earlier one lower. -/
def pairOf (g : Nat) : Nat :=
  match g % 4 with
  | 0 => 0
  | 1 => 2
  | 2 => 3
  | _ => 1

/-- The word that 64 level indices make. -/
def wordOfLevels (gs : List Nat) : BitVec 128 := BitVec.ofNat 128 (gs.foldr (fun g a => pairOf g + 4 * a) 0)

/-- The level indices of a word, in transmission order. -/
def levelsOf (w : BitVec 128) : List Nat := (List.range 64).map (levelAt w)

/-- Precoding from the level sent before (R84): P(n) = (G(n) − P(n−1)) mod 4. -/
def precodeList : Nat → List Nat → List Nat
  | _, [] => []
  | p, g :: t => let q := (g + 4 - p % 4) % 4; q :: precodeList q t

/-- Decoding from the level received before (R84): G(n) = (P(n) + P(n−1)) mod 4. -/
def unprecodeList : Nat → List Nat → List Nat
  | _, [] => []
  | p, q :: t => (q + p) % 4 :: unprecodeList q t

/-- The word as it goes onto the line, and the last level sent. -/
def lineWord (precode : Bool) (last : Nat) (w : BitVec 128) : BitVec 128 × Nat :=
  let ls := if precode then precodeList last (levelsOf w) else levelsOf w
  (wordOfLevels ls, ls.getLastD last)

/-- The word that the receiver recovers from the line. -/
def unlineWord (precode : Bool) (last : Nat) (w : BitVec 128) : BitVec 128 :=
  if precode then wordOfLevels (unprecodeList last (levelsOf w)) else w

/-! ### Scrambling -/

/-- One bit of the PRBS-31 of R87: the feedback bit and the next register. -/
def scrBit (r : Nat) : Nat × Nat :=
  let b := (r / 2 ^ 30 + r / 2 ^ 27) % 2
  (b, (2 * r + b) % 2 ^ 31)

/-- The next `n` bits of the sequence as a number, first bit lowest, and the register after them. -/
def scrBits : Nat → Nat → Nat × Nat
  | 0, r => (0, r)
  | n + 1, r => let x := scrBit r; let y := scrBits n x.2; (x.1 + 2 * y.1, y.2)

/-- Scramble or descramble one word (R87). -/
def scramble (r : Nat) (w : BitVec 128) : BitVec 128 × Nat :=
  let x := scrBits 128 r
  (w ^^^ BitVec.ofNat 128 x.1, x.2)

/-- The register after a marker group on logical lane `n` (R87). -/
def scrSeed (n : Nat) : Nat := (0x2A5A5A50 : Nat).lor n

/-- The next `n` words of the sequence and the register after them. -/
def scrWords : Nat → Nat → List (BitVec 128) × Nat
  | 0, r => ([], r)
  | n + 1, r => let x := scrBits 128 r; let y := scrWords n x.2; (BitVec.ofNat 128 x.1 :: y.1, y.2)

/-! ### Marker and control words -/

/-- One bit of the CRC-16 of Table 3-2. -/
def crc16Bit (c : Nat) (b : Bool) : Nat :=
  if (c.testBit 15).xor b then ((2 * c) % 2 ^ 16).xor 0x1021 else (2 * c) % 2 ^ 16

/-- CRC-16 over bits 16 to 127 of a word, in transmission order. -/
def crc16 (w : BitVec 128) : Nat := (List.range 112).foldl (fun c i => crc16Bit c (w.getLsbD (16 + i))) 0xFFFF

/-- Does the CRC of a word verify? -/
def crc16Ok (w : BitVec 128) : Bool := w.toNat % 2 ^ 16 == crc16 w

/-- A word with its CRC in bits 15 to 0. -/
def withCrc16 (n : Nat) : BitVec 128 :=
  let w := BitVec.ofNat 128 (n / 2 ^ 16 * 2 ^ 16)
  w ||| BitVec.ofNat 128 (crc16 w)

/-- PAT of a marker word. -/
abbrev patMarker : Nat := 0x5A3CC3A50FF09669

/-- PAT of a control word. -/
abbrev patControl : Nat := 0xA5C33C5AF00F6996

/-- A marker word (`typ` 0) or a control word (Table 3-2). -/
def groupWord (typ mask plane llane gseq : Nat) : BitVec 128 :=
  withCrc16 (pack [(64, if typ = 0 then patMarker else patControl), (56, typ), (48, mask), (44, plane), (40, llane), (24, gseq)])

/-! ### Lane sets -/

/-- The widest of 8, 7, 6 and 4 lanes that a mask can fill, on its lowest-numbered lanes; 0 when it fills none (R97). -/
def widest (mask : Nat) : Nat :=
  let ls := bitsSet 8 mask
  let w := if 8 ≤ ls.length then 8 else if 7 ≤ ls.length then 7 else if 6 ≤ ls.length then 6 else if 4 ≤ ls.length then 4 else 0
  (ls.take w).foldl (fun a i => a + 2 ^ i) 0

/-- Number of lanes in a set. -/
def widthOf (mask : Nat) : Nat := popCount 8 mask

/-- Physical lane of logical lane `n` of a set. -/
def physLane (mask n : Nat) : Nat := (bitsSet 8 mask).getD n 0

/-- Does the link run as a half link (R282)? -/
def isHalf (s : State) (l : Nat) : Bool := decide (16 ≤ l) && fget s (Pg.link l) F.RING_RCFG_SPLIT == 1

/-- The physical lanes of a link: all eight, or the four of a half link. -/
def linkLanes (s : State) (l : Nat) : Nat :=
  if !isHalf s l then (if l < 18 then 0xFF else 0) else if l < 18 then 0x0F else 0xF0

/-- The links that one page's settings drive: the two halves of a split ring port share a page (R310). -/
def pageLinks (s : State) (l : Nat) : List Nat :=
  if l < 16 then [l] else if isHalf s l then [16 + l % 2, 18 + l % 2] else [16 + l % 2]

/-- The least width of the link (LCFG.MINWIDTH; a half link has 4, R310). -/
def minWidth (s : State) (l : Nat) : Nat :=
  if isHalf s l then 4
  else match fget s (Pg.link l) F.HP_LCFG_MINWIDTH with
    | 0 => 4
    | 1 => 6
    | 2 => 7
    | _ => 8

/-- LTRAIN.STATE (Table 3-3). -/
def PState.code : PState → Nat
  | .off => 0
  | .detect => 1
  | .lock => 2
  | .align => 3
  | .equalize => 4
  | .deskew => 5
  | .config => 6
  | .active => 7
  | .retire => 8
  | .listen => 9
  | .test => 10

/-- Set a lane event (R112): the lane, 15 for the whole port, and the state of the port. -/
def lEvt (l bit lane : Nat) (s : State) : State :=
  laneEvt l bit (packW [(8, bit), (4, (s.link l).state.code), (0, lane)]) s

/-- LINK_UP, or BLINK for half B of a split port (R310). -/
def upEvt (l : Nat) (s : State) : State :=
  if l < 18 then lEvt l E.HP_LINK_UP 15 s
  else raiseCaps (Pg.link l) E.RING_BLINK (some (packW [(8, E.RING_BLINK)])) none s

/-- LINK_DOWN, or BLINK for half B of a split port (R310). -/
def downEvt (l : Nat) (s : State) : State :=
  if l < 18 then lEvt l E.HP_LINK_DOWN 15 s
  else raiseCaps (Pg.link l) E.RING_BLINK (some (packW [(8, E.RING_BLINK)])) none s

/-! ### Training blocks (R93) -/

/-- Lanes still in training. -/
def trainMask (k : Link) : Nat := (k.lanes.filter fun e => e.2.inTrain).foldl (fun a e => a + 2 ^ e.1) 0

/-- TSM, word 0 of a training block. -/
abbrev tsmWord : BitVec 128 := 0x3C3C3C3CC3C3C3C3F0F00F0FA55A5AA5

/-- All ones, where a PRBS-31 generator starts (R109). -/
abbrev ones31 : Nat := 2 ^ 31 - 1

/-- PHASE of a block: the port's state code, or the phase that a lane under retry runs (log 69). -/
def phaseCode (k : Link) (a : Lane) : Nat :=
  match a.retry with
  | .training => if !a.lock then 2 else if !a.aligned then 3 else 4
  | _ => k.state.code

/-- MASK of a block: the lanes in training, or those under retry. -/
def blockMask (k : Link) : Nat :=
  (k.lanes.filter fun e => e.2.inTrain || e.2.retry != .none).foldl (fun a e => a + 2 ^ e.1) 0

/-- Word 1 of the training block that a lane sends now (Table 3-4). The rates are those that LCFG.RATE lets the port run. -/
def trainWord (s : State) (l y : Nat) (done : Bool) : BitVec 128 :=
  let k := s.link l
  let a := k.lane y
  let r := fget s (Pg.link l) F.HP_LCFG_RATE
  withCrc16 (pack [(112, a.blkSeq), (108, phaseCode k a), (104, y), (96, blockMask k),
    (88, if phaseCode k a = 4 ∧ a.adapted = false then a.eqreq.toNat else 0), (84, a.eqstat.toNat), (83, b2n a.adapted),
    (79, b2n a.pcreq), (78, b2n a.pctx), (77, b2n (r != 2)), (76, b2n (r != 1)), (75, b2n done)])

/-- A lane sends one training block: TSM, word 1 and 1,792 bits of its PRBS-31 (R93). -/
def sendBlock (l y : Nat) (done : Bool) (s : State) : State :=
  let k := s.link l
  let a := k.lane y
  let x := scrWords 14 a.gen
  modLane l y (fun _ => { a with
    sent := tsmWord :: trainWord s l y done :: x.1, gen := x.2, blkSeq := (a.blkSeq + 1) % 65536
    shown := if a.adapted then a.shown + 1 else 0
    confSent := if k.state = .config ∧ done then a.confSent + 1 else 0 }) s

/-! ### Sending word rounds -/

/-- Content of a fill word: the manual gives none (log 6). -/
def fillWord (s : State) : BitVec 128 := BitVec.ofNat 128 (Config.freeNat s.freeCtr)

/-- Put one word on the next logical lane of the active set. -/
def putWord (l : Nat) (scr : Bool) (w : BitVec 128) (s : State) : State :=
  let k := s.link l
  let n := widthOf k.active.toNat
  if n = 0 then s
  else
    let y := physLane k.active.toNat k.wordTx
    let a := k.lane y
    let x := if scr then scramble a.scrTx w else (w, a.scrTx)
    let z := lineWord a.pctx a.lastTx x.1
    setLink l { k with
      wordTx := (k.wordTx + 1) % n
      words := k.words ++ [(y, z.1)]
      lanes := tset k.lanes y { a with scrTx := x.2, lastTx := z.2 } } s

/-- Put words on the lanes in turn (R86). -/
def putWords (l : Nat) (scr : Bool) (ws : List (BitVec 128)) (s : State) : State := forAll ws (putWord l scr) s

/-- Complete the current round of words with fill words (R88). -/
def completeRound (l : Nat) (s : State) : State :=
  let k := s.link l
  if k.wordTx = 0 then s
  else forAll (List.range (widthOf k.active.toNat - k.wordTx)) (fun _ t => putWord l true (fillWord t) (nextFree t)) s

/-- Logical lane number of a physical lane in a set; a lane outside it has none, and its field is a free value (log 6). -/
def logicalIn (s : State) (mask y : Nat) : Nat :=
  if mask.testBit y then popCount y mask else Config.freeNat s.freeCtr % 8

/-- Reload the scramblers of a direction at a marker group and restart precoding (R84, R87). -/
def reloadLanes (tx : Bool) (k : Link) : Link :=
  (List.range (widthOf k.active.toNat)).foldl (fun (j : Link) n =>
    let y := physLane k.active.toNat n
    { j with lanes := tset j.lanes y (if tx then { j.lane y with scrTx := scrSeed n } else { j.lane y with scrRx := scrSeed n }) }) k

/-- Send a marker group (`typ` 0) or a control group on the active set (R88). -/
def sendGroup (l typ mask : Nat) (s : State) : State :=
  let t := completeRound l s
  let k := t.link l
  let k0 := if typ = 0 then { k with lanes := k.lanes.map fun e => (e.1, { e.2 with lastTx := 0 }) } else k
  let ws := (bitsSet 8 k.active.toNat).map fun y => groupWord typ mask y (logicalIn t mask y) k.gseqTx
  let u := putWords l false ws (nextFree (setLink l k0 t))
  modLink l (fun j =>
    let j1 := if typ = 0 then { reloadLanes true j with cwTx := 0 } else j
    { j1 with gseqTx := (j1.gseqTx + 1) % 65536, groupOut := some (typ, BitVec.ofNat 8 mask) }) u

/-- The receive side of a group: fill words complete the round; a marker group reloads the scramblers (R87, R88). -/
def recvGroup (marker : Bool) (k : Link) : Link :=
  let n := widthOf k.active.toNat
  let j := if k.wordRx = 0 then k else
    (List.range n).foldl (fun (j : Link) i =>
      if i < k.wordRx then j
      else
        let y := physLane k.active.toNat i
        { j with lanes := tset j.lanes y { j.lane y with scrRx := (scrBits 128 (j.lane y).scrRx).2 } }) k
  let j1 := { j with wordRx := 0 }
  if marker then { reloadLanes false j1 with cwRx := 0 } else j1

/-! ### Waking from standby (R348, R349) -/

/-- A fill word on every lane of the active set. -/
def sendFill (l : Nat) (s : State) : State :=
  forAll (List.range (widthOf (s.link l).active.toNat)) (fun _ t => putWord l true (fillWord t) (nextFree t)) s

/-- A port in standby begins to wake: it sends fill words on its set and brings up its lanes again (R348). -/
def wakePort (l : Nat) (s : State) : State :=
  match (s.link l).standby with
  | .entered dark => sendFill l (modLink l (fun k => { k with
      standby := .waking dark s.now, words := []
      lanes := k.lanes.map fun e => (e.1, if k.active.getLsbD e.1 then { e.2 with lock := false } else e.2) }) s)
  | _ => s

/-- The device leaves DIM or DARK: every unit begins its exit (R349). `kind` is WAKESRC.KIND. -/
def wakeDevice (kind port : Nat) (s : State) : State :=
  if s.power.state = .dim ∨ s.power.state = .dark then
    let t := forAll (List.range 16) wakePort (fset Pg.pwr F.PWR_WAKESRC_KIND kind (fset Pg.pwr F.PWR_WAKESRC_PORT port
      (fbump Pg.pwr F.PWR_PCNT_WAKES { s with power := { s.power with state := .active, idleFrom := s.now } })))
    raise Pg.pwr E.PWR_WAKE (packW [(27, E.PWR_WAKE), (0, kind)]) 0
      { t with chans := t.chans.map fun e => (e.1, if e.2.state = .powerdown then { e.2 with state := .ready } else e.2) }
  else s

/-- Does the unit of a page sleep in DIM or DARK: a host port, a channel, a joiner group (R341)? -/
def sleeps (page : Nat) : Bool := (pageType page == 0x10 || pageType page == 0x40 || pageType page == 0x80) && pageAssigned page

/-- An access of the sideband or of the management core to a unit that sleeps wakes the device (R349). -/
def wakeFor (src : Src) (page : Nat) (s : State) : State :=
  match src with
  | .host _ => s
  | .sideband => onlyIf (sleeps page) (wakeDevice 3 0) s
  | .core => onlyIf (sleeps page) (wakeDevice 4 0) s

end Sys2Proof.Machine
end

