-- ==== Sys2Proof/Machine/Via.lean ====
section
/-!
DEFINITION. Who may make a register access, and what refuses it (Tables 4-7, 14-6 and 16-1), for the commands that are the
effect of one register write.
-/

namespace Sys2Proof.Machine

/-- ERR_CAP0 of a sideband event (R395): the event, the phase, the byte within the word and the RADDR. -/
def sbCap (bit phase byte raddr : Nat) : Word := packW [(27, bit), (24, phase), (22, byte), (0, raddr)]

/-- Set a SBND event (R395). -/
def sbEvt (bit phase byte raddr : Nat) (s : State) : State := raise Pg.sbnd bit (sbCap bit phase byte raddr) 0 s

/-- A committed sideband word whose write is refused (R388): the phase is that of the acknowledge that committed it. -/
def sbRefused (raddr : Nat) (s : State) : State :=
  sbEvt E.SBND_WR_DENIED (if s.sb.p then 5 else 4) 3 raddr (fbump Pg.sbnd F.SBND_ERRCNT_DENIED s)

/-- The registers of a CH page that only the management core writes, PGCTL to DLYVAL (R244). -/
def trainingReg (page off : Nat) : Bool := pageType page == 0x40 && decide (0x108 ≤ off) && decide (off ≤ 0x158)

/-- The mailbox registers of Table 14-6: MCMD, MADDR and MBUF0 to MBUF63. -/
def mailboxReg (page off : Nat) : Bool :=
  page == Pg.flsh && (off == F.FLSH_MCMD_OP.off || off == F.FLSH_MADDR_ADDR.off ||
    (F.FLSH_MBUFk_DATA.off ≤ off && off < F.FLSH_MBUFk_DATA.off + 256))

/-- May the sideband write this register (R388, Table 14-6)? -/
def sbReach (s : State) (page off : Nat) : Bool :=
  if page == Pg.sbnd then true
  else if trainingReg page off then false
  else if page == Pg.boot && (off == F.BOOT_BCMD_RUN.off || off == F.BOOT_WDKICK_CODE.off) then false
  else if mailboxReg page off then fget s Pg.sbnd F.SBND_SACC_MBOX == 1
  else fget s Pg.sbnd F.SBND_SACC_WREN == 1

/-- Bit `i` for each element of a list for which the condition holds. -/
def bitsOf (n : Nat) (p : Nat → Bool) : Nat := (List.range n).foldl (fun a i => a + b2n (p i) * 2 ^ i) 0

/-- The writable bits of a register of PROT: the rights of reserved pages are RSV (R431). -/
def protBits (off : Nat) : Nat :=
  if 0x500 ≤ off ∧ off < 0x900 then
    bitsOf 32 fun j => pageAssigned (16 * ((off - 0x500) / 4 % 16) + j / 2)
  else 2 ^ 32 - 1

/-- Would the write of `val` to a register change an RWL field? -/
def rwlChange (s : State) (page off : Nat) (val : Word) : Bool :=
  let v := if page = Pg.prot then val.toNat.land (protBits off) else val.toNat
  (regMap page).any fun e =>
    (List.range e.cnt).any fun i => e.off + e.stride * i == off && e.flds.any fun f =>
      f.ty == .rwl && ext v f.lo f.w != fget s page (f.shift (e.stride * i))

/-- Must the write of `val` leave the whole register unchanged: it would change a sealed RWL field (R8), or comes from another
source than the management core before the seal (R321)? -/
def sealStops (s : State) (src : Src) (page off : Nat) (val : Word) : Bool :=
  (s.boot.isSealed || src != .core) && rwlChange s page off val

/-- A write refused under R8 counts in SEAL.DENIES of its page (R430). -/
def noteDeny (page : Nat) (s : State) : State :=
  onlyIf s.boot.isSealed (modHdr page fun h => { h with denies := min 0xFFFF (h.denies + 1) }) s

/-- Make the register write of one command: the checks of its source, then its effect (R425), which finds its unit awake (R349). A refusal that needs no tag is
counted; the completion of a REG_WR is that command's own. -/
def viaReg (src : Src) (page off : Nat) (f : State → State) (s : State) : State :=
  match src with
  | .host p =>
    if !linkActive s p || inSafe s then s
    else if s.power.state == .entering then countRefused p .busy s
    else if regRight s p page true then f s
    else countRefused p .denied s
  | .sideband => if sbReach s page off then f (wakeFor .sideband page s) else sbRefused (page * 4096 + off) s
  | .core => f (wakeFor .core page s)

/-- A register write by value, refused where it would change an RWL field that its source may not change (R8, R321). -/
def viaSealed (src : Src) (page off : Nat) (val : Word) (f : State → State) (s : State) : State :=
  viaReg src page off (fun t =>
    if sealStops t src page off val then
      match src with
      | .host p => countRefused p .denied (noteDeny page t)
      | .sideband => sbRefused (page * 4096 + off) (noteDeny page t)
      | .core => t
    else f t) s

/-- Make a register read of one command: the checks of its source, then the value with the effects of the read (R425, Table 4-7).
The value stands in `busResult`. -/
def viaRead (src : Src) (page : Nat) (f : State → Word × State) (s : State) : State :=
  let go (t : State) : State := { (f t).2 with busResult := some (f t).1 }
  match src with
  | .host p =>
    if !linkActive s p || inSafe s then s
    else if s.power.state == .entering then countRefused p .busy s
    else if regRight s p page false then go s
    else countRefused p .denied s
  | _ => go (wakeFor src page s)

end Sys2Proof.Machine
end

