-- ==== Sys2Proof/Machine/ChanCmd.lean ====
section
/-!
DEFINITION. The commands of a channel page: telemetry snapshots (R221) and clearing the counters (R231).
-/

namespace Sys2Proof.Machine

/-- CCMD.SNAP: a snapshot is due (Table 7-13). -/
def snapRequest (c : Nat) (s : State) : State :=
  modChan c (fun k => { k with due := if k.due.any (fun d => d.1 == .snap) then k.due else k.due ++ [(.snap, s.now)] }) s

/-- CCMD.CLRCNT: every counter of the page, MINCRED and TRCNT (R231). -/
def clearChan (c : Nat) (s : State) : State :=
  modChan c (fun k => { k with linesRd := 0, linesWr := 0, linesRt := 0, minCredit := 0 })
    (fclear (Pg.ch c) [F.CH_RFINTR_COUNT, F.CH_RFHOLD_COUNT, F.CH_SCRPOS_PASSES, F.CH_CECNT_COUNT, F.CH_UECNT_COUNT,
      F.CH_HAZCNT_HAZARD, F.CH_HAZCNT_DRAINS, F.CH_TRCNT_FULL, F.CH_TRCNT_FAST, F.CH_TRCNT_SHORT, F.CH_TRCNT_ABANDON] s)

/-- TELEMETRY_SNAP (R221). -/
def execTelemetrySnap (src : Src) (ch : Fin 64) (s : State) : Host.Outcome State Fault Refusal :=
  .next (viaReg src (Pg.ch ch) F.CH_CCMD_SNAP.off (snapRequest ch) s)

/-- CH_CLRCNT (R231). -/
def execChClrcnt (src : Src) (ch : Fin 64) (s : State) : Host.Outcome State Fault Refusal :=
  .next (viaReg src (Pg.ch ch) F.CH_CCMD_CLRCNT.off (clearChan ch) s)

end Sys2Proof.Machine
end

