-- ==== Sys2Proof/Machine/FlashOps.lean ====
section
/-!
DEFINITION. The in-package flash (R355 to R375): its address space, erase-flag cells, the window map of the data areas, reads
with their corrected-bit count, and the operations of a bank.
-/

namespace Sys2Proof.Machine

/-! ### Addresses (Table 13-1) -/

/-- What a flash address names: a device sector of an image slot, a logical sector of a data area, or a reserved range. -/
inductive FlashLoc where
  | slot (sector : Nat)
  | data (area log : Nat)
  | reserved
deriving DecidableEq, Repr

/-- Table 13-1. -/
def flashLoc (addr : Nat) : FlashLoc :=
  let b := addr / 2 ^ 25 % 2
  let o := addr % 2 ^ 25
  if o < 0x1000000 then .slot (512 * b + o / 65536)
  else if o < 0x1E00000 then .data b ((o - 0x1000000) / 65536)
  else .reserved

/-- The bank of a flash address. -/
def flashBankOf (addr : Nat) : Nat := addr / 2 ^ 25 % 2

/-- Device sector of physical sector `p` of data area `d`. -/
def areaSector (d p : Nat) : Nat := 512 * d + 256 + p % 256

/-- The bank of a device sector. -/
def sectorBank (n : Nat) : Nat := n / 512

/-- Flash address of logical sector `log` of area `d`. -/
def logAddr (d log : Nat) : Nat := d * 2 ^ 25 + 0x1000000 + log * 65536

/-! ### Erase-flag cells (Table 13-3) -/

def State.cell (s : State) (n : Nat) : EraseCell := tget {} s.flash.cells n
def setCell (n : Nat) (c : EraseCell) (s : State) : State :=
  { s with flash := { s.flash with cells := cset s.flash.cells n {} c } }

def EraseCell.state (c : EraseCell) : Nat := ext c.w0.toNat 30 2
def EraseCell.isOpen (c : EraseCell) : Bool := c.state == 1
def EraseCell.isRetired (c : EraseCell) : Bool := c.state == 2

/-- MAPV of a CLOSED cell; a blank cell counts as 0. -/
def EraseCell.mapped (c : EraseCell) : Bool := c.state == 0 && ext c.w0.toNat 29 1 == 1

def EraseCell.log (c : EraseCell) : Nat := ext c.w0.toNat 21 8

/-- CYCLES; a blank cell counts as 0 (R466). -/
def EraseCell.cycles (c : EraseCell) : Nat := if c.state = 3 then 0 else ext c.w0.toNat 0 17

/-- A cell made of its fields; LOG and GEN are 0 where MAPV is 0 (log 8). -/
def mkCell (state cycles : Nat) (map : Option (Nat × Nat)) : EraseCell :=
  { w0 := packW [(30, state), (29, b2n map.isSome), (21, (map.map (·.1)).getD 0), (0, min 131071 cycles)]
    gen := BitVec.ofNat 32 ((map.map (·.2)).getD 0) }

/-! ### The window map (R365) -/

/-- The physical sector of area `d` that holds logical sector `log`: the mapped one of the highest GEN. -/
def holder (s : State) (d log : Nat) : Option Nat :=
  (List.range 256).foldl (fun best p =>
    let c := s.cell (areaSector d p)
    if c.mapped && c.log == log then
      match best with
      | none => some p
      | some q => if (s.cell (areaSector d q)).gen.toNat < c.gen.toNat then some p else best
    else best) none

/-- Does physical sector `p` hold a logical sector now, and not a stale content? -/
def holds (s : State) (d p : Nat) : Bool :=
  let c := s.cell (areaSector d p)
  c.mapped && holder s d c.log == some p

/-- Sectors of area `d` that are not RETIRED. -/
def usable (s : State) (d : Nat) : Nat := ((List.range 256).filter fun p => !(s.cell (areaSector d p)).isRetired).length

def State.fhead (s : State) (d : Nat) : Nat := s.flash.head.getD d 0
def State.ftail (s : State) (d : Nat) : Nat := s.flash.tail.getD d 0

/-- The physical sectors from HEAD forward up to TAIL; the whole ring while no sector is mapped. -/
def headToTail (s : State) (d : Nat) : List Nat :=
  let h := s.fhead d
  let n := (s.ftail d + 256 - h) % 256
  let full := (List.range 256).all fun p => !holds s d p
  (List.range (if full then 256 else n)).map fun i => (h + i) % 256

/-- FREE (R365). -/
def freeSectors (s : State) (d : Nat) : Nat :=
  ((headToTail s d).filter fun p => !(s.cell (areaSector d p)).isRetired).length

/-- The first sector at or after HEAD that is neither OPEN nor RETIRED (R366). -/
def nextSector (s : State) (d : Nat) : Option Nat :=
  (headToTail s d).find? fun p => let c := s.cell (areaSector d p); !c.isOpen && !c.isRetired

/-- Build HEAD and TAIL of area `d` from the cells (R365). -/
def buildWindow (d : Nat) (s : State) : State :=
  let live := (List.range 256).filter (holds s d)
  let gen (p : Nat) : Nat := (s.cell (areaSector d p)).gen.toNat
  let low := live.foldl (fun b p => match b with | none => some p | some q => if gen p < gen q then some p else b) none
  let high := live.foldl (fun b p => match b with | none => some p | some q => if gen q < gen p then some p else b) none
  { s with flash := { s.flash with
      tail := lset 0 s.flash.tail d (low.getD 0)
      head := lset 0 s.flash.head d (match high with | some p => (p + 1) % 256 | none => 0)
      gen := lset 0 s.flash.gen d (match high with | some p => gen p + 1 | none => 1) } }

/-! ### Contents -/

/-- Read one stored byte of device sector `n`. -/
def flashByte (s : State) (n off : Nat) : Byte := tget 0xFF s.flash.bytes (n * 65536 + off)

/-- Store one byte, in the canonical form of erased flash. -/
def flashPut (k : Nat) (b : Byte) (s : State) : State := { s with flash := { s.flash with bytes := cset s.flash.bytes k 0xFF b } }

/-- Store bytes from key `k` on. -/
def flashPutList (k : Nat) (bs : List Byte) (s : State) : State :=
  { s with flash := { s.flash with bytes := (bs.zipIdx.foldl (fun m e => cset m (k + e.2) 0xFF e.1) s.flash.bytes) } }

/-- The pages of a list that lie outside one sector. -/
def pagesOff (n : Nat) (ps : List Nat) : List Nat := ps.filter fun p => p / 256 != n

/-- The pages of a list that lie in sector `src`, as pages of `dst`. -/
def pagesTo (src dst : Nat) (ps : List Nat) : List Nat := (ps.filter fun p => p / 256 == src).map fun p => dst * 256 + p % 256

/-- Give a whole sector new content: bytes by their offset, in rising order, those that are 0xFF left out. -/
def flashSector (n : Nat) (new : List (Nat × Byte)) (s : State) : State :=
  { s with flash := { s.flash with
      bytes := (s.flash.bytes.filter fun e => e.1 / 65536 < n) ++ new.map (fun e => (n * 65536 + e.1, e.2)) ++
        (s.flash.bytes.filter fun e => n < e.1 / 65536)
      badPages := pagesOff n s.flash.badPages, inked := pagesOff n s.flash.inked } }

/-- Erase the pages of a sector. -/
def flashErase (n : Nat) (s : State) : State := flashSector n [] s

/-- The pages of a sector that an erase, or a copy cut short, leaves undefined (free values, log 6). -/
def flashUndefined (n : Nat) (s : State) : State :=
  let c := s.freeCtr
  nextFree (flashSector n (((List.range 65536).map fun i => (i, Config.freeByte (c * 65536 + i))).filter fun e => e.2 != 0xFF) s)

/-- The device sector that a flash address lies in; none in a reserved range or an unmapped logical sector. -/
def addrSector (s : State) (addr : Nat) : Option Nat :=
  match flashLoc addr with
  | .slot n => some n
  | .data d l => (holder s d l).map (areaSector d)
  | .reserved => none

/-- The page that a flash address lies in. -/
def addrPage (s : State) (addr : Nat) : Option Nat := (addrSector s addr).map fun n => n * 256 + addr % 65536 / 256

/-- `n` bytes at a flash address of one sector; what no sector holds reads as erased (R365). -/
def flashBytes (s : State) (addr n : Nat) : List Byte :=
  match addrSector s addr with
  | some k => (List.range n).map fun i => flashByte s k (addr % 65536 + i)
  | none => List.replicate n 0xFF

/-! ### Banks (R356, R363) -/

def State.fbank (s : State) (b : Nat) : FlashBank := tget {} s.flash.bank b
def setFbank (b : Nat) (k : FlashBank) (s : State) : State := { s with flash := { s.flash with bank := tset s.flash.bank b k } }

/-- Is the bank busy (R356)? -/
def bankBusy (s : State) (b : Nat) : Bool := (s.fbank b).op.isSome

/-- Is a program, an erase or a suspended erase in progress (R336)? -/
def flashWorking (s : State) : Bool := [0, 1].any fun b => (s.fbank b).op.isSome || (s.fbank b).susp.isSome

/-- The period of the watchdog in units: WDCFG.PERIOD of the period in progress, at least 200 ms while the clamp applies (R336). -/
def wdUnits (s : State) : Nat := ms (if flashWorking s then max 200 s.boot.wdPeriod else s.boot.wdPeriod)

/-- The sector of the suspended erase of a bank. -/
def suspSector (s : State) (b : Nat) : Option Nat :=
  match (s.fbank b).susp with
  | some { work := .erase n _ _ _, .. } => some n
  | _ => none

/-- Is this the work of a rotation? -/
def FlashOwner.rotates : FlashOwner → Bool
  | .rotation _ _ => true
  | _ => false

/-- Start an operation in a bank; the watchdog has at least 200 ms left from here (R336). -/
def startFlash (b : Nat) (work : FlashWork) (owner : FlashOwner) (s : State) : State :=
  let t := setFbank b { (s.fbank b) with op := some { work := work, owner := owner, since := s.now }, rotated := owner.rotates } s
  { t with boot := { t.boot with wdSince := max t.boot.wdSince (t.now + ms 200 - wdUnits t) } }

/-! ### Events (R375) -/

def flshEvt (bit addr c1 : Nat) (s : State) : State := raise Pg.flsh bit (packW [(27, bit), (0, addr)]) (BitVec.ofNat 32 c1) s

/-- An ignored write (R372). -/
def flshCfgErr (s : State) : State := flshEvt E.FLSH_CFGERR 0 0 s

/-- Is a page read of this corrected-bit count weak (R358)? -/
def isWeak (s : State) (rd : FlashIn) : Bool := !rd.uncor && decide (fget s Pg.flsh F.FLSH_FCFG_WEAKTHR ≤ rd.cbits.val)

/-- Count and report a page read (R358). -/
def countRead (addr : Nat) (uncor : Bool) (rd : FlashIn) (s : State) : State :=
  if uncor then flshEvt E.FLSH_UNCOR addr rd.cbits.val (fbump Pg.flsh F.FLSH_FCNT_UNCORS s)
  else if isWeak s rd then flshEvt E.FLSH_WEAK addr rd.cbits.val (fbump Pg.flsh F.FLSH_FCNT_WEAKS s)
  else s

/-- A page that a read found uncorrectable stays so until its sector is erased (DESIGN CHOICE, log 105). -/
def noteBad (addr : Nat) (rd : FlashIn) (s : State) : State :=
  match addrPage s addr with
  | some p => if rd.uncor && !s.flash.badPages.contains p then { s with flash := { s.flash with badPages := s.flash.badPages ++ [p] } } else s
  | none => s

/-- The content of a page as read: an uncorrectable page shows its wrong bits. -/
def asRead (bs : List Byte) (uncor : Bool) (rd : FlashIn) : List Byte :=
  if uncor then rd.flips.foldl (fun l e => l.set e.1.val (l.getD e.1.val 0 ^^^ e.2)) bs else bs

/-- Is a read of this address uncorrectable: by its errors, in a page found so before (log 105), or in the sector whose erase is suspended
(R363)? -/
def readUncor (s : State) (addr : Nat) (rd : FlashIn) : Bool :=
  rd.uncor || (match addrPage s addr with | some p => s.flash.badPages.contains p | none => false) || (match addrSector s addr with | some n => suspSector s (flashBankOf addr) == some n | none => false)

/-- A weak page of a data area puts its sector on the list for a rotation out of turn (R368). -/
def noteWeak (addr : Nat) (rd : FlashIn) (s : State) : State :=
  match flashLoc addr, addrSector s addr with
  | .data _ _, some n =>
    if isWeak s rd && !s.flash.toMove.contains n then { s with flash := { s.flash with toMove := s.flash.toMove ++ [n] } } else s
  | _, _ => s

/-- A read of a page that the device makes for itself (R358, R368): counted and reported, with what follows from it. -/
def ownRead (addr : Nat) (rd : FlashIn) (s : State) : State :=
  noteBad addr rd (noteWeak addr rd (countRead addr (readUncor s addr rd) rd s))

/-! ### The window (RWDATA) -/

/-- A read of FLSH.RWDATA on a bank that is not busy (R356, R358). -/
def windowRead (rd : FlashIn) (s : State) : Word × State :=
  let a := 4 * fget s Pg.flsh F.FLSH_RWADDR_ADDR
  let page := a / 256 * 256
  let res := flashLoc a == .reserved
  let uncor := !res && readUncor s a rd
  let weak := !res && !uncor && isWeak s rd
  let bs := if res then List.replicate 4 0xFF else slice (asRead (flashBytes s page 256) uncor rd) (a % 256) 4
  let t := onlyIf (!res) (fun u => noteBad a rd (noteWeak a rd (countRead page uncor rd u))) s
  (BitVec.ofNat 32 (leNat bs),
    fset Pg.flsh F.FLSH_RWADDR_ADDR (fget s Pg.flsh F.FLSH_RWADDR_ADDR + 1)
      (fset Pg.flsh F.FLSH_RWSTAT_UNCOR (b2n uncor) (fset Pg.flsh F.FLSH_RWSTAT_WEAK (b2n weak)
        (fset Pg.flsh F.FLSH_RWSTAT_RANGE (b2n res) (fset Pg.flsh F.FLSH_RWSTAT_CBITS (if res ∨ uncor then 0 else rd.cbits.val) t)))))

/-- Does a window read meet a busy bank (R356)? -/
def windowBusy (s : State) : Bool := bankBusy s (flashBankOf (4 * fget s Pg.flsh F.FLSH_RWADDR_ADDR))

/-! ### Erases and programs -/

/-- Fewer than 228 usable sectors: erases in the area are refused (R367). -/
def areaWorn (s : State) (d : Nat) : Bool := decide (usable s d < 228)

/-- Retire a sector whose erase failed twice (R367). -/
def retireSector (n addr : Nat) (s : State) : State :=
  let t := flshEvt E.FLSH_RETIRE addr 0 (fbump Pg.flsh F.FLSH_FCNT_RETIRES (setCell n (mkCell 2 (s.cell n).cycles none) s))
  let d := sectorBank n
  onlyIf (n % 512 ≥ 256 && areaWorn t d) (flshEvt E.FLSH_AREA_FULL addr 0) t

/-- Step 1 of an erase ends: the cell is OPEN and its count has risen (R361). -/
def openCell (n : Nat) (s : State) : State := setCell n (mkCell 1 ((s.cell n).cycles + 1) none) s

/-- Step 3 ends: the cell is CLOSED, with the mapping of a logical erase, and HEAD moves past a taken sector (R361, R366). -/
def closeCell (n : Nat) (map : Option Nat) (s : State) : State :=
  let d := sectorBank n
  let g := s.flash.gen.getD d 1
  let t := setCell n (mkCell 0 (s.cell n).cycles (map.map fun l => (l, g))) s
  match map with
  | none => t
  | some _ => { t with flash := { t.flash with gen := lset 0 t.flash.gen d (g + 1), head := lset 0 t.flash.head d ((n % 256 + 1) % 256) } }

/-- A logical erase of the management core's own begins with the next sector of the ring (R366); while none is free it waits. -/
def startLogical (d log : Nat) (owner : FlashOwner) (s : State) : State :=
  match nextSector s d with
  | none => s
  | some p => startFlash d (.erase (areaSector d p) 1 (some log) 0) owner s

/-- A page takes its bytes; one of 0xFF alone is programmed all the same (R362). -/
def inkPage (key : Nat) (bs : List Byte) (s : State) : State :=
  let t := flashPutList key bs s
  if bs.all (· == 0xFF) then { t with flash := { t.flash with inked := t.flash.inked ++ [key / 256] } } else t

/-- Does a page read as erased, with data and check bits all ones (R362)? `key` is its first byte. -/
def pageBlank (s : State) (key : Nat) : Bool :=
  (List.range 256).all (fun i => tget 0xFF s.flash.bytes (key + i) == 0xFF) && !s.flash.inked.contains (key / 256)

/-! ### Rotation (R366) -/

/-- Is rotation of area `d` due: FREE below ROTLOW, or a sector with a weak page to move (R366, R368)? -/
def rotationDue (s : State) (d : Nat) : Bool :=
  decide (freeSectors s d < fget s Pg.flsh F.FLSH_FCFG_ROTLOW) || s.flash.toMove.any fun n => decide (sectorBank n = d)

/-- TAIL moved forward over stale, OPEN and RETIRED sectors, as far as HEAD (R366). `fuel` bounds the way. -/
def moveTail (d : Nat) : Nat → State → State
  | 0, s => s
  | k + 1, s =>
    let p := s.ftail d
    if holds s d p || p = s.fhead d then s
    else moveTail d k { s with flash := { s.flash with tail := lset 0 s.flash.tail d ((p + 1) % 256) } }

/-- The sector that a rotation step moves: one with a weak page, else the one at TAIL. -/
def rotationSource (s : State) (d : Nat) : Option Nat :=
  match s.flash.toMove.find? fun n => sectorBank n = d && holds s d (n % 256) with
  | some n => some n
  | none => if holds s d (s.ftail d) then some (areaSector d (s.ftail d)) else none

/-- Does rotation take the bank before other work: its slack has run out at a FREE of 4, it has not had its slot, and it can run (R366)? -/
def rotationFirst (s : State) (d : Nat) : Bool :=
  decide (freeSectors s d ≤ 4) && rotationDue s d && coreRuns s && !(s.fbank d).rotated &&
    (let t := moveTail d 256 s
     (rotationSource t d).isSome && (nextSector t d).isSome)

/-- May work of the mailbox or the management core start an operation in a bank now? -/
def bankFree (s : State) (b : Nat) : Bool := !bankBusy s b && !rotationFirst s b

/-- A page whose program was cut short holds undefined bytes (R330, R362; free values, log 6). -/
def scramblePage (key : Nat) (s : State) : State :=
  let c := s.freeCtr
  nextFree (flashPutList key ((List.range 256).map fun i => Config.freeByte (c * 256 + i)) s)

/-! ### The mailbox (R372) -/

/-- The image slot that runs: none in recovery mode and in NOIMAGE. -/
def runningSlot (s : State) : Option Nat :=
  match s.boot.state with
  | .noimage => none
  | .recovery => none
  | _ => some (b2n s.boot.slotB)

/-- Does the management core serve the mailbox: Wotric, or the ROM in recovery mode and in NOIMAGE (R372)? -/
def mboxServed (s : State) : Bool :=
  coreRuns s && (match s.boot.state with | .pll => false | .flashchk => false | .image => false | .warm => false | _ => true)

/-- May PROGRAM and ERASE of this requester reach the address (R371, R372)? -/
def mboxMay (s : State) (byCore : Bool) (addr : Nat) : Bool :=
  match flashLoc addr with
  | .slot n => runningSlot s != some (n / 512)
  | .data _ l => byCore || (32 ≤ l && l < 224)
  | .reserved => false

/-- Write the result of the command in progress. -/
def mboxResult (r : Nat) (s : State) : State :=
  match s.flash.mbox with
  | some m => { s with flash := { s.flash with mbox := some { m with result := some r } } }
  | none => s

/-- MBUF as 256 bytes. -/
def mbufBytes (s : State) : List Byte :=
  (List.range 64).flatMap fun k => leBytes 4 (fget s Pg.flsh (F.FLSH_MBUFk_DATA.shift (4 * k)))

/-- Put a page into MBUF. -/
def setMbuf (bs : List Byte) (s : State) : State :=
  forAll (List.range 64) (fun k => fset Pg.flsh (F.FLSH_MBUFk_DATA.shift (4 * k)) (leAt bs (4 * k) 4)) s

/-- Is the erase of the bank in its second step, in which it can be suspended (R363)? -/
def erasing (s : State) (b : Nat) : Bool :=
  match (s.fbank b).op with
  | some { work := .erase _ 2 _ _, .. } => true
  | _ => false

/-- READ (Table 13-7): it is served when the bank is not busy, or by suspending the erase in progress under AUTOSUSP. -/
def mboxServeRead (addr : Nat) (rd : FlashIn) (s : State) : State :=
  let b := flashBankOf addr
  if addr % 256 ≠ 0 then mboxResult 3 s
  else if flashLoc addr = .reserved then mboxResult 3 (setMbuf (List.replicate 256 0xFF) s)
  else
    let auto := erasing s b && fget s Pg.flsh F.FLSH_FCFG_AUTOSUSP == 1 && decide ((s.fbank b).suspends < 16)
    if bankBusy s b && !auto then s
    else
      let hit := match (s.fbank b).op, addrSector s addr with
        | some { work := .erase n _ _ _, .. }, some m => auto && n == m
        | _, _ => false
      let uncor := hit || readUncor s addr rd
      let t := onlyIf auto (setFbank b { (s.fbank b) with suspends := (s.fbank b).suspends + 1 }) s
      let u := noteBad addr rd (noteWeak addr rd (countRead addr uncor rd (setMbuf (asRead (flashBytes s addr 256) uncor rd) t)))
      let cb := if uncor then 0 else rd.cbits.val
      mboxResult (if uncor then 2 else if isWeak s rd then 1 else 0)
        { u with flash := { u.flash with mbox := u.flash.mbox.map fun m => { m with cbits := cb } } }

/-- PROGRAM (R362): only a page that reads as erased; a logical sector that no sector holds takes no data and fails its verify. A page of
an OPEN or a RETIRED sector is not erased, whatever it reads as (R361, R367; the result is a DESIGN CHOICE, log 104). -/
def mboxServeProgram (byCore : Bool) (addr : Nat) (s : State) : State :=
  let b := flashBankOf addr
  if addr % 256 ≠ 0 ∨ !mboxMay s byCore addr then mboxResult 3 s
  else if !bankFree s b then s
  else match addrSector s addr with
    | none => mboxResult 8 s
    | some n =>
      if suspSector s b == some n || (s.cell n).isOpen || (s.cell n).isRetired || !pageBlank s (n * 65536 + addr % 65536) then mboxResult 4 s
      else startFlash b (.program (n * 65536 + addr % 65536) (mbufBytes s)) .mailbox s

/-- Does a bank run an erase? -/
def erasesNow (s : State) (b : Nat) : Bool :=
  match (s.fbank b).op with
  | some { work := .erase _ _ _ _, .. } => true
  | _ => false

/-- ERASE (R361, R363, R366, R367): a logical erase that finds no free sector waits for a rotation; one that meets a suspended erase, or
one that was suspended and has not ended, is refused. -/
def mboxServeErase (byCore : Bool) (addr : Nat) (s : State) : State :=
  let b := flashBankOf addr
  if addr % 65536 ≠ 0 ∨ !mboxMay s byCore addr then mboxResult 3 s
  else if (s.fbank b).susp.isSome || (erasesNow s b && decide (0 < (s.fbank b).suspends)) then mboxResult 5 s
  else match flashLoc addr with
    | .slot n =>
      if (s.cell n).isRetired then mboxResult 7 s
      else if !bankFree s b then s
      else startFlash b (.erase n 1 none 0) .mailbox s
    | .data d l =>
      if areaWorn s d then mboxResult 7 (flshEvt E.FLSH_AREA_FULL addr 0 s)
      else if !bankFree s b then s
      else match nextSector s d with
        | some p => startFlash b (.erase (areaSector d p) 1 (some l) 0) .mailbox s
        | none => s
    | .reserved => mboxResult 3 s

/-- Suspend the erase in progress in a bank: OK, or NOSUSP (R363). A cell write ends first. -/
def mboxServeSuspend (addr : Nat) (s : State) : State :=
  let b := flashBankOf addr
  let k := s.fbank b
  match k.op with
  | some { work := .erase n st map tries, owner := o, since := t } =>
    if 16 ≤ k.suspends then mboxResult 6 s
    else if st = 2 then
      mboxResult 0 (setFbank b { k with op := none, susp := some ⟨.erase n st map tries, o, t⟩, suspends := k.suspends + 1 } s)
    else s
  | _ => mboxResult 6 s

/-- RESUME: the suspended erase runs again; a program in the bank ends first (R363). -/
def mboxServeResume (addr : Nat) (s : State) : State :=
  let b := flashBankOf addr
  let k := s.fbank b
  match k.susp with
  | none => mboxResult 6 s
  | some o => if k.op.isSome then s else mboxResult 0 (setFbank b { k with op := some { o with since := s.now }, susp := none } s)

/-- Does the bank run an operation of the mailbox, or hold one suspended that an ERASE command waits for? -/
def mboxRuns (s : State) : Bool :=
  [0, 1].any fun b => (match (s.fbank b).op with | some o => o.owner == .mailbox | none => false)

/-- Serve the command in progress as far as it goes now (R372). -/
def mboxServe (rd : FlashIn) (s : State) : State :=
  match s.flash.mbox with
  | none => s
  | some m =>
    if m.result.isSome || !mboxServed s then s
    else match m.op with
      | 1 => mboxServeRead m.addr rd s
      | 2 => if m.started then s else mboxServeProgram m.byCore m.addr s
      | 3 => if m.started then s else mboxServeErase m.byCore m.addr s
      | 4 => mboxServeSuspend m.addr s
      | _ => mboxServeResume m.addr s

/-- Note that the command's own operation has started in its bank. -/
def mboxNote (s : State) : State :=
  match s.flash.mbox with
  | some m => if mboxRuns s then { s with flash := { s.flash with mbox := some { m with started := true } } } else s
  | none => s

/-- The management core suspends or resumes an erase itself (R363), while the mailbox is taken by another command. -/
def coreSuspends (op addr : Nat) (s : State) : State :=
  let b := flashBankOf addr
  let k := s.fbank b
  if op = 4 then
    match k.op with
    | some { work := .erase n 2 map tries, owner := o, since := t } =>
      if k.suspends < 16 then
        setFbank b { k with op := none, susp := some ⟨.erase n 2 map tries, o, t⟩, suspends := k.suspends + 1 } s
      else s
    | _ => s
  else match k.susp with
    | none => s
    | some o => if k.op.isSome then s else setFbank b { k with op := some { o with since := s.now }, susp := none } s

/-- A write of MCMD: a command starts, unless one is in progress or OP is undefined (R372). -/
def mboxWrite (src : Src) (op : Nat) (s : State) : State :=
  if s.flash.mbox.isSome && src == .core && (op == 4 || op == 5) then coreSuspends op (fget s Pg.flsh F.FLSH_MADDR_ADDR) s
  else if s.flash.mbox.isSome || op = 0 || 5 < op then flshCfgErr s
  else
    let t := { s with flash := { s.flash with
      mbOp := op
      mbox := some { op := op, addr := fget s Pg.flsh F.FLSH_MADDR_ADDR, byCore := src == .core } } }
    if op = 1 then t else mboxNote (mboxServe ⟨0, false, []⟩ t)

/-- The end of a mailbox command (R372): one that still waits is served first, and nothing is reported until the management core serves
the mailbox. -/
def mboxEnd (rd : FlashIn) (s : State) : State :=
  if !mboxServed s then s else
  let t := mboxNote (mboxServe rd s)
  match t.flash.mbox with
  | some { result := some r, cbits := cb, addr := a, op := op, .. } =>
    flshEvt E.FLSH_MBOX_DONE a (16 * r)
      { t with flash := { t.flash with mbox := none, mbResult := r, mbCbits := if op = 1 then cb else t.flash.mbCbits } }
  | _ => t

/-! ### The end of a bank's operation (R361, R366) -/

/-- Continue an erase with its next step. -/
def nextStep (b n step : Nat) (map : Option Nat) (tries : Nat) (o : FlashOp) (s : State) : State :=
  setFbank b { (s.fbank b) with op := some { o with work := .erase n step map tries, since := s.now } } s

/-- Free the bank; the count of suspends belongs to one erase. -/
def bankIdle (b : Nat) (s : State) : State := setFbank b { (s.fbank b) with op := none, suspends := 0 } s

/-- The pages of one sector copied raw into another, check bits included (R366). -/
def copySector (src dst : Nat) (s : State) : State :=
  let t := flashSector dst ((s.flash.bytes.filter fun e => e.1 / 65536 = src).map fun e => (e.1 % 65536, e.2)) s
  { t with flash := { t.flash with
      badPages := t.flash.badPages ++ pagesTo src dst s.flash.badPages, inked := t.flash.inked ++ pagesTo src dst s.flash.inked } }

/-- One operation of an almanac write has ended: it goes on, an erase takes another sector, or the write begins again (log 106). -/
def almAdvance (ok : Bool) (s : State) : State :=
  match s.flash.almJob with
  | none => s
  | some j =>
    if ok then { s with flash := { s.flash with almJob := some { j with next := j.next + 1 } } }
    else if j.next < 2 then s
    else { s with flash := { s.flash with almJob := none }, boot := { s.boot with almWant := true } }

/-- One operation of a fault-log write has ended: it goes on with the next stage or the other area, an erase takes another sector, and
past a page that could not be programmed the entry goes into the next one (log 106). -/
def logAdvance (ok : Bool) (s : State) : State :=
  match s.flash.logJob with
  | none => s
  | some j =>
    if ok then { s with flash := { s.flash with logJob := some (if j.stage < 2 then { j with stage := j.stage + 1 } else ⟨j.area + 1, 0⟩) } }
    else if j.stage = 0 then s
    else { s with flash := { s.flash with logJob := some ⟨0, 0⟩, logNext := s.flash.logNext + 1 } }

/-- Result of an operation for the one that asked for it. -/
def ownerResult (o : FlashOp) (r : Nat) (s : State) : State :=
  match o.owner with
  | .mailbox => mboxResult r s
  | .almanac => almAdvance (r == 0) s
  | .faultLog => logAdvance (r == 0) s
  | _ => s

/-- The flash address that an erase concerns, 0 where none names the sector. -/
def eraseAddr (n : Nat) (map : Option Nat) (o : FlashOp) : Nat :=
  if n % 512 < 256 then n / 512 * 2 ^ 25 + n % 512 * 65536
  else match map, o.owner with
    | some l, _ => logAddr (n / 512) l
    | none, .rotation _ l => logAddr (n / 512) l
    | none, _ => 0

/-- The mapping write of a rotation: the copy is in force, HEAD and TAIL move on (R366). -/
def endRotation (b n src log : Nat) (s : State) : State :=
  let t := closeCell n (some log) s
  bankIdle b { t with flash := { t.flash with
    toMove := t.flash.toMove.filter (· != src)
    tail := if s.ftail b = src % 256 then lset 0 t.flash.tail b ((src % 256 + 1) % 256) else t.flash.tail } }

/-- A step of an erase, or of the rotation that it belongs to, ends; step 6 is the cell write that retires a sector. From the end of step
1 erase pulses reach the array, so the sector's pages are undefined until step 2 ends. -/
def eraseStepDone (b n step : Nat) (map : Option Nat) (tries : Nat) (verify : Bool) (o : FlashOp) (s : State) : State :=
  match step with
  | 1 => nextStep b n 2 map 0 o (flashUndefined n (openCell n s))
  | 2 =>
    if verify then nextStep b n 3 map tries o (flashErase n s)
    else if tries = 0 then nextStep b n 2 map 1 o s
    else nextStep b n 6 map tries o s
  | 3 =>
    match o.owner with
    | .rotation _ _ => nextStep b n 4 none tries o (closeCell n none s)
    | _ => ownerResult o 0 (bankIdle b (closeCell n map s))
  | 4 =>
    match o.owner with
    | .rotation src _ => nextStep b n 5 none tries o (copySector src n s)
    | _ => bankIdle b s
  | 5 =>
    match o.owner with
    | .rotation src log => endRotation b n src log s
    | _ => bankIdle b s
  | _ => ownerResult o 8 (bankIdle b (retireSector n (eraseAddr n map o) s))

/-- A bank's operation, or one step of it, ends with the outcome of its verify. -/
def flashDone (b : Nat) (verify : Bool) (s : State) : State :=
  match (s.fbank b).op with
  | none => s
  | some o =>
    match o.work with
    | .program key data =>
      let t := setFbank b { (s.fbank b) with op := none } s
      if verify then ownerResult o 0 (inkPage key data t) else ownerResult o 8 (scramblePage key t)
    | .erase n step map tries => eraseStepDone b n step map tries verify o s

/-- Cut short every operation of the flash (R330): a program leaves its page undefined, an erase whose pulses began, or that was
suspended, leaves its cell OPEN, a cell write leaves the value before it. The answer says whether anything was aborted. -/
def flashAbortBank (b : Nat) (s : State) : State :=
  let k := s.fbank b
  let t := match k.op with
    | some { work := .program key _, .. } => scramblePage key s
    | some { work := .erase n 4 _ _, .. } => flashUndefined n s
    | _ => s
  setFbank b {} t

/-- Abort both banks, the writes of the almanac and the fault log, and a mailbox command that has no result yet. A cut almanac write is
still wanted (R249). -/
def flashAbort (s : State) : State :=
  let t := flashAbortBank 1 (flashAbortBank 0 s)
  let u := { t with
    flash := { t.flash with aborted := s.flash.aborted || flashWorking s, almJob := none, logJob := none }
    boot := { t.boot with almWant := t.boot.almWant || s.flash.almJob.isSome } }
  match u.flash.mbox with
  | some { result := none, .. } => mboxResult 9 u
  | _ => u

end Sys2Proof.Machine
end

