-- ==== Sys2Proof/Machine/Units.lean ====
section
/-!
DEFINITION. Memory accesses of the units inside the device: work queues, move engines, joiners and table loads. A unit's read is an
access like a host's: it passes its ordering point with ORDERING_POINT_PASS (R13), enters the read queues, and the step of its unit
takes the data once it is back. A line of a region that is disabled or initialising is met as an address outside any region (R156).
-/

namespace Sys2Proof.Machine

/-- What a unit's fetch of one line gives: the data with the age of its block, or the DETAIL of a poisoned fetch (R152, R156). -/
inductive UnitLine where
  | good (data : List Byte) (age : Nat)
  | bad (detail : Nat)
deriving DecidableEq, Repr

/-- The age that stands for an ANCIENT block: greater than any MAXAGE (R57). -/
abbrev ancientAge : Nat := 2 ^ 32

/-- Age of a block for a job (R56). -/
def ageOf (epoch : Word) (e : Rec) : Nat := if e.ancient then ancientAge else (epoch - e.tag).toNat

/-- Is a block of this age stale for a MAXAGE (R56 to R58)? -/
def staleAge (maxage age : Nat) : Bool := maxage != 0 && decide (maxage < age)

/-! ### Reads -/

/-- Put a read of a unit before its ordering point: `lines` lines from `addr` on, in the copy and epoch that the job chose, if it
chose them. -/
def askRead (src : AccSrc) (cls : TClass) (rn addr lines maxage : Nat) (chose : Option (Nat × Word)) (s : State) : State :=
  { s with
    nextId := s.nextId + 1
    accs := s.accs ++ [{ id := s.nextId, src := src, write := false, cls := if (s.region rn).kp then .kp else cls
                         kp := (s.region rn).kp, addr := addr, lines := lines, maxage := maxage, region := rn, data := []
                         chosen := chose.isSome
                         copy := match chose with | some c => c.1 | none => 0
                         epoch := match chose with | some c => c.2 | none => 0 }] }

/-- Put a write of a unit before its ordering point; `poison` lists the lines that are poison codewords. -/
def askWrite (src : AccSrc) (cls : TClass) (rn addr : Nat) (data : List (List Byte)) (poison : List Nat) (copy : Option Nat) (s : State) : State :=
  { s with
    nextId := s.nextId + 1
    accs := s.accs ++ [{ id := s.nextId, src := src, write := true, cls := if (s.region rn).kp then .kp else cls
                         kp := (s.region rn).kp, addr := addr, lines := data.length, maxage := 0, region := rn, data := data
                         chosen := copy.isSome, copy := copy.getD 0, poison := poison }] }

/-- The errors that belong to the line at `addr`: operands of a unit's step name the memory line number. -/
def errsAt (errs : List RdErr) (addr i : Nat) : List RdErr :=
  (errs.filter fun e => e.line == addr / 64 + i).map fun e => { e with line := i }

/-- Is a unit's read over: back, or refused at its ordering point? -/
def unitBack (s : State) (a : Acc) : Bool :=
  match a.phase with
  | .waiting => false
  | .passed => readBack s a
  | .refused _ => true

/-- Line `i` of a unit's read outside king-post regions: a line in a failed channel, a bad record, an uncorrectable or poisoned line,
or its data (R156). -/
def unitPlain (s : State) (a : Acc) (errs : List RdErr) (i : Nat) : UnitLine :=
  if a.got.isEmpty then .bad 0x10
  else
    let r := recRead s a errs false
    if r.1.lost then .bad 0x12
    else match plainLine a errs i with
      | some d => .good d (ageOf a.epoch r.2)
      | none => .bad 0x11

/-- Line `i` of a unit's read of a king-post region (R66, R192). -/
def unitKp (s : State) (a : Acc) (errs : List RdErr) (i : Nat) : UnitLine :=
  match (kpLine s a errs i).bytes with
  | some d => .good d (ageOf a.epoch (goodRec s a errs))
  | none => .bad 0x13

/-- Line `i` of a unit's read that is over. -/
def unitLine (s : State) (errs : List RdErr) (a : Acc) (i : Nat) : UnitLine :=
  match a.phase with
  | .refused d => .bad d
  | _ =>
    let es := errsAt errs a.addr i
    if a.kp then unitKp s a es i else unitPlain s a es i

/-- The errors of a unit's whole read. -/
def errsOf (errs : List RdErr) (a : Acc) : List RdErr := ((List.range a.lines).map (errsAt errs a.addr)).flatten

/-- The outcomes of the lines of a king-post read of a unit. -/
def unitOuts (s : State) (errs : List RdErr) (a : Acc) : List (Nat × KpOut) :=
  (List.range a.lines).map fun i => (i, kpLine s a (errsAt errs a.addr i) i)

/-- Is there room for the rewrites that a unit's read makes (Table 2-6)? -/
def unitFits (s : State) (errs : List RdErr) (a : Acc) : Bool := !a.kp || a.phase != .passed || repairsFit s a (unitOuts s errs a)

/-- A unit takes a read that is over: its outcomes are counted, king-post lines are repaired (R66, R81, R206), and it is gone. -/
def takeRead (errs : List RdErr) (a : Acc) (s : State) : State :=
  let t := onlyIf a.pinned (pinCopy a.region a.copy false) { s with accs := s.accs.filter fun b => b.id != a.id }
  if a.phase != .passed then t
  else if a.kp then forAll (unitOuts s errs a) (fun o => kpEffect a (errsAt errs a.addr o.1) o.1 o.2) (countKp a (errsOf errs a) t)
  else if a.got.isEmpty then t
  else countRec a (errsOf errs a) false (forAll (List.range a.lines) (countGot a (errsOf errs a) false) t)

/-- Does the line lie in copy 0's address range of the enabled region `rn`? -/
def inRegion (s : State) (rn addr : Nat) : Bool :=
  let r := s.region rn
  r.en && decide (r.base * 2 ^ 21 ≤ addr) && decide (addr < (r.base + r.size) * 2 ^ 21)

/-- The reads of one source, oldest first. -/
def readsOf (s : State) (src : AccSrc) : List Acc := s.accs.filter fun a => a.src == src && !a.write

/-! ### Writes -/

/-- What becomes of a write of a unit at its ordering point. -/
inductive UnitPut where
  | taken (cp : Nat)
  | wait
  | noRegion
  | noCopy
  | failed
deriving DecidableEq, Repr

/-- Does an access of a higher class wait in the slice of a unit's write that could pass now (R15)? -/
def unitOutranked (s : State) (r : Region) (cp addr : Nat) (cls : TClass) : Bool :=
  sliceOutranked s ((regionLoc s r false cp (regionBlk r addr)).1 / 8) cls

/-- Where a write of `lines` lines at `addr` within one block would go (R46, R141, R209). It waits behind an earlier access to one of
its lines (R209), and for one of a higher class (R15). -/
def unitPut (s : State) (addr lines : Nat) (cls : TClass) : UnitPut :=
  match regionOf s addr with
  | none => .noRegion
  | some (_, r) =>
    if inShadow r addr || r.init then .noRegion
    else match r.writeCopy with
      | none => .noCopy
      | some cp =>
        let feet := footLines s r r.writeFeet cp addr
        if feet.all fun f => chFailed s f.2.1 then .failed
        else if s.accs.any fun a => a.phase == .waiting && decide (addr / 64 < a.addr / 64 + a.lines) && decide (a.addr / 64 < addr / 64 + lines)
        then .wait
        else if unitOutranked s r cp addr cls then .wait
        else if writeAdmits s feet lines cls then .taken cp
        else .wait

/-- The channels that a write of a unit waits for; one to a king-post region goes on with the other footprint (R64). -/
def putChans (s : State) (addr : Nat) : List Nat :=
  match regionOf s addr with
  | none => []
  | some (_, r) => if r.kp then [] else (footLines s r r.writeFeet (r.writeCopy.getD 0) addr).map (·.2.1)

/-- Take all of some reads, each with its repairs, if the write queues have room for them. -/
def takeReads (errs : List RdErr) : List Acc → State → Option State
  | [], s => some s
  | a :: t, s => if unitFits s errs a then takeReads errs t (takeRead errs a s) else none

/-- A range cut at 4 KiB blocks: address and number of lines of each part. `fuel` bounds the number of parts. -/
def blockParts : Nat → Nat → Nat → List (Nat × Nat)
  | 0, _, _ => []
  | k + 1, addr, lines =>
    if lines = 0 then []
    else
      let n := min lines (64 - addr / 64 % 64)
      (addr, n) :: blockParts k (addr + 64 * n) (lines - n)

/-! ### Jobs -/

/-- Class of a descriptor's accesses (R154). -/
def Job.cls (j : Job) : TClass := if j.kp then .kp else if j.dtype = 1 ∨ j.dtype = 5 then .rt else .bulk

/-- The copy that a job reads of a region: the one it selected, else the visible one (R44). -/
def Job.copyOf (j : Job) (s : State) (rn : Nat) : Nat :=
  match j.pins.find? fun p => p.1 == rn with
  | some p => p.2
  | none => (s.region rn).vis

/-- A job as its step leaves it, but for an early end that the same step's reads brought about. -/
def Job.ending (j i : Job) : Job := { j with fin := i.fin, phase := i.phase, pins := i.pins }

/-- Note the age that a fetch with a MAXAGE met (R161). -/
def Job.aged (j : Job) (maxage age : Nat) : Job := if maxage = 0 then j else { j with ageMax := max j.ageMax (min age 255) }

end Sys2Proof.Machine
end

