-- ==== Sys2Proof/Machine/Queue.lean ====
section
/-!
DEFINITION. Work queues: rings and doorbells (R147 to R151), fetching and starting descriptors (R152 to R160), completion records
(R161 to R163), and the commands of QCTL (R164).
-/

namespace Sys2Proof.Machine

/-! ### Descriptors (Tables 5-2 and 5-3) -/

def dMaxage (b : List Byte) : Nat := leAt b 2 1
def dRecipe (b : List Byte) : Nat := leAt b 3 1
def dFlag (b : List Byte) (i : Nat) : Bool := (b.getD 1 0).getLsbD i
def dFence (b : List Byte) : Bool := dFlag b 0
def dNoirq (b : List Byte) : Bool := dFlag b 1
def dTouch (b : List Byte) : Bool := dFlag b 2
def dCache (b : List Byte) : Bool := dFlag b 3
/-- MAP of a CORRECT, SRC of the other types. -/
def dFirst (b : List Byte) : Nat := leAt b 8 8
/-- SRC of a CORRECT or MEASURE. -/
def dSrc (b : List Byte) : Nat := if leAt b 0 1 = 1 then leAt b 16 8 else leAt b 8 8
/-- DST of each type. -/
def dDst (b : List Byte) : Nat := if leAt b 0 1 = 1 then leAt b 24 8 else if leAt b 0 1 = 2 then leAt b 16 8 else leAt b 8 8
def dNlamp (b : List Byte) : Nat := if leAt b 0 1 = 1 then leAt b 32 3 else leAt b 16 3
def dLines (b : List Byte) : Nat := (if leAt b 0 1 = 2 then leAt b 24 3 else leAt b 16 3) + 1
def dDseed (b : List Byte) : Nat := leAt b 36 4
def dDkind (b : List Byte) : Nat := leAt b 40 1
def dDport (b : List Byte) : Nat := leAt b 41 1 % 16
def dPattern (b : List Byte) : List Byte := slice b 20 4
def dRegion (b : List Byte) : Nat := leAt b 8 1
def dFrame (b : List Byte) : BitVec 16 := BitVec.ofNat 16 (leAt b 10 2)
def dEpoch (b : List Byte) : Word := BitVec.ofNat 32 (leAt b 12 4)

/-- Is this a lamp job: CORRECT or MEASURE? -/
def lampType (t : Nat) : Bool := t == 1 || t == 5

/-! ### Recipes (R174 to R176, R183) -/

/-- A field of recipe `r` of group `g`. -/
def recipeFld (s : State) (g r : Nat) (f : Fld) : Nat := fget s (Pg.jg g) (f.shift (16 * r))

/-- RCFG of a recipe as a register value. -/
def rcfgOf (s : State) (g r : Nat) : Word :=
  packW [(31, recipeFld s g r F.JG_RCFGr_VALID), (24, recipeFld s g r F.JG_RCFGr_TSET), (20, recipeFld s g r F.JG_RCFGr_DMODE),
    (16, recipeFld s g r F.JG_RCFGr_PACK), (12, recipeFld s g r F.JG_RCFGr_SFMT)]

/-- RPFILL of a recipe as a register value. -/
def rpfillOf (s : State) (g r : Nat) : Word :=
  packW [(16, recipeFld s g r F.JG_RPFILLr_P2), (8, recipeFld s g r F.JG_RPFILLr_P1), (0, recipeFld s g r F.JG_RPFILLr_P0)]

def rTset (c : Word) : Nat := ext c.toNat 24 3
def rDmode (c : Word) : Nat := ext c.toNat 20 2
def rPack (c : Word) : Nat := ext c.toNat 16 2
def rSfmt (c : Word) : Nat := ext c.toNat 12 2

/-- Lamp size of a packing (Table 6-3). -/
def lampSize (pack : Nat) : Nat := if pack < 2 then 4 else 6

/-- Is the recipe loaded (R175)? -/
def recipeLoaded (s : State) (g r : Nat) : Bool :=
  r < 16 && recipeFld s g r F.JG_RCFGr_VALID == 1 && (s.group g).tvalid.getLsbD (recipeFld s g r F.JG_RCFGr_TSET)

/-! ### The checks at start (Table 5-1) -/

/-- A memory range that a descriptor fixes: address, length in bytes, whether it is written. -/
structure DRange where
  addr : Nat
  len : Nat
  write : Bool
deriving DecidableEq, Repr

/-- A length rounded up to whole lines. -/
def upLine (n : Nat) : Nat := (n + 63) / 64 * 64

/-- The ranges of a descriptor (R158); a lamp size of the group's recipe is `ls`. -/
def dRanges (b : List Byte) (ls : Nat) : List DRange :=
  match leAt b 0 1 with
  | 1 => [⟨dFirst b, 32 * dNlamp b, false⟩, ⟨dSrc b, 64, false⟩] ++
      (if dDkind b = 0 then [⟨dDst b, upLine (dNlamp b * ls), true⟩] else [])
  | 2 => [⟨dSrc b, 64 * dLines b, false⟩, ⟨dDst b, 64 * dLines b, true⟩]
  | 3 => [⟨dDst b, 64 * dLines b, true⟩]
  | 5 => [⟨dSrc b, dNlamp b * ls, false⟩]
  | _ => []

/-- Does a range leave the region that it begins in? -/
def rangeLeaves (s : State) (x : DRange) : Bool :=
  match regionOf s x.addr with
  | some (_, r) => !inShadow r x.addr && decide ((r.base + r.size) * 2 ^ 21 < x.addr + x.len)
  | none => false

/-- Row 3 of Table 5-1. -/
def rangesBad (s : State) (b : List Byte) (rs : List DRange) : Bool :=
  rs.any (fun x => x.addr % 64 != 0 || x.len == 0 || rangeLeaves s x) ||
  (leAt b 0 1 == 1 && (decide (1 < dDkind b) || (dDkind b == 1 && dDst b % 16 != 0))) ||
  (leAt b 0 1 == 2 && decide (dSrc b < dDst b + 64 * dLines b) && decide (dDst b < dSrc b + 64 * dLines b))

/-- The regions of some ranges, with their entries. -/
def rangeRegions (s : State) (rs : List DRange) : List (Nat × Region) := rs.filterMap fun x => regionOf s x.addr

/-- Rows 5 to 12 of Table 5-1 for a descriptor with memory ranges. -/
def rangesRefused (s : State) (owner : Nat) (b : List Byte) (rs : List DRange) : Option (Status × Nat) :=
  let rd := rangeRegions s (rs.filter fun x => !x.write)
  let wr := rangeRegions s (rs.filter fun x => x.write)
  let routed := leAt b 0 1 == 1 && dDkind b == 1
  if rs.any fun x => (regionOf s x.addr).isNone then some (.denied, 0x03)
  else if rs.any fun x => match regionOf s x.addr with | some (_, r) => inShadow r x.addr | none => false then some (.denied, 0x04)
  else if rd.any (fun e => !memRight s owner e.1 false) || wr.any (fun e => !memRight s owner e.1 true) ||
      (routed && !routeRight s owner (dDport b)) then some (.denied, 0x05)
  else if wr.any fun e => (e.2.buffered && e.2.writer != owner) || mirrorDest s e.1 then some (.denied, 0x06)
  else if leAt b 0 1 != 3 && dMaxage b != 0 && rd.any (fun e => !e.2.aged) then some (.unsupported, 0x07)
  else if (rd ++ wr).any fun e => e.2.init then some (.busy, 0x09)
  else if wr.any fun e => e.2.writeCopy.isNone then some (.busy, 0x0A)
  else none

/-- Does CK_JOIN run (R261)? -/
def ckJoin (s : State) : Bool := fget s Pg.clk (F.CLK_OUTk_EN.shift 4) == 1

/-- Table 5-1 for a descriptor at its start. -/
def startRefused (s : State) (owner g : Nat) (b : List Byte) : Option (Status × Nat) :=
  let t := leAt b 0 1
  let rs := dRanges b (lampSize (recipeFld s g (dRecipe b % 16) F.JG_RCFGr_PACK))
  if t = 0 ∨ 5 < t then some (.unsupported, 0)
  else if lampType t && !recipeLoaded s g (dRecipe b) then some (.unsupported, 0)
  else if rangesBad s b rs then some (.unsupported, 0x01)
  else if rs.any fun x => (geom s).memsize * 2 ^ 21 ≤ x.addr then some (.unsupported, 0x02)
  else
    match rangesRefused s owner b rs with
    | some e => some e
    | none => if lampType t && !ckJoin s then some (.busy, 0x0D) else none

/-! ### Fetching (R152) -/

/-- The address of slot `idx` of a ring. -/
def slotAddr (s : State) (q : Nat) (base : Fld) (idx : BitVec 16) : Nat :=
  qget s q base * 4096 + 64 * (idx.toNat % 2 ^ qget s q F.WQ_QCFG_SIZE)

/-- Lamps of a chunk whose output has been written or sent (R185). -/
def ChunkRes.out (x : ChunkRes) (ls : Nat) : Nat :=
  ((List.range x.lamps).filter fun i => !(x.missing.any fun l => decide (i * ls < l.2) && decide (l.1 < (i + 1) * ls))).length

/-- DONE of a record (Table 5-4, R185): a MEASURE has no output. -/
def Job.doneCount (j : Job) (st : Nat) : Nat :=
  if st ≠ 2 ∨ lampType j.dtype = false then j.done
  else if j.dtype = 5 then 0
  else (j.results.map fun e => e.2.out (lampSize (rPack j.rcfg))).sum

/-- The record of a descriptor (Table 5-4). -/
def recordBytes (j : Job) (st detail : Nat) : List Byte :=
  let rs := j.results.map (·.2)
  let out := (rs.map (·.bytes)).flatten
  let sum (i : Nat) : Nat := if st = 2 then 0 else rs.foldl (fun a r => a + r.sums.getD i 0) 0
  let peak (i : Nat) : Nat := if st = 2 then 0 else rs.foldl (fun a r => max a (r.peaks.getD i 0)) 0
  let lamp := lampType j.dtype && !rs.isEmpty
  leBytes 2 j.idx.toNat ++ leBytes 1 j.dtype ++ leBytes 1 st ++ slice j.bytes 4 4 ++ leBytes 1 detail ++ leBytes 1 j.ageMax ++ [0, 0] ++
    leBytes 4 (if j.dtype = 4 then j.ec.toNat else j.epoch.toNat) ++
    leBytes 8 (sum 0) ++ leBytes 8 (sum 1) ++ leBytes 8 (sum 2) ++
    leBytes 2 (peak 0) ++ leBytes 2 (peak 1) ++ leBytes 2 (peak 2) ++ [0, 0] ++
    leBytes 4 (if lamp && st != 2 then crc32 out else 0) ++
    leBytes 4 (j.doneCount st) ++ leBytes 4 j.staleCnt ++ [0, 0, 0, 0]

/-- The job of a descriptor whose fetch was poisoned: only its record is left to write (R152). -/
def poisonedJob (s : State) (q : Nat) (idx : BitVec 16) (detail : Nat) : Job :=
  let j : Job := { queue := q, idx := idx, group := qget s q F.WQ_QCFG_JG, order := s.nextId, dtype := 0, bytes := [], slot := false
                   fin := some (3, detail) }
  { j with phase := .record (recordBytes j 3 detail) 3 }

/-- The data of the next descriptor is back: it is fetched, or its fetch was poisoned. A queue that has left RUN forgets it. -/
def fetched (q : Nat) (x : UnitLine) (s : State) : State :=
  let k := s.queue q
  if k.state != .run then s
  else match x with
    | .good d _ => setQueue q { k with fetch := k.fetch + 1, fetched := k.fetched ++ [{ idx := k.fetch, bytes := d }] } s
    | .bad detail =>
      setQueue q { k with fetch := k.fetch + 1 }
        { s with jobs := s.jobs ++ [poisonedJob s q k.fetch detail], nextId := s.nextId + 1 }

/-- DESCRIPTOR_FETCH (R152): the read of the next slot is issued at BULK class, or its data is taken. -/
def fetchDescriptor (q : Nat) (errs : List RdErr) (s : State) : State :=
  let k := s.queue q
  let addr := slotAddr s q F.WQ_QBASE_BLOCK k.fetch
  if inSafe s then s
  else match readsOf s (.descr q), regionOf s addr with
    | a :: _, _ => if !unitBack s a || !unitFits s errs a then s else fetched q (unitLine s errs a 0) (takeRead errs a s)
    | [], some (rn, _) => if k.state != .run || k.fetch == k.pidx then s else askRead (.descr q) .bulk rn addr 1 0 none s
    | [], none => s

/-! ### Starting (R153 to R155, R160) -/

/-- Descriptors of a queue in progress (QSTAT.INPROG). -/
def inProgress (s : State) (q : Nat) : Nat := (s.jobs.filter fun j => j.queue == q && j.slot).length

/-- Job slots of a group in use (R153, JSTAT.JOBS). -/
def slotsUsed (s : State) (g : Nat) : Nat := (s.jobs.filter fun j => j.group == g && j.slot).length

/-- Does index `a` come before index `b`? -/
def idxBefore (a b : BitVec 16) : Bool := decide (1 ≤ (b - a).toNat) && decide ((b - a).toNat < 2 ^ 15)

/-- Is the next descriptor of a queue eligible (R153)? -/
def eligibleQueue (s : State) (q : Nat) : Bool :=
  let k := s.queue q
  let g := qget s q F.WQ_QCFG_JG
  match k.fetched with
  | [] => false
  | f :: _ =>
    k.state == .run && (s.group g).state == .inService && decide (slotsUsed s g < 32) &&
    decide (inProgress s q ≤ qget s q F.WQ_QCFG_DEPTH) &&
    (!(dFence f.bytes || leAt f.bytes 0 1 == 4) || !(s.jobs.any fun j => j.queue == q && idxBefore j.idx f.idx))

/-- How far a queue is from its turn. -/
def turnOf (s : State) (g q : Nat) : Nat := (q + 255 - (s.group g).turn) % 256

/-- The queue whose descriptor the group starts next: highest PRIO, equals in turn (R153). -/
def nextQueue (s : State) (g : Nat) : Option Nat :=
  ((s.queues.map (·.1)).filter fun q => qget s q F.WQ_QCFG_JG == g && eligibleQueue s q).foldl (fun best q =>
    match best with
    | none => some q
    | some b =>
      if qget s b F.WQ_QCFG_PRIO < qget s q F.WQ_QCFG_PRIO ∨
          (qget s b F.WQ_QCFG_PRIO = qget s q F.WQ_QCFG_PRIO ∧ turnOf s g q < turnOf s g b) then some q else some b) none

/-- Present the commit of a COMMIT_AT_EPOCH (R160): rows 5 to 12, then it waits to be accepted as a commit of the owner port. -/
def presentCommit (q idx : Nat) (s : State) : State :=
  match s.jobs.find? fun j => j.is q idx with
  | none => s
  | some j =>
    match checkCommit s j.owner (dRegion j.bytes) with
    | some (st, d) => endJob q idx st.code d s
    | none =>
      modJob q idx (fun j => { j with phase := .committing })
        { s with
          nextId := s.nextId + 1
          commits := s.commits ++ [{ src := .queue q idx, port := j.owner, region := dRegion j.bytes, touch := dTouch j.bytes
                                     frame := dFrame j.bytes, seq := s.nextId }] }

/-- Does a COMMIT_AT_EPOCH for `target` still wait in epoch `e` (R160)? -/
def epochWaits (target e : Word) : Bool := let d := (target - e).toNat; decide (1 ≤ d) && decide (d < 2 ^ 31)

/-- Every COMMIT_AT_EPOCH whose epoch has come is presented (R160). -/
def presentDue (s : State) : State :=
  forAll (s.jobs.filter fun j => j.phase == .waitEpoch && !epochWaits (dEpoch j.bytes) s.merid.epoch)
    (fun j => presentCommit j.queue j.idx.toNat) s

/-- Lamp records of a cache entry that joiner `u` holds (R189): chunk j lies with the (j mod J)-th of the owners. -/
def CacheEnt.share (e : CacheEnt) (u : Nat) : Nat :=
  let n := e.owners.length
  let p := e.owners.findIdx (· == u)
  let full := e.nlamp / 64
  if n ≤ p then 0 else 64 * ((full + n - 1 - p) / n) + if full % n = p then e.nlamp % 64 else 0

/-- Do some entries fit in a group's record cache: at most 8, and 7,168 records with each joiner (R188)? -/
def cacheFits (l : List CacheEnt) : Bool :=
  decide (l.length ≤ 8) && (List.range 16).all fun u => decide ((l.map fun e => e.share u).sum ≤ 7168)

/-- Evict unused entries, the least recently used first, until a new entry fits; the list runs from least to most recent. -/
def evictFor (fuel : Nat) (new : CacheEnt) (used : List Nat) (l : List CacheEnt) : List CacheEnt :=
  match fuel with
  | 0 => l
  | k + 1 =>
    if cacheFits (l ++ [new]) then l
    else match l.findIdx? fun e => !used.contains e.key with
      | some i => evictFor k new used (l.eraseIdx i)
      | none => l

/-- Joiners of a group that are not fenced. -/
def freeJoiners (k : Group) : List Nat := (List.range 16).filter fun u => !k.fence.getLsbD (u / 2)

/-- Find or make the record-cache entry of a CORRECT with CACHE set (R189): its key, and the counts. -/
def useCache (g map nlamp : Nat) (s : State) : Option Nat × State :=
  let k := s.group g
  match k.cache.find? fun e => e.map == map && e.nlamp == nlamp with
  | some e =>
    (some e.key, fbump (Pg.jg g) F.JG_CCNT_HIT (setGroup g { k with cache := k.cache.filter (·.key != e.key) ++ [e] } s))
  | none =>
    let used := s.jobs.filterMap fun j => if j.group = g then j.cacheKey else none
    let new : CacheEnt := { key := k.nextKey, map := map, nlamp := nlamp, owners := freeJoiners k, lines := [] }
    let left := evictFor 8 new used k.cache
    let t := fbump (Pg.jg g) F.JG_CCNT_MISS s
    if cacheFits (left ++ [new]) && !new.owners.isEmpty then
      (some k.nextKey, setGroup g { k with cache := left ++ [new], nextKey := k.nextKey + 1 } t)
    else (none, setGroup g { k with cache := left } t)

/-- Open the writable copy of each region that a descriptor writes, where there is none (R46, Table 5-7). -/
def openFor (rn : Nat) (s : State) : State :=
  let r := s.region rn
  match r.writeCopy with
  | some i => if r.buffered ∧ r.idxOf .writable = none then openCopy rn i s else s
  | none => s

/-- A started descriptor that has passed its checks. -/
def runJob (j : Job) (s : State) : State :=
  let rs := dRanges j.bytes (lampSize (rPack j.rcfg))
  let rd := (rangeRegions s (rs.filter fun x => !x.write)).map (·.1)
  let wr := (rangeRegions s (rs.filter fun x => x.write)).map (·.1)
  let all := rd ++ wr ++ (if j.dtype = 4 then [dRegion j.bytes] else [])
  let pins := rd.eraseDups.map fun rn => (rn, (s.region rn).vis)
  let kp := all.any fun rn => (s.region rn).kp
  let t := forAll wr openFor (forAll pins (fun p => pinCopy p.1 p.2 true) s)
  let cached := j.dtype == 1 && dCache j.bytes && !kp && (match rd with | rn :: _ => (s.region rn).copies == 1 | [] => false)
  let c := if cached then useCache j.group (dFirst j.bytes) (dNlamp j.bytes) t else (none, t)
  let j' : Job := { j with kp := kp, pins := pins, cacheKey := c.1, phase := if j.dtype = 4 then .waitEpoch else .run }
  let u := { c.2 with jobs := c.2.jobs ++ [j'] }
  if j.dtype = 4 ∧ !epochWaits (dEpoch j.bytes) s.merid.epoch then presentCommit j.queue j.idx.toNat u else u

/-- DESCRIPTOR_START (R155): the next descriptor of a queue gets its slot, and passes or fails the checks of Table 5-1. One that finds
CK_JOIN off gives its slot back at once (R261). -/
def startDescriptor (q : Nat) (s : State) : State :=
  let g := qget s q F.WQ_QCFG_JG
  match (s.queue q).fetched with
  | [] => s
  | f :: rest =>
    if inSafe s || nextQueue s g != some q then s
    else
      let r := dRecipe f.bytes % 16
      let owner := qget s q F.WQ_QCFG_OWNER
      let j : Job := { queue := q, idx := f.idx, group := g, order := s.nextId, dtype := leAt f.bytes 0 1, bytes := f.bytes, owner := owner
                       epoch := s.merid.epoch, rcfg := rcfgOf s g r, rstride := recipeFld s g r F.JG_RSTRIDEr_STRIDE
                       rpfill := rpfillOf s g r }
      let t := modGroup g (fun k => { k with turn := q })
        (modQueue q (fun k => { k with fetched := rest }) { s with nextId := s.nextId + 1 })
      match startRefused t owner g f.bytes with
      | some (st, d) => { t with jobs := t.jobs ++ [{ j with fin := some (st.code, d), slot := d != 0x0D }] }
      | none => runJob j t

/-! ### Completing (R156, R161 to R163) -/

/-- Chunks of a lamp job. -/
def chunksOf (b : List Byte) : Nat := (dNlamp b + 63) / 64

/-- Is this a part of the output of descriptor `idx` of queue `q`? -/
def MsgKind.ofJob (m : MsgKind) (q idx : Nat) : Bool := match m with | .xwr q' i _ _ _ => q' == q && i == idx | _ => false

/-- Does a message of this descriptor still wait to leave a port (R75)? -/
def xwrWaits (s : State) (q idx : Nat) : Bool :=
  s.links.any fun l => l.2.txq.any (fun m => m.kind.ofJob q idx) || l.2.txPartKind.any fun m => m.ofJob q idx

/-- Does a write of this descriptor's output wait at its ordering point (R75)? -/
def outWaits (s : State) (q idx : Nat) : Bool :=
  s.accs.any fun a => match a.src with | .out q' i _ _ => q' == q && i == idx | _ => false

/-- Has a job done all its work, and has its output passed or left (R75)? -/
def workDone (s : State) (j : Job) : Bool :=
  !xwrWaits s j.queue j.idx.toNat && !outWaits s j.queue j.idx.toNat &&
  match j.fin with
  | some _ => true
  | none =>
    if lampType j.dtype then decide (chunksOf j.bytes ≤ j.results.length)
    else if j.dtype = 2 ∨ j.dtype = 3 then decide (dLines j.bytes ≤ j.nextChunk)
    else false

/-- The status and DETAIL of a job (R156). -/
def Job.outcome (j : Job) : Nat × Nat :=
  match j.fin with
  | some e => e
  | none =>
    if j.lost then (2, 0x0A)
    else match j.pois with
      | some d => (3, d)
      | none => if j.stale then (1, 0) else (0, 0)

/-- Count a descriptor that has completed (JCNT), one whose fetch was poisoned apart, and free its slot. -/
def retireJob (j : Job) (disc : Bool) (s : State) : State :=
  let t := onlyIf disc (fbump (Pg.jg j.group) F.JG_JCNT_DISC) (onlyIf (!j.bytes.isEmpty) (fbump (Pg.jg j.group) F.JG_JCNT_DONE) s)
  forAll j.pins (fun p => pinCopy p.1 p.2 false) { t with jobs := t.jobs.filter fun i => !i.is j.queue j.idx.toNat }

/-- A record that cannot be admitted (R163): the queue enters ERROR with cause 0x03 and the descriptor counts as DISCARDED. -/
def recordLost (j : Job) (s : State) : State :=
  let t := retireJob j true s
  if (t.queue j.queue).state == .disabled then t else queueError j.queue 3 t

/-- The class of a record: that of its work, and king-post in a king-post region (R154, R63). -/
def recordCls (s : State) (q : Nat) (j : Job) : TClass :=
  match ringRegion s q F.WQ_QCBASE_BLOCK with
  | some rn => if (s.region rn).kp then .kp else j.cls
  | none => j.cls

/-- JOB_COMPLETE (R156): the job's record is made, and waits to pass its ordering point. -/
def completeJob (q idx : Nat) (s : State) : State :=
  match s.jobs.find? fun j => j.is q idx with
  | none => s
  | some j =>
    if inSafe s || j.recorded || !workDone s j then s
    else
      let e := j.outcome
      let t := forAll j.pins (fun p => pinCopy p.1 p.2 false) s
      let j' : Job := { j with fin := some e, pins := [], phase := .record (recordBytes j e.1 e.2) e.1 }
      match unitPut t (slotAddr t q F.WQ_QCBASE_BLOCK j.idx) 1 (recordCls t q j) with
      | .failed => recordLost j' t
      | .noRegion => retireJob j' true t
      | _ => modJob q idx (fun _ => j') t

/-- RETIRED moves past an index whose record has passed, and past later ones that passed before it (R162). -/
def advanceRetired (fuel : Nat) (k : Queue) : Queue :=
  match fuel with
  | 0 => k
  | n + 1 =>
    if k.ahead.contains k.retired then
      advanceRetired n { k with ahead := k.ahead.filter (· != k.retired), retired := k.retired + 1 }
    else k

/-- COMPLETION_RECORD_PASS (R162): the record is stored, RETIRED advances and the queue's vector is triggered. -/
def passRecord (q idx : Nat) (s : State) : State :=
  match s.jobs.find? fun j => j.is q idx with
  | none => s
  | some j =>
    match j.phase with
    | .record bs st =>
      let addr := slotAddr s q F.WQ_QCBASE_BLOCK j.idx
      if inSafe s then s
      else match unitPut s addr 1 (recordCls s q j), regionOf s addr with
        | .failed, _ => recordLost j s
        | .noRegion, _ => retireJob j true s
        | .taken cp, some (rn, _) =>
          let t := unitWrite rn cp addr [bs] [] (recordCls s q j) s
          let u := retireJob j (st == 2) (modQueue q (fun k => advanceRetired 4096 { k with ahead := k.ahead ++ [j.idx] }) t)
          let v := fset (Pg.wq q) (qfld q F.WQ_QCNT_DONE) (min 65535 (qget u q F.WQ_QCNT_DONE + 1)) u
          let w := if st = 2 then qEvt q true (bs.getD 8 0).toNat (fbump (Pg.wq q) (qfld q F.WQ_QCNT_DISC) v) else v
          if dNoirq j.bytes then w else trigger q j.kp w
        | _, _ => s
    | _ => s

/-! ### QCTL, QPIDX and the configuration (R151, R164) -/

/-- The region that wholly holds a ring (R151). -/
def ringIn (s : State) (addr len : Nat) : Option Nat :=
  match regionOf s addr with
  | some (rn, r) =>
    if r.copies = 1 ∧ addr + len ≤ (r.base + r.size) * 2 ^ 21 then some rn else none
  | none => none

/-- The checks of R151. -/
def ringsOk (s : State) (q : Nat) : Bool :=
  let n := qget s q F.WQ_QCFG_SIZE
  let len := 64 * 2 ^ n
  let d := qget s q F.WQ_QBASE_BLOCK * 4096
  let c := qget s q F.WQ_QCBASE_BLOCK * 4096
  let owner := qget s q F.WQ_QCFG_OWNER
  decide (4 ≤ n) && decide (n ≤ 12) && !(decide (d < c + len) && decide (c < d + len)) &&
    (match ringIn s d len, ringIn s c len with
     | some a, some b => memRight s owner a false && memRight s owner b true
     | _, _ => false)

/-- Forget a fetch of the queue's earlier enable. -/
def dropFetch (q : Nat) (s : State) : State :=
  forAll (readsOf s (.descr q)) (fun a t =>
    onlyIf a.pinned (pinCopy a.region a.copy false) { t with accs := t.accs.filter fun b => b.id != a.id }) s

/-- The enable takes effect (R151). -/
def enableQueue (q : Nat) (s : State) : State :=
  if ringsOk s q then setQueue q { state := .run } (dropFetch q s)
  else qEvt q false 4 (modQueue q (fun k => { k with state := .disabled, cause := 4, heldEnable := false, fetched := [] }) s)

/-- Is nothing of the queue in progress? -/
def queueIdle (s : State) (q : Nat) : Bool := !(s.jobs.any fun j => j.queue == q)

/-- QCTL.ENABLE (R151): ignored in RUN or DRAINING, held while work of an earlier enable remains. -/
def ctlEnable (q : Nat) (s : State) : State :=
  let k := s.queue q
  if inSafe s || k.state == .run || k.state == .draining then s
  else if queueIdle s q then enableQueue q s
  else setQueue q { k with heldEnable := true } s

/-- QCTL.DISABLE (Table 5-5). DESIGN CHOICE: it cancels an ENABLE that is held (log 75). -/
def ctlDisable (q : Nat) (s : State) : State :=
  let k := s.queue q
  if inSafe s || k.state == .disabled then s
  else setQueue q { k with state := if queueIdle s q then .disabled else .draining, fetched := [], heldEnable := false } s

/-- Has a commit of this descriptor been accepted? -/
def commitTaken (s : State) (q idx : Nat) : Bool := s.commits.any fun c => c.accepted && c.ofJob q idx

/-- QCTL.ABORT (Table 5-5): every descriptor in progress ends, but for one whose commit has been accepted; the queue is DISABLED once
their records are written. DESIGN CHOICE: it shows DRAINING until then, and a held ENABLE is cancelled (log 75). -/
def ctlAbort (q : Nat) (s : State) : State :=
  if inSafe s || (s.queue q).state == .disabled then s
  else
    let t := forAll (s.jobs.filter fun j => j.queue == q && !commitTaken s q j.idx.toNat) (fun j => endJob q j.idx.toNat 2 0) s
    modQueue q (fun k => { k with state := if queueIdle t q then .disabled else .draining, fetched := [], heldEnable := false }) t

/-- QCTL.CLRCNT (R170). -/
def ctlClrcnt (q : Nat) (s : State) : State :=
  if inSafe s then s else fclear (Pg.wq q) [qfld q F.WQ_QCNT_DONE, qfld q F.WQ_QCNT_DISC] s

/-- QUEUE_DRAINED (R164): a queue with nothing in progress leaves DRAINING, or takes a held enable. -/
def queueDrained (q : Nat) (s : State) : State :=
  let k := s.queue q
  if inSafe s || !queueIdle s q then s
  else if k.heldEnable then enableQueue q (setQueue q { k with heldEnable := false } s)
  else if k.state == .draining then setQueue q { k with state := .disabled } s
  else s

/-- The fields of a queue configuration register. -/
def cfgFields (reg : QReg) : List Fld :=
  match reg with
  | .qbase => [F.WQ_QBASE_BLOCK]
  | .qcbase => [F.WQ_QCBASE_BLOCK]
  | .qcfg => [F.WQ_QCFG_OWNER, F.WQ_QCFG_JG, F.WQ_QCFG_SIZE, F.WQ_QCFG_DEPTH, F.WQ_QCFG_PRIO]

/-- Offset of a queue configuration register in its page. -/
def cfgOff (q : Nat) (reg : QReg) : Nat :=
  0x40 * (q % 16) + (match reg with | .qbase => 0x100 | .qcbase => 0x104 | .qcfg => 0x108)

/-- A write to QBASE, QCBASE or QCFG: only while the queue is DISABLED (R151). -/
def writeQueueCfg (q : Nat) (reg : QReg) (val : Word) (s : State) : State :=
  if inSafe s then s
  else if (s.queue q).state != .disabled then queueRefused q s
  else (cfgFields reg).foldl (fun t f => fset (Pg.wq q) (qfld q f) (ext val.toNat f.lo f.w) t) s

/-- Does a register write to QPIDX come from a port that does not own the queue (R150)? -/
def notOwner (s : State) (src : Src) (q : Nat) : Bool :=
  match src with
  | .host p => qget s q F.WQ_QCFG_OWNER != p.val
  | _ => false

/-- A register write to QPIDX (R148, R150). -/
def writeQpidx (q : Nat) (pidx : BitVec 16) (s : State) : State := ringBell q pidx s

/-- The queue's QCTL, QPIDX: offset in the page. -/
def qOff (q off : Nat) : Nat := 0x40 * (q % 16) + off

/-- A DOORBELL message (R132). As RETENTION is entered it is turned away as every request is (R351). -/
def doorbell (port q : Nat) (pidx : BitVec 16) (s : State) : State :=
  if inSafe s then dropDoorbell port 0x16 s
  else if s.power.state == .entering then dropDoorbell port 0x09 s
  else
    let b : Bell := { port := port, queue := q, pidx := pidx, seq := s.nextId }
    if postWaits s port s.nextId || s.bells.any (fun x => x.port == port) then { s with bells := s.bells ++ [b] } else doorbellActs b s

/-! ### The commands -/

/-- DOORBELL (R132). -/
def execDoorbell (port : Fin 16) (queue : Fin 256) (pidx : BitVec 16) (s : State) : Host.Outcome State Fault Refusal :=
  .next (arrives port (doorbell port queue pidx) s)

/-- DESCRIPTOR_FETCH (R152). -/
def execDescriptorFetch (queue : Fin 256) (errs : List RdErr) (s : State) : Host.Outcome State Fault Refusal :=
  .next (fetchDescriptor queue errs s)

/-- DESCRIPTOR_START (R155). -/
def execDescriptorStart (queue : Fin 256) (s : State) : Host.Outcome State Fault Refusal := .next (startDescriptor queue s)

/-- JOB_COMPLETE (R156). -/
def execJobComplete (queue : Fin 256) (idx : BitVec 16) (s : State) : Host.Outcome State Fault Refusal :=
  .next (completeJob queue idx.toNat s)

/-- COMPLETION_RECORD_PASS (R162). -/
def execCompletionRecordPass (queue : Fin 256) (idx : BitVec 16) (s : State) : Host.Outcome State Fault Refusal :=
  .next (passRecord queue idx.toNat s)

/-- QPIDX_WRITE (R148, R150): from a host port that does not own the queue it is refused with DENIED. -/
def execQpidxWrite (src : Src) (queue : Fin 256) (pidx : BitVec 16) (s : State) : Host.Outcome State Fault Refusal :=
  .next (viaReg src (Pg.wq queue) (qOff queue 0x110) (fun t =>
    match src with
    | .host p => if notOwner t src queue then countRefused p .denied t else writeQpidx queue pidx t
    | _ => writeQpidx queue pidx t) s)

/-- QUEUE_ENABLE (R151). -/
def execQueueEnable (src : Src) (queue : Fin 256) (s : State) : Host.Outcome State Fault Refusal :=
  .next (viaReg src (Pg.wq queue) (qOff queue 0x10C) (ctlEnable queue) s)

/-- QUEUE_DISABLE (R164). -/
def execQueueDisable (src : Src) (queue : Fin 256) (s : State) : Host.Outcome State Fault Refusal :=
  .next (viaReg src (Pg.wq queue) (qOff queue 0x10C) (ctlDisable queue) s)

/-- QUEUE_ABORT (R164). -/
def execQueueAbort (src : Src) (queue : Fin 256) (s : State) : Host.Outcome State Fault Refusal :=
  .next (viaReg src (Pg.wq queue) (qOff queue 0x10C) (ctlAbort queue) s)

/-- QUEUE_CLRCNT (R170). -/
def execQueueClrcnt (src : Src) (queue : Fin 256) (s : State) : Host.Outcome State Fault Refusal :=
  .next (viaReg src (Pg.wq queue) (qOff queue 0x10C) (ctlClrcnt queue) s)

/-- QUEUE_CONFIG_WRITE (R151): a write that would change the sealed OWNER is refused (R8). -/
def execQueueConfigWrite (src : Src) (queue : Fin 256) (reg : QReg) (val : Word) (s : State) : Host.Outcome State Fault Refusal :=
  .next (viaSealed src (Pg.wq queue) (cfgOff queue reg) val (writeQueueCfg queue reg val) s)

/-- QUEUE_DRAINED (R164). -/
def execQueueDrained (queue : Fin 256) (s : State) : Host.Outcome State Fault Refusal := .next (queueDrained queue s)

end Sys2Proof.Machine
end

