-- ==== Sys2Proof/Machine/Joiner.lean ====
section
/-!
DEFINITION. Joiners: the pipeline of one lamp (R172 to R186), chunks (R187 to R193), the record cache (R188 to R190), transfer
tables (R175 to R179), and the move engine (R159).
-/

namespace Sys2Proof.Machine

/-! ### The arithmetic of a lamp (R180) -/

/-- rnd(x, s) of R180: halves round toward plus infinity. -/
def rnd (x : Int) (k : Nat) : Int := (x + 2 ^ (k - 1)) / 2 ^ k

/-- clamp(x, a, b) of R180. -/
def clampI (x a b : Int) : Int := if x < a then a else if b < x then b else x

/-- Bits per primary of a packing (Table 6-3). -/
def packWidth (pack : Nat) : Nat := if pack = 0 then 8 else if pack = 1 then 10 else if pack = 2 then 12 else 16

/-- rep(v, w) of R180. -/
def rep (v w : Nat) : Nat :=
  if w = 8 then v
  else if w = 10 then (v * 4).lor (v / 64)
  else if w = 12 then (v * 16).lor (v / 16)
  else (v * 256).lor v

/-- fill(P) of R180. -/
def fillLamp (p : Word) (w : Nat) : List Nat := (List.range 3).map fun i => rep (ext p.toNat (8 * i) 8) w

/-- noise(n, i) of R180 with S already chosen. -/
def noise (seed : Word) (n i k : Nat) : Nat :=
  let u := seed + BitVec.ofNat 32 (4 * n + i)
  (u * 0x9E3779B1).toNat / 2 ^ (32 - k)

/-- quantise(d, n, i) of R180; `dither` is S when the dither mode is on. -/
def quantise (d w : Nat) (dither : Option Word) (n i : Nat) : Nat :=
  let k := 16 - w
  if w = 16 then d
  else match dither with
    | none => min ((d + 2 ^ (k - 1)) / 2 ^ k) (2 ^ w - 1)
    | some sd => min ((d + noise sd n i k) / 2 ^ k) (2 ^ w - 1)

/-- Pixel size of a source format (Table 6-2). -/
def pixelSize (sfmt : Nat) : Nat := if sfmt = 2 then 8 else 4

/-- The expanded 16-bit codes of a pixel (Table 6-2). -/
def expandPixel (sfmt : Nat) (px : List Byte) : List Nat :=
  if sfmt = 0 then (List.range 3).map fun i => (px.getD i 0).toNat * 257
  else if sfmt = 1 then
    let w := leAt px 0 4
    (List.range 3).map fun i => let v := ext w (10 * i) 10; (v * 64).lor (v / 16)
  else (List.range 3).map fun i => leAt px (2 * i) 2

/-- Pack the drive values of a lamp (Table 6-3). -/
def packLamp (pack : Nat) (out : List Nat) : List Byte :=
  let o (i : Nat) : Nat := out.getD i 0
  if pack = 0 then leBytes 1 (o 0) ++ leBytes 1 (o 1) ++ leBytes 1 (o 2) ++ [0]
  else if pack = 1 then leBytes 4 (pack3 (o 0) (o 1) (o 2))
  else leBytes 2 (o 0) ++ leBytes 2 (o 1) ++ leBytes 2 (o 2)
where
  pack3 (a b c : Nat) : Nat := a + b * 2 ^ 10 + c * 2 ^ 20

/-- Unpack a lamp that a MEASURE reads (R186). -/
def unpackLamp (pack : Nat) (bs : List Byte) : List Nat :=
  (List.range 3).map fun i =>
    if pack = 0 then (bs.getD i 0).toNat
    else if pack = 1 then ext (leNat bs) (10 * i) 10
    else if pack = 2 then ext (leAt bs (2 * i) 2) 0 12
    else leAt bs (2 * i) 2

/-- A lamp record (Table 6-1): source index, weights, matrix, gain, offsets. -/
structure LampRec where
  sidx : Nat
  w : List Nat
  m : List (List Int)
  gain : Nat
  ofs : List Int
deriving DecidableEq, Repr

/-- Decode the 32 bytes of a lamp record (R172). -/
def lampRec (b : List Byte) : LampRec :=
  { sidx := leAt b 0 4
    w := (List.range 4).map fun i => leAt b (4 + i) 1
    m := (List.range 3).map fun i => (List.range 3).map fun j => signedOf 16 (leAt b (8 + 6 * i + 2 * j) 2)
    gain := leAt b 26 2
    ofs := (List.range 3).map fun i => signedOf 10 (ext (leAt b 28 4) (10 * i) 10) }

/-- The weights in effect: all zero counts as 256 on p00 (R173). -/
def LampRec.weights (r : LampRec) : List Nat := if r.w.all (· == 0) then [256, 0, 0, 0] else r.w

/-- The pixels a lamp fetches: index and weight (R173). -/
def LampRec.taps (r : LampRec) (stride : Nat) : List (Nat × Nat) :=
  let ix := [r.sidx, r.sidx + 1, r.sidx + stride, r.sidx + stride + 1]
  ((List.range 4).map fun i => (ix.getD i 0, r.weights.getD i 0)).filter fun p => p.2 != 0

/-- Stages 2 to 6 of R180; `t i x` is entry x of primary i, `q` the expanded codes of each tap with its weight. -/
def lampOut (t : Nat → Nat → Nat) (r : LampRec) (q : List (Nat × List Nat)) (w : Nat) (dither : Option Word) (n : Nat) : List Nat :=
  let res := (List.range 3).map fun k => min (rnd (q.foldl (fun a p => a + (p.1 * p.2.getD k 0 : Nat)) (0 : Int)) 8) 65535
  (List.range 3).map fun i =>
    let sum := (List.range 3).foldl (fun a j => a + (r.m.getD i []).getD j 0 * res.getD j 0) (0 : Int)
    let c := (clampI (rnd (rnd sum 13 * (r.gain : Int)) 14 + 64 * r.ofs.getD i 0) 0 65535).toNat
    let t0 := t i (c / 16)
    let t1 := t i (min (c / 16 + 1) 4095)
    let d := ((t0 : Int) + rnd (((t1 : Int) - t0) * (c % 16 : Nat)) 4).toNat
    quantise d w dither n i

/-! ### Transfer tables -/

/-- Key of a table entry. -/
def tabKey (set prim e : Nat) : Nat := 16384 * set + 4096 * prim + e

/-- Entry `e` of primary `prim` of a set. -/
def Group.entry (k : Group) (set prim e : Nat) : Nat := tget 0 k.tables (tabKey set prim e)

/-- Store one entry. -/
def Group.putEntry (k : Group) (set prim e v : Nat) : Group :=
  { k with tables := cset k.tables (tabKey set prim e) 0 (v % 65536) }

/-- Is a table set in use by a job in progress, up to its completion record (R153, R176)? -/
def setInUse (s : State) (g set : Nat) : Bool :=
  s.jobs.any fun j => j.group == g && lampType j.dtype && j.slot && rTset j.rcfg == set

/-! ### A chunk

A joiner fetches by single-line reads (R30, R174): the lines of its lamp records that the record cache does not hold, then the source
lines that the records name. CHUNK_TAKE and CHUNK_COMPLETE ask for what is missing; the chunk ends once all of it is back. -/

/-- The cache entry of the job. -/
def cacheOf (s : State) (j : Job) : Option CacheEnt :=
  match j.cacheKey with
  | some key => (s.group j.group).cache.find? fun e => e.key == key
  | none => none

/-- Change the lines that the job's cache entry holds. -/
def setCacheLines (j : Job) (f : Tab (List Byte) → Tab (List Byte)) (s : State) : State :=
  modGroup j.group (fun k => { k with cache := k.cache.map fun e => if some e.key == j.cacheKey then { e with lines := f e.lines } else e }) s

/-- What a chunk works with: its job as it stood, the lines held in the record cache, the lines that its reads gave, each with the
outcome that all its users share (R174), RSTALE of its source region, and which addresses lie there. -/
structure Feed where
  job : Job
  held : Tab (List Byte)
  lines : List (Nat × UnitLine)
  stale : Word
  here : Nat → Bool

/-- A fetched line. -/
def Feed.line (f : Feed) (addr : Nat) : UnitLine :=
  match f.lines.find? fun e => e.1 == addr / 64 with
  | some e => e.2
  | none => .bad 0x03

/-- The line of a source pixel; one outside the source region is met as 0x03 (R156, R181). -/
def Feed.pixel (f : Feed) (addr : Nat) : UnitLine := if f.here addr then f.line addr else .bad 0x03

/-- A line of the lamp map: from the record cache while it is held there (R189, R190). -/
def Feed.mapLine (f : Feed) (addr : Nat) : UnitLine :=
  match f.held.find? fun e => e.1 == addr / 64 with
  | some e => .good e.2 0
  | none => f.line addr

/-- A chunk on its way: the job as it fares, the outputs in order. -/
structure Run where
  job : Job
  outs : List (List Nat)
  bytes : List Byte
  stale : Nat
deriving DecidableEq, Repr

/-- One lamp is done: its drive values and bytes. -/
def Run.emit (x : Run) (out : List Nat) (bytes : List Byte) : Run :=
  { x with outs := x.outs ++ [out], bytes := x.bytes ++ bytes }

/-- Stage 7: a poisoned lamp takes RPFILL (R180, R156). -/
def Run.fillPoison (x : Run) (detail : Nat) : Run :=
  let p := rPack x.job.rcfg
  let o := fillLamp x.job.rpfill (packWidth p)
  { x with job := x.job.poisoned detail }.emit o (packLamp p o)

/-- Stage 7: a stale lamp takes the stale pattern of the source region (R180, R182). -/
def Run.fillStale (x : Run) (pattern : Word) : Run :=
  let p := rPack x.job.rcfg
  let o := fillLamp pattern (packWidth p)
  { x with job := { x.job with stale := true }, stale := x.stale + 1 }.emit o (packLamp p o)

/-- The pixels of one lamp: the job, expanded codes with weights, the first poison DETAIL, and whether one was stale (R173, R181). -/
structure Pixels where
  job : Job
  q : List (Nat × List Nat)
  bad : Option Nat
  stale : Bool
deriving DecidableEq, Repr

/-- Take one fetched pixel at `addr`. A poisoned fetch has no age for AGEMAX, also where its block record is good (R185 does not say:
DESIGN CHOICE, log 96). -/
def Pixels.take (p : Pixels) (f : Feed) (sfmt weight addr : Nat) : Pixels :=
  let maxage := dMaxage f.job.bytes
  match f.pixel addr with
  | .bad d => { p with bad := some (p.bad.getD d) }
  | .good d age =>
    { p with
      job := p.job.aged maxage age, stale := p.stale || staleAge maxage age
      q := p.q ++ [(weight, expandPixel sfmt (slice d (addr % 64) (pixelSize sfmt)))] }

/-- S of the dither (R180). -/
def ditherOf (j : Job) : Option Word :=
  let sd := BitVec.ofNat 32 (dDseed j.bytes)
  if rDmode j.rcfg = 1 then some sd else if rDmode j.rcfg = 2 then some (sd ^^^ j.epoch) else none

/-- Address of record `n` of a job. -/
def recordAddr (j : Job) (n : Nat) : Nat := dFirst j.bytes + 32 * n

/-- Lamp `n` of a CORRECT (R180). -/
def correctLamp (f : Feed) (k : Group) (n : Nat) (x : Run) : Run :=
  let j := f.job
  let ra := recordAddr j n
  match f.mapLine ra with
  | .bad d => x.fillPoison d
  | .good d _ =>
    let r := lampRec (slice d (ra % 64) 32)
    let sf := rSfmt j.rcfg
    let px : Pixels := (r.taps j.rstride).foldl (fun (p : Pixels) t => p.take f sf t.2 (dSrc j.bytes + pixelSize sf * t.1))
      { job := x.job, q := [], bad := none, stale := false }
    let y := { x with job := px.job }
    match px.bad with
    | some b => y.fillPoison b
    | none =>
      if px.stale then y.fillStale f.stale
      else
        let o := lampOut (k.entry (rTset j.rcfg)) r px.q (packWidth (rPack j.rcfg)) (ditherOf j) n
        y.emit o (packLamp (rPack j.rcfg) o)

/-- The lines of lamp `n` of a MEASURE: its bytes may lie in two (R186). -/
def measureLines (j : Job) (n : Nat) : Nat × Nat :=
  let ls := lampSize (rPack j.rcfg)
  let a := dSrc j.bytes + n * ls
  (a / 64 * 64, (a + ls - 1) / 64 * 64)

/-- Lamp `n` of a MEASURE (R186). Of a lamp over two lines with one poisoned, the good line's age still counts (R185). -/
def measureLamp (f : Feed) (n : Nat) (x : Run) : Run :=
  let j := f.job
  let ls := lampSize (rPack j.rcfg)
  let ma := dMaxage j.bytes
  let a := measureLines j n
  match f.line a.1, f.line a.2 with
  | .bad d, .bad _ => x.fillPoison d
  | .bad d, .good _ g => { x with job := x.job.aged ma g }.fillPoison d
  | .good _ g, .bad d => { x with job := x.job.aged ma g }.fillPoison d
  | .good d1 g1, .good d2 g2 =>
    let y := { x with job := (x.job.aged ma g1).aged ma g2 }
    if staleAge ma g1 || staleAge ma g2 then y.fillStale f.stale
    else
      let bs := slice (if a.1 = a.2 then d1 else d1 ++ d2) ((dSrc j.bytes + n * ls) % 64) ls
      y.emit (unpackLamp (rPack j.rcfg) bs) bs

/-- The lamps of a chunk (R187). -/
def chunkLamps (j : Job) (chunk : Nat) : List Nat :=
  (List.range (min 64 (dNlamp j.bytes - 64 * chunk))).map (64 * chunk + ·)

/-- The number of the region that holds an address, 256 for none. -/
def regionNo (s : State) (addr : Nat) : Nat := match regionOf s addr with | some (n, _) => n | none => 256

/-- The reads of a joiner's chunk. -/
def chunkReads (s : State) (g u : Nat) : List Acc := readsOf s (.chunk g u)

/-- What a chunk has to work with now. -/
def feedOf (s : State) (g u : Nat) (errs : List RdErr) (j : Job) : Feed :=
  let rn := regionNo s (dSrc j.bytes)
  { job := j, held := match cacheOf s j with | some e => e.lines | none => []
    lines := (chunkReads s g u).map fun a => (a.addr / 64, unitLine s errs a 0)
    stale := (s.region rn).stale, here := inRegion s rn }

/-- Run a chunk's lamps. -/
def runChunk (f : Feed) (k : Group) (chunk : Nat) : Run :=
  (chunkLamps f.job chunk).foldl (fun x n => if f.job.dtype = 1 then correctLamp f k n x else measureLamp f n x)
    { job := f.job, outs := [], bytes := [], stale := 0 }

/-- Line addresses without repeats. -/
def lineSet (l : List Nat) : List Nat := (l.map fun a => a / 64 * 64).eraseDups

/-- The lines that a chunk needs first: its lamp records, but for those in the record cache, or what a MEASURE reads. -/
def firstLines (f : Feed) (chunk : Nat) : List Nat :=
  let ns := chunkLamps f.job chunk
  if f.job.dtype = 1 then (lineSet (ns.map (recordAddr f.job))).filter fun a => !(f.held.any fun e => e.1 == a / 64)
  else lineSet ((ns.map fun n => let a := measureLines f.job n; [a.1, a.2]).flatten)

/-- The source lines that the lamp records of a chunk name, within the source region (R173). -/
def pixelLines (f : Feed) (chunk : Nat) : List Nat :=
  let j := f.job
  if j.dtype ≠ 1 then []
  else lineSet (((chunkLamps j chunk).map fun n =>
    match f.mapLine (recordAddr j n) with
    | .bad _ => []
    | .good d _ => ((lampRec (slice d (recordAddr j n % 64) 32)).taps j.rstride).map fun t => dSrc j.bytes + pixelSize (rSfmt j.rcfg) * t.1).flatten)
      |>.filter f.here

/-- Ask for the lines of a list that a chunk has not asked for yet. -/
def askLines (g u : Nat) (j : Job) (l : List Nat) (s : State) : State :=
  forAll (l.filter fun a => !((chunkReads s g u).any fun b => b.addr == a)) (fun a t =>
    let rn := regionNo t a
    askRead (.chunk g u) j.cls rn a 1 0 (some (j.copyOf t rn, j.epoch)) t) s

/-- Are the reads of a chunk all over? -/
def chunkBack (s : State) (g u : Nat) : Bool := (chunkReads s g u).all (unitBack s)

/-- Is every line of a list among the reads of a chunk? -/
def chunkAsked (s : State) (g u : Nat) (l : List Nat) : Bool := l.all fun a => (chunkReads s g u).any fun b => b.addr == a

/-- The lamp-record lines of a chunk that its reads found good and no later write has passed: the cache holds them from now on (R189,
R190). -/
def newHeld (s : State) (g u : Nat) (f : Feed) (chunk : Nat) : List (Nat × List Byte) :=
  (firstLines f chunk).filterMap fun a =>
    match (chunkReads s g u).find? fun b => b.addr == a, f.line a with
    | some b, .good d _ => if b.lapped.isEmpty && f.job.dtype == 1 then some (a / 64, d) else none
    | _, _ => none

/-! ### The output of a chunk (R184) -/

/-- Note that part of a chunk's output has no region to go to (R156). -/
def outLost (j : Job) (s : State) : State := modJob j.queue j.idx.toNat (fun i => i.poisoned 0x03) s

/-- Send part of a chunk's output to its ordering point (R69): `off` is its place in the chunk. -/
def putPart (j : Job) (chunk base : Nat) (data : List Byte) (p : Nat × Nat) (s : State) : State :=
  let off := p.1 - base
  match regionOf s p.1 with
  | some (rn, r) =>
    if inShadow r p.1 then outLost j s
    else askWrite (.out j.queue j.idx.toNat chunk off) j.cls rn p.1 (pieces 64 (slice data off (64 * p.2))) [] none s
  | none => outLost j s

/-- The parts of a chunk's output into the frame store (DKIND 0), none across a 4 KiB block, as address and lines. -/
def storeParts (j : Job) (chunk nbytes : Nat) : List (Nat × Nat) :=
  blockParts 8 (dDst j.bytes + 64 * chunk * lampSize (rPack j.rcfg)) ((nbytes + 63) / 64)

/-- The XWR messages of a chunk's output (R134), as host address and bytes: none crosses a 4 KiB boundary. `fuel` bounds their number. -/
def xwrParts (fuel addr len : Nat) : List (Nat × Nat) :=
  match fuel with
  | 0 => []
  | k + 1 =>
    if len = 0 then []
    else
      let n := min len (4096 - addr % 4096)
      (addr, n) :: xwrParts k (addr + n) (len - n)

/-- Where a chunk's output begins. -/
def outBase (j : Job) (chunk : Nat) : Nat := dDst j.bytes + 64 * chunk * lampSize (rPack j.rcfg)

/-- Bytes of the output filled up to whole slots of 16. -/
def slotLen (n : Nat) : Nat := (n + 15) / 16 * 16

/-- The byte ranges of a chunk's output that are to be written or sent. -/
def outRanges (j : Job) (chunk nbytes : Nat) : List (Nat × Nat) :=
  if j.dtype = 5 then []
  else if dDkind j.bytes = 0 then (storeParts j chunk nbytes).map fun p => (p.1 - outBase j chunk, p.1 - outBase j chunk + 64 * p.2)
  else (xwrParts 4 (outBase j chunk) (slotLen nbytes)).map fun p => (p.1 - outBase j chunk, p.1 - outBase j chunk + p.2)

/-- Send a chunk's output on its way: to the frame store, filled up to whole lines with zeros, or to a port, filled up to whole slots
(R184). A port that is not ACTIVE ends the job (Table 5-5). -/
def putOutput (j : Job) (chunk : Nat) (bytes : List Byte) (s : State) : State :=
  let base := outBase j chunk
  if j.dtype = 5 then s
  else if dDkind j.bytes = 0 then
    forAll (storeParts j chunk bytes.length) (putPart j chunk base (padTo (64 * ((bytes.length + 63) / 64)) bytes)) s
  else if linkActive s (dDport j.bytes) then
    forAll (xwrParts 4 base (slotLen bytes.length)) (fun p =>
      sendMsg (dDport j.bytes) (.xwr j.queue j.idx.toNat chunk (p.1 - base) p.2) (xwrHdr j.queue (p.2 / 16 - 1) p.1 j.kp)
        (slice (padTo (slotLen bytes.length) bytes) (p.1 - base) p.2)) s
  else endJob j.queue j.idx.toNat 2 0x14 s

/-! ### Dealing chunks (R187) -/

/-- Is a joiner at work? -/
def unitBusy (k : Group) (u : Nat) : Bool := k.work.any fun w => w.unit == u || (w.pair && w.unit + 1 == u)

/-- Jobs of a group with a chunk not yet taken, in start order. -/
def chunkJobs (s : State) (g : Nat) (kp : Bool) : List Job :=
  s.jobs.filter fun j => j.group == g && lampType j.dtype && j.kp == kp && j.fin.isNone && !j.recorded &&
    decide (j.nextChunk < chunksOf j.bytes)

/-- May this joiner run the next chunk of the job: a cached chunk runs only on the joiner that holds it (R189)? -/
def mayRun (s : State) (u : Nat) (j : Job) : Bool :=
  match cacheOf s j with
  | none => true
  | some e => e.owners.isEmpty || e.owners.getD (j.nextChunk % e.owners.length) 0 == u

/-- The earliest started of some jobs. -/
def earliest (js : List Job) : Option Job :=
  js.foldl (fun b j => match b with | none => some j | some i => if j.order < i.order then some j else some i) none

/-- Ask for what a joiner's chunk needs: first its lamp records, then what they name. -/
def askChunk (g u : Nat) (errs : List RdErr) (j : Job) (chunk : Nat) (s : State) : State :=
  let f := feedOf s g u errs j
  let t := askLines g u j (firstLines f chunk) s
  if chunkBack t g u then askLines g u j (pixelLines (feedOf t g u errs j) chunk) t else t

/-- Hand a chunk to a joiner or a pair, which begins its fetches. -/
def giveChunk (g u : Nat) (pair : Bool) (j : Job) (s : State) : State :=
  askChunk g u [] j j.nextChunk (modJob j.queue j.idx.toNat (fun i => { i with nextChunk := i.nextChunk + 1 })
    (modGroup g (fun k => { k with work := k.work ++
      [{ queue := j.queue, idx := j.idx, chunk := j.nextChunk, unit := u, pair := pair, seq := s.nextId }] }) { s with nextId := s.nextId + 1 }))

/-- Is the pair under a self-test (R194, R417)? -/
def pairTested (k : Group) (pair : Nat) : Bool := k.tests.contains pair

/-- CHUNK_TAKE (R187): a free joiner takes the next chunk; while a king-post chunk waits it takes nothing until its partner is free.
Where another joiner holds the next chunk of the earliest job (R189), a free joiner takes the next chunk of a later job and never a
later chunk of that job, which R187 does not say (DESIGN CHOICE, log 97). -/
def takeChunk (g u : Nat) (s : State) : State :=
  let k := s.group g
  let busy (v : Nat) : Bool := unitBusy k v
  if inSafe s || k.state != .inService || !ckJoin s || k.fence.getLsbD (u / 2) || pairTested k (u / 2) || busy u then s
  else match earliest (chunkJobs s g true) with
    | some j => if busy (2 * (u / 2)) || busy (2 * (u / 2) + 1) then s else giveChunk g (2 * (u / 2)) true j s
    | none =>
      match earliest ((chunkJobs s g false).filter (mayRun s u)) with
      | some j => giveChunk g u false j s
      | none => s

/-- Sum and peak of a chunk's drive values, with its output to come (R185). -/
def chunkRes (j : Job) (chunk : Nat) (x : Run) : ChunkRes :=
  { bytes := x.bytes, lamps := x.outs.length, missing := outRanges j chunk x.bytes.length, stale := x.stale
    sums := (List.range 3).map fun i => x.outs.foldl (fun a o => a + o.getD i 0) 0
    peaks := (List.range 3).map fun i => x.outs.foldl (fun a o => max a (o.getD i 0)) 0 }

/-- Note a finished chunk in its job. -/
def noteChunk (chunk : Nat) (x : Run) : Job :=
  { x.job with
    results := tset x.job.results chunk (chunkRes x.job chunk x), done := x.job.done + x.outs.length, staleCnt := x.job.staleCnt + x.stale }

/-- Remove a piece of work with its fetches. -/
def dropWork (g : Nat) (w : Work) (s : State) : State :=
  dropFetches g (· == w.unit) (modGroup g (fun k => { k with work := k.work.filter (· != w) }) s)

/-- All that a chunk fetched is back: its reads are taken, its lamp records held, its lamps computed and sent on. -/
def finishChunk (g : Nat) (w : Work) (f : ChunkIn) (j : Job) (s : State) : State :=
  let fd := feedOf s g w.unit f.errs j
  let x := runChunk fd (s.group g) w.chunk
  let held := newHeld s g w.unit fd w.chunk
  match takeReads f.errs (chunkReads s g w.unit) s with
  | none => s
  | some t =>
    putOutput x.job w.chunk x.bytes
      (modJob w.queue w.idx.toNat (noteChunk w.chunk x).ending
        (dropWork g w (setCacheLines j (fun l => held.foldl (fun l e => tset l e.1 e.2) l) t)))

/-- Errors of the local stores of a chunk (R188): a corrected one is counted, an uncorrectable one in the record cache drops its line,
which is fetched again. -/
def storeErrors (g : Nat) (f : ChunkIn) (j : Job) (s : State) : State :=
  let hit := match cacheOf s j with | some e => f.cacheUnc.filter fun n => e.lines.any fun l => l.1 == n | none => []
  setCacheLines j (fun l => l.filter fun e => !hit.contains e.1)
    (fadd (Pg.jg g) F.JG_FCNT_LSUNC hit.length (modGroup g (fun k => { k with corrected := k.corrected + f.corrected }) s))

/-- CHUNK_COMPLETE (R187): a joiner or pair ends its chunk once its fetches are back, or goes on fetching. A fault of the joiners ends
the work of the group (R179, R188, R193). -/
def completeChunk (g u : Nat) (f : ChunkIn) (s : State) : State :=
  match (s.group g).work.find? fun w => w.unit == u || (w.pair && w.unit + 1 == u) with
  | none => s
  | some w =>
    match s.jobs.find? fun j => j.is w.queue w.idx.toNat with
    | none => dropWork g w s
    | some j =>
      let who := w.unit + b2n (w.pair && f.upper)
      if inSafe s || !ckJoin s then s
      else if w.pair && f.mismatch then groupFault g 4 E.JG_LSMISM 0xF (w.unit / 2) F.JG_FCNT_LSMISM s
      else if f.tpar.isSome || f.recipePar then
        groupFault g 6 E.JG_TPAR who (rTset j.rcfg) F.JG_FCNT_TPAR
          (modGroup g (fun k => { k with tvalid := k.tvalid &&& ~~~(BitVec.ofNat 8 (2 ^ rTset j.rcfg)) }) s)
      else if f.lsunc then groupFault g 5 E.JG_LSUNC who (w.unit / 2) F.JG_FCNT_LSUNC s
      else
        let t := askChunk g w.unit f.errs j w.chunk (storeErrors g f j s)
        if chunkBack t g w.unit then finishChunk g w f j t else t

/-! ### The move engine (R159) -/

/-- Lines of the next piece of a move: it crosses no 4 KiB block on either side. -/
def pieceLines (j : Job) : Nat :=
  let left := dLines j.bytes - j.nextChunk
  let d := 64 - (dDst j.bytes / 64 + j.nextChunk) % 64
  let n := min left d
  if j.dtype = 2 then min n (64 - (dSrc j.bytes / 64 + j.nextChunk) % 64) else n

/-- The data of a piece: lines, which are poisoned, how many are stale, the job as it fares. -/
structure Piece where
  job : Job
  data : List (List Byte)
  poison : List Bool
  stale : Nat
deriving DecidableEq, Repr

/-- One source line of a COPY: a stale block gives the source region's pattern, a poisoned line is carried on. -/
def Piece.take (p : Piece) (pattern : Word) (l : UnitLine) : Piece :=
  let ma := dMaxage p.job.bytes
  match l with
  | .good d age =>
    let j := p.job.aged ma age
    if staleAge ma age then
      { job := { j with stale := true }, data := p.data ++ [stalePattern pattern 1], poison := p.poison ++ [false], stale := p.stale + 1 }
    else { p with job := j, data := p.data ++ [d], poison := p.poison ++ [false] }
  | .bad d => { p with job := p.job.poisoned d, data := p.data ++ [padTo 64 []], poison := p.poison ++ [true] }

/-- The piece of a FILL. -/
def fillPiece (j : Job) (n : Nat) : Piece :=
  { job := j, data := List.replicate n (List.replicate 16 (dPattern j.bytes)).flatten, poison := List.replicate n false, stale := 0 }

/-- The piece of a COPY whose read is back. -/
def copyPiece (s : State) (errs : List RdErr) (j : Job) (a : Acc) : Piece :=
  (List.range a.lines).foldl (fun p i => p.take (s.region a.region).stale (unitLine s errs a i)) { job := j, data := [], poison := [], stale := 0 }

/-- Admit a piece whole, or wait for it. A piece that cannot be admitted is not written, and the descriptor goes on (R156). `read` takes
the read that gave it: the room of the write queues is judged with the lines which that read rewrites (R1, R66). -/
def putPiece (j : Job) (n : Nat) (p : Piece) (read : State → State) (s : State) : State :=
  let dst := dDst j.bytes + 64 * j.nextChunk
  let o : Job := { p.job with nextChunk := j.nextChunk + n, staleCnt := j.staleCnt + p.stale, waitOn := [] }
  let put (f : Job → Job) (t : State) : State := modJob j.queue j.idx.toNat (f o).ending t
  match unitPut (read s) dst n j.cls, regionOf s dst with
  | .wait, _ => modJob j.queue j.idx.toNat (fun i => { i with waitOn := putChans s dst }) s
  | .taken cp, some (rn, _) => put (fun o => { o with done := j.done + n }) (unitWrite rn cp dst p.data p.poison j.cls (read s))
  | .noCopy, _ => put (fun o => { o with lost := true }) (read s)
  | .failed, _ => put (fun o => o.poisoned 0x10) (read s)
  | _, _ => put (fun o => o.poisoned 0x03) (read s)

/-- MOVE_PIECE (R159): the next piece of a FILL is admitted; the source of the next piece of a COPY is asked for, and once it is back
the piece is admitted. -/
def movePiece (q idx : Nat) (errs : List RdErr) (s : State) : State :=
  match s.jobs.find? fun j => j.is q idx with
  | none => s
  | some j =>
    let n := pieceLines j
    let src := dSrc j.bytes + 64 * j.nextChunk
    let rn := regionNo s src
    if inSafe s || !(j.dtype == 2 || j.dtype == 3) || j.fin.isSome || j.recorded || n == 0 || (s.group j.group).state != .inService then s
    else if j.dtype = 3 then putPiece j n (fillPiece j n) id s
    else match readsOf s (.move q idx) with
      | [] => askRead (.move q idx) j.cls rn src n 0 (some (j.copyOf s rn, j.epoch)) s
      | a :: _ => if !unitBack s a || !unitFits s errs a then s else putPiece j n (copyPiece s errs j a) (takeRead errs a) s

/-! ### Groups and tables -/

/-- GROUP_RETURN (R193): the group is back in service, or out of service when all its pairs are fenced. A group whose pairs a bay
reset tests returns when those tests end (R333). -/
def returnGroup (g : Nat) (s : State) : State :=
  let k := s.group g
  if inSafe s || k.state != .returning || k.bayTest then s
  else if k.fence = 0xFF then jgEvt g E.JG_OUTSVC 0xF 0 (setGroup g { k with state := .out } s)
  else setGroup g { k with state := .inService } s

/-- The region that a table image may be loaded from (R177): the 24 KiB lie in one enabled region with COPIES 1 that a host port which
asks may read. DESIGN CHOICE: all this is taken as GO is written (log 77). -/
def imageRegion (s : State) (src : Src) (addr : Nat) : Option Nat :=
  match ringIn s addr 24576 with
  | none => none
  | some rn =>
    match src with
    | .host p => if memRight s p rn false then some rn else none
    | _ => some rn

/-- The twelve reads of a table load, of 32 lines each, at BULK class. -/
def askImage (g rn addr : Nat) (s : State) : State :=
  forAll (List.range 12) (fun i => askRead (.table g) .bulk rn (addr + 2048 * i) 32 0 none) s

/-- TLCMD.GO (R177): the load starts, or is refused while a load runs or the set is in use (R176). -/
def startLoad (g : Nat) (src : Src) (s : State) : State :=
  let k := s.group g
  let set := fget s (Pg.jg g) F.JG_TLCMD_TSET
  let addr := fget s (Pg.jg g) F.JG_TLSRC_BLOCK * 4096
  if k.tload.isSome || setInUse s g set then jgEvt g E.JG_CFGERR 0xF set s
  else
    let t := setGroup g { k with tload := some (set, addr, (imageRegion s src addr).isSome), tvalid := k.tvalid &&& ~~~(BitVec.ofNat 8 (2 ^ set)) } s
    match imageRegion s src addr with
    | some rn => askImage g rn addr t
    | none => t

/-- The bytes of a read, or nothing when a line is bad. -/
def wholeRead (s : State) (errs : List RdErr) (a : Acc) : Option (List Byte) :=
  (List.range a.lines).foldl (fun b i =>
    match b, unitLine s errs a i with
    | some bs, .good d _ => some (bs ++ d)
    | _, _ => none) (some [])

/-- The data of the 24 KiB table image, or nothing when a line is bad. -/
def loadImage (s : State) (errs : List RdErr) (as : List Acc) : Option (List Byte) :=
  as.foldl (fun b a =>
    match b, wholeRead s errs a with
    | some bs, some d => some (bs ++ d)
    | _, _ => none) (some [])

/-- Store a table image in a set. -/
def storeImage (set : Nat) (img : List Byte) (k : Group) : Group :=
  let new := (List.zipIdx (pieces 2 img)).filterMap fun p =>
    if leNat p.1 = 0 then none else some (tabKey set (p.2 / 4096) (p.2 % 4096), leNat p.1)
  { k with tables := (k.tables.filter fun e => e.1 / 16384 < set) ++ new ++ (k.tables.filter fun e => set < e.1 / 16384) }

/-- TABLE_LOAD_DONE (R177): the load ends once its lines are back. -/
def endLoad (g : Nat) (errs : List RdErr) (s : State) : State :=
  let as := readsOf s (.table g)
  match (s.group g).tload with
  | none => s
  | some (set, _, ok) =>
    if inSafe s || !as.all (unitBack s) then s
    else match takeReads errs as s with
      | none => s
      | some u =>
        let t := modGroup g (fun k => { k with tload := none }) u
        match if ok then loadImage s errs as else none with
        | some img =>
          jgEvt g E.JG_TLOAD_DONE 0xF set (modGroup g (fun k => { storeImage set img k with tvalid := k.tvalid ||| BitVec.ofNat 8 (2 ^ set) }) t)
        | none => jgEvt g E.JG_TLOAD_DONE 0xF set (jgEvt g E.JG_CFGERR 0xF set t)

/-- TLCMD.SETV (R176 to R178). -/
def markValid (g : Nat) (s : State) : State :=
  let k := s.group g
  let set := fget s (Pg.jg g) F.JG_TLCMD_TSET
  if k.tload.isSome || setInUse s g set then jgEvt g E.JG_CFGERR 0xF set s
  else setGroup g { k with tvalid := k.tvalid ||| BitVec.ofNat 8 (2 ^ set) } s

/-- Move the window on by one entry (R178). -/
def stepWindow (g : Nat) (s : State) : State :=
  fset (Pg.jg g) F.JG_TWSEL_INDEX (fget s (Pg.jg g) F.JG_TWSEL_INDEX + 1) s

/-- A write to TWDATA (R176, R178). -/
def writeWindow (g : Nat) (val : Word) (s : State) : State :=
  let set := fget s (Pg.jg g) F.JG_TWSEL_TSET
  if setInUse s g set then jgEvt g E.JG_CFGERR 0xF set s
  else
    stepWindow g (modGroup g (fun k =>
      { k.putEntry set (fget s (Pg.jg g) F.JG_TWSEL_PRIM) (fget s (Pg.jg g) F.JG_TWSEL_INDEX) val.toNat with
        tvalid := k.tvalid &&& ~~~(BitVec.ofNat 8 (2 ^ set)) }) s)

/-- The entry that TWDATA shows. -/
def windowEntry (s : State) (g : Nat) : Nat :=
  (s.group g).entry (fget s (Pg.jg g) F.JG_TWSEL_TSET) (fget s (Pg.jg g) F.JG_TWSEL_PRIM) (fget s (Pg.jg g) F.JG_TWSEL_INDEX)

/-- JCMD.UNFENCE (R194, R261). -/
def startUnfence (g pair : Nat) (s : State) : State :=
  let k := s.group g
  if !ckJoin s then jgEvt g E.JG_CFGERR 0xF pair s
  else if k.fence.getLsbD pair && !k.tests.contains pair then setGroup g { k with tests := k.tests ++ [pair] } s
  else s

/-- The end of the self-tests that a bay reset made of every pair (R333): the group returns, or is out of service. -/
def endBayTest (g : Nat) (s : State) : State :=
  let k := s.group g
  if k.bayTest && k.tests.isEmpty then returnGroup g (setGroup g { k with bayTest := false } s) else s

/-- UNFENCE_TEST_DONE (R194, R333): a pair's self-test ends. A pair that fails a bay reset's test is fenced. -/
def endPairTest (g pair : Nat) (pass : Bool) (s : State) : State :=
  let k := s.group g
  if !k.tests.contains pair then s
  else
    let t := setGroup g { k with tests := k.tests.filter (· != pair) } s
    let u := if pass then
        modGroup g (fun k => { k with fence := k.fence &&& ~~~(BitVec.ofNat 8 (2 ^ pair))
                                      state := if k.state == .out then .inService else k.state }) t
      else jgEvt g E.JG_UNFENCE_FAIL 0xF pair (if k.fence.getLsbD pair then t else fencePair g pair t)
    endBayTest g u

/-- JCMD.CINVAL (R190). -/
def dropUnused (g : Nat) (s : State) : State :=
  let used := s.jobs.filterMap fun j => if j.group = g then j.cacheKey else none
  modGroup g (fun k => { k with cache := k.cache.filter fun e => used.contains e.key }) s

/-- JCMD.CLRCNT (R196). -/
def clearGroupCounts (g : Nat) (s : State) : State :=
  fclear (Pg.jg g) [F.JG_JCNT_DONE, F.JG_JCNT_DISC, F.JG_FCNT_LSMISM, F.JG_FCNT_LSUNC, F.JG_FCNT_TPAR, F.JG_CCNT_HIT, F.JG_CCNT_MISS] s

/-! ### The commands -/

/-- CHUNK_TAKE (R187). -/
def execChunkTake (group : Fin 8) (unit : Fin 16) (s : State) : Host.Outcome State Fault Refusal := .next (takeChunk group unit s)

/-- CHUNK_COMPLETE (R187). -/
def execChunkComplete (group : Fin 8) (unit : Fin 16) (faults : ChunkIn) (s : State) : Host.Outcome State Fault Refusal :=
  .next (completeChunk group unit faults s)

/-- MOVE_PIECE (R159). -/
def execMovePiece (queue : Fin 256) (idx : BitVec 16) (errs : List RdErr) (s : State) : Host.Outcome State Fault Refusal :=
  .next (movePiece queue idx.toNat errs s)

/-- TABLE_LOAD (R177). -/
def execTableLoad (src : Src) (group : Fin 8) (s : State) : Host.Outcome State Fault Refusal :=
  .next (viaReg src (Pg.jg group) F.JG_TLCMD_GO.off (startLoad group src) s)

/-- TABLE_LOAD_DONE (R177). -/
def execTableLoadDone (group : Fin 8) (errs : List RdErr) (s : State) : Host.Outcome State Fault Refusal := .next (endLoad group errs s)

/-- SETV (R178). -/
def execSetv (src : Src) (group : Fin 8) (s : State) : Host.Outcome State Fault Refusal :=
  .next (viaReg src (Pg.jg group) F.JG_TLCMD_SETV.off (markValid group) s)

/-- TWDATA_WRITE (R178). -/
def execTwdataWrite (src : Src) (group : Fin 8) (val : Word) (s : State) : Host.Outcome State Fault Refusal :=
  .next (viaReg src (Pg.jg group) F.JG_TWDATA_ENTRY.off (writeWindow group val) s)

/-- UNFENCE (R194). -/
def execUnfence (src : Src) (group pair : Fin 8) (s : State) : Host.Outcome State Fault Refusal :=
  .next (viaReg src (Pg.jg group) F.JG_JCMD_UNFENCE.off (startUnfence group pair) s)

/-- CINVAL (R190). -/
def execCinval (src : Src) (group : Fin 8) (s : State) : Host.Outcome State Fault Refusal :=
  .next (viaReg src (Pg.jg group) F.JG_JCMD_CINVAL.off (dropUnused group) s)

/-- JG_CLRCNT (R196). -/
def execJgClrcnt (src : Src) (group : Fin 8) (s : State) : Host.Outcome State Fault Refusal :=
  .next (viaReg src (Pg.jg group) F.JG_JCMD_CLRCNT.off (clearGroupCounts group) s)

end Sys2Proof.Machine
end

