-- ==== Sys2Proof/Machine/LinkOps.lean ====
section
/-!
DEFINITION. What a port does as a whole: leaving ACTIVE and what becomes of its work (R101, R102, R143, R164), training attempts
(R89 to R97), retirement (R99 to R104), widening (R106), standby (R347).
-/

namespace Sys2Proof.Machine

/-! ### Standby -/

/-- STBY_ACK (R347): both ends complete their rounds and stop. -/
def standbyAck (l : Nat) (s : State) : State :=
  match (s.link l).standby with
  | .asked dark _ =>
    fbump (Pg.link l) F.HP_PSBY_ENTRIES (modLink l (fun k => { k with standby := .entered dark }) (completeRound l (modLink l (recvGroup false) s)))
  | _ => s

/-! ### The work of a port that is interrupted -/

/-- The DISCARDED completion of an open access of the port. -/
def accDiscard (l : Nat) (a : Acc) : Option MsgKind :=
  match a.src with
  | .hostNP p tag => if p = l then some (.cpl tag (cplHdr false tag (a.lines - 1) a.cls .discarded 0x14 (some a.region) none)) else none
  | _ => none

/-- The DISCARDED completion of an open commit of the port. -/
def commitDiscard (s : State) (l : Nat) (c : Commit) : Option MsgKind :=
  match c.src with
  | .host p tag => if p = l then some (.cpl tag (cplHdr false tag 0 (s.region c.region).cls .discarded 0x14 (some c.region) none)) else none
  | _ => none

/-- The DISCARDED completion in place of one that was sent or queued. -/
def msgDiscard : MsgKind → Option MsgKind
  | .cpl tag h => some (.cpl tag (discardHdr h))
  | .told tag h => some (.told tag h)
  | _ => none

/-- Is the access one of the port's? -/
def accOf (l : Nat) (a : Acc) : Bool := a.src.port == some l

/-- Is the commit the port's own? -/
def commitOf (l : Nat) (c : Commit) : Bool :=
  match c.src with
  | .host p _ => p == l
  | _ => false

/-- The port's accesses, commits and held doorbells end; a commit already accepted goes on without a completion (Table 2-7). -/
def dropRequests (l : Nat) (s : State) : State :=
  let t := forAll (s.accs.filter fun a => accOf l a && a.pinned) (fun a => pinCopy a.region a.copy false) s
  { t with
    accs := t.accs.filter fun a => !accOf l a
    commits := (t.commits.filter fun c => !(commitOf l c && !c.accepted)).map fun c => if commitOf l c then { c with src := .gone } else c
    bells := t.bells.filter fun b => b.port != l }

/-- What becomes of one message that was lost (R102, R305): an interrupt is pending again and merges with later triggers, the job of an
output write ends with DISCARDED, the granule of a handover block is marked again. A completion is dealt with by its tag. A lost
interrupt counts as one trigger in GATHER where none came since (log 70). -/
def loseMsg (m : MsgKind) (s : State) : State :=
  match m with
  | .cpl _ _ => s
  | .told _ _ => s
  | .irq v kp => modVec v (fun e => { e with
      pending := true, gather := max 1 e.gather, inflight := false, kp := e.kp || kp, again := true, waited := false }) s
  | .xwr q idx k off len => endJob q idx 2 0x14 (modJob q idx (fun j => j.unsent k off (off + len)) s)
  | .ring h => if hdrOpc h = 0x42 then markDirty (ext h.toNat 40 40) s else s

/-- Messages that the far end has not acknowledged: those of kept flits, and one sent in part. -/
def unackedMsgs (k : Link) : List MsgKind :=
  let ms := ((k.replay.map TxFlit.msgs).flatten).foldl (fun a m => if a.contains m then a else a ++ [m]) []
  match k.txPartKind with
  | some m => if ms.contains m then ms else ms ++ [m]
  | none => ms

/-- The KPW messages among lost ones, to be sent again in order (R302). -/
def kpwAgain (s : State) (ms : List MsgKind) : List Msg :=
  ms.filterMap fun m =>
    match m with
    | .ring h =>
      if hdrOpc h = 0x40 then
        (s.ring.kpwOut.find? fun k => k.seq == ext h.toNat 111 9).map fun k => ({ kind := .ring h, hdr := h, data := k.data, poison := k.poison } : Msg)
      else none
    | _ => none

/-- The link layer as after training (R118, R126): numbering, replay, credits. The device owes its full grant of Table 4-3. Before the
first TX flit a NULL flit carries FSEQ 4,095, the number before 0 (log 71). -/
def freshLayer (l : Nat) (k : Link) : Link :=
  { k with
    nextSeq := 0, lastSeq := 4095, expSeq := 0, replay := [], resend := [], replays := 0, lastNak := none, nakEpisode := false
    unacked := 0, ackSince := none, ackDue := false
    credHdr := [0, 0, 0], credDat := [0, 0, 0], grantHdr := [0, 0, 0], grantDat := [0, 0, 0]
    oweHdr := if l < 16 then [0, 128, 512] else [0, 128, 0]
    oweDat := if l < 16 then [0, 4096, 2048] else [0, 4096, 0]
    txPart := [], txPartKind := none, rxPart := [], rxNeed := 0, wordTx := 0, wordRx := 0, cwRx := 0 }

/-- Vectors whose message now waits for the port (R168). -/
def waitingVectors (l : Nat) (s : State) : State :=
  forAll ((s.vecs.filter fun e => e.2.pending && e.2.dport == l).map (·.1)) checkWait s

/-- An interrupt message (R167). -/
def MsgKind.isIrq : MsgKind → Bool
  | .irq _ _ => true
  | _ => false

/-- The first RETIRE_REQ of an exchange (R101, R102): the port's requests end and wait for their DISCARDED completions, what the far
end has not acknowledged is dealt with by its kind, and messages not yet sent wait for the new set; an interrupt in flight is pending
again, also one not sent yet (R168). -/
def interruptPort (l : Nat) (s : State) : State :=
  let k := s.link l
  let lost := unackedMsgs k ++ (k.txq.map Msg.kind).filter MsgKind.isIrq
  let out := s.accs.filterMap (accDiscard l) ++ s.commits.filterMap (commitDiscard s l) ++ lost.filterMap msgDiscard
  let t := forAll lost loseMsg (dropRequests l s)
  modLink l (fun j => { j with
    toDiscard := j.toDiscard ++ out
    txq := kpwAgain s lost ++ j.txq.filter fun m => !m.kind.isIrq
    replay := [], resend := [], txPart := [], txPartKind := none, rxPart := [], rxNeed := 0, widen := none, standby := .none }) t

/-- The port leaves ACTIVE (R143): its requests end; they complete with DISCARDED once it is back when `tell` is set, else they
are lost. Messages still waiting to be sent are lost as well. -/
def leaveActive (l : Nat) (tell : Bool) (s : State) : State :=
  let k := s.link l
  let lost := unackedMsgs k ++ k.txq.map Msg.kind
  let out := s.accs.filterMap (accDiscard l) ++ s.commits.filterMap (commitDiscard s l) ++ lost.filterMap msgDiscard
  let t := forAll lost loseMsg (dropRequests l s)
  modLink l (fun j => freshLayer l { j with
    toDiscard := if tell then j.toDiscard ++ out else []
    txq := [], active := 0, retired := 0, good := 0, retire := none, widen := none, standby := .none, words := [] }) t

/-- Note when the last of the ring ports named for handover goes down (R307). -/
def noteNamed (s : State) : State :=
  let ho := s.ring.ho
  let d := if namedLinks s = [] then (match ho.linkDown with | some t => some t | none => some s.now) else none
  { s with ring := { s.ring with ho := { ho with linkDown := d } } }

/-! ### Training attempts -/

/-- Tap steps of a preset (Table 18-6). -/
def presetTaps (n : Nat) : Nat × Nat :=
  match n % 8 with
  | 0 => (0, 0)
  | 1 => (0, 3)
  | 2 => (0, 6)
  | 3 => (0, 9)
  | 4 => (3, 0)
  | 5 => (3, 3)
  | 6 => (3, 6)
  | _ => (5, 5)

/-- Field of LyCTL, LyBERR and so on of lane `y`. -/
def laneFld (y : Nat) (f : Fld) : Fld := f.shift (0x20 * y)

/-- A lane at the start of an attempt: in training, with the preset of LyCTL.TXPRE, without precoding, with the precoding request that
LCFG.PCREQ holds (R85, R89). -/
def freshLane (s : State) (l y : Nat) : Lane :=
  let p := presetTaps (fget s (Pg.link l) (laneFld y F.HP_LyCTL_TXPRE))
  { inTrain := (linkLanes s l).testBit y, pre := p.1, post := p.2, fails := ((s.link l).lane y).fails, gen := ones31
    pcreq := (fget s (Pg.link l) F.HP_LCFG_PCREQ).testBit y }

/-- The rate of an attempt (R91, R92): a fixed rate, or under AUTO 50 Gb/s on the third attempt and on every second retry. -/
def attemptRate (s : State) (l : Nat) (k : Link) : Bool :=
  match fget s (Pg.link l) F.HP_LCFG_RATE with
  | 1 => true
  | 2 => false
  | _ => if k.inListen then !k.listenParity else k.attempt < 3

/-- Begin one training attempt in DETECT (R89): from here on every lane in training sends training blocks, and their sender sends the
first ones. -/
def beginAttempt (l : Nat) (s : State) : State :=
  forAll (bitsSet 8 (linkLanes s l)) (fun y => sendBlock l y false) (modLink l (fun k => { k with
    state := .detect, phaseSince := s.now, rate100 := attemptRate s l k, active := 0, good := 0
    lanes := (List.range 8).map fun y => (y, freshLane s l y) }) s)

/-- Train from DETECT with attempt 1 (R89, R91). -/
def beginTraining (l : Nat) (s : State) : State :=
  beginAttempt l (modLink l (fun k => { k with attempt := 1, inListen := false }) s)

/-- Enter LISTEN; requests that waited for the port are lost (R92, R143). -/
def enterListen (l : Nat) (s : State) : State :=
  modLink l (fun k => { k with state := .listen, toDiscard := [], lanes := k.lanes.map fun e => (e.1, { e.2 with inTrain := false }) }) s

/-- An attempt failed in the present phase: the next attempt, or LISTEN (R90 to R92). -/
def failAttempt (l : Nat) (s : State) : State :=
  let k := s.link l
  let t := modLink l (fun j => { j with failPh := k.state.code }) s
  if k.inListen then
    enterListen l (modLink l (fun j => { j with listenParity := !j.listenParity }) (fbump (Pg.link l) F.HP_LCNT_LRETRY t))
  else
    let u := lEvt l E.HP_TRAIN_FAIL 15 t
    if k.attempt < 3 then beginAttempt l (modLink l (fun j => { j with attempt := j.attempt + 1 }) u)
    else lEvt l E.HP_LISTEN 15 (enterListen l (modLink l (fun j => { j with inListen := true, listenParity := false, listenSince := s.now }) u))

/-- Vectors that wait for a port that has come up wait no more (R168). -/
def waitsOver (l : Nat) (s : State) : State :=
  { s with vecs := s.vecs.map fun e => if e.2.dport = l then (e.1, { e.2 with waited := false }) else e }

/-- The tag that a completion holds, unless it is free already. -/
def MsgKind.tag : MsgKind → Option Nat
  | .cpl tag _ => some tag
  | _ => none

/-- A completion whose tag has become free (R143). -/
def MsgKind.freed : MsgKind → MsgKind
  | .cpl tag h => .told tag h
  | m => m

/-- The header of a completion. -/
def MsgKind.hdr : MsgKind → BitVec 128
  | .cpl _ h => h
  | .told _ h => h
  | _ => 0

/-- Send the DISCARDED completions that waited for the port (R101, R143). -/
def sendDiscards (l : Nat) (s : State) : State :=
  let out := (s.link l).toDiscard
  forAll out (fun m t => sendMsg l m m.hdr [] (countSent l .discarded t)) (modLink l (fun k => { k with toDiscard := [] }) s)

/-- CONFIG has passed: the port enters ACTIVE on a set of lanes (R97, R118, R126, R143). A lane outside the set that passed training at
both ends, in `far` too, is a spare. -/
def goActive (l set far : Nat) (s : State) : State :=
  let all := linkLanes s l
  let k := s.link l
  let t := setLink l (freshLayer l { k with
    state := .active, active := BitVec.ofNat 8 set, retired := BitVec.ofNat 8 (all - set), failed := 0, good := 0, inListen := false
    gseqTx := 0, gseqRx := 0, tags := [], toDiscard := k.toDiscard.map MsgKind.freed, retryAt := s.now, lastBusy := s.now, words := []
    lanes := k.lanes.map fun e => (e.1, { e.2 with
      inTrain := false, trained := e.2.inTrain && e.2.passed && far.testBit e.1 && !set.testBit e.1, retry := .none, fails := 0, lastTx := 0 }) }) s
  let u := noteNamed (upEvt l (sendGroup l 0 set (waitsOver l t)))
  onlyIf (decide (16 ≤ l)) (modRlink (l - 16) fun r => { r with fresh := 4, rts := [], pathStep := false, echo := none })
    (sendDiscards l u)

/-- The present phase is over on every lane still in training: the next one begins (R89). CONFIG ends by `tryConfig`. -/
def nextPhase (l : Nat) (s : State) : State :=
  let k := s.link l
  let nx : PState := match k.state with
    | .detect => .lock
    | .lock => .align
    | .align => .equalize
    | .equalize => .deskew
    | .deskew => .config
    | p => p
  if nx = k.state then s
  else setLink l { k with
    state := nx, phaseSince := s.now
    lanes := k.lanes.map fun e => (e.1, { e.2 with passed := false, matched := 0, slips := if nx = .align then 0 else e.2.slips, sinceSlip := 0,
                                                   ready := 0, shown := 0, confSent := 0, confDone := 0, settled := false, farSeq := none }) } s

/-- Has every lane still in training passed the phase? -/
def phasePassed (k : Link) : Bool := trainMask k != 0 && k.lanes.all fun e => !e.2.inTrain || e.2.passed

/-- Leave the phase when it has been passed (R89). -/
def checkPhase (l : Nat) (s : State) : State :=
  let k := s.link l
  if k.state.training && k.state != .config && phasePassed k then nextPhase l s else s

/-- In CONFIG: the set is chosen from the lanes of both masks; the attempt fails when it is narrower than MINW; once every lane of
the set has passed, the port enters ACTIVE (R97). -/
def tryConfig (l farMask : Nat) (s : State) : State :=
  let k := s.link l
  let set := widest ((trainMask k).land farMask)
  if widthOf set < minWidth s l then failAttempt l s
  else if (bitsSet 8 set).all fun y => (k.lane y).passed then goActive l set farMask s
  else s

/-- Leave ACTIVE or RETIRE and train again; open requests complete with DISCARDED once the port is back (R103, R122, R143). -/
def dropToTraining (l : Nat) (s : State) : State :=
  let t := fbump (Pg.link l) F.HP_LCNT_RETRAINS (downEvt l s)
  noteNamed (waitingVectors l (beginTraining l (leaveActive l true t)))

/-- The port is OFF; its requests are lost (R143). LTRAIN goes on to show the last attempt (Table 3-8). -/
def portOff (l : Nat) (s : State) : State :=
  let t := leaveActive l false s
  noteNamed (waitingVectors l (modLink l (fun k => { k with
    state := .off, failed := 0, inListen := false, rate100 := false, lanes := [] }) t))

/-! ### Retirement -/

/-- Lanes of the active set that the device receives well: locked, and no word of a marker group missing or out of place (R98, R99). -/
def goodLanes (k : Link) : Nat := ((bitsSet 8 k.active.toNat).filter fun y => (k.lane y).lock && !(k.lane y).misplaced).foldl (fun a y => a + 2 ^ y) 0

/-- Take a new active set out of the ACK mask at the end of an exchange (R99, R100): framing, numbering and credits start again, the
DISCARDED completions leave. A lane of the mask that the width leaves out is a spare lane that has trained (R106). -/
def finishRetire (l mask : Nat) (s : State) : State :=
  let k := s.link l
  let set := widest mask
  let gone := k.active.toNat - set
  let t := setLink l (freshLayer l { k with
    state := .active, active := BitVec.ofNat 8 set, retired := k.retired ||| BitVec.ofNat 8 gone, retire := none
    gseqTx := 0, gseqRx := 0, retryAt := s.now, lastBusy := s.now
    tags := [], toDiscard := k.toDiscard.map MsgKind.freed, txq := k.txq.map fun m => { m with kind := m.kind.freed }
    lanes := k.lanes.map fun e => (e.1, if gone.testBit e.1 then
      { e.2 with trained := mask.testBit e.1 && e.2.lock, misplaced := false, retry := .none, fails := 0 } else e.2) }) s
  let u := sendGroup l 0 set (waitsOver l t)
  let v := onlyIf (gone != 0) (fun x => lEvt l E.HP_RETIRE (if widthOf gone = 1 then physLane gone 0 else 15) (fbump (Pg.link l) F.HP_LCNT_RETIRES x)) u
  onlyIf (decide (16 ≤ l)) (modRlink (l - 16) fun r => { r with fresh := 4, rts := [] }) (noteNamed (sendDiscards l v))

/-- Begin or restart a retirement exchange with the lanes of a mask (R99, R104); a mask that allows no set of MINW lanes retrains
the port at once (R103). -/
def beginRetire (l mask : Nat) (s : State) : State :=
  if widthOf (widest mask) < minWidth s l then dropToTraining l s
  else
    let t := if (s.link l).state = .active then interruptPort l s else s
    sendGroup l 1 mask (waitingVectors l (noteNamed (modLink l (fun k => { k with
      state := .retire, retire := some { mask := BitVec.ofNat 8 mask, since := s.now, lastReq := s.now, mine := true } }) t)))

/-- A lane fault on the active set stops every retry in progress; it counts as neither failed nor passed (R107), and `trained` stays as
it was (log 98). -/
def stopRetries (k : Link) : Link := { k with lanes := k.lanes.map fun e => (e.1, { e.2 with retry := .none }) }

/-- Lanes of the active set are faulty (R98), those of `mask` by a marker group: a retry in progress stops, and the port retires them. -/
def lanesFaulty (l mask : Nat) (s : State) : State :=
  let k := stopRetries (s.link l)
  let j := { k with lanes := k.lanes.map fun e => (e.1, { e.2 with misplaced := e.2.misplaced || mask.testBit e.1 }) }
  beginRetire l (goodLanes j) (setLink l j s)

/-- An exchange whose mask keeps every lane of the active set (R404); a port in standby sends, and so wakes, for it. -/
def restartLink (l : Nat) (s : State) : State :=
  if inService s l then beginRetire l (s.link l).active.toNat (wakePort l s) else s

/-- A fault in the buffers of a port, or in the registers of one with the links `ls` (R399, R404): the port is restarted by an exchange
that keeps every lane. In ENTERING or SAFE it is only logged (Table 15-5). -/
def portFault (l : Nat) (ls : List Nat) (mech : Nat) (s : State) : State :=
  if inSafe s then logEvent mech 1 (if l < 16 then l else 16 + l % 2) 1 (Pg.link l) 0 s
  else forAll ls restartLink (portFaultReport l mech 0 s)

/-! ### Widening -/

/-- The widest set that the active and the good lanes allow. -/
def widerSet (k : Link) : Nat := widest (k.active.toNat.lor k.good.toNat)

/-- Ask for a wider set when one is possible (R106, LCFG.AUTOWIDEN). A port in standby, or asked into it, sends no request (R347). -/
def tryWiden (l : Nat) (s : State) : State :=
  let k := s.link l
  if linkActive s l ∧ k.standby = .none ∧ fget s (Pg.link l) F.HP_LCFG_AUTOWIDEN = 1 ∧ coreRuns s ∧ widthOf k.active.toNat < widthOf (widerSet k) then
    modLink l (fun j => { j with widen := some (BitVec.ofNat 8 (widerSet k), s.now) }) (sendGroup l 3 (widerSet k) s)
  else s

/-- Go over to the wider set with a marker group; nothing is discarded (R106). A lane that joins precodes as its last CONFIG agreed (log
72). -/
def finishWiden (l set : Nat) (s : State) : State :=
  let t := completeRound l s
  let k := t.link l
  let new := set - k.active.toNat.land set
  let u := setLink l { k with
    active := BitVec.ofNat 8 set, retired := k.retired &&& ~~~(BitVec.ofNat 8 set), good := k.good &&& ~~~(BitVec.ofNat 8 set)
    widen := none, gseqTx := 0, gseqRx := 0, wordTx := 0, wordRx := 0, cwRx := 0
    lanes := k.lanes.map fun e => (e.1, if new.testBit e.1 then { e.2 with lock := true, misplaced := false, trained := false, retry := .none } else e.2) } t
  let v := lEvt l E.HP_WIDEN (if widthOf new = 1 then physLane new 0 else 15)
    (fbump (Pg.link l) F.HP_LCNT_WIDENS (sendGroup l 0 set u))
  onlyIf (decide (16 ≤ l)) (modRlink (l - 16) fun r => { r with fresh := 4, rts := [] }) v

end Sys2Proof.Machine
end

