-- ==== Sys2Proof/Machine/LinkTx.lean ====
section
/-!
DEFINITION. The transmitter of a port: flits, credits, acknowledgements and replay (R115 to R126).
-/

namespace Sys2Proof.Machine

/-! ### Messages into slots -/

/-- Data slots of a queued message. -/
def Msg.slots (m : Msg) : Nat := m.data.length / 16

/-- Does the message take credits: is it of class P (R125)? -/
def MsgKind.isP : MsgKind → Bool
  | .cpl _ _ => false
  | .told _ _ => false
  | _ => true

/-- Does a vector carry page events (Table 5-6)? In SAFE only these are sent (R168). -/
def pageEventVector (v : Nat) : Bool := decide (272 ≤ v) && decide (v < 397)

/-- Nothing of a job's output, no mirror write and no interrupt but those of page events leaves in ENTERING or SAFE (R168, Table
15-4). -/
def MsgKind.heldInSafe : MsgKind → Bool
  | .xwr _ _ _ _ _ => true
  | .irq v _ => !pageEventVector v
  | .ring h => hdrOpc h == 0x40
  | _ => false

/-- May the message begin now: credits for all of it (R125)? -/
def msgReady (s : State) (k : Link) (m : Msg) : Bool :=
  !(inSafe s && m.kind.heldInSafe) && (!m.kind.isP || (decide (1 ≤ k.credHdr.getD 1 0) && decide (m.slots ≤ k.credDat.getD 1 0)))

/-- The traffic class of a message (Table 4-4), the order of egress arbitration (R15). -/
def Msg.tc (m : Msg) : Nat := ext m.hdr.toNat 103 2

/-- Index of the message to begin next: the first of the highest class among those that may begin (R15). -/
def nextMsg (s : State) (k : Link) : Option Nat :=
  (List.range k.txq.length).foldl (fun best i =>
    match k.txq[i]? with
    | none => best
    | some m =>
      if !msgReady s k m then best
      else match best with
        | none => some i
        | some b => if (k.txq.getD b { kind := .irq 0 false, hdr := 0 }).tc < m.tc then some i else best) none

/-- The data of a message as its header leaves: the data slot of an interrupt takes the device time (R133, R169). -/
def Msg.leaving (m : Msg) (s : State) : List Byte :=
  match m.kind with
  | .irq _ _ => if m.data.isEmpty then [] else leBytes 8 s.time.dev.toNat ++ List.replicate 8 0
  | _ => m.data

/-- Take message `i` off the queue: its credits are used and the tag of a completion is free again. -/
def beginMsg (s : State) (k : Link) (i : Nat) (m : Msg) : Link :=
  let j := { k with txq := k.txq.eraseIdx i, txPart := leBytes 16 m.hdr.toNat ++ m.leaving s, txPartKind := some m.kind }
  match m.kind with
  | .cpl tag _ => { j with tags := j.tags.filter (· != tag) }
  | .told _ _ => j
  | _ => { j with
      credHdr := lset 0 j.credHdr 1 (j.credHdr.getD 1 0 - 1), credDat := lset 0 j.credDat 1 (j.credDat.getD 1 0 - m.slots) }

/-- What has been put into the payload of a flit: link, bytes, slot of the first header, messages concerned, those whose header is in
it. -/
structure Payload where
  link : Link
  bytes : List Byte
  first : Option Nat
  msgs : List MsgKind
  begun : List MsgKind

/-- Fill the slots of a payload with messages, without gaps (R124). -/
def fillPayload (s : State) : Nat → Payload → Payload
  | 0, p => p
  | n + 1, p =>
    if 240 ≤ p.bytes.length then p
    else
      match p.link.txPartKind with
      | some m =>
        let room := 240 - p.bytes.length
        let rest := p.link.txPart.drop room
        fillPayload s n { p with
          bytes := p.bytes ++ p.link.txPart.take room
          msgs := p.msgs ++ [m]
          link := { p.link with txPart := rest, txPartKind := if rest.isEmpty then none else some m } }
      | none =>
        match nextMsg s p.link with
        | none => p
        | some i =>
          match p.link.txq[i]? with
          | none => p
          | some m => fillPayload s n { p with
              link := beginMsg s p.link i m, first := some (p.first.getD (p.bytes.length / 16)), begun := p.begun ++ [m.kind] }

/-! ### Flits -/

/-- The header of a flit (Table 4-1). -/
def flitHdr (ftype seq ackseq ackkind crcls crhdr crdat first : Nat) : Nat :=
  pack [(60, ftype), (48, seq), (36, ackseq), (34, ackkind), (32, crcls), (24, crhdr), (12, crdat), (8, first), (4, 1)]

/-- The 272 bytes of a codeword (R113, R115). -/
def codeword (hdr : Nat) (payload : List Byte) : List Byte :=
  let body := leBytes 8 hdr ++ padTo 240 payload
  let flit := body ++ leBytes 8 (crc64 body)
  flit ++ fecCheck flit

/-- The 17 words of a codeword (R86). -/
def codewordWords (cw : List Byte) : List (BitVec 128) := (pieces 16 cw).map fun p => BitVec.ofNat 128 (leNat p)

/-- ACKSEQ: the last flit received in order (Table 4-1). -/
def ackSeq (k : Link) : Nat := (k.expSeq + 4095) % 4096

/-- ACKKIND of the next flit (R119, R120). -/
def ackKind (k : Link) : Nat := if k.nakEpisode then 2 else if k.ackDue || decide (64 ≤ k.unacked) then 1 else 0

/-- The acknowledgement has gone out. -/
def acked (k : Link) : Link := if ackKind k = 0 then k else { k with unacked := 0, ackSince := none, ackDue := false }

/-- The header and data credits of a class that the port can return now: those of buffers that are empty again (R126, R137). -/
def owed (s : State) (l : Nat) (k : Link) (c : Nat) : Nat × Nat :=
  let b := buffered s l c
  (k.oweHdr.getD c 0 - b.1, k.oweDat.getD c 0 - b.2)

/-- The class whose credits the next TX flit returns: P and NP take turns (R126). -/
def creditClass (s : State) (l : Nat) (k : Link) : Nat :=
  let owes (c : Nat) : Bool := (owed s l k c).1 != 0 || (owed s l k c).2 != 0
  if owes 1 && (k.nextSeq % 2 == 0 || !owes 2) then 1 else if owes 2 then 2 else 0

/-- Put the words of a codeword on the lanes. -/
def sendCodeword (l hdr : Nat) (payload : List Byte) (s : State) : State :=
  modLink l (fun k => { k with cwTx := k.cwTx + 1 })
    (putWords l true (codewordWords (codeword hdr payload)) (modLink l (fun k => { k with words := [], groupOut := none }) s))

/-- Send a TX flit again with its number, messages and credits (R121). -/
def resendFlit (l : Nat) (f : TxFlit) (s : State) : State :=
  let k := s.link l
  let h := flitHdr 1 f.seq (ackSeq k) (ackKind k) f.crcls f.crhdr f.crdat f.first
  sendCodeword l h f.payload (setLink l { (acked k) with
    resend := k.resend.drop 1
    replay := k.replay.map fun g => if g.seq = f.seq then { g with sentAt := s.now } else g } s)

/-- Send a NULL flit (R117). -/
def sendNull (l : Nat) (s : State) : State :=
  let k := s.link l
  sendCodeword l (flitHdr 2 k.lastSeq (ackSeq k) (ackKind k) 0 0 0 15) [] (setLink l (acked k) s)

/-- The header of a message has left its port: the device time is latched for an interrupt, whose GAP counts from here (R167, R169), and
an output write has left (R156). -/
def departed (m : MsgKind) (s : State) : State :=
  match m with
  | .irq v _ => modVec v (fun e => { e with latched := s.time.dev, lastSent := some s.now }) s
  | .xwr q idx k off len => modJob q idx (fun j => j.wrote k off (off + len)) s
  | _ => s

/-- Send a new TX flit with what has been put into its payload. -/
def sendTx (l : Nat) (p : Payload) (s : State) : State :=
  let k := p.link
  let c := creditClass s l k
  let ch := if c = 0 then 0 else min 255 (owed s l k c).1
  let cd := if c = 0 then 0 else min 4095 (owed s l k c).2
  let f : TxFlit := { seq := k.nextSeq, crcls := c, crhdr := ch, crdat := cd, first := p.first.getD 15, payload := padTo 240 p.bytes
                      sentAt := s.now, msgs := p.msgs }
  let h := flitHdr 1 f.seq (ackSeq k) (ackKind k) c ch cd f.first
  sendCodeword l h f.payload (setLink l { (acked k) with
    nextSeq := (k.nextSeq + 1) % 4096, lastSeq := k.nextSeq, replay := k.replay ++ [f]
    oweHdr := lset 0 k.oweHdr c (k.oweHdr.getD c 0 - ch), oweDat := lset 0 k.oweDat c (k.oweDat.getD c 0 - cd)
    grantHdr := lset 0 k.grantHdr c (k.grantHdr.getD c 0 + ch), grantDat := lset 0 k.grantDat c (k.grantDat.getD c 0 + cd) }
    (forAll p.begun departed s))

/-- The flit of this codeword time (R117, R121): a replay, else messages or credits, else NULL. -/
def sendFlit (l : Nat) (s : State) : State :=
  let k := s.link l
  match k.resend with
  | n :: _ =>
    match k.replay.find? fun f => f.seq == n with
    | some f => resendFlit l f s
    | none => sendNull l (setLink l { k with resend := k.resend.drop 1 } s)
  | [] =>
    if 1024 ≤ k.replay.length then sendNull l s
    else
      let p := fillPayload s 48 { link := k, bytes := [], first := none, msgs := [], begun := [] }
      if p.bytes.isEmpty && creditClass s l k == 0 then sendNull l s else sendTx l p s

/-- Is a marker group due after 16,384 codewords (R88)? -/
def markerDue (k : Link) : Bool := decide (16384 ≤ k.cwTx)

/-- FLIT_SEND (R117): one codeword of an ACTIVE port. A marker group that is due goes first; a port in standby that has a message
begins to wake instead (R348). -/
def flitSend (l : Nat) (s : State) : State :=
  let k := s.link l
  if !linkActive s l then s
  else match k.standby with
    | .entered _ => if k.txq.isEmpty && k.txPartKind.isNone then s else wakePort l (wakeDevice 2 l s)
    | .waking _ _ => s
    | _ => sendFlit l (if markerDue k then sendGroup l 0 k.active.toNat s else s)

/-! ### Acknowledgement and replay -/

/-- The last flit that the far end has acknowledged. -/
def ackedSeq (k : Link) : Nat := (k.nextSeq + 8191 - k.replay.length) % 4096

/-- Is ACKSEQ in range: the last acknowledged flit, or one held unacknowledged (R123)? -/
def ackInRange (k : Link) (n : Nat) : Bool := n == ackedSeq k || k.replay.any fun f => f.seq == n

/-- Is this a READY of a handover (Table 10-3)? -/
def isReadyMsg (m : MsgKind) : Bool :=
  match m with | .ring h => ext h.toNat 120 8 == 0x44 && ext h.toNat 88 8 == 4 | _ => false

/-- The partner's link has acknowledged the READY of this device: it arrived by now (R306). -/
def readyAcked (s : State) : State := { s with ring := { s.ring with ho := { s.ring.ho with acked := some s.time.dev } } }

/-- Free the flits up to an acknowledged one (R120, R121). An interrupt whose flits are all acknowledged is no longer in flight
(R167). -/
def freeUpTo (l n : Nat) (s : State) : State :=
  let k := s.link l
  if !(k.replay.any fun f => f.seq == n) then s
  else
    let i := k.replay.findIdx fun f => f.seq == n
    let rest := k.replay.drop (i + 1)
    let left := (rest.map TxFlit.msgs).flatten
    let doneMsgs := ((k.replay.take (i + 1)).map TxFlit.msgs).flatten.filter fun m => !left.contains m && k.txPartKind != some m
    let t := setLink l { k with replay := rest, replays := 0, resend := k.resend.filter fun q => rest.any fun f => f.seq == q } s
    onlyIf (doneMsgs.any isReadyMsg) readyAcked
      (forAll doneMsgs (fun m u => match m with | .irq v _ => modVec v (fun e => { e with inflight := false }) u | _ => u) t)

/-- Replay every unacknowledged flit, whose wait for RPLTO starts again, or give up after RPLMAX replays without progress (R121, R122). -/
def replayAll (l : Nat) (s : State) : State :=
  let k := s.link l
  if fget s (Pg.link l) F.HP_XCFG_RPLMAX ≤ k.replays then dropToTraining l (hpEvt l E.HP_REPLAY_FAIL 0 0 0 s)
  else
    hpEvt l E.HP_REPLAY 0 0 0 (fbump (Pg.link l) F.HP_XCNT1_REPLAYS
      (setLink l { k with
        replays := k.replays + 1, resend := k.replay.map TxFlit.seq
        replay := k.replay.map fun f => { f with sentAt := s.now } } s))

/-- A NAK with ACKSEQ `n` (R121); a further one with the same number is ignored until RPLTO has passed. -/
def recvNak (l n : Nat) (s : State) : State :=
  let t := freeUpTo l n s
  let k := t.link l
  let same := match k.lastNak with | some (m, at1) => m == n && decide (s.now < at1 + us (fget s (Pg.link l) F.HP_XCFG_RPLTO)) | none => false
  if same || k.replay.isEmpty then t else replayAll l (setLink l { k with lastNak := some (n, s.now) } t)

/-- ACK_TIMER (R120): ACKDLY after the oldest accepted flit that is not acknowledged. -/
def ackTimer (l : Nat) (s : State) : State :=
  match (s.link l).ackSince with
  | none => s
  | some t => modLink l (fun k => { k with ackDue := true }) (waitUntil (t + ns (10 * fget s (Pg.link l) F.HP_XCFG_ACKDLY)) s)

/-- REPLAY_TIMEOUT (R121). -/
def replayTimeout (l : Nat) (s : State) : State :=
  match (s.link l).replay with
  | [] => s
  | f :: _ =>
    if (s.link l).state = .active then replayAll l (waitUntil (f.sentAt + us (fget s (Pg.link l) F.HP_XCFG_RPLTO)) s) else s

/-- XCMD.CLRCNT clears the counters at offsets 0x08C to 0x0A0 (R145). -/
def clearXcnt (l : Nat) (s : State) : State :=
  fclear (Pg.link l) [F.HP_XCNT1_REPLAYS, F.HP_XCNT1_NAKSENT, F.HP_XFECU_COUNT, F.HP_XCRCE_COUNT, F.HP_XSTS1_DENIED, F.HP_XSTS1_UNSUP,
    F.HP_XSTS2_DISC, F.HP_XSTS2_BUSY, F.HP_XPDROP_POST, F.HP_XPDROP_DBELL] s

/-! ### The commands -/

/-- ACK_TIMER (R120). -/
def execAckTimer (link : Fin 20) (s : State) : Host.Outcome State Fault Refusal := .next (ackTimer link s)

/-- REPLAY_TIMEOUT (R121). -/
def execReplayTimeout (link : Fin 20) (s : State) : Host.Outcome State Fault Refusal := .next (replayTimeout link s)

/-- XCMD_CLRCNT (R145). -/
def execXcmdClrcnt (src : Src) (link : Fin 20) (s : State) : Host.Outcome State Fault Refusal :=
  .next (viaReg src (Pg.link link) F.HP_XCMD_CLRCNT.off (clearXcnt link) s)

/-- MARKER_GROUP_DUE (R88). A port in standby sends none (R347). -/
def execMarkerGroupDue (link : Fin 20) (s : State) : Host.Outcome State Fault Refusal :=
  let k := s.link link
  .next (if linkActive s link && !asleep k && markerDue k then sendGroup link 0 k.active.toNat s else s)

end Sys2Proof.Machine
end

