-- ==== Sys2Proof/Machine/Links.lean ====
section
/-!
DEFINITION. The lanes of a port as commands: training (R89 to R97), lane faults, retirement and widening (R98 to R108), PRBS tests
(R109, R110), enabling and disabling a port.
-/

namespace Sys2Proof.Machine

/-! ### Enabling and disabling -/

/-- Is the SerDes reference on (R261)? -/
def serdesOn (s : State) : Bool := fget s Pg.clk (F.CLK_OUTk_EN.shift 16) == 1

/-- A refused lane or test write of a page (R110, R261, R321). -/
def linkCfgErr (l lane : Nat) (s : State) : State := lEvt l E.HP_CFG_ERR lane s

/-- Clear TXPAT and RXCHK of every lane of a page (R110). -/
def clearTests (l : Nat) (s : State) : State :=
  forAll (List.range 8) (fun y t => fclear (Pg.link l) [laneFld y F.HP_LyCTL_TXPAT, laneFld y F.HP_LyCTL_RXCHK] t) s

/-- LCFG.ENABLE written 1 (R89, R110, R261, R321). -/
def enablePort (bySrc : Src) (l : Nat) (s : State) : State :=
  if fget s (Pg.link l) F.HP_LCFG_ENABLE = 1 then s
  else if !s.boot.isSealed || !serdesOn s then linkCfgErr l 15 s
  else
    let t := forAll (pageLinks s l) (fun i u => beginTraining i (modLink i (fun k => { failPh := k.failPh }) u))
      (clearTests l (fset (Pg.link l) F.HP_LCFG_ENABLE 1 s))
    if bySrc = .core then { t with boot := { t.boot with enabledPorts := t.boot.enabledPorts ++ pageLinks s l } } else t

/-- LCFG.ENABLE written 0 (R104, R143): the port is OFF at once. -/
def disablePort (l : Nat) (s : State) : State :=
  if fget s (Pg.link l) F.HP_LCFG_ENABLE = 0 then s
  else forAll (pageLinks s l) portOff (fset (Pg.link l) F.HP_LCFG_ENABLE 0 s)

/-- LCMD.RETRAIN for one link (R104, R143). -/
def retrainLink (l : Nat) (s : State) : State :=
  let k := s.link l
  if k.state = .off ∨ k.state = .test then s
  else if inService s l then dropToTraining l s
  else beginTraining l s

/-- LCMD.CLRCNT (R111). -/
def clearLaneCounts (l : Nat) (s : State) : State :=
  forAll (List.range 8) (fun y t => fclear (Pg.link l) ([F.HP_LyBERR_COUNT, F.HP_LySERR_COUNT, F.HP_LyFECC_COUNT, F.HP_LyLOSS_LOL,
      F.HP_LyLOSS_RELOCK].map (laneFld y)) t)
    (fclear (Pg.link l) [F.HP_LCNT_RETIRES, F.HP_LCNT_WIDENS, F.HP_LCNT_RETRAINS, F.HP_LCNT_LRETRY] s)

/-! ### Training -/

/-- The listening lane: the lowest-numbered lane that is not FAILED (R92). -/
def listeningLane (s : State) (l : Nat) : Option Nat :=
  (bitsSet 8 (linkLanes s l)).find? fun y => !(s.link l).failed.getLsbD y

/-- Begin an attempt from LISTEN; its period starts again (R92). -/
def listenAttempt (l : Nat) (s : State) : State := beginAttempt l (modLink l (fun k => { k with listenSince := s.now }) s)

/-- May the lanes train (R265)? In FREERUN their reference is outside what R82 allows; the rule names the host lanes, and the ring
lanes have the same clock (log 73). In RETENTION all lanes are off (R341). -/
def lanesTrain (s : State) : Bool := s.pll.state != .freerun && !clocksOff s

/-- A lane in DETECT has found signal. -/
def detectLane (l y : Nat) (s : State) : State :=
  let k := s.link l
  if k.state = .detect ∧ (k.lane y).inTrain then checkPhase l (modLane l y (fun a => { a with sigdet := true, passed := true }) s) else s

/-- SIGNAL_DETECT (R89, R92, R348). In DARK standby only the listening lane, the lowest of the active set, detects signal (R347). -/
def signalDetect (l y : Nat) (s : State) : State :=
  let k := s.link l
  if clocksOff s then s
  else match k.state with
  | .listen => if listeningLane s l = some y then detectLane l y (listenAttempt l s) else s
  | .active =>
    match k.standby with
    | .entered dark =>
      if k.active.getLsbD y && (!dark || physLane k.active.toNat 0 == y) then wakePort l (wakeDevice 1 l s) else s
    | _ => modLane l y (fun a => { a with sigdet := true }) s
  | _ => detectLane l y s

/-- CDR_LOCK (R89, R106): LOCK passes on the lane; a lane under retry goes on to ALIGN. -/
def cdrLock (l y : Nat) (s : State) : State :=
  let k := s.link l
  let a := k.lane y
  if !lanesTrain s then s
  else if k.state = .lock ∧ a.inTrain then checkPhase l (modLane l y (fun b => { b with lock := true, passed := true }) s)
  else if k.state = .active ∧ a.retry = .training ∧ coreRuns s then modLane l y (fun b => { b with lock := true, sigdet := true }) s
  else s

/-- ALGN.WIN: consecutive blocks for a match (R94). -/
def alignWin (s : State) (l : Nat) : Nat := fget s (Pg.link l) F.HP_ALGN_WIN

/-- One tap under a request (R95): its step and its status. The reserved request 11 holds the tap, as 00 does (DESIGN CHOICE, log 99). -/
def tapStep (cur req : Nat) : Nat × Nat :=
  match req % 4 with
  | 1 => if cur < 15 then (cur + 1, 1) else (cur, 3)
  | 2 => if 0 < cur then (cur - 1, 1) else (cur, 2)
  | _ => (cur, 0)

/-- Act on EQREQ (Table 3-4, R95). -/
def applyEqReq (a : Lane) (w : BitVec 128) : Lane :=
  let f (lo n : Nat) : Nat := ext w.toNat lo n
  if f 91 1 = 1 then { a with pre := (presetTaps (f 88 3)).1, post := (presetTaps (f 88 3)).2, eqstat := 5 }
  else
    let p := tapStep a.pre (f 94 2)
    let q := tapStep a.post (f 92 2)
    { a with pre := p.1, post := q.1, eqstat := BitVec.ofNat 4 (4 * p.2 + q.2) }

/-- A good block in EQUALIZE: taps, and RXREADY in two consecutive blocks of both ends (Table 3-3): those received, and those that the
lane itself sent. -/
def equalizeLane (a : Lane) (b : TrainIn) : Lane :=
  let c := { applyEqReq a b.word1 with adapted := b.adapted, eqreq := b.eqreq }
  let n := if ext b.word1.toNat 83 1 == 1 then c.ready + 1 else 0
  { c with ready := n, passed := c.passed || (decide (2 ≤ n) && decide (2 ≤ c.shown)) }

/-- A block in ALIGN (R94). The management core drives the search, so no lane passes the phase while it is halted (R24). -/
def alignLane (runs : Bool) (win : Nat) (a : Lane) (tsm : Bool) : Lane :=
  let n := if tsm then a.matched + 1 else 0
  { a with matched := n, sinceSlip := a.sinceSlip + 1, aligned := decide (win ≤ n), passed := runs && decide (win ≤ n) }

/-- Skew in words of lane `y` against lane `r`, by the blocks they saw last (R96). -/
def skewOf (k : Link) (r y : Nat) : Option Int :=
  match (k.lane r).farSeq, (k.lane y).farSeq with
  | some (sr, ar), some (sy, ay) => some ((ay : Int) - (ar : Int) - 16 * signedOf 16 (sy + 65536 - sr % 65536))
  | _, _ => none

/-- Measure the skew of every lane that has been seen; lanes within 63 words of the earliest pass (R96). -/
def deskewLanes (r : Nat) (k : Link) : Link :=
  let ys := (bitsSet 8 (trainMask k)).filterMap fun y => (skewOf k r y).map fun d => (y, d)
  match ys with
  | [] => k
  | (_, d0) :: _ =>
    let early := ys.foldl (fun a e => min a e.2) d0
    let ok := ys.filter fun e => decide (e.2 - early ≤ 63)
    let late := ok.foldl (fun a e => max a e.2) early
    { k with lanes := k.lanes.map fun e =>
        match ok.find? fun p => p.1 == e.1 with
        | some p => (e.1, { e.2 with passed := true, skew := (late - p.2).toNat })
        | none => (e.1, if e.2.inTrain then { e.2 with passed := false } else e.2) }

/-- A good block in CONFIG (R85, R97): the lane is settled with it, and passes once 8 consecutive CONFIG blocks with DONE have been sent
and received (Table 3-3). The device honours a precoding request, and decodes where its own one is confirmed. -/
def configLane (a : Lane) (w : BitVec 128) : Lane :=
  let f (lo n : Nat) : Nat := ext w.toNat lo n
  let n := if f 108 4 = 6 ∧ f 75 1 = 1 then a.confDone + 1 else 0
  { a with confDone := n, settled := true, passed := a.passed || (decide (8 ≤ n) && decide (8 ≤ a.confSent))
           farMask := BitVec.ofNat 8 (f 96 8), pctx := f 79 1 == 1, pcrx := a.pcreq && f 78 1 == 1 }

/-- Does the far end support the rate of the attempt (R97)? -/
def rateOk (k : Link) (w : BitVec 128) : Bool := ext w.toNat (if k.rate100 then 77 else 76) 1 == 1

/-- A good block of a lane in training. -/
def trainLane (l y : Nat) (b : TrainIn) (s : State) : State :=
  let k := s.link l
  match k.state with
  | .align => checkPhase l (modLane l y (fun a => alignLane (coreRuns s) (alignWin s l) a true) s)
  | .equalize => checkPhase l (modLane l y (fun a => equalizeLane a b) s)
  | .deskew =>
    checkPhase l (modLink l (deskewLanes y) (modLane l y (fun a => { a with farSeq := some (ext b.word1.toNat 112 16, b.arrival) }) s))
  | .config =>
    if ext b.word1.toNat 108 4 ≠ 6 then modLane l y (fun a => { a with confDone := 0 }) s
    else if !rateOk k b.word1 then failAttempt l s
    else tryConfig l (ext b.word1.toNat 96 8) (modLane l y (fun a => configLane a b.word1) s)
  | _ => s

/-- A lane under retry goes on to its soak: both ends send PRBS-31 from all ones, and its checker loads itself (R84, R106, R109). Once
here the lane counts as trained: a retry that a lane fault stops in its soak begins again at the soak (R107 says only that it begins
again: DESIGN CHOICE, log 98). -/
def toSoak (now : Nat) (a : Lane) : Lane :=
  { a with passed := false, trained := true, retry := .soaking, retrySince := now, gen := ones31, lastTx := 0, lastRx := 0
           chk := 0, chkGood := 0, chkLock := false, chkLost := false, chkErrs := [], soakErrs := 0 }

/-- A block of a lane under background retry: ALIGN, then EQUALIZE, then the soak begins (R106). It waits for the management core
(R108). -/
def retryBlock (l y : Nat) (b : TrainIn) (s : State) : State :=
  let a := (s.link l).lane y
  if !a.lock || !coreRuns s then s
  else if !a.aligned then modLane l y (fun c => { alignLane true (alignWin s l) c true with passed := false }) s
  else
    let c := equalizeLane a b
    modLane l y (fun _ => if c.passed then toSoak s.now c else c) s

/-- Does a lane send DONE in its next training block: has it passed the phase, or, in CONFIG, settled (Table 3-4, log 69)? -/
def blockDone (k : Link) (a : Lane) : Bool := if k.state = .config then a.settled else a.passed

/-- TRAINING_BLOCK (R93): in the time of a received block the lane sends one of its own. A block without TSM in place only breaks a
match; one whose CRC fails is ignored with CTRL_ERR. -/
def trainingBlock (l y : Nat) (b : TrainIn) (s : State) : State :=
  let k := s.link l
  let a := k.lane y
  let inRetry := k.state == .active && a.retry == .training
  if !(k.state.training && a.inTrain) && !inRetry || !lanesTrain s then s
  else
    let t := sendBlock l y (blockDone k a) s
    if !b.tsm then
      if k.state = .align ∨ (inRetry ∧ a.lock ∧ !a.aligned) then modLane l y (fun c => alignLane (coreRuns s) (alignWin s l) c false) t else t
    else if !crc16Ok b.word1 then lEvt l E.HP_CTRL_ERR y t
    else if inRetry then retryBlock l y b t
    else trainLane l y b t

/-- The lanes of a mask leave training; with fewer than MINW left the attempt fails (R90, R94). -/
def dropLanes (l mask : Nat) (s : State) : State :=
  let t := modLink l (fun k => { k with lanes := k.lanes.map fun e =>
    (e.1, if mask.testBit e.1 then { e.2 with inTrain := false, passed := false } else e.2) }) s
  if popCount 8 (trainMask (t.link l)) < minWidth t l then failAttempt l t else t

/-- Lanes in training that have not passed the phase. -/
def unpassed (k : Link) : Nat := (k.lanes.filter fun e => e.2.inTrain && !e.2.passed).foldl (fun a e => a + 2 ^ e.1) 0

/-- Lanes that every lane still in training has seen in the far end's MASK. -/
def farMasks (k : Link) : Nat := (k.lanes.filter fun e => e.2.inTrain).foldl (fun a e => a.land e.2.farMask.toNat) 0xFF

/-- PHASE_TIMEOUT (R90): 2 ms after a phase began. -/
def phaseTimeout (l : Nat) (s : State) : State :=
  let k := s.link l
  if !k.state.training || clocksOff s then s
  else
    let t := dropLanes l (unpassed k) (waitUntil (k.phaseSince + ms 2) s)
    let j := t.link l
    if j.state != k.state || j.phaseSince != k.phaseSince then t
    else if j.state = .config then tryConfig l (farMasks j) t
    else checkPhase l t

/-- LISTEN_PERIOD (R92). -/
def listenPeriod (l : Nat) (s : State) : State :=
  let k := s.link l
  if k.state = .listen && !clocksOff s then listenAttempt l (waitUntil (k.listenSince + ms (fget s (Pg.link l) F.HP_LLISTEN_PERIOD)) s) else s

/-- May ALGN act on the lane: in ALIGN, or under retry before its boundary is found (R94, R106)? -/
def aligning (k : Link) (y : Nat) : Bool :=
  (k.state == .align && (k.lane y).inTrain) || (k.state == .active && (k.lane y).retry == .training && !(k.lane y).aligned)

/-- ALGN.SLIP: one symbol on, and the match test again (R94). -/
def slipLanes (l mask : Nat) (s : State) : State :=
  let k := s.link l
  modLink l (fun j => { j with lanes := j.lanes.map fun e =>
    (e.1, if mask.testBit e.1 && aligning k e.1 then
      { e.2 with slips := min 63 (e.2.slips + 1), matched := 0, sinceSlip := 0, aligned := false, passed := false } else e.2) }) s

/-- A retry of a lane has failed (R107): counted, and with RETRYMAX in a row the lane is FAILED. -/
def retryFailed (l y : Nat) (s : State) : State :=
  let a := (s.link l).lane y
  let u := modLane l y (fun b => { b with retry := .none, trained := false, fails := b.fails + 1 }) s
  if fget s (Pg.link l) F.HP_LRET_RETRYMAX ≤ a.fails + 1 then
    lEvt l E.HP_LANE_FAILED y (modLink l (fun j => { j with
      retired := j.retired &&& ~~~(BitVec.ofNat 8 (2 ^ y)), failed := j.failed ||| BitVec.ofNat 8 (2 ^ y) }) u)
  else u

/-- ALGN.DROP: the lanes leave training; the retry of a lane in ALIGN ends as failed (R94, R106). -/
def algnDropLanes (l mask : Nat) (s : State) : State :=
  if (s.link l).state.training then checkPhase l (dropLanes l mask s)
  else forAll ((bitsSet 8 mask).filter (aligning (s.link l))) (retryFailed l) s

/-! ### Lane faults and retirement -/

/-- LANE_FAULT (R98 to R104): loss of signal or lock on a lane of the active set; whether signal is left is a free value (log 100). A
lane in standby is not faulty. LOL counts in ACTIVE (Table 3-11). -/
def laneFault (l y : Nat) (s : State) : State :=
  let k := s.link l
  if !inService s l || !k.active.getLsbD y || asleep k then s
  else
    let t := modLane l y (fun a => { a with lock := false, sigdet := a.sigdet && (Config.freeNat s.freeCtr).testBit 0 }) (nextFree s)
    lanesFaulty l 0 (onlyIf (k.state == .active) (fbump (Pg.link l) (laneFld y F.HP_LyLOSS_LOL)) t)

/-- What a word of a received group is, on one lane (R88). -/
inductive GroupIn where
  | missing
  | badCrc
  | good (w : BitVec 128)
deriving DecidableEq, Repr

/-- Look at one word of a group (R84, R88): `x` is the level received before the word and the word as it stood on the lane. A marker
word decodes from level 0, a control word from the level before it; the first level is no part of PAT. -/
def groupIn (a : Lane) (w : Option (Fin 4 × BitVec 128)) : GroupIn :=
  match w with
  | none => .missing
  | some x =>
    let m := unlineWord a.pcrx 0 x.2
    let pat := ext m.toNat 64 64
    let u := if pat == patControl then unlineWord a.pcrx x.1 x.2 else m
    if pat != patMarker && pat != patControl then .missing else if crc16Ok u then .good u else .badCrc

/-- A marker group with at least one good word (R84, R87, R88): every lane of the set takes it. -/
def takeMarker (l gseq : Nat) (s : State) : State :=
  modLink l (fun j => { (recvGroup true j) with
    gseqRx := gseq, standby := match j.standby with | .waking _ _ => .none | x => x }) s

/-- Does this device lead the exchange (R99, R283): always on a host port, by the higher DEVID on a ring link? -/
def isLeader (s : State) (l : Nat) : Bool := decide (l < 16) || decide ((s.rlink (l - 16)).peer.toNat < s.fuses.devId.toNat)

/-- Does a mask keep every lane of the active set? One that does not tells of a lane fault (R107). -/
def coversSet (k : Link) (mask : Nat) : Bool := (bitsSet 8 k.active.toNat).all mask.testBit

/-- RETIRE_REQ (R99, R101, R103): answered with RETIRE_ACK unless the device leads and has its own request out. -/
def retireReq (l mask : Nat) (s : State) : State :=
  let k := s.link l
  let own := match k.retire with | some r => r.mine | none => false
  if !inService s l || sleeping k || (own && isLeader s l) then s
  else
    let ack := mask.land (goodLanes k)
    let v := onlyIf (!coversSet k mask) (modLink l stopRetries) s
    let t := if k.state = .active then interruptPort l v else v
    let u := sendGroup l 2 ack (waitingVectors l (modLink l (fun j => { j with state := .retire, retire := none }) t))
    if widthOf (widest ack) < minWidth s l then dropToTraining l u else finishRetire l ack u

/-- RETIRE_ACK (R99, R103). -/
def retireAck (l mask : Nat) (s : State) : State :=
  let k := s.link l
  match k.retire with
  | none => s
  | some r =>
    let ack := mask.land r.mask.toNat
    let v := onlyIf (!coversSet k ack) (modLink l stopRetries) s
    if k.state != .retire || clocksOff s then s
    else if widthOf (widest ack) < minWidth s l then dropToTraining l v
    else finishRetire l ack (modLink l (recvGroup false) v)

/-- RETIRE_REQ_REPEAT (R99): every 1 µs. -/
def retireRepeat (l : Nat) (s : State) : State :=
  match (s.link l).retire with
  | none => s
  | some r =>
    if clocksOff s then s
    else
      let t := waitUntil (r.lastReq + us 1) s
      sendGroup l 1 r.mask.toNat (modLink l (fun j => { j with retire := some { r with lastReq := t.now } }) t)

/-- RETIRE_TO (R103): 16 µs after the first request. -/
def retireTimeout (l : Nat) (s : State) : State :=
  match (s.link l).retire with
  | none => s
  | some r => if clocksOff s then s else dropToTraining l (lEvt l E.HP_RETIRE_TO 15 (waitUntil (r.since + us 16) s))

/-! ### Background retry and widening -/

/-- Begin the retry of one retired lane: a spare lane that has trained goes straight to its soak (R106). A retry that is still in
training a whole RETRYPER after it began has timed out in its phase, and failed (R89, R107, log 69). -/
def beginRetry (l y : Nat) (s : State) : State :=
  let t := onlyIf (((s.link l).lane y).retry == .training) (retryFailed l y) s
  let k := t.link l
  if !k.retired.getLsbD y || k.good.getLsbD y || (k.lane y).retry != .none then t
  else modLane l y (fun b =>
    if b.trained then toSoak t.now b
    else { b with
      retry := .training, lock := false, sigdet := false, aligned := false, matched := 0, sinceSlip := 0, ready := 0, slips := 0
      adapted := false, gen := ones31, blkSeq := 0 }) t

/-- RETRY_PERIOD (R106, R108, R406): the management core's; in ENTERING and SAFE no retry runs. -/
def retryPeriod (l : Nat) (s : State) : State :=
  let k := s.link l
  if !linkActive s l || !coreRuns s || inSafe s then s
  else
    let t := waitUntil (k.retryAt + ms (10 * fget s (Pg.link l) F.HP_LRET_RETRYPER)) s
    tryWiden l (forAll (List.range 8) (beginRetry l) (modLink l (fun j => { j with retryAt := t.now }) t))

/-- Bit errors of a soak in symbols that no command shows count at the lane's checker too (R109); in how many symbols they fell, one or
two in each, is a free value (log 101). -/
def addSoakErrs (l y n : Nat) (s : State) : State :=
  let p := Pg.link l
  if n = 0 then s
  else fadd p (laneFld y F.HP_LyBERR_COUNT) n (fadd p (laneFld y F.HP_LySERR_COUNT) (n - Config.freeNat s.freeCtr % (n / 2 + 1)) (nextFree s))

/-- SOAK_END (R106 to R108): each end reports in a training block with DONE that its checker counted no bit error: none among the
symbols that commands showed it, and `localErrs` among the others. It waits for the management core; in ENTERING and SAFE no retry goes
on (R406). -/
def soakEnd (l y localErrs : Nat) (farPassed : Bool) (s : State) : State :=
  let k := s.link l
  let a := k.lane y
  if !linkActive s l || a.retry != .soaking || !coreRuns s || inSafe s then s
  else
    let errs := a.soakErrs + localErrs
    let t := sendBlock l y (errs == 0)
      (addSoakErrs l y localErrs (waitUntil (a.retrySince + ms (100 * fget s (Pg.link l) F.HP_LRET_SOAK)) s))
    if errs = 0 ∧ farPassed then
      tryWiden l (modLink l (fun j => { j with good := j.good ||| BitVec.ofNat 8 (2 ^ y) })
        (modLane l y (fun b => { b with retry := .none, fails := 0 }) t))
    else retryFailed l y t

/-- WIDEN_REQ (R106): answered with WIDEN_ACK and the wider set; widening waits for the management core (R108). -/
def widenReq (l mask : Nat) (s : State) : State :=
  let k := s.link l
  let set := widest (mask.land (k.active.toNat.lor k.good.toNat))
  if !linkActive s l || asleep k || fget s (Pg.link l) F.HP_LCFG_AUTOWIDEN != 1 || !coreRuns s || decide (widthOf set ≤ widthOf k.active.toNat) then s
  else finishWiden l set (sendGroup l 4 set (modLink l (recvGroup false) s))

/-- WIDEN_ACK (R106, R108). -/
def widenAck (l mask : Nat) (s : State) : State :=
  let k := s.link l
  match k.widen with
  | none => s
  | some (m, _) =>
    let set := widest (mask.land m.toNat)
    if !linkActive s l || asleep k || !coreRuns s || decide (widthOf set ≤ widthOf k.active.toNat) then s
    else finishWiden l set (modLink l (recvGroup false) s)

/-- WIDEN_ACK_TIMEOUT (R106): after 10 µs the current set stays. -/
def widenTimeout (l : Nat) (s : State) : State :=
  match (s.link l).widen with
  | none => s
  | some (_, t) => modLink l (fun j => { j with widen := none }) (waitUntil (t + us 10) s)

/-- A received control group acts by its TYPE on its MASK (Table 3-2, R347); another type is reserved and changes nothing. -/
def controlGroup (l : Nat) (w : BitVec 128) (s : State) : State :=
  let m := ext w.toNat 48 8
  match ext w.toNat 56 8 with
  | 1 => retireReq l m s
  | 2 => retireAck l m s
  | 3 => widenReq l m s
  | 4 => widenAck l m s
  | 7 => standbyAck l s
  | _ => s

/-- MARKER_GROUP (R88, R98): words by logical lane of the active set; `none` is a word that is missing or out of place. A word whose CRC
fails is ignored with CTRL_ERR; the group acts by its good words, a control group by its TYPE. -/
def markerGroup (l : Nat) (words : List (Option (Fin 4 × BitVec 128))) (s : State) : State :=
  let k := s.link l
  if !inService s l || sleeping k then s
  else
    let ys := bitsSet 8 k.active.toNat
    let ins := (List.range ys.length).map fun n => (ys.getD n 0, groupIn (k.lane (ys.getD n 0)) (words.getD n none))
    let t := forAll ins (fun e u => if e.2 = .badCrc then lEvt l E.HP_CTRL_ERR e.1 u else u) s
    match ins.findSome? fun e => match e.2 with | .good w => some w | _ => none with
    | some w =>
      if ext w.toNat 64 64 = patControl then controlGroup l w t
      else if k.state != .active then t
      else
        let bad := (ins.filter fun e => e.2 == .missing).foldl (fun a e => a + 2 ^ e.1) 0
        let v := takeMarker l (ext w.toNat 24 16) t
        if bad = 0 then v else lanesFaulty l bad v
    | none =>
      let bad := (ins.filter fun e => e.2 == .missing).foldl (fun a e => a + 2 ^ e.1) 0
      if k.state != .active || bad = 0 then t else lanesFaulty l bad t

/-! ### PRBS tests -/

/-- The link that a lane of a page belongs to. -/
def laneLink (s : State) (l y : Nat) : Nat := if isHalf s l ∧ 4 ≤ y then 18 + l % 2 else if l < 16 then l else 16 + l % 2

/-- Width of a pattern's register: PRBS-13 or PRBS-31 (R109). -/
def prbsWidth (pat : Nat) : Nat := if pat = 1 then 13 else 31

/-- Feedback bit of a pattern (R109). -/
def prbsBit (pat r : Nat) : Nat :=
  if pat = 1 then (r / 2 ^ 12 + r / 2 ^ 11 + r / 2 + r) % 2 else (r / 2 ^ 30 + r / 2 ^ 27) % 2

/-- A write of LyCTL (R110, R261): `val` whole. A refused one leaves TXPAT and RXCHK at 0; any other writes RXCHK, which restarts the
checker and clears its counters. A TXPAT that is not 0 starts the generator from all ones, also where it was running that pattern (R109
names no moment: DESIGN CHOICE, log 102). -/
def writeLyctl (l y val : Nat) (s : State) : State :=
  let p := Pg.link l
  let f (fl : Fld) : Fld := laneFld y fl
  let pat := ext val 26 2
  let chk := ext val 24 2
  let i := laneLink s l y
  let off := fget s p F.HP_LCFG_ENABLE == 0
  let bad := (pat != 0 || chk != 0) && (!serdesOn s || !(off || (s.link i).retired.getLsbD y))
  let p1 := if bad then 0 else pat
  let c1 := if bad then 0 else chk
  let t := fset p (f F.HP_LyCTL_TXPRE) (ext val 28 3) (fset p (f F.HP_LyCTL_TESTPC) (ext val 23 1)
    (fset p (f F.HP_LyCTL_TXPAT) p1 (fset p (f F.HP_LyCTL_RXCHK) c1 s)))
  let u := modLane i y (fun a => { a with
    gen := if p1 = 0 then a.gen else 2 ^ prbsWidth p1 - 1
    inject := ext val 22 1 == 1 && p1 != 0
    genOut := [], chk := 0, chkGood := 0, chkLock := false, chkLost := false, chkErrs := [], lastRx := 0
    lastTx := if p1 = 0 then a.lastTx else 0 }) t
  if bad then linkCfgErr l y u
  else
    let v := fclear p [f F.HP_LyBERR_COUNT, f F.HP_LySERR_COUNT] u
    let idle := (bitsSet 8 (linkLanes v i)).all fun n =>
      fget v p (laneFld n F.HP_LyCTL_TXPAT) == 0 && fget v p (laneFld n F.HP_LyCTL_RXCHK) == 0
    if p1 != 0 || c1 != 0 then
      if off then modLink i (fun k => { k with state := .test, rate100 := fget s p F.HP_LCFG_RATE != 2 }) v else v
    else if (v.link i).state = .test ∧ idle then modLink i (fun k => { k with state := .off }) v else v

/-- The pattern that a lane's checker expects: RXCHK, or PRBS-31 in the soak of a retry (R106, R109); 0 for none. -/
def chkPat (s : State) (l y : Nat) : Nat :=
  let p := fget s (Pg.link l) (laneFld y F.HP_LyCTL_RXCHK)
  if p = 1 ∨ p = 2 then p else if ((s.link (laneLink s l y)).lane y).retry = .soaking then 2 else 0

/-- The pattern that a lane's generator sends: TXPAT, or PRBS-31 in the soak of a retry (R106, R109); 0 for none. -/
def genPat (s : State) (l y : Nat) : Nat :=
  let p := fget s (Pg.link l) (laneFld y F.HP_LyCTL_TXPAT)
  if p = 1 ∨ p = 2 then p else if ((s.link (laneLink s l y)).lane y).retry = .soaking then 2 else 0

/-- One bit of a generator (R109): the bit and the next register. -/
def genBit (pat r : Nat) : Nat × Nat := (prbsBit pat r, (2 * r + prbsBit pat r) % 2 ^ prbsWidth pat)

/-- A lane's generator sends one symbol (R83, R84, R109): two bits, the first one inverted where INJECT asks for it, precoded where
TESTPC says so. -/
def genSym (l y : Nat) (s : State) : State :=
  let i := laneLink s l y
  let a := (s.link i).lane y
  let pat := genPat s l y
  if pat = 0 then s
  else
    let b1 := genBit pat a.gen
    let b2 := genBit pat b1.2
    let g := levelAt (BitVec.ofNat 128 ((b1.1 + b2n a.inject) % 2 + 2 * b2.1)) 0
    let q := if fget s (Pg.link l) (laneFld y F.HP_LyCTL_TESTPC) = 1 then (g + 4 - a.lastTx % 4) % 4 else g
    modLane i y (fun _ => { a with
      gen := b2.2, inject := false, lastTx := q, genOut := a.genOut ++ [⟨q % 4, Nat.mod_lt _ (by decide)⟩] }) s

/-- One received bit at a lane's checker (R109): the lane, and whether the bit was wrong. An unlocked checker loads its register from
the received bits; a locked one runs on by itself. -/
def checkBit (pat : Nat) (a : Lane) (b : Nat) : Lane × Bool :=
  ({ a with chk := (2 * a.chk + if a.chkLock then prbsBit pat a.chk else b) % 2 ^ prbsWidth pat }, prbsBit pat a.chk != b)

/-- One received symbol at a lane's checker (R109): lock after 64 good symbols, counts while locked, loss after 256 bit errors
within 1,024 bits. -/
def checkSym (l y : Nat) (sym : Fin 4) (s : State) : State :=
  let p := Pg.link l
  let pat := chkPat s l y
  let i := laneLink s l y
  let a := (s.link i).lane y
  if pat = 0 then s
  else
    let g := if fget s p (laneFld y F.HP_LyCTL_TESTPC) = 1 then (sym.val + a.lastRx) % 4 else sym.val
    let b1 := checkBit pat { a with lastRx := sym.val } (pairOf g % 2)
    let b2 := checkBit pat b1.1 (pairOf g / 2)
    let n := b2n b1.2 + b2n b2.2
    if !a.chkLock then
      let good := if n = 0 then a.chkGood + 1 else 0
      if 64 ≤ good then
        onlyIf a.chkLost (fbump p (laneFld y F.HP_LyLOSS_RELOCK))
          (modLane i y (fun _ => { b2.1 with chkGood := 0, chkLock := true, chkLost := false, chkErrs := [] }) s)
      else modLane i y (fun _ => { b2.1 with chkGood := good }) s
    else
      let win := (b2.2 :: b1.2 :: a.chkErrs).take 1024
      let c := { b2.1 with soakErrs := b2.1.soakErrs + n }
      let t := fadd p (laneFld y F.HP_LyBERR_COUNT) n (fadd p (laneFld y F.HP_LySERR_COUNT) (min 1 n) s)
      if 256 ≤ (win.filter id).length then
        lEvt i E.HP_CHK_LOSS y (modLane i y (fun _ => { c with chk := 0, chkGood := 0, chkLock := false, chkLost := true, chkErrs := [] }) t)
      else modLane i y (fun _ => { c with chkErrs := win }) t

/-- Symbols of a lane under test (R109): for each one received, the generator sends one (log 69). -/
def checkSyms (l y : Nat) (syms : List (Fin 4)) (s : State) : State :=
  forAll syms (fun x t => checkSym l y x (genSym l y t)) (modLane (laneLink s l y) y (fun a => { a with genOut := [] }) s)

/-! ### The commands -/

/-- MARKER_GROUP (R88). -/
def execMarkerGroup (link : Fin 20) (words : List (Option (Fin 4 × BitVec 128))) (s : State) : Host.Outcome State Fault Refusal :=
  .next (markerGroup link words s)

/-- LANE_FAULT (R98). -/
def execLaneFault (link : Fin 20) (lane : Fin 8) (s : State) : Host.Outcome State Fault Refusal := .next (laneFault link lane s)

/-- RETIRE_REQ (R99). -/
def execRetireReq (link : Fin 20) (mask : BitVec 8) (s : State) : Host.Outcome State Fault Refusal := .next (retireReq link mask.toNat s)

/-- RETIRE_ACK (R99). -/
def execRetireAck (link : Fin 20) (mask : BitVec 8) (s : State) : Host.Outcome State Fault Refusal := .next (retireAck link mask.toNat s)

/-- RETIRE_REQ_REPEAT (R99). -/
def execRetireReqRepeat (link : Fin 20) (s : State) : Host.Outcome State Fault Refusal := .next (retireRepeat link s)

/-- RETIRE_TO (R103). -/
def execRetireTo (link : Fin 20) (s : State) : Host.Outcome State Fault Refusal := .next (retireTimeout link s)

/-- PORT_ENABLE (R89). -/
def execPortEnable (src : Src) (link : Fin 20) (s : State) : Host.Outcome State Fault Refusal :=
  .next (viaReg src (Pg.link link) F.HP_LCFG_ENABLE.off (enablePort src link) s)

/-- PORT_DISABLE (R143). -/
def execPortDisable (src : Src) (link : Fin 20) (s : State) : Host.Outcome State Fault Refusal :=
  .next (viaReg src (Pg.link link) F.HP_LCFG_ENABLE.off (disablePort link) s)

/-- RETRAIN (R143). -/
def execRetrain (src : Src) (link : Fin 20) (s : State) : Host.Outcome State Fault Refusal :=
  .next (viaReg src (Pg.link link) F.HP_LCMD_RETRAIN.off (fun t => forAll (pageLinks t link) retrainLink t) s)

/-- LANE_CLRCNT (R111). -/
def execLaneClrcnt (src : Src) (link : Fin 20) (s : State) : Host.Outcome State Fault Refusal :=
  .next (viaReg src (Pg.link link) F.HP_LCMD_CLRCNT.off (clearLaneCounts link) s)

/-- SIGNAL_DETECT (R89). -/
def execSignalDetect (link : Fin 20) (lane : Fin 8) (s : State) : Host.Outcome State Fault Refusal := .next (signalDetect link lane s)

/-- CDR_LOCK (R89). -/
def execCdrLock (link : Fin 20) (lane : Fin 8) (s : State) : Host.Outcome State Fault Refusal := .next (cdrLock link lane s)

/-- TRAINING_BLOCK (R93). -/
def execTrainingBlock (link : Fin 20) (lane : Fin 8) (block : TrainIn) (s : State) : Host.Outcome State Fault Refusal :=
  .next (trainingBlock link lane block s)

/-- PHASE_TIMEOUT (R90). -/
def execPhaseTimeout (link : Fin 20) (s : State) : Host.Outcome State Fault Refusal := .next (phaseTimeout link s)

/-- LISTEN_PERIOD (R92). -/
def execListenPeriod (link : Fin 20) (s : State) : Host.Outcome State Fault Refusal := .next (listenPeriod link s)

/-- ALGN_SLIP (R94). -/
def execAlgnSlip (src : Src) (link : Fin 20) (mask : BitVec 8) (s : State) : Host.Outcome State Fault Refusal :=
  .next (viaReg src (Pg.link link) F.HP_ALGN_SLIP.off (fun t => forAll (pageLinks t link) (fun i => slipLanes i mask.toNat) t) s)

/-- ALGN_DROP (R94). -/
def execAlgnDrop (src : Src) (link : Fin 20) (mask : BitVec 8) (s : State) : Host.Outcome State Fault Refusal :=
  .next (viaReg src (Pg.link link) F.HP_ALGN_DROP.off (fun t => forAll (pageLinks t link) (fun i => algnDropLanes i mask.toNat) t) s)

/-- RETRY_PERIOD (R106). -/
def execRetryPeriod (link : Fin 20) (s : State) : Host.Outcome State Fault Refusal := .next (retryPeriod link s)

/-- SOAK_END (R106). -/
def execSoakEnd (link : Fin 20) (lane : Fin 8) (localErrs : Nat) (farPassed : Bool) (s : State) : Host.Outcome State Fault Refusal :=
  .next (soakEnd link lane localErrs farPassed s)

/-- WIDEN_REQ (R106). -/
def execWidenReq (link : Fin 20) (mask : BitVec 8) (s : State) : Host.Outcome State Fault Refusal := .next (widenReq link mask.toNat s)

/-- WIDEN_ACK (R106). -/
def execWidenAck (link : Fin 20) (mask : BitVec 8) (s : State) : Host.Outcome State Fault Refusal := .next (widenAck link mask.toNat s)

/-- WIDEN_ACK_TIMEOUT (R106). -/
def execWidenAckTimeout (link : Fin 20) (s : State) : Host.Outcome State Fault Refusal := .next (widenTimeout link s)

/-- LANE_TEST (R110). -/
def execLaneTest (src : Src) (link : Fin 20) (lane : Fin 8) (val : Word) (s : State) : Host.Outcome State Fault Refusal :=
  .next (viaReg src (Pg.link link) (laneFld lane F.HP_LyCTL_TXPAT).off (writeLyctl link lane val.toNat) s)

/-- PRBS_INJECT (R109): the next generated bit is sent inverted. The command is the INJECT bit alone and restarts neither generator nor
checker (DESIGN CHOICE, log 102). -/
def execPrbsInject (src : Src) (link : Fin 20) (lane : Fin 8) (s : State) : Host.Outcome State Fault Refusal :=
  .next (viaReg src (Pg.link link) (laneFld lane F.HP_LyCTL_INJECT).off (fun t =>
    onlyIf (genPat t link lane != 0)
      (modLane (laneLink t link lane) lane fun a => { a with inject := true }) t) s)

/-- CHECKER_LOCK (R109): symbols received by a lane's checker. -/
def execCheckerLock (link : Fin 20) (lane : Fin 8) (syms : List (Fin 4)) (s : State) : Host.Outcome State Fault Refusal :=
  .next (checkSyms link lane syms s)

/-- CHK_LOSS (R109): symbols received by a lane's checker. -/
def execChkLoss (link : Fin 20) (lane : Fin 8) (syms : List (Fin 4)) (s : State) : Host.Outcome State Fault Refusal :=
  .next (checkSyms link lane syms s)

end Sys2Proof.Machine
end

