-- ==== Sys2Proof/Machine/Mirror.lean ====
section
/-!
DEFINITION. Mirroring of king-post regions over the ring (R301 to R303).
-/

namespace Sys2Proof.Machine

/-- A field of a ring message header. -/
def hdrFld (m : RingMsg) (lo w : Nat) : Nat := ext m.hdr.toNat lo w

/-- A message of a ring port counts only while the port is ACTIVE. -/
def onRing (p : Nat) (f : State → State) (s : State) : State := onlyIf (linkActive s (16 + p)) f s

/-! ### The destination -/

/-- The destination entry for a region. -/
def destEntry (s : State) (rn : Nat) : Option Nat :=
  (List.range 16).find? fun e =>
    let m := s.mirror e
    m.en && m.dest && m.lreg == rn && (m.state == .resync || m.state == .attached)

/-- Has the sequence number been admitted already: is it at most 255 behind the last one? -/
def kpwSeen (s : State) (seq : Nat) : Bool :=
  match s.ring.kpwLast with
  | some l => decide ((l + 512 - seq) % 512 < 256)
  | none => false

/-- Does a KPW with this sequence number wait at its ordering point? -/
def kpwWaits (s : State) (seq : Nat) : Bool :=
  s.accs.any fun a => match a.src with | .kpw _ n _ => n == seq | _ => false

/-- A received KPW (R302) goes to its ordering points at king-post class; it is admitted in sequence order and then acknowledged with its
tag stored. One admitted before is only acknowledged again, and one that waits already is dropped. One with no entry to go to is answered
with DENIED, and its number is settled. In SAFE nothing is admitted (R406). -/
def recvKpw (p : Nat) (m : RingMsg) (s : State) : State :=
  let seq := hdrFld m 111 9
  let rn := hdrFld m 88 8
  let lines := hdrFld m 105 6 + 1
  let r := s.region rn
  let addr := r.base * 2 ^ 21 + hdrFld m 40 40
  if inSafe s || kpwWaits s seq then s
  else if kpwSeen s seq then ringReply p (kpackHdr seq .ok) s
  else if (destEntry s rn).isNone || !r.en || addr % 64 ≠ 0 || decide (64 < addr % 4096 / 64 + lines) ||
      decide (r.size * 2 ^ 21 ≤ hdrFld m 40 40) then ringReply p (kpackHdr seq .denied) (kpwSettle seq s)
  else askWrite (.kpw p seq (BitVec.ofNat 32 (hdrFld m 8 32))) .kp rn addr (pieces 64 (padTo (64 * lines) m.data)) m.poison (some 0) s

/-! ### The source -/

/-- A received KPACK (R302): the KPW is acknowledged, and the host write with it. One that reports a failure does not count. -/
def recvKpack (m : RingMsg) (s : State) : State :=
  let seq := hdrFld m 111 9
  if hdrFld m 99 4 ≠ 0 then s
  else
    match s.ring.kpwOut.find? fun k => k.seq == seq with
    | none => s
    | some k =>
      let t := { s with ring := { s.ring with kpwOut := s.ring.kpwOut.erase k } }
      match k.acc with
      | some id => ackMirrored id t
      | none => t

/-- Send one block of a region to the partner at BULK class, if it can be read now (R303): a line that cannot be read goes as a poison
line. -/
def sendRegionBlock (e b : Nat) (s : State) : State :=
  let rn := (s.mirror e).lreg
  let r := s.region rn
  let x : BlockRead := { region := rn, copy := 0, block := b }
  if !x.can s then x.promote s
  else
    let t := sendKpwAs .bulk e (b * 4096) (x.bytes s) (x.unreadable s) (tagAfter s r 0 (r.base * 2 ^ 21 + b * 4096)) none (x.count s)
    modMirror e (fun m => { m with left := m.left.map (·.erase b) }) t

/-- Copy the blocks that are still to be sent, as far as they can be read (R303). -/
def sendRegion (e : Nat) (s : State) : State :=
  let t := modMirror e (fun m => { m with left := some (m.left.getD (List.range (s.region m.lreg).blocks)) }) s
  forAll ((t.mirror e).left.getD []) (sendRegionBlock e) t

/-- Do the named ports reach one neighbour (R301)? -/
def oneNeighbour (s : State) : Bool :=
  let p := fget s (Pg.link 16) F.RING_HOCFG_PORTS
  p == 1 || p == 2 || (s.rlink 0).nbr == (s.rlink 1).nbr

/-- Can the device join this region to the neighbour's (R301)? -/
def mirrorOk (s : State) (rn : Nat) : Bool :=
  let r := s.region rn
  r.en && r.kp && r.copies == 1 && oneNeighbour s

/-- Is some other enabled entry of this role there? -/
def roleLive (s : State) (e : Nat) (dest : Bool) : Bool :=
  (List.range 16).any fun i => i != e && (s.mirror i).en && (s.mirror i).dest == dest

/-- Numbering of KPW messages begins anew with the first enabled entry of a role (log 90). -/
def restartKpw (e : Nat) (dest : Bool) (s : State) : State :=
  if roleLive s e dest then s
  else if dest then { s with ring := { s.ring with kpwLast := none, kpwDone := [] } }
  else { s with ring := { s.ring with kpwNext := 0 } }

/-- A write of MCFG (R301, R303, Table 10-9). -/
def writeMcfg (en dest : Bool) (preg lreg : Nat) (s : State) : State :=
  let e := fget s (Pg.link 16) F.RING_MSEL_ENTRY
  let m := s.mirror e
  let same := m.dest == dest && m.preg == preg && m.lreg == lreg
  if m.en then
    if !same then linkCfgErr 16 15 s
    else if en then s
    else setMirror e { m with en := false, state := .off, left := none } (dropKpw e s)
  else if !en then setMirror e { m with dest := dest, preg := preg, lreg := lreg } s
  else if !mirrorOk s lreg then linkCfgErr 16 15 s
  else
    setMirror e { m with en := true, dest := dest, preg := preg, lreg := lreg, state := .resync, left := none } (restartKpw e dest s)

/-- Is a mirror entry joined or being joined? -/
def mirrorLive (s : State) (e : Nat) : Bool := (s.mirror e).state == .resync || (s.mirror e).state == .attached

/-- MIRROR_DETACH (R303): at once with no named port ACTIVE, else when a KPACK has been missing for 20 µs. -/
def mirrorDetach (e : Nat) (s : State) : State :=
  if !mirrorLive s e then s
  else if (namedLinks s).isEmpty then detachMirror e s
  else
    match s.ring.kpwOut.find? fun k => k.entry == e with
    | some k => detachMirror e (waitUntil (k.since + us 20) s)
    | none => s

/-- MIRROR_RESYNC_DONE (R303): the copy goes as far as its blocks can be read, and with the last of them the entry is ATTACHED. -/
def resyncDone (e : Nat) (s : State) : State :=
  let m := s.mirror e
  if m.state != .resync || inSafe s || (namedLinks s).isEmpty then s
  else
    let t := if m.dest then s else sendRegion e s
    if (t.mirror e).left.getD [] != [] then t
    else ringEvt E.RING_M_ATTACH e (setMirror e { (t.mirror e) with state := .attached, left := none } t)

/-! ### The commands -/

/-- KPW (R302). -/
def execKpw (port : Fin 4) (msg : RingMsg) (s : State) : Host.Outcome State Fault Refusal :=
  .next (onRing port (recvKpw port msg) s)

/-- KPACK (R302). -/
def execKpack (port : Fin 4) (msg : RingMsg) (s : State) : Host.Outcome State Fault Refusal :=
  .next (onRing port (recvKpack msg) s)

/-- MIRROR_DETACH (R303). -/
def execMirrorDetach (entry : Fin 16) (s : State) : Host.Outcome State Fault Refusal := .next (mirrorDetach entry s)

/-- MIRROR_ENABLE (R303): MCFG is written with EN 1 and its other fields as they are. -/
def execMirrorEnable (src : Src) (s : State) : Host.Outcome State Fault Refusal :=
  .next (viaReg src (Pg.link 16) F.RING_MCFG_EN.off (fun t =>
    let m := t.mirror (fget t (Pg.link 16) F.RING_MSEL_ENTRY)
    writeMcfg true m.dest m.preg m.lreg t) s)

/-- MIRROR_RESYNC_DONE (R303). -/
def execMirrorResyncDone (entry : Fin 16) (s : State) : Host.Outcome State Fault Refusal := .next (resyncDone entry s)

end Sys2Proof.Machine
end

