-- ==== Sys2Proof/Machine/RegionCmd.lean ====
section
/-!
DEFINITION. The region table and the slot table as commands: enabling and disabling a region (R40 to R43), the ends of its walks
(R41, R67), and building the slot table (R35).
-/

namespace Sys2Proof.Machine

/-- Blocks that a region takes in each channel of a footprint (R37). -/
def resBlocks (r : Region) (m : Nat) : Nat := if m = 0 then 0 else (r.copies * r.blocks + m - 1) / m

/-- Do two reserve regions overlap in a channel (R40)? -/
def resOverlap (s : State) (a b : Region) : Bool :=
  a.feet.any fun fa => b.feet.any fun fb =>
    let la := resChans s a fa
    let lb := resChans s b fb
    la.any (fun c => lb.contains c) &&
      decide (a.resoff * 512 < b.resoff * 512 + resBlocks b lb.length) &&
      decide (b.resoff * 512 < a.resoff * 512 + resBlocks a la.length)

/-- The conditions of R40, with the limits of R65. -/
def enableOk (s : State) (rn : Nat) : Bool :=
  let r := s.region rn
  let q := geom s
  let others := s.regions.filter fun e => e.1 != rn && e.2.en
  let top := r.base + r.copies * r.size
  decide (1 ≤ r.copies) && decide (r.copies ≤ 3) && decide (0 < r.size) && decide (top ≤ q.memsize) &&
    others.all (fun e => decide (top ≤ e.2.base) || decide (e.2.base + e.2.copies * e.2.size ≤ r.base)) &&
    (if r.inReserve then decide (q.isize ≤ r.base) else decide (top ≤ q.isize)) &&
    (!r.inReserve ||
      (r.feet.all (fun m => !(resChans s r m).isEmpty &&
        decide (r.resoff * 512 + resBlocks r (resChans s r m).length ≤ q.reserve * 512)) &&
       others.all fun e => !e.2.inReserve || !resOverlap s r e.2)) &&
    (!r.kp || (r.pbay != r.mbay && decide ((others.filter fun e => e.2.kp).length < 16) &&
      decide (kpSum s + r.copies * r.size ≤ 512)))

/-- The copies of a region just enabled: copy 0 visible, the others idle, none committed (R41, Table 2-3). -/
def freshCopies (n : Nat) : List Copy := (List.range n).map fun i => if i = 0 then { role := .visible } else {}

/-- REGION_ENABLE (R40, R41): the walk starts; a failed condition or a region already enabled sets CFGERR. -/
def enableRegion (rn : Nat) (s : State) : State :=
  let r := s.region rn
  if r.en || !enableOk s rn then rgnEvt E.RGN_CFGERR rn s
  else
    let t := setRegion rn { r with
      en := true, init := true, cps := freshCopies r.copies, nextOrd := 0, frame := none, kpState := .dual, kpLost := false } s
    forAll ((List.range 64).filter fun c => chPresent s c && chHolds s c) (fun c => kpSingleOne c rn) t

/-- Does block `u` of channel `c` belong to the region? -/
def Region.holds (r : Region) (s : State) (c u : Nat) : Bool := r.feet.any fun m => (regionBlockAt s r m c u).isSome

/-- The lines of a channel whose check bytes stand in a spare row. -/
def movedChecks (k : Chan) : List Nat :=
  ((redirects k).map fun d => ((List.range d.2.2).map fun i =>
    if 64 * k.ublk ≤ d.1 + i ∧ d.1 + i < 68 * k.ublk then (List.range 16).map fun j => 16 * (d.1 + i - 64 * k.ublk) + j else []).flatten).flatten

/-- The lines that may hold something else than zeros with valid check bytes, as channel and line. -/
def listedAll (s : State) : List (Nat × Nat) :=
  (s.mem.filterMap fun e => cellLine s e.1) ++ (s.chans.map fun e => (movedChecks e.2).map fun n => (e.1, n)).flatten

/-- The walk of an enabled region (R41): zeros with valid check bytes in every line, every record ANCIENT with an empty map. A write to
one of its lines that is still queued gives way to it, and no record cache holds a line of it any more (R190). -/
def clearRegion (rn : Nat) (s : State) : State :=
  let r := s.region rn
  let t : State := { s with chans := s.chans.map fun e => (e.1, { e.2 with wq := e.2.wq.filter fun w => !r.holds s e.1 (w.n / 64) }) }
  let u := forAll ((listedAll s).filter fun l => r.holds s l.1 (l.2 / 64)) (fun l => putLine l.1 l.2 [])
    (dropCached (r.base * 2 ^ 21) (r.blocks * 64) t)
  forAll ((liveRecs s).filter fun e => r.holds s e.1 e.2.1) (fun e => setRec e.1 e.2.1 {}) u

/-- INIT_DONE (R41): the walk ends. It waits for a channel that is being reset, for reads that passed before the region was disabled,
and after a warm reset for READY (Table 11-7). -/
def initDone (rn : Nat) (s : State) : State :=
  let r := s.region rn
  let stuck := r.feet.all fun m =>
    if r.inReserve then (resChans s r m).any (chHolds s) else (presentList s).any fun c => chHolds s c && !chFailed s c
  let readers := s.chans.any fun e => e.2.rq.any fun q => r.holds s e.1 (q.n / 64)
  if !r.en || !r.init || inSafe s || s.boot.warm || stuck || readers then s
  else rgnEvt E.RGN_INIT_DONE rn (modRegion rn (fun q => { q with init := false }) (clearRegion rn s))

/-- Lines of one footprint that hold something, listed or queued, as copy, block and line. -/
def footContent (s : State) (r : Region) (m : Bool) : List (Nat × Nat × Nat) :=
  (listedAll s ++ (s.chans.map fun e => e.2.wq.map fun q => (e.1, q.n)).flatten).filterMap fun l =>
    match regionBlockAt s r m l.1 (l.2 / 64) with
    | some (k, b) => some (k, b, l.2 % 64)
    | none => none

/-- The copy of one line of the footprint that was out of service (R67). -/
def resyncCopy (s : State) (r : Region) (bad : List (Nat × Nat)) (l : Nat × Nat × Nat) : LineCopy :=
  let place (m : Bool) : Nat × Nat := let o := regionLoc s r m l.1 l.2.1; (o.1, o.2 * 64 + l.2.2)
  { src := [place (!r.kpLost)], dst := [place r.kpLost], bad := bad.contains (l.1 * r.blocks + l.2.1, l.2.2), kp := true }

/-- Copy the record of a block to the footprint that was out of service, if its caches can be reached now (R67, R208). -/
def resyncRec (rn : Nat) (l : Nat × Nat × Nat) (s : State) : State :=
  let r := s.region rn
  let a := regionLoc s r (!r.kpLost) l.1 l.2.1
  let b := regionLoc s r r.kpLost l.1 l.2.1
  if (s.chan a.1).cacheReach true (recLine (s.chan a.1) a.2) .bulk && (s.chan b.1).cacheReach true (recLine (s.chan b.1) b.2) .bulk then
    modRegion rn (fun q => { q with toCopy := q.toCopy.map fun t => t.filter (· != l) })
      (putRec b.1 b.2 (s.brec a.1 a.2) .bulk (touchRec a.1 a.2 false .bulk s))
  else s

/-- Copy one line, or the record that line 64 stands for, if it can be copied now. -/
def resyncLine (rn : Nat) (bad : List (Nat × Nat)) (l : Nat × Nat × Nat) (s : State) : State :=
  if l.2.2 = 64 then resyncRec rn l s
  else
    let x := resyncCopy s (s.region rn) bad l
    if !x.can s then x.promote s
    else modRegion rn (fun q => { q with toCopy := q.toCopy.map fun t => t.filter (· != l) }) (x.run s)

/-- The blocks of one footprint whose record is listed, as copy, block and line 64. -/
def footRecs (s : State) (r : Region) (m : Bool) : List (Nat × Nat × Nat) :=
  (liveRecs s).filterMap fun e =>
    match regionBlockAt s r m e.1 e.2.1 with
    | some (k, b) => some (k, b, 64)
    | none => none

/-- What the copy of RESYNC starts from: all lines and records that hold something in either footprint, the others being equal already. -/
def resyncBegin (rn : Nat) (bad : List (Nat × Nat)) (s : State) : State :=
  let r := s.region rn
  match r.toCopy with
  | some _ => s
  | none => setRegion rn { r with toCopy := some (footContent s r false ++ footContent s r true ++
      (bad.map fun b => (b.1 / r.blocks, b.1 % r.blocks, b.2)) ++ footRecs s r false ++ footRecs s r true).eraseDups } s

/-- KP_RESYNC_DONE (R67): the copy of the footprint that was out of service goes as far as the queues take its lines, each by itself at
its ordering point, and the records through the record caches; with the last of them the region is DUAL again. `bad` names source lines found uncorrectable,
as block of the footprint and line. -/
def kpResyncDone (rn : Nat) (bad : List (Nat × Nat)) (s : State) : State :=
  let r := s.region rn
  if !r.en || r.kpState != .resync || inSafe s || (resChans s r false ++ resChans s r true).any (chHolds s) then s
  else
    let t := resyncBegin rn bad s
    let u := forAll ((t.region rn).toCopy.getD []) (resyncLine rn bad) t
    if (u.region rn).toCopy.getD [] != [] then u
    else modRegion rn (fun q => { q with kpState := .dual, toCopy := none }) u

/-- Clear RLATE and RSKIP of a region (RCMD.CLRCNT). -/
def clearRegionCounts (rn : Nat) (s : State) : State := modRegion rn (fun r => { r with rlate := 0, rskip := 0 }) s

/-- The region that RGN.SEL selects. -/
def selRegion (s : State) : Nat := fget s Pg.rgn F.RGN_SEL_REGION

/-- SLOT_TABLE_BUILD (R35, R239): once every channel's start-up training has ended, the management core builds the table from those that
answered; RESERVE is limited (Table 2-9), and after a warm reset a changed set disables every region, as does a channel that had not come
back before it (R78). The start is a full one when some channel took the full path, whatever came of it (R323). DESIGN CHOICE: a CFGERR that
concerns no one region, this one and those of SPLIT, captures the region that RGN.SEL selects in ERR_CAP0 (R81, log 76). -/
def buildSlots (s : State) : State :=
  if !coreRuns s || s.boot.state != .dram || !((List.range 64).all (startupOver s)) || s.chans.any (fun c => c.2.camp.isSome) then s
  else
    let old := presentList s
    let t := { s with chans := s.chans.map fun c => (c.1, { c.2 with present := c.2.answered, lost := false }) }
    let changed := s.built && (presentList t != old || s.chans.any fun c => c.2.lost)
    let path := if (List.range 64).any fun c => fget t (Pg.ch c) F.CH_TRSTAT_PATH == 2 then 2 else 1
    let u := { t with built := true, slots := slotsOf t, boot := { t.boot with state := .links, path := path } }
    let lim := uMin u / 512
    let v := if lim < fget u Pg.rgn F.RGN_SPLIT_RESERVE then
        rgnEvt E.RGN_CFGERR (selRegion u) (fset Pg.rgn F.RGN_SPLIT_RESERVE lim u) else u
    if changed then rgnEvt E.RGN_CFGERR (selRegion v) (disableAll v) else v

/-! ### The commands -/

/-- REGION_ENABLE (R40): a write of RGN.RCMD.ENABLE. -/
def execRegionEnable (src : Src) (s : State) : Host.Outcome State Fault Refusal :=
  .next (viaReg src Pg.rgn F.RGN_RCMD_ENABLE.off (fun t => enableRegion (selRegion t) t) s)

/-- INIT_DONE (R41). -/
def execInitDone (region : Fin 256) (s : State) : Host.Outcome State Fault Refusal := .next (initDone region s)

/-- REGION_DISABLE (R42): a write of RGN.RCMD.DISABLE. -/
def execRegionDisable (src : Src) (s : State) : Host.Outcome State Fault Refusal :=
  .next (viaReg src Pg.rgn F.RGN_RCMD_DISABLE.off (fun t => disableRegion (selRegion t) t) s)

/-- REGION_CLRCNT (R80): a write of RGN.RCMD.CLRCNT. -/
def execRegionClrcnt (src : Src) (s : State) : Host.Outcome State Fault Refusal :=
  .next (viaReg src Pg.rgn F.RGN_RCMD_CLRCNT.off (fun t => clearRegionCounts (selRegion t) t) s)

/-- SLOT_TABLE_BUILD (R35). -/
def execSlotTableBuild (s : State) : Host.Outcome State Fault Refusal := .next (buildSlots s)

/-- KP_RESYNC_DONE (R67). -/
def execKpResyncDone (region : Fin 256) (bad : List (Nat × Nat)) (s : State) : Host.Outcome State Fault Refusal :=
  .next (kpResyncDone region bad s)

end Sys2Proof.Machine
end

