-- ==== Sys2Proof/Machine/SelfRef.lean ====
section
/-!
DEFINITION. Draining a channel and placing its DRAM in self-refresh (R229), as the set-point change, the resets, SAFE entry and
RETENTION do.
-/

namespace Sys2Proof.Machine

/-- The oldest operation of the two queues. -/
def oldestQueued (k : Chan) : Option Cand := oldest (k.ops.filter fun x => !x.side)

/-- Drain both queues in the order of admission, so that a read finds the older writes of its line stored and no later one (R213, R214).
`fuel` bounds the number of lines. -/
def drainFuel (c : Nat) : Nat → State → State
  | 0, s => s
  | n + 1, s =>
    match oldestQueued (s.chan c) with
    | some x => drainFuel c n (issueColumn c x s)
    | none => s

/-- Drain both queues of a channel, and finish what waits in its side queue. -/
def drainChan (c : Nat) (s : State) : State :=
  modChan c (fun k => { k with sideq := [] }) (drainFuel c ((s.chan c).rq.length + (s.chan c).wq.length) s)

/-- Write both caches back in full (R208). -/
def flushCaches (c : Nat) (s : State) : State := modChan c (fun k => { k with checkCache := [], recCache := [] }) s

/-- Self-refresh entry (R229): both queues drained, the caches written back, the refresh owed made good, every bank closed. -/
def enterSelfRefresh (c : Nat) (s : State) : State :=
  modChan c (fun k => { k with
    state := .selfref, openRow := [], drain := false, refSince := s.now, exiting := false
    rank := k.rank.map fun e => (e.1, { e.2 with credit := max 0 e.2.credit, held := none, lastRef := s.now }) }) (flushCaches c (drainChan c s))

/-- The first steps of self-refresh exit (R229): the clocks run and the DRAM leaves self-refresh; the exit ends with tXSR and the
measurement (OSC_MEASURE_DONE). -/
def exitSelfRefresh (c : Nat) (s : State) : State := modChan c (fun k => { k with exiting := true, idleSince := s.now }) s

/-- Can this channel's controller work with its DRAM: present in service, and not failed or in a reset? -/
def chServes (s : State) (c : Nat) : Bool :=
  match (s.chan c).state with
  | .absent => false
  | .failed => false
  | .reset => false
  | _ => true

/-- Does step 3 of R328, or step 4 of Table 15-4, put the channel into self-refresh: any present one but a failed one, whose controller
holds its queues (R230), and one that is there already? -/
def drainsIn (s : State) (c : Nat) : Bool := (chServes s c || (s.chan c).state == .reset) && (s.chan c).state != .selfref

end Sys2Proof.Machine
end

