-- ==== Sys2Proof/Machine/Pll.lean ====
section
/-!
DEFINITION. The root PLL and the clock tree (R258 to R281): the lock sequence, coasting, relocking, slews and steps, the clock
monitors and the output registers.
-/

namespace Sys2Proof.Machine

/-- Set a PLL event (R281): `num` is the output number, `val` Δφ in ps where the event carries it. -/
def clkEvt (bit num : Nat) (val : Int) (s : State) : State :=
  raiseCaps Pg.clk bit (some (packW [(27, bit), (24, num), (0, intBits 16 val)])) none s

/-- A CLK write that is ignored. -/
def clkCfgErr (s : State) : State := clkEvt E.CLK_CFGERR 0 0 s

def setPll (p : Pll) (s : State) : State := { s with pll := p }

/-! ### Status that is computed -/

/-- PLLSTAT.STATE (Table 9-9). -/
def PllState.code : PllState → Nat
  | .off => 0
  | .waitref => 1
  | .freerun => 2
  | .acquire => 3
  | .locked => 4
  | .coast => 5
  | .relock => 6
  | .pjwait => 7
  | .slew => 8
  | .step => 9

/-- Is the loop in one of the states in which PLL_LOCKA is driven (R269)? The lock detector is read as on in the same states. -/
def pllLocked (s : State) : Bool := s.pll.state == .locked || s.pll.state == .slew || s.pll.state == .step

/-- DETV (R263): only in LOCKED. -/
def detv (s : State) : Bool := s.pll.state == .locked

/-- PLLSTAT.PDMODE (Table 9-4): the forced rate of PDSEL applies in LOCKED. -/
def pdMode (s : State) : Nat :=
  match s.pll.state with
  | .acquire => 3
  | .relock => 3
  | .pjwait => 3
  | .locked => if fget s Pg.clk F.CLK_PLLCTL_PDSEL = 0 then 2 else fget s Pg.clk F.CLK_PLLCTL_PDSEL
  | .slew => 2
  | .step => 2
  | _ => 0

/-- N of Table 9-4 for a rate in use. -/
def ratioOf (mode : Nat) : Nat := if mode = 3 then 48 else if mode = 2 then 96 else 192

/-- Divider of output k (Table 9-2); that of WCK follows the set point. -/
def outDiv (s : State) (k : Nat) : Nat :=
  match k with
  | 0 => 6
  | 1 => 8
  | 2 => if s.pll.wck = 0 then 2 else if s.pll.wck = 1 then 3 else if s.pll.wck = 2 then 4 else 6
  | 3 => 24
  | 4 => 48
  | _ => 12

/-- The whole milliseconds of the current coast, or of the last one (R272, CSTTIME). -/
def coastMs (s : State) : Nat :=
  match s.pll.coastSince with
  | some t => min (2 ^ 32 - 1) (since s t / ms 1)
  | none => fget s Pg.clk F.CLK_CSTTIME_MS

/-- The fine delay of an output now, in 5 ps steps: one step per µs toward FDLY (R262). -/
def fineNow (s : State) (k : Nat) : Nat :=
  let goal := fget s Pg.clk (F.CLK_OUTk_FDLY.shift (4 * k))
  let from_ := tget (goal, 0) s.pll.fine k
  let n := since s from_.2 / us 1
  if from_.1 ≤ goal then min goal (from_.1 + n) else max goal (from_.1 - n)

/-- The largest r with r² ≤ n, for n below 2^80. -/
def isqrt (n : Nat) : Nat :=
  (List.range 40).foldl (fun r i => let t := r + 2 ^ (39 - i); if t * t ≤ n then t else r) 0

/-- Length of a STEP ramp: 2 × √(|Δφ| / 2 s^−1) (R277), in units. -/
def stepUnits (dphi : Int) : Nat := isqrt (2 * dphi.natAbs * Config.unitsPerUs * Config.unitsPerUs)

/-- The offset that a STEP gives the frequency now, in ppm (R277): 2 ppm more with each µs up to the midpoint, then less. -/
def stepPpm (s : State) : Nat :=
  let len := stepUnits s.pll.offset
  let e := min len (since s s.pll.stepAt)
  2 * (min e (len - e) / us 1)

/-- What is left of the offset now, in ps (PJSTAT.OFFSET): e µs into a STEP, e² ps of it are gone before the midpoint, and as much is left
as long before the end (R277). -/
def offsetNow (s : State) : Int :=
  if s.pll.state = .step then
    let d := s.pll.offset.natAbs
    let len := stepUnits s.pll.offset
    let e := min len (since s s.pll.stepAt)
    let sq (n : Nat) : Nat := n * n / (Config.unitsPerUs * Config.unitsPerUs)
    let left := if 2 * e ≤ len then d - sq e else min d (sq (len - e))
    if 0 ≤ s.pll.offset then left else -(left : Int)
  else s.pll.offset

/-- FRAC of the ratio during a STEP, in 2^−40, with its sign: output edges that have to come later make it negative (R267, log 78). -/
def stepFrac (s : State) : Int :=
  let f : Int := (96 * stepPpm s * 2 ^ 40 + 500000) / 1000000
  if 0 < s.pll.offset then -f else f

/-- One step of the dither register: x^32 + x^22 + x^2 + x + 1 (R268). -/
def ditherStep (r : Word) : Word :=
  let fb := (r.getLsbD 31).xor ((r.getLsbD 21).xor ((r.getLsbD 1).xor (r.getLsbD 0)))
  (r <<< 1) ||| (if fb then 1 else 0)

/-- Phase-detector cycles since the dither register was loaded, at the rate in use: 48, 96 or 192 VCO cycles each (R268, Table 9-4). -/
def ditherCycles (s : State) : Nat := since s s.pll.lfsrAt / (Config.unitsPerUs * ratioOf (pdMode s) / 9600)

/-- The dither register now: it advances once in each phase-detector cycle, and stands while no REFCLK is used (R268, log 88). -/
def ditherNow (s : State) : Word := if pdMode s = 0 then s.pll.lfsr else Nat.repeat ditherStep (ditherCycles s) s.pll.lfsr

/-- The dither that the modulator adds to FRAC in this cycle: ±1 LSB by the bit that the register gives, none with DITHEN at 0 (R268). -/
def ditherLsb (s : State) : Int :=
  if fget s Pg.clk F.CLK_PLLCTL_DITHEN = 0 then 0 else if (ditherNow s).getLsbD 31 then 1 else -1

/-! ### Transitions -/

/-- Close a coast: CSTTIME keeps its length. -/
def endCoast (s : State) : State :=
  match s.pll.coastSince with
  | some _ => fset Pg.clk F.CLK_CSTTIME_MS (coastMs s) { s with pll := { s.pll with coastSince := none } }
  | none => s

/-- Enter COAST (R271). A coast that is still counted, in RELOCK or PJWAIT, goes on. -/
def enterCoast (s : State) : State :=
  clkEvt E.CLK_COAST 0 0 (fbump Pg.clk F.CLK_CSTCNT_COASTS (setPll { s.pll with
    state := .coast, offset := offsetNow s, since := s.now, stepWait := false, hostSlew := false, stepLost := false, coastSince := some (s.pll.coastSince.getD s.now) } s))

/-- A slew reaches its target (R274, R276): LOCKED, RELOCK and SLEW_DONE. -/
def slewDone (s : State) : State :=
  clkEvt E.CLK_SLEW_DONE 0 s.pll.jump (clkEvt E.CLK_RELOCK 0 0
    (setPll { s.pll with state := .locked, offset := 0, hostSlew := false } s))

/-- Start a slew with the offset as its target. -/
def startSlew (host : Bool) (s : State) : State :=
  let t := endCoast s
  let u := setPll { t.pll with state := .slew, hostSlew := host, stepWait := false, slewAt := t.now } t
  if u.pll.offset = 0 then slewDone u else u

/-- One epoch of a slew: at most SLEWRATE ps, and at most 10 ps where R274 started it. -/
def slewEpoch (s : State) : State :=
  if s.pll.state != .slew then s
  else
    let rate := fget s Pg.clk F.CLK_PJCFG_SLEWRATE
    let r : Int := if s.pll.hostSlew then rate else min rate 10
    let o := s.pll.offset
    let next := if 0 ≤ o then max 0 (o - r) else min 0 (o + r)
    let t := setPll { s.pll with offset := next, slewAt := s.now } s
    if next = 0 then slewDone t else t

/-- Is the window in force long enough for a STEP (R277)? -/
def pjWindow (s : State) : Bool := decide (120 ≤ s.merid.blankNow)

/-- Is the window open, and does the pulse that closes it leave `n` units and 20 µs (R277)? -/
def windowLeaves (s : State) (n : Nat) : Bool :=
  s.merid.inBlank &&
    match toPulse s with
    | some d => decide ((n + us 20 : Nat) ≤ d)
    | none => false

/-- Does the open blanking window leave time for the ramp (R277), and is no set-point change switching (Table 9-6)? -/
def stepFits (s : State) : Bool := fget s Pg.clk F.CLK_DSPSTAT_STATE != 2 && windowLeaves s (stepUnits s.pll.offset)

/-- Start the ramp of a waiting STEP when it fits. -/
def tryStep (s : State) : State :=
  if s.pll.state == .pjwait && s.pll.stepWait && stepFits s then
    let t := endCoast s
    setPll { t.pll with state := .step, stepWait := false, stepAt := t.now, stepLost := false } t
  else s

/-- PJCMD.STEP in PJWAIT (R277). -/
def chooseStep (s : State) : State :=
  if pjWindow s then tryStep (setPll { s.pll with stepWait := true } s) else clkCfgErr s

/-- A write of PJCMD (R275 to R277, Table 9-6). -/
def pjCommand (step slew : Bool) (s : State) : State :=
  if s.pll.state != .pjwait || (step && slew) then clkCfgErr s
  else if step then chooseStep s
  else if slew then startSlew true s
  else s

/-- Phase policy of a measured offset (R273 to R275); Δφ is taken from −5,000 ps up to but not including 5,000 ps. -/
def phasePolicy (dphi : Int) (s : State) : State :=
  let d := (dphi + 5000) % 10000 - 5000
  let t := setPll { s.pll with jump := d, offset := d } s
  if d.natAbs ≤ 1000 then startSlew false t
  else
    let u := clkEvt E.CLK_PHASE_JUMP 0 d (fbump Pg.clk F.CLK_CSTCNT_JUMPS (setPll { t.pll with state := .pjwait } t))
    match fget u Pg.clk F.CLK_PJCFG_AUTO with
    | 1 => startSlew true u
    | 2 => chooseStep u
    | _ => u

/-- The boot ROM starts: the management core runs, and the watchdog with it (R335, step 2 of Table 11-3); after a cold reset the scanner begins its first pass (R400). -/
def startRom (s : State) : State :=
  { s with
    safe := if s.boot.state == .pll then { s.safe with scanAt := s.now } else s.safe
    boot := { s.boot with
      state := .flashchk, coreUp := true, wdOn := true, wdSince := s.now, wdWantA5 := false
      wdPeriod := fget s Pg.boot F.BOOT_WDCFG_PERIOD } }

/-- On the way out of RETENTION the channels leave self-refresh once the clocks start (Table 12-2, steps 3 to 5). -/
def wakeChans (s : State) : State :=
  onlyIf (s.power.state == .waking) (forAll ((s.chans.filter fun e => e.2.state == .selfref).map (·.1)) exitSelfRefresh) s

/-- The dividers are released, and the outputs start (step 7 of Table 9-3, R265): WCK, off in RETENTION, is on again (Table 9-2), and the
core leaves reset. -/
def clockUp (s : State) : State :=
  onlyIf (s.boot.state == .pll && !s.boot.held) startRom
    (onlyIf (s.power.state == .waking) (fun t => fset Pg.clk (F.CLK_OUTk_EN.shift 8) 1 { t with power := { t.power with since := t.now } }) s)

/-! ### The output registers -/

/-- A write of OUTk.EN (R260): of other outputs than CK_JOIN and the SerDes reference every write is an ignored one. -/
def writeOutEn (k : Nat) (en : Bool) (s : State) : State :=
  let f := F.CLK_OUTk_EN.shift (4 * k)
  if k = 1 then
    if !en && s.jobs.any (·.slot) then clkCfgErr s else fset Pg.clk f (b2n en) s
  else if k = 4 then
    if !en && s.links.any (fun l => l.2.state != .off) then clkCfgErr s else fset Pg.clk f (b2n en) s
  else clkCfgErr s

/-- Set the delay of one output, which then moves from where it stands. -/
def putFine (k v : Nat) (s : State) : State :=
  let at_ := fineNow s k
  fset Pg.clk (F.CLK_OUTk_FDLY.shift (4 * k)) v { s with pll := { s.pll with fine := tset s.pll.fine k (at_, s.now) } }

/-- A write of OUTk.FDLY (R262). -/
def writeFdly (k v : Nat) (s : State) : State :=
  let d := min 128 v
  let held := s.chans.any fun c => c.2.state == .ready || c.2.state == .powerdown || c.2.state == .tracking
  if k = 1 then s
  else if k = 2 ∧ held = true then clkCfgErr s
  else if k = 0 then putFine 1 d (putFine 0 d s)
  else putFine k d s

/-- A write of DSEED (R268): the dither register is loaded; 0 stands for all ones. -/
def writeDseed (v : Word) (s : State) : State :=
  fset Pg.clk F.CLK_DSEED_SEED v.toNat
    (setPll { s.pll with lfsr := if v = 0 then 0xFFFFFFFF else v, lfsrAt := s.now } s)

/-- CCMD.CLRCNT (R280). -/
def clearClk (s : State) : State :=
  let t := fclear Pg.clk [F.CLK_CSTCNT_COASTS, F.CLK_CSTCNT_JUMPS, F.CLK_CSTTIME_MS] s
  setPll { t.pll with coastSince := t.pll.coastSince.map fun _ => t.now } t

/-! ### The commands -/

/-- The REFCLK frequency has been measured, QUALT after the coast began or an edge was last missed at the earliest; a REFCLK outside
±200 ppm of nominal never qualifies (R273). It lies as far from nominal as the held VCO and the measured difference give (log 87). -/
def qualify (ferr : Int) (s : State) : State :=
  let t := waitUntil (s.pll.since + ms (fget s Pg.clk F.CLK_CSTCFG_QUALT)) s
  let p := { t.pll with refpres := true, ferr := max (-32767) (min 32767 ferr) }
  if 200000 < (s.pll.freq + ferr).natAbs then setPll p t
  else setPll { p with state := .relock, ramp := ferr, rampAt := t.now, freq := s.pll.freq + ferr } t

/-- REFCLK_QUALIFIED (R264, R265, R273): acquisition starts, from a REFCLK `ferr` from nominal, or after a coast the relock ramp, from the
difference `ferr` to the held VCO, both in 0.001 ppm. -/
def execRefclkQualified (ferr : Int) (s : State) : Host.Outcome State Fault Refusal :=
  .next (match s.pll.state with
    | .waitref => setPll { s.pll with state := .acquire, refpres := true, freq := ferr } s
    | .freerun => setPll { s.pll with state := .acquire, refpres := true, freq := ferr } s
    | .coast => qualify ferr s
    | _ => s)

/-- FREERUN: REFCLK has not qualified 10 ms after step 1 (R265). -/
def execFreerun (s : State) : Host.Outcome State Fault Refusal :=
  .next (if s.pll.state == .waitref then
    let t := waitUntil (s.pll.since + ms 10) s
    clockUp (clkEvt E.CLK_FREERUN 0 0 (setPll { t.pll with state := .freerun } t)) else s)

/-- PLL_LOCK: the lock sequence ends (R264). -/
def execPllLock (s : State) : Host.Outcome State Fault Refusal :=
  .next (if s.pll.state == .acquire then
    wakeChans (clockUp (clkEvt E.CLK_LOCK 0 0 (setPll { s.pll with state := .locked, offset := 0 } s))) else s)

/-- REFCLK_LOSS (R271, Table 9-6). In COAST a missing edge restarts the qualification time (R273). -/
def execRefclkLoss (s : State) : Host.Outcome State Fault Refusal :=
  .next (
    let t := setPll { s.pll with refpres := false } s
    match s.pll.state with
    | .acquire => setPll { t.pll with state := .waitref } t
    | .locked => enterCoast t
    | .slew => enterCoast t
    | .relock => enterCoast t
    | .pjwait => enterCoast t
    | .step => setPll { t.pll with stepLost := true } t
    | .coast => setPll { t.pll with since := t.now } t
    | _ => t)

/-- Does the loop follow the frequency of REFCLK: closed, or closed for frequency only, in PJWAIT and once the relock ramp has ended
(R273, R275)? -/
def freqClosed (s : State) : Bool :=
  match s.pll.state with
  | .locked => true
  | .slew => true
  | .pjwait => true
  | .relock => s.pll.ramp == 0
  | _ => false

/-- REF_STEP (R270). Of events that set at once the captures describe the one with the highest bit (R428). -/
def execRefStep (s : State) : Host.Outcome State Fault Refusal :=
  .next (if freqClosed s then clkEvt E.CLK_REF_STEP 0 0 (enterCoast s) else s)

/-- UNLOCK (R269): the phase detector is in service in LOCKED, SLEW and, while REFCLK lasts, STEP (Table 9-4). -/
def execUnlock (s : State) : Host.Outcome State Fault Refusal :=
  .next (if s.pll.state == .locked || s.pll.state == .slew || (s.pll.state == .step && !s.pll.stepLost) then
    enterCoast (clkEvt E.CLK_UNLOCK 0 0 s) else s)

/-- RELOCK_RAMP_STEP: at most 2 ppm toward 96 × REFCLK, each step 10 µs after the last (R273). -/
def execRelockRampStep (s : State) : Host.Outcome State Fault Refusal :=
  .next (if s.pll.state == .relock then
    let t := waitUntil (s.pll.rampAt + us 10) s
    setPll { t.pll with rampAt := t.now, ramp := if 0 ≤ s.pll.ramp then max 0 (s.pll.ramp - 2000) else min 0 (s.pll.ramp + 2000) } t
  else s)

/-- PHASE_MEASURED (R273 to R275). -/
def execPhaseMeasured (dphi : Int) (s : State) : Host.Outcome State Fault Refusal :=
  .next (if s.pll.state == .relock && s.pll.ramp == 0 then phasePolicy dphi s else s)

/-- PJCMD_SLEW (R276). -/
def execPjcmdSlew (src : Src) (s : State) : Host.Outcome State Fault Refusal :=
  .next (viaReg src Pg.clk F.CLK_PJCMD_SLEW.off (pjCommand false true) s)

/-- PJCMD_STEP (R277). -/
def execPjcmdStep (src : Src) (s : State) : Host.Outcome State Fault Refusal :=
  .next (viaReg src Pg.clk F.CLK_PJCMD_STEP.off (pjCommand true false) s)

/-- STEP_DONE: the ramp ends (R277); without REFCLK the PLL then coasts (Table 9-6). -/
def execStepDone (s : State) : Host.Outcome State Fault Refusal :=
  .next (if s.pll.state == .step then
    let t := waitUntil (s.pll.stepAt + stepUnits s.pll.offset) s
    let u := setPll { t.pll with state := .locked, offset := 0, stepLost := false } t
    if s.pll.stepLost then clkEvt E.CLK_STEP_DONE 0 s.pll.jump (enterCoast u)
    else clkEvt E.CLK_STEP_DONE 0 s.pll.jump (clkEvt E.CLK_RELOCK 0 0 u) else s)

/-- CLOCK_MONITOR_FAIL (R270, Table 9-5): outputs 0 to 5, divider alignment 6, monitor oscillator 7. Only an enabled output is
watched, and the oscillator only while LOCKED. -/
def execClockMonitorFail (mon : Fin 8) (s : State) : Host.Outcome State Fault Refusal :=
  .next (
    if mon.val = 6 then deviceFault 8 Pg.clk E.CLK_SYNC_ERR (clkEvt E.CLK_SYNC_ERR 0 0 s)
    else if mon.val = 7 then
      if s.pll.state == .locked then deviceFault 7 Pg.clk E.CLK_MON_FAIL (clkEvt E.CLK_MON_FAIL 7 0 s) else s
    else if fget s Pg.clk (F.CLK_OUTk_EN.shift (4 * mon)) = 0 then s
    else
      deviceFault 7 Pg.clk E.CLK_MON_FAIL (clkEvt E.CLK_MON_FAIL mon 0
        (fset Pg.clk F.CLK_MONSTAT_OUTFAIL ((fget s Pg.clk F.CLK_MONSTAT_OUTFAIL).lor (2 ^ mon.val)) s)))

/-- CLK_OUTPUT_ENABLE (R260). -/
def execClkOutputEnable (src : Src) (out : Fin 6) (en : Bool) (s : State) : Host.Outcome State Fault Refusal :=
  .next (viaReg src Pg.clk (F.CLK_OUTk_EN.off + 4 * out) (writeOutEn out en) s)

/-- FDLY_WRITE (R262). -/
def execFdlyWrite (src : Src) (out : Fin 6) (fdly : BitVec 8) (s : State) : Host.Outcome State Fault Refusal :=
  .next (viaReg src Pg.clk (F.CLK_OUTk_FDLY.off + 4 * out) (writeFdly out fdly.toNat) s)

/-- DSEED_WRITE (R268). -/
def execDseedWrite (src : Src) (seed : Word) (s : State) : Host.Outcome State Fault Refusal :=
  .next (viaReg src Pg.clk F.CLK_DSEED_SEED.off (writeDseed seed) s)

/-- CLK_CLRCNT (R280). -/
def execClkClrcnt (src : Src) (s : State) : Host.Outcome State Fault Refusal :=
  .next (viaReg src Pg.clk F.CLK_CCMD_CLRCNT.off clearClk s)

/-- SLEW_EPOCH_WITHOUT_PULSE: each 10 ms counts as an epoch where no pulse came in the last 100 ms (R276). -/
def execSlewEpochWithoutPulse (s : State) : Host.Outcome State Fault Refusal :=
  .next (if s.pll.state == .slew then
    slewEpoch (waitUntil (max (s.pll.slewAt + ms 10) (match s.merid.lastPulse with | some t => t + ms 100 | none => 0)) s) else s)

end Sys2Proof.Machine
end

