-- ==== Sys2Proof/Machine/Time.lean ====
section
/-!
DEFINITION. The time unit (R284 to R299): time groups on the ring links, offsets of the two directions, the states of the unit, the
master's schedule, and which pulse comes next.
-/

namespace Sys2Proof.Machine

def setTime (t : TimeUnit) (s : State) : State := { s with time := t }

/-- Set a TIME event (R309): `west` is the direction, `val` the value of ERR_CAP1 in units, saturating. -/
def timeEvt (bit : Nat) (west : Bool) (val : Int) (s : State) : State :=
  raise Pg.time bit (packW [(27, bit), (26, b2n west)]) (BitVec.ofInt 32 (max (-(2 ^ 31)) (min (2 ^ 31 - 1) val))) s

/-- A TIME write that is ignored (R308). -/
def timeCfgErr (s : State) : State := timeEvt E.TIME_CFGERR false 0 s

/-! ### Roles and rings (R282, R284) -/

/-- SYNCINT in units. -/
def syncInt (s : State) : Nat := us (125 * fget s Pg.time F.TIME_TCFG_SYNCINT)

/-- Does a ring port run as two halves? -/
def splitDevice (s : State) : Bool := isHalf s 16 || isHalf s 17

/-- The ring, A (false) or B, that a time port belongs to: port 0 is E, 1 is W, 2 and 3 are their halves B. -/
def ringOf (p : Nat) : Bool := decide (2 ≤ p)

/-- The ring that a member takes its time from. -/
def timeRing (s : State) : Bool := splitDevice s && fget s Pg.time F.TIME_TCFG_UPRING == 1

/-- Is the device the entry of a ring: the master, or a gateway on the ring that is not its source (R284)? -/
def ringEntry (s : State) (ring : Bool) : Bool := isMaster s || (splitDevice s && ring != timeRing s)

/-- The other port of the same ring. -/
def otherPort (p : Nat) : Nat := if p % 2 = 0 then p + 1 else p - 1

/-- Are time groups held back: in SAFE for a fault of the clock (R407)? -/
def timeSilent (s : State) : Bool :=
  s.safe.state == .safe && (fget s Pg.safe F.SAFE_FCAUSE_MECH == 7 || fget s Pg.safe F.SAFE_FCAUSE_MECH == 8)

/-! ### Time groups (Table 10-1) -/

/-- PAT of a time group. -/
abbrev patTime : Nat := 0x69960FF0C3A55A3C

/-- The words of an LDLY. -/
def ldlyWords (domain seq : Nat) (txts : BitVec 64) (echo : Option (BitVec 64 × BitVec 64 × Nat)) (src : BitVec 64) : List (BitVec 128) :=
  let e := echo.getD (0, 0, 0)
  let turn := if echo.isSome then (txts - e.2.1).toNat % 2 ^ 48 else 0
  [withCrc16 (pack [(64, patTime), (56, 0x20), (48, domain), (16, seq)]),
    withCrc16 (pack [(64, txts.toNat), (16, turn)]),
    withCrc16 (pack [(64, e.1.toNat), (48, e.2.2), (47, b2n echo.isSome)]),
    withCrc16 (pack [(64, src.toNat)])]

/-- The words of a SYNC; `corr` in 1/256 unit. -/
def syncWords (domain hops : Nat) (step : Bool) (seq : Nat) (origin : BitVec 64) (corr : Int) (c : Schedule) : List (BitVec 128) :=
  [withCrc16 (pack [(64, patTime), (56, 0x21), (48, domain), (40, hops), (39, b2n step), (16, seq)]),
    withCrc16 (pack [(64, origin.toNat), (16, intBits 48 corr)]),
    withCrc16 (pack [(64, c.ptime.toNat), (32, c.epoch.toNat)]),
    withCrc16 (pack [(80, c.period), (16, c.gmid.toNat)])]

/-- A field of word `i` of a group. -/
def groupFld (ws : List (BitVec 128)) (i lo w : Nat) : Nat := ext (ws.getD i 0).toNat lo w

/-- Is a received group of this type whole: four words with good CRCs (R287)? -/
def groupGood (ws : List (BitVec 128)) : Bool := ws.length == 4 && ws.all crc16Ok

/-- Does the group carry this TTYPE? -/
def groupIs (typ : Nat) (ws : List (BitVec 128)) : Bool := groupFld ws 0 64 64 == patTime && groupFld ws 0 56 8 == typ

/-- Send a time group: logical lanes 0 to 3 carry its words, the others fill words, unscrambled (R287). -/
def sendTimeGroup (p : Nat) (ws : List (BitVec 128)) (s : State) : State :=
  let l := 16 + p
  let t := putWords l false ws (completeRound l s)
  let u := forAll (List.range (widthOf (t.link l).active.toNat - 4)) (fun _ v => putWord l false (fillWord v) (nextFree v)) t
  modRlink p (fun r => { r with sent := ws }) u

/-- SYNCINT after the last group of a kind, and at once for the first (R289, R290). -/
def afterInterval (last : Option Nat) (s : State) : State :=
  match last with
  | some a => waitUntil (a + syncInt s) s
  | none => s

/-- Each end sends an LDLY (R289). -/
def sendLdly (p : Nat) (s : State) : State :=
  let r := s.rlink p
  sendTimeGroup p (ldlyWords (fget s Pg.time F.TIME_TCFG_DOMAIN) r.ldlySeq s.time.dev r.echo s.fuses.devId)
    (modRlink p (fun q => { q with ldlySeq := (q.ldlySeq + 1) % 65536, ldlyAt := some s.now }) s)

/-- The schedule that this device's own SYNC carries (R290): a master's last pulse, or what a gateway last used. -/
def ownSchedule (s : State) : Schedule :=
  if isMaster s then
    { ptime := s.time.lastPtime, epoch := s.merid.epoch, period := if s.time.running then s.time.sched.period else 0
      gmid := s.fuses.devId, domain := fget s Pg.time F.TIME_TCFG_DOMAIN }
  else s.time.sched

/-- The ports on which the device originates SYNC: those of the rings of which it is the entry. A gateway needs a SYNC to copy. -/
def originPorts (s : State) : List Nat :=
  (List.range 4).filter fun p => ringEntry s (ringOf p) && linkActive s (16 + p) && (isMaster s || decide (s.time.hops ≤ 16))

/-- The ring entry sends a SYNC out of both ports (R290). -/
def sendSync (s : State) : State :=
  match originPorts s with
  | [] => s
  | ps =>
    let hops := if isMaster s then 0 else s.time.hops
    forAll ps (fun p t => sendTimeGroup p
      (syncWords (fget s Pg.time F.TIME_TCFG_DOMAIN) hops false s.time.syncSeq t.time.dev 0 (ownSchedule s)) t)
      (setTime { s.time with syncSeq := (s.time.syncSeq + 1) % 65536, syncAt := some s.now } s)

/-! ### Waiting for a time (R298) -/

/-- Let device time reach `pt`; a slew makes the way a little longer, so what is left is waited for again. -/
def reach (pt : BitVec 64) (s : State) : State :=
  forAll (List.range 3) (fun _ t => elapse (pt - t.time.dev).toInt.toNat t) s

/-- What EPCH settings do while no pulses come: they take effect at once (R434). -/
def settleEpch (s : State) : State :=
  if pulsing s then s
  else { s with merid := { s.merid with guardNow := fget s Pg.epch F.EPCH_GUARD_US, blankNow := fget s Pg.epch F.EPCH_BLANK_US } }

/-! ### Offsets (R291, R292) -/

/-- Is |θ|, in 1/512 unit, more than `ps` picoseconds? A unit is 625/32 ps. -/
def overPs (theta : Int) (ps : Nat) : Bool := decide (ps * 16384 < theta.natAbs * 625)

/-- θ in units, toward zero. -/
def inUnits (theta : Int) : Int := theta.tdiv 512

/-- The delay of SYNC groups on a link in 1/512 unit: half the round trip and LASYM (R289). -/
def linkDelay (s : State) (p : Nat) : Int :=
  let f := if p < 2 then F.RING_LASYMA_PS else F.RING_LASYMB_PS
  (s.rlink p).rt * 256 + signedOf 16 (fget s (Pg.link (16 + p)) f) * 16384 / 625

/-- θ of a SYNC received on a port at `rx`. -/
def thetaOf (s : State) (p : Nat) (ws : List (BitVec 128)) (rx : BitVec 64) : Int :=
  (rx - BitVec.ofNat 64 (groupFld ws 1 64 64)).toInt * 512 - signedOf 48 (groupFld ws 1 16 48) * 2 - linkDelay s p

/-- The state of a direction. -/
def dirOf (s : State) (west : Bool) : Direction := if west then s.time.dirW else s.time.dirE

/-- Is a direction valid: has its SYNC come within 3 × SYNCINT (R291)? -/
def dirValid (s : State) (west : Bool) : Bool :=
  match (dirOf s west).seen with
  | some t => decide (since s t ≤ 3 * syncInt s)
  | none => false

/-- DSEL (Table 10-6): EAST, WEST, or the mean. -/
def dsel (s : State) : Option Bool :=
  match fget s Pg.time F.TIME_TCFG_DSEL with
  | 1 => some false
  | 2 => some true
  | _ => none

/-- The offset of a direction as device time stands now. -/
def Direction.now (d : Direction) : Int := d.theta + d.moved

/-- θ by DSEL from the directions that are valid (R292). -/
def chosenTheta (s : State) : Option Int :=
  match dsel s with
  | some w => if dirValid s w then some (dirOf s w).now else none
  | none =>
    if dirValid s false && dirValid s true then some (((dirOf s false).now + (dirOf s true).now) / 2)
    else if dirValid s false then some (dirOf s false).now
    else if dirValid s true then some (dirOf s true).now
    else none

/-! ### The states of the unit (R292 to R296) -/

/-- Set the correction that slewing removes. -/
def setCorr (theta : Int) (t : TimeUnit) : TimeUnit := { t with theta := theta, corr := theta * 1000000000 / 512 }

/-- Freeze the phase correction in HOLD (R293, R295). -/
def enterHold (step : Bool) (s : State) : State :=
  setTime { s.time with state := .hold, corr := 0, holdStep := step, holdAt := s.now, resume := false } s

/-- May a path step put the unit in HOLD? A master never enters HOLD, a unit in FREE has nothing to hold. -/
def holdable (s : State) : Bool :=
  match s.time.state with
  | .locked => true
  | .bigwait => true
  | .slew => true
  | .step => true
  | _ => false

/-- A path step, or a SYNC that tells of one, puts the unit in HOLD until the next valid pair (R295). A unit that holds already for want
of SYNC waits for the pair too. -/
def pathHold (s : State) : State :=
  if holdable s then enterHold true s
  else if s.time.state == .hold && !s.time.holdStep then setTime { s.time with holdStep := true, holdAt := s.now } s
  else s

/-- θE − θW in 1/512 unit, as device time stands now. -/
def pairDiff (s : State) : Int := s.time.dirE.now - s.time.dirW.now

/-- Enter ASYM (R296). -/
def enterAsym (s : State) : State :=
  timeEvt E.TIME_ASYMMETRY false (inUnits (pairDiff s)) (fbump Pg.time F.TIME_TCNT_ASYMS
    (setTime { s.time with state := .asym, corr := 0, agree := 0, resume := false } s))

/-- Back to LOCKED. -/
def toLocked (s : State) : State := setTime { s.time with state := .locked, corr := 0, resume := false, holdStep := false } s

/-- Leave ASYM (R296). -/
def leaveAsym (s : State) : State := timeEvt E.TIME_RESUMED false 0 (toLocked s)

/-- Is a time step possible in the open blanking window (R277, R292)? -/
def timeFits (s : State) : Bool := windowLeaves s 0

/-- Device time moves by −θ at once, and the offsets of both directions with it. -/
def TimeUnit.step (theta : Int) (t : TimeUnit) : TimeUnit :=
  let m := inUnits theta * 512
  { t with
    dev := t.dev - BitVec.ofInt 64 (inUnits theta), state := .locked, theta := 0, corr := 0
    dirE := { t.dirE with moved := t.dirE.moved - m }, dirW := { t.dirW with moved := t.dirW.moved - m } }

/-- The step of the STEP state. -/
def stepNow (s : State) : State := timeEvt E.TIME_STEP_DONE false 0 (setTime (s.time.step s.time.theta) s)

/-- Make the step of a unit in STEP when the window allows it. -/
def tryTimeStep (s : State) : State := if s.time.state == .step && timeFits s then stepNow s else s

/-- STEP chosen in BIGWAIT: refused with CFGERR where the window in force is shorter than 120 µs. -/
def chooseTimeStep (s : State) : State :=
  if pjWindow s then tryTimeStep (setTime { s.time with state := .step } s) else timeCfgErr s

/-- SLEW chosen in BIGWAIT. -/
def chooseTimeSlew (s : State) : State := setTime { setCorr s.time.theta s.time with state := .slew } s

/-- Enter BIGWAIT and do what BIGACT orders (R292). -/
def enterBigwait (theta : Int) (west : Bool) (s : State) : State :=
  let t := timeEvt E.TIME_BIGOFS west (inUnits theta) (fbump Pg.time F.TIME_TCNT_BIGS
    (setTime { s.time with state := .bigwait, theta := theta, corr := 0 } s))
  match fget t Pg.time F.TIME_TCFG_BIGACT with
  | 1 => chooseTimeSlew t
  | 2 => chooseTimeStep t
  | _ => t

/-- Leave FREE on the first valid θ (R292): step, take the schedule's current epoch, LOCKED. -/
def leaveFree (theta : Int) (west : Bool) (s : State) : State :=
  let t := setTime { s.time.step theta with epOk := true } s
  let c := t.time.sched
  let i : Int := if c.period = 0 then 0 else idxAt c.period (fromP t t.time.dev)
  timeEvt E.TIME_SYNC_OK west 0
    { setTime { t.time with lastPtime := ptOf c i } t with merid := { t.merid with epoch := c.epoch + BitVec.ofInt 32 i } }

/-- Act on θ (R292). -/
def actOn (theta : Int) (west : Bool) (s : State) : State :=
  match s.time.state with
  | .free => leaveFree theta west s
  | .locked => if overPs theta 1000 then enterBigwait theta west s else setTime (setCorr theta s.time) s
  | .bigwait => setTime { s.time with theta := theta } s
  | .step => setTime { s.time with theta := theta } s
  | .slew => setTime (setCorr theta s.time) s
  | _ => s

/-- What a pair of directions decides (R295, R296): agreement is counted, and the unit enters or leaves ASYM or leaves HOLD. A unit
told to resume with one direction trusted takes the disagreement as it is. -/
def onPair (s : State) : State :=
  let agrees := !overPs (pairDiff s) 8000
  let trusts := (dsel s).isSome
  let n := if agrees then min 16 (s.time.agree + 1) else 0
  let t := setTime { s.time with agree := n, accept := s.time.accept && !agrees } s
  match t.time.state with
  | .free => t
  | .master => t
  | .asym =>
    if s.time.resume then
      if agrees || trusts then leaveAsym (setTime { t.time with accept := !agrees } t) else enterAsym t
    else if 16 ≤ n then leaveAsym t else t
  | .hold =>
    if s.time.holdStep && !((dirOf s false).seen.getD 0 ≥ s.time.holdAt && (dirOf s true).seen.getD 0 ≥ s.time.holdAt) then t
    else if agrees then toLocked t
    else if s.time.resume && trusts then toLocked (setTime { t.time with accept := true } t)
    else enterAsym t
  | _ => if agrees || (t.time.accept && trusts) then t else enterAsym t

/-- Act on what a received SYNC gave: with both directions valid when the pair is complete, else at once (R291 to R296). -/
def onSync (west : Bool) (s : State) : State :=
  if dirValid s (!west) then
    if (dirOf s (!west)).seq = (dirOf s west).seq then
      let t := onPair s
      match chosenTheta t with
      | some th => actOn th west t
      | none => t
    else s
  else
    let t := if s.time.state == .hold && !s.time.holdStep then toLocked s else s
    match chosenTheta t with
    | some th => actOn th west t
    | none => t

/-- A member takes the schedule of a SYNC (R298). Where it made no pulses before, those already past count as made. -/
def takeSchedule (c : Schedule) (hops : Nat) (s : State) : State :=
  let was := s.time.sched.period
  let t := setTime { s.time with sched := c, hops := hops } s
  if was = 0 ∧ c.period ≠ 0 then setTime { t.time with lastPtime := ptOf c (idxAt c.period (fromP t t.time.dev)) } t else t

/-- The schedule that a SYNC carries. -/
def syncSchedule (ws : List (BitVec 128)) : Schedule :=
  { ptime := BitVec.ofNat 64 (groupFld ws 2 64 64), epoch := BitVec.ofNat 32 (groupFld ws 2 32 32), period := groupFld ws 3 80 48
    gmid := BitVec.ofNat 64 (groupFld ws 3 16 64), domain := groupFld ws 0 48 8 }

/-- Forward a SYNC out of the other port of its ring (R290). -/
def forwardSync (p : Nat) (ws : List (BitVec 128)) (rx : BitVec 64) (s : State) : State :=
  if !linkActive s (16 + otherPort p) || timeSilent s then s
  else
    let corr := signedOf 48 (groupFld ws 1 16 48) + linkDelay s p / 2 + (s.time.dev - rx).toInt * 256
    let step := groupFld ws 0 39 1 == 1 || (s.rlink p).pathStep
    sendTimeGroup (otherPort p) (syncWords (groupFld ws 0 48 8) (groupFld ws 0 40 8 + 1) step (groupFld ws 0 16 16)
      (BitVec.ofNat 64 (groupFld ws 1 64 64)) corr (syncSchedule ws)) s

/-- Use a SYNC received on the ring that the member takes time from (R291). -/
def useSync (p : Nat) (ws : List (BitVec 128)) (rx : BitVec 64) (s : State) : State :=
  let west := p % 2 == 1
  let step := groupFld ws 0 39 1 == 1 || (s.rlink p).pathStep
  let d : Direction := { theta := thetaOf s p ws rx, seen := some s.now, stepSeen := step, seq := groupFld ws 0 16 16 }
  let t := takeSchedule (syncSchedule ws) (groupFld ws 0 40 8 + 1)
    (setTime (if west then { s.time with dirW := d } else { s.time with dirE := d }) s)
  settleEpch (onSync west (if groupFld ws 0 39 1 == 1 then pathHold t else t))

/-- A time group arrives: fill words complete the round; it is ignored with CTRL_ERR where a word fails its CRC (R287). -/
def timeArrives (p : Nat) (g : TimeGroup) (f : State → State) (s : State) : State :=
  let l := 16 + p
  if !linkActive s l then s
  else
    let t := reach g.rx (modLink l (recvGroup false) s)
    if !groupGood g.words then lEvt l E.HP_CTRL_ERR 15 t else f t

/-- A received SYNC (R290, R291). -/
def recvSync (p : Nat) (g : TimeGroup) (s : State) : State :=
  let ws := g.words
  if !groupIs 0x21 ws || groupFld ws 0 48 8 != fget s Pg.time F.TIME_TCFG_DOMAIN || ringEntry s (ringOf p) then s
  else if 16 < groupFld ws 0 40 8 + 1 then timeEvt E.TIME_HOPS (p % 2 == 1) 0 s
  else if (s.rlink p).fresh ≠ 0 then s
  else
    let t := forwardSync p ws g.rx s
    if ringOf p == timeRing s then useSync p ws g.rx t else t

/-! ### Round trips (R289, R295) -/

/-- A new round trip: the measurement goes on, and a path step begins or ends. -/
def newRt (p : Nat) (rt : Int) (s : State) : State :=
  let r := s.rlink p
  let last := ((r.rts ++ [rt]).reverse.take 16).reverse
  let sum := r.rts.foldl (· + ·) 0
  let r1 := { r with rt := rt, rts := last, fresh := r.fresh - 1 }
  if !r.pathStep && r.rts.length == 16 && decide (4000 * 32 * 16 < (16 * rt - sum).natAbs * 625) then
    let t := timeEvt E.TIME_PATH_STEP (p % 2 == 1) ((16 * rt - sum).tdiv 16) (fbump Pg.time F.TIME_TCNT_PSTEPS
      (setRlink p { r1 with rts := [rt], pathStep := true } s))
    pathHold t
  else if r.pathStep && last.length == 16 &&
      decide ((last.foldl max rt - last.foldl min rt) * 625 ≤ 4000 * 32) then setRlink p { r1 with pathStep := false } s
  else setRlink p r1 s

/-- A received LDLY (R289). -/
def recvLdly (p : Nat) (g : TimeGroup) (s : State) : State :=
  let ws := g.words
  if !groupIs 0x20 ws then s
  else
    let went := g.rx - BitVec.ofNat 64 (groupFld ws 2 64 64)
    let src := BitVec.ofNat 64 (groupFld ws 3 64 64)
    let t := modRlink (p % 2) (fun r => { r with nbr := src })
      (modRlink p (fun r => { r with peer := src, dom := groupFld ws 0 48 8, echo := some (BitVec.ofNat 64 (groupFld ws 1 64 64), g.rx, groupFld ws 0 16 16) }) s)
    if groupFld ws 2 47 1 = 1 ∧ went.toNat < ms 1 then newRt p (went.toNat - groupFld ws 1 16 48) t else t

/-! ### The host's commands -/

/-- TCMD.SET (R286): the schedule moves with device time, and the pulse that a handover has chosen with it. -/
def timeSet (s : State) : State :=
  if isMaster s then
    let v := BitVec.ofNat 64 (fget s Pg.time F.TIME_SETH_TIME * 2 ^ 32 + fget s Pg.time F.TIME_SETL_TIME)
    let d := v - s.time.dev
    setTime { s.time with
      dev := v, lastPtime := s.time.lastPtime + d, sched := { s.time.sched with ptime := s.time.sched.ptime + d } }
      { s with ring := { s.ring with ho := { s.ring.ho with pulse := s.ring.ho.pulse.map fun p => p + d } } }
  else timeCfgErr s

/-- TCMD.RESUME (R296). -/
def timeResume (s : State) : State :=
  if s.time.state == .hold || s.time.state == .asym then setTime { s.time with resume := true } s else timeCfgErr s

/-- A write of TCFG.ROLE (R465). -/
def setRole (v : Nat) (s : State) : State :=
  let t := fset Pg.time F.TIME_TCFG_ROLE v s
  if isMaster s == isMaster t then t
  else if isMaster t then
    let per := if s.time.state == .free then 0 else t.time.sched.period
    settleEpch (setTime { t.time with
      state := .master, running := per != 0, perSet := per, perlHeld := none, perNext := none, hops := 0, corr := 0, fsMove := 0, epOk := true
      sched := if per = 0 then { t.time.sched with period := 0 }
        else { t.time.sched with ptime := t.time.lastPtime, epoch := t.merid.epoch } } t)
  else
    settleEpch (setTime { t.time with
      state := .free, running := false, sched := {}, hops := 31, corr := 0, theta := 0, fsMove := 0, dirE := {}, dirW := {}
      agree := 0, resume := false, accept := false, adopt := false, epOk := false, perNext := none } t)

/-- A write of PERL (R297). -/
def writePerl (v : Word) (s : State) : State := if isMaster s then setTime { s.time with perlHeld := some v } s else timeCfgErr s

/-- A write of PERH (R297): PERIOD, from the next pulse on, or with a new schedule that starts now. -/
def writePerh (v : Word) (s : State) : State :=
  if !isMaster s then timeCfgErr s
  else
    let lo := match s.time.perlHeld with | some w => w.toNat | none => s.time.perSet % 2 ^ 32
    let p := v.toNat % 2 ^ 16 * 2 ^ 32 + lo
    let t := setTime { s.time with perSet := p, perlHeld := none } s
    if s.time.running then setTime { t.time with perNext := some p } t
    else if p = 0 then setTime { t.time with sched := { t.time.sched with period := 0 } } t
    else
      setTime { t.time with
        running := true, perNext := none, lastPtime := t.time.dev
        sched := { t.time.sched with ptime := t.time.dev, epoch := t.merid.epoch, period := p } } t

/-- A rising edge of FSYNC_IN (R297): the pulse phase is to move so that pulses fall at the edge plus FSDLY. -/
def fsyncEdge (s : State) : State :=
  if !isMaster s || fget s Pg.time F.TIME_TCFG_FSYNC = 0 || !pulsing s then s
  else
    let c := s.time.sched
    let want := s.time.dev + BitVec.ofNat 64 (fget s Pg.time F.TIME_FSDLY_DELAY)
    let near := (fromP s want * 65536 + c.period / 2) / c.period
    let e := (want - ptOf c near).toInt
    if us 1 < e.natAbs then timeEvt E.TIME_FSYNC_ERR false 0 s
    else setTime { s.time with fsMove := e * 1000000000 } s

/-- A read of NOWL latches NOWH (R285). -/
def readNowl (s : State) : Word × State :=
  (BitVec.ofNat 32 s.time.dev.toNat, setTime { s.time with nowh := BitVec.ofNat 32 (s.time.dev.toNat / 2 ^ 32) } s)

/-- TCMD.CLRCNT (R308). -/
def clearTime (s : State) : State :=
  fclear Pg.time [F.TIME_TCNT_PSTEPS, F.TIME_TCNT_ASYMS, F.TIME_TCNT_LOSSES, F.TIME_TCNT_BIGS] s

/-! ### The commands -/

/-- LDLY_SEND (R289). -/
def execLdlySend (port : Fin 4) (s : State) : Host.Outcome State Fault Refusal :=
  .next (if linkActive s (16 + port) && !timeSilent s then sendLdly port (afterInterval (s.rlink port).ldlyAt s) else s)

/-- LDLY (R289). -/
def execLdly (port : Fin 4) (group : TimeGroup) (s : State) : Host.Outcome State Fault Refusal :=
  .next (timeArrives port group (recvLdly port group) s)

/-- SYNC_SEND (R290). -/
def execSyncSend (s : State) : Host.Outcome State Fault Refusal := 
  .next (if timeSilent s || (originPorts s).isEmpty then s else sendSync (afterInterval s.time.syncAt s))

/-- SYNC (R290, R291). -/
def execSync (port : Fin 4) (group : TimeGroup) (s : State) : Host.Outcome State Fault Refusal :=
  .next (timeArrives port group (recvSync port group) s)

/-- SYNC_LOSS: HOLD once no direction is valid, also where a path step has put the unit in HOLD before (R293). -/
def execSyncLoss (s : State) : Host.Outcome State Fault Refusal :=
  .next (if holdable s || s.time.state == .asym || (s.time.state == .hold && s.time.holdStep) then
    let last := max (s.time.dirE.seen.getD 0) (s.time.dirW.seen.getD 0)
    timeEvt E.TIME_SYNC_LOSS false 0 (fbump Pg.time F.TIME_TCNT_LOSSES
      (enterHold false (waitUntil (last + 3 * syncInt s + 1) s))) else s)

/-- TIME_SET (R286). -/
def execTimeSet (src : Src) (s : State) : Host.Outcome State Fault Refusal :=
  .next (viaReg src Pg.time F.TIME_TCMD_SET.off timeSet s)

/-- EPADOPT (R299). -/
def execEpadopt (src : Src) (s : State) : Host.Outcome State Fault Refusal :=
  .next (viaReg src Pg.time F.TIME_TCMD_EPADOPT.off (fun t => setTime { t.time with adopt := true } t) s)

/-- TIME_STEP (R292): CFGERR outside BIGWAIT. -/
def execTimeStep (src : Src) (s : State) : Host.Outcome State Fault Refusal :=
  .next (viaReg src Pg.time F.TIME_TCMD_STEP.off (fun t => if t.time.state == .bigwait then chooseTimeStep t else timeCfgErr t) s)

/-- TIME_SLEW (R292): CFGERR outside BIGWAIT. -/
def execTimeSlew (src : Src) (s : State) : Host.Outcome State Fault Refusal :=
  .next (viaReg src Pg.time F.TIME_TCMD_SLEW.off (fun t => if t.time.state == .bigwait then chooseTimeSlew t else timeCfgErr t) s)

/-- TIME_SLEW_END: the slew of the SLEW state has reached its end (R292). -/
def execTimeSlewEnd (s : State) : Host.Outcome State Fault Refusal :=
  .next (if s.time.state == .slew then
    let rate := max 1 (fget s Pg.time F.TIME_SLEW_RATE)
    timeEvt E.TIME_SLEW_DONE false 0 (toLocked (elapse ((s.time.corr.natAbs + rate - 1) / rate) s)) else s)

/-- RESUME (R296). -/
def execResume (src : Src) (s : State) : Host.Outcome State Fault Refusal :=
  .next (viaReg src Pg.time F.TIME_TCMD_RESUME.off timeResume s)

/-- TIME_CLRCNT (R308). -/
def execTimeClrcnt (src : Src) (s : State) : Host.Outcome State Fault Refusal :=
  .next (viaReg src Pg.time F.TIME_TCMD_CLRCNT.off clearTime s)

/-- ROLE_CHANGE (R465). -/
def execRoleChange (src : Src) (master : Bool) (s : State) : Host.Outcome State Fault Refusal :=
  .next (viaReg src Pg.time F.TIME_TCFG_ROLE.off (setRole (b2n master)) s)

/-- PERL_WRITE (R297). -/
def execPerlWrite (src : Src) (val : Word) (s : State) : Host.Outcome State Fault Refusal :=
  .next (viaReg src Pg.time F.TIME_PERL_PERIOD.off (writePerl val) s)

/-- PERH_WRITE (R297). -/
def execPerhWrite (src : Src) (val : Word) (s : State) : Host.Outcome State Fault Refusal :=
  .next (viaReg src Pg.time F.TIME_PERH_PERIOD.off (writePerh val) s)

/-- FSYNC_EDGE (R297). -/
def execFsyncEdge (s : State) : Host.Outcome State Fault Refusal := .next (fsyncEdge s)

/-- NOWL_READ (R285). -/
def execNowlRead (src : Src) (s : State) : Host.Outcome State Fault Refusal := .next (viaRead src Pg.time readNowl s)

end Sys2Proof.Machine
end

