-- ==== Sys2Proof/Machine/Handover.lean ====
section
/-!
DEFINITION. Module handover (R304 to R307): the passes of the sender, the switch at one pulse, and the receiver.
-/

namespace Sys2Proof.Machine

def setHo (h : Handover) (s : State) : State := { s with ring := { s.ring with ho := h } }

def modHo (f : Handover → Handover) (s : State) : State := setHo (f s.ring.ho) s

/-! ### Words of a region -/

/-- RGN.RATTR (Table 2-10). -/
def rattrWord (r : Region) : Word :=
  packW [(16, r.writer), (10, r.copies), (9, b2n r.kp), (8, b2n r.pinned), (7, b2n r.aged)]

/-- RGN.RPIN (Table 2-11). -/
def rpinWord (r : Region) : Word := packW [(24, r.bayset.toNat), (20, r.mbay), (16, r.pbay), (0, r.resoff)]

/-- RGN.RSTAT (Table 2-12). -/
def rstatWord (r : Region) : Word :=
  let kp := match r.kpState with | .dual => 0 | .single => 1 | .resync => 2
  packW [(28, kp), (26, r.pendings.length), (24, r.vis), (22, r.pendings.headD 0), (20, (r.idxOf .writable).getD 0)
       , (19, b2n (r.idxOf .writable).isSome), (17, b2n r.init), (16, b2n r.en), (0, min 65535 r.oldPins)]

/-- The data slot of HOREG (Table 10-3). -/
def horegData (r : Region) : List Byte :=
  leBytes 4 r.base ++ leBytes 4 r.size ++ leBytes 4 (rattrWord r).toNat ++ leBytes 4 r.stale.toNat

/-- The data slot of HOSTATE. -/
def hostateData (r : Region) : List Byte :=
  leBytes 4 (rstatWord r).toNat ++ leBytes 2 (match r.frame with | some f => f.toNat | none => 0) ++ [0, 0] ++
    leBytes 4 r.rlate ++ leBytes 4 r.rskip

/-- Enabled regions. -/
def enabledRegions (s : State) : List Nat := (s.regions.filter fun e => e.2.en).map (·.1)

/-! ### The sender -/

/-- Is the neighbour of the named ports in this device's domain, as its LDLY shows (R304)? -/
def sameDomain (s : State) : Bool :=
  (namedLinks s).all fun l => (s.rlink (l - 16)).peer == 0 || (s.rlink (l - 16)).dom == fget s Pg.time F.TIME_TCFG_DOMAIN

/-- Is the device LOCKED with the domain's epoch number, in the domain of its neighbour (R304)? A master is the domain's time itself. -/
def inTime (s : State) : Bool := (s.time.state == .master || (s.time.state == .locked && s.time.epOk)) && sameDomain s

/-- LOCKED or HOLD (R306). -/
def timeHeld (s : State) : Bool := s.time.state == .master || s.time.state == .locked || s.time.state == .hold

/-- A block of the running pass has been sent, or lies in no region any more. -/
def hoSent (addr : Nat) (s : State) : State := modHo (fun h => { h with left := h.left.erase addr }) s

/-- Send one block with its record, if it can be read now (R305); a line that cannot be read goes as a poison line. -/
def sendHoBlock (addr : Nat) (s : State) : State :=
  match regionOf s addr with
  | none => hoSent addr s
  | some (rn, r) =>
    let blk := regionBlk r addr
    let x : BlockRead := { region := rn, copy := blk / r.blocks, block := blk % r.blocks }
    if !x.can s then x.promote s
    else
      let l := regionLoc s r (r.readFeet.headD false) (blk / r.blocks) (blk % r.blocks)
      hoSent addr (ringSend (hoHdr 0x43 0 0 addr) (recBytes r.aged (s.brec l.1 l.2))
        (ringSendAs (hoHdr 0x42 63 0 addr) (x.bytes s) (x.unreadable s) (x.count s)))

/-- The blocks of a granule. -/
def granuleBlocks (g : Nat) : List Nat := (List.range 64).map fun i => g * 2 ^ 18 + i * 4096

/-- Begin to copy the dirty granules: their bits are cleared, and their blocks are to be sent (R305). -/
def startDirty (s : State) : State :=
  let more := s.ring.ho.dirty.reverse.flatMap granuleBlocks
  modHo (fun h => { h with dirty := [], left := h.left ++ more.filter fun a => !h.left.contains a }) s

/-- Copy the dirty granules, as far as their blocks can be read (R305). With no named port ACTIVE the copy stands. -/
def copyDirty (s : State) : State :=
  if (namedLinks s).isEmpty then s else forAll (startDirty s).ring.ho.left sendHoBlock (startDirty s)

/-- Send what the running pass has left, as far as it can be read. -/
def copyLeft (s : State) : State := if (namedLinks s).isEmpty then s else forAll s.ring.ho.left sendHoBlock s

/-- Begin a pass. -/
def beginPass (s : State) : State := copyDirty (modHo (fun h => { h with state := .copy, pass := min 255 (h.pass + 1) }) s)

/-- The granules of every enabled region (R305). -/
def allGranules (s : State) : List Nat :=
  ((enabledRegions s).map fun rn =>
    let r := s.region rn
    (List.range (r.copies * r.size * 8)).map fun i => r.base * 8 + i).flatten

/-- May a handover begin on this device: is none in progress, and is it out of SAFE? -/
def hoFree (s : State) : Bool := !hoBusy s && !inSafe s

/-- HOCMD.ARM (R304). -/
def hoArm (s : State) : State :=
  if hoFree s then noteNamed (setHo { ({} : Handover) with state := .armed } s) else linkCfgErr 16 15 s

/-- HOCMD.START (R304, R305): the device becomes the sender, its source mirror entries detach, the partner is told and given the
regions to compare. -/
def hoStart (s : State) : State :=
  if !hoFree s then linkCfgErr 16 15 s
  else
    let srcs := (List.range 16).filter fun e => mirrorLive s e && !(s.mirror e).dest
    let t := noteNamed (setHo { ({} : Handover) with state := .check, sender := true, dirty := allGranules s } (forAll srcs detachMirror s))
    if !inTime t then hoAbort 4 t
    else
      forAll (enabledRegions t) (fun rn u => ringSend (hoHdr 0x45 0 rn 0) (horegData (u.region rn)) u)
        (ringSend (hoctlHdr 1 0 0) [] t)

/-- HOCMD.ABORT (R307). -/
def hoHostAbort (s : State) : State := hoAbort 6 s

/-- The first pulse whose guard deadline lies at least 10 µs ahead (R306): its time and number. -/
def switchPulse (s : State) : Option (BitVec 64 × Word) :=
  if !pulsing s then none
  else
    let c := s.time.sched
    let i := nextIdx s
    let need := us s.merid.guardNow + us 10
    let ok (k : Int) : Bool := decide ((need : Int) ≤ (ptOf c k - s.time.dev).toInt)
    let j := if ok i then i else max (i + 1) (idxAt c.period (fromP s s.time.dev + need) + 1)
    some (ptOf c j, c.epoch + BitVec.ofInt 32 j)

/-- HANDOVER_PASS_END (R306): a pass that still has blocks to read goes on; else the switch is attempted, or another pass begins. In FREEZE
what became dirty is sent again. -/
def hoPassEnd (s : State) : State :=
  let h := s.ring.ho
  if !h.sender then s
  else if h.state == .freeze then copyDirty s
  else if h.state != .copy || h.pulse.isSome then s
  else if !h.left.isEmpty then copyLeft s
  else if h.dirty.length ≤ 4 * fget s (Pg.link 16) F.RING_HOCFG_FINAL then
    match switchPulse s with
    | some p => modHo (fun h => { h with pulse := some p.1, epoch := p.2 }) s
    | none => s
  else beginPass s

/-- HANDOVER_FREEZE (R306): from P minus the guard time. -/
def hoFreeze (s : State) : State :=
  let h := s.ring.ho
  match h.pulse with
  | some p =>
    if h.sender && h.state == .copy then
      copyDirty (modHo (fun h => { h with state := .freeze, frozen := true }) (reach (p - BitVec.ofNat 64 (us s.merid.guardNow)) s))
    else s
  | none => s

/-- The state that a region has after pulse P (R306): the flips that P makes are applied to a copy of the state. -/
def afterPulse (s : State) (rn : Nat) : Region :=
  let go := match toPulse s with | some d => d.toNat | none => 0
  (flipRegion s.ring.ho.epoch rn { s with now := s.now + go }).region rn

/-- HANDOVER_FINAL_CHECK (R306): at P − 2 µs the states and SWITCH go out when everything is ready. -/
def hoFinal (s : State) : State :=
  let h := s.ring.ho
  match h.pulse with
  | some p =>
    if h.sender && h.state == .freeze then
      let t := reach (p - BitVec.ofNat 64 (us 2)) s
      if t.ring.ho.dirty.isEmpty && t.ring.ho.left.isEmpty && !t.commits.any (·.accepted) && timeHeld t && !(namedLinks t).isEmpty then
        modHo (fun h => { h with sent := true })
          (ringSend (hoctlHdr 3 h.epoch 0) []
            (forAll (enabledRegions t) (fun rn u => ringSend (hoHdr 0x46 0 rn 0) (hostateData (afterPulse t rn)) u) t))
      else t
    else s
  | none => s

/-- A switch is put off (R306); after MAXPOST of them the handover aborts. -/
def hoPostpone (s : State) : State :=
  let n := s.ring.ho.postpones + 1
  let t := ringEvt E.RING_HO_POSTPONE 0 (modHo (fun h => { h with
    state := .copy, frozen := false, sent := false, ready := false, pulse := none, postpones := min 255 n }) s)
  if fget s (Pg.link 16) F.RING_HOCFG_MAXPOST ≤ n then hoAbort 5 t else t

/-! ### The switch -/

/-- The roles that HOSTATE gives to the copies of a region. -/
def rolesOf (r : Region) (w : Nat) (epoch : Word) : List Copy :=
  (List.range r.copies).map fun i =>
    let c := r.cp i
    let rest : Copy := { c with pins := 0, late := false, ffDone := false }
    if i = ext w 24 2 then { rest with role := .visible }
    else if ext w 19 1 = 1 ∧ i = ext w 20 2 then { rest with role := .writable }
    else if (ext w 26 2 ≠ 0 ∧ i = ext w 22 2) ∨ ext w 26 2 = 2 then
      { rest with role := .pending, ffDone := true, ec := epoch - 1, ord := some (if i = ext w 22 2 then 0 else 1) }
    else { rest with role := .idle }

/-- Apply one HOSTATE at the receiver (R306). A region whose FRAME record is cleared goes over as FRAME 0, and the receiver then holds
FRAME 0 (log 74). -/
def applyState (epoch : Word) (h : HoRegion) (s : State) : State :=
  modRegion h.region (fun r => { r with
    cps := if r.buffered then rolesOf r h.rstat epoch else r.cps
    nextOrd := 2, frame := some h.frame, rlate := h.rlate, rskip := h.rskip }) s

/-- The switch (R306): the receiver takes the states, the sender disables every region; both set HO_DONE and tell the other. -/
def hoSwitch (s : State) : State :=
  let h := s.ring.ho
  let t := if h.sender then disableAll s else forAll h.states (applyState h.epoch) s
  ringSend (hoctlHdr 6 0 0) [] (ringEvt E.RING_HO_DONE 0 (modHo (fun h => { h with
    state := .done, frozen := false, ready := false, acked := none, sent := false, pulse := none, dirty := [], left := [], states := [] }) t))

/-- Does the receiver know that its READY arrived by P − 1 µs: the partner's link had acknowledged it by then (R306, log 92)? -/
def readyInTime (h : Handover) : Bool :=
  match h.pulse, h.acked with
  | some p, some t => h.ready && decide ((us 1 : Int) ≤ (p - t).toInt)
  | _, _ => false

/-- What pulse P does to a handover (R306): the sender switches when it is ready and puts the switch off otherwise. A receiver that does not
know yet whether its READY came in time switches with the sender's DONE. -/
def hoAtPulse (epoch : Word) (s : State) : State :=
  let h := s.ring.ho
  if h.sender && h.pulse.isSome then
    if (epoch - h.epoch).toNat < 2 ^ 31 then if h.ready then hoSwitch s else hoPostpone s else s
  else if !h.sender && h.state == .receiving && readyInTime h && h.epoch == epoch then hoSwitch s
  else s

/-- Is this 1 µs or less before the switch that both devices agreed on (Table 10-4)? -/
def hoCommitted (s : State) : Bool :=
  match s.ring.ho.pulse with
  | some p => (if s.ring.ho.sender then s.ring.ho.ready else readyInTime s.ring.ho) && decide ((p - s.time.dev).toInt ≤ us 1)
  | none => false

/-- A cold or warm reset meets a handover (Table 10-4): from P − 1 µs on it counts as after the switch, before it the handover aborts. -/
def hoReset (s : State) : State := if !hoBusy s then s else if hoCommitted s then hoSwitch s else hoAbort 1 s

/-! ### Received messages -/

/-- A received START (R304): an armed device whose time is in order answers ARMED. -/
def recvStart (s : State) : State :=
  if hoBusy s && s.ring.ho.state != .armed then s
  else if s.ring.ho.state != .armed then ringSend (hoctlHdr 5 0 3) [] s
  else if !inTime s then hoAbort 4 s
  else ringSend (hoctlHdr 2 0 0) [] (modHo (fun h => { h with state := .check, regsSeen := [] }) s)

/-- A received ARMED: the sender begins its first pass. -/
def recvArmed (s : State) : State := if s.ring.ho.sender && s.ring.ho.state == .check then beginPass s else s

/-- A received HOREG (R304): the region must be enabled here with equal words. -/
def recvHoreg (m : RingMsg) (s : State) : State :=
  let rn := hdrFld m 88 8
  if s.ring.ho.sender || s.ring.ho.state != .check then s
  else if (s.region rn).en && padTo 16 m.data == horegData (s.region rn) then
    modHo (fun h => { h with regsSeen := rn :: h.regsSeen }) s
  else hoAbort 3 s

/-- The first message of the copy finds every enabled region described, or the handover aborts (R304). -/
def hoReceiving (f : State → State) (s : State) : State :=
  let h := s.ring.ho
  if h.sender then s
  else if h.state == .receiving then f s
  else if h.state == .check then
    if (enabledRegions s).all fun rn => h.regsSeen.contains rn then f (modHo (fun h => { h with state := .receiving }) s)
    else hoAbort 3 s
  else s

/-- A received HODATA (R305): the block goes to its ordering points, in both footprints of a king-post region, and gets check bytes of its
own. Its class is that of its region (Table 1-3). -/
def recvHodata (m : RingMsg) (s : State) : State :=
  let addr := hdrFld m 40 40 / 4096 * 4096
  match regionOf s addr with
  | none => s
  | some (rn, r) =>
    let blk := regionBlk r addr
    askWrite .hodata .bulk rn ((r.base * 512 + blk % r.blocks) * 4096) (pieces 64 (padTo 4096 m.data)) m.poison (some (blk / r.blocks)) s

/-- Is this the handover block that waits for copy `cp` of a region at an address? -/
def Acc.isBlock (a : Acc) (rn cp addr : Nat) : Bool :=
  a.src == .hodata && a.phase == .waiting && a.region == rn && a.copy == cp && a.addr == addr

/-- A received HOREC (R305): the record is stored with its block, at once when the block has passed. -/
def recvHorec (m : RingMsg) (s : State) : State :=
  let addr := hdrFld m 40 40 / 4096 * 4096
  match regionOf s addr with
  | none => s
  | some (rn, r) =>
    let blk := regionBlk r addr
    let at1 := (r.base * 512 + blk % r.blocks) * 4096
    let bs := padTo 16 m.data
    if s.accs.any fun a => a.isBlock rn (blk / r.blocks) at1 then
      { s with accs := s.accs.map fun a => if a.isBlock rn (blk / r.blocks) at1 then { a with recIn := some bs } else a }
    else setBlockRec rn (blk / r.blocks) at1 bs s

/-- A received HOSTATE is held for the switch (R306). -/
def recvHostate (m : RingMsg) (s : State) : State :=
  let rn := hdrFld m 88 8
  let x : HoRegion := { region := rn, rstat := leAt m.data 0 4, frame := BitVec.ofNat 16 (leAt m.data 4 2), rlate := leAt m.data 8 4
                        rskip := leAt m.data 12 4 }
  modHo (fun h => { h with states := (h.states.filter fun y => y.region != rn) ++ [x] }) s

/-- A received SWITCH is answered with READY when the device can still switch at P (R306). -/
def recvSwitch (m : RingMsg) (s : State) : State :=
  let e := BitVec.ofNat 32 (hdrFld m 32 32)
  let c := s.time.sched
  let p := ptOf c (e - c.epoch).toInt
  if timeHeld s && pulsing s && decide ((us 1 : Int) ≤ (p - s.time.dev).toInt) then
    ringSend (hoctlHdr 4 e 0) [] (modHo (fun h => { h with pulse := some p, epoch := e, ready := true, acked := none }) s)
  else s

/-- A received READY counts when it comes by P − 1 µs (R306). -/
def recvReady (m : RingMsg) (s : State) : State :=
  let h := s.ring.ho
  match h.pulse with
  | some p =>
    if h.sender && h.state == .freeze && h.sent && BitVec.ofNat 32 (hdrFld m 32 32) == h.epoch &&
        decide ((us 1 : Int) ≤ (p - s.time.dev).toInt) then modHo (fun h => { h with ready := true }) s
    else s
  | none => s

/-- A received ABORT (R307). -/
def recvAbort (m : RingMsg) (s : State) : State := if hoBusy s then hoAbortLocal (hdrFld m 28 4) s else s

/-- A received DONE: the partner has switched, and so does this device (R306). -/
def recvDone (s : State) : State :=
  let h := s.ring.ho
  if hoBusy s && (h.sender || h.ready) then hoSwitch s else s

/-- HANDOVER_LINK_TIMEOUT (R307). -/
def hoLinkTimeout (s : State) : State :=
  match s.ring.ho.linkDown with
  | some t =>
    if hoBusy s && (namedLinks s).isEmpty then hoAbort 2 (waitUntil (t + ms (fget s (Pg.link 16) F.RING_HOCFG_LINKTO)) s) else s
  | none => s

/-! ### The commands -/

/-- HOCMD_ARM (R304). -/
def execHocmdArm (src : Src) (s : State) : Host.Outcome State Fault Refusal :=
  .next (viaReg src (Pg.link 16) F.RING_HOCMD_ARM.off hoArm s)

/-- HOCMD_START (R304). -/
def execHocmdStart (src : Src) (s : State) : Host.Outcome State Fault Refusal :=
  .next (viaReg src (Pg.link 16) F.RING_HOCMD_START.off hoStart s)

/-- HOCMD_ABORT (R307). -/
def execHocmdAbort (src : Src) (s : State) : Host.Outcome State Fault Refusal :=
  .next (viaReg src (Pg.link 16) F.RING_HOCMD_ABORT.off hoHostAbort s)

/-- HODATA (R305). -/
def execHodata (port : Fin 4) (msg : RingMsg) (s : State) : Host.Outcome State Fault Refusal :=
  .next (onRing port (hoReceiving (recvHodata msg)) s)

/-- HOREC (R305). -/
def execHorec (port : Fin 4) (msg : RingMsg) (s : State) : Host.Outcome State Fault Refusal :=
  .next (onRing port (hoReceiving (recvHorec msg)) s)

/-- HOREG (R304). -/
def execHoreg (port : Fin 4) (msg : RingMsg) (s : State) : Host.Outcome State Fault Refusal :=
  .next (onRing port (recvHoreg msg) s)

/-- HOSTATE (R306). -/
def execHostate (port : Fin 4) (msg : RingMsg) (s : State) : Host.Outcome State Fault Refusal :=
  .next (onRing port (hoReceiving (recvHostate msg)) s)

/-- HOCTL_START (R304). -/
def execHoctlStart (port : Fin 4) (_msg : RingMsg) (s : State) : Host.Outcome State Fault Refusal :=
  .next (onRing port recvStart s)

/-- HOCTL_ARMED (R304). -/
def execHoctlArmed (port : Fin 4) (_msg : RingMsg) (s : State) : Host.Outcome State Fault Refusal :=
  .next (onRing port recvArmed s)

/-- HOCTL_SWITCH (R306). -/
def execHoctlSwitch (port : Fin 4) (msg : RingMsg) (s : State) : Host.Outcome State Fault Refusal :=
  .next (onRing port (hoReceiving (recvSwitch msg)) s)

/-- HOCTL_READY (R306). -/
def execHoctlReady (port : Fin 4) (msg : RingMsg) (s : State) : Host.Outcome State Fault Refusal :=
  .next (onRing port (recvReady msg) s)

/-- HOCTL_ABORT (R307). -/
def execHoctlAbort (port : Fin 4) (msg : RingMsg) (s : State) : Host.Outcome State Fault Refusal :=
  .next (onRing port (recvAbort msg) s)

/-- HOCTL_DONE (R306). -/
def execHoctlDone (port : Fin 4) (_msg : RingMsg) (s : State) : Host.Outcome State Fault Refusal :=
  .next (onRing port recvDone s)

/-- HANDOVER_PASS_END (R306). -/
def execHandoverPassEnd (s : State) : Host.Outcome State Fault Refusal := .next (hoPassEnd s)

/-- HANDOVER_FREEZE (R306). -/
def execHandoverFreeze (s : State) : Host.Outcome State Fault Refusal := .next (hoFreeze s)

/-- HANDOVER_FINAL_CHECK (R306). -/
def execHandoverFinalCheck (s : State) : Host.Outcome State Fault Refusal := .next (hoFinal s)

/-- HANDOVER_LINK_TIMEOUT (R307). -/
def execHandoverLinkTimeout (s : State) : Host.Outcome State Fault Refusal := .next (hoLinkTimeout s)

end Sys2Proof.Machine
end

