-- ==== Sys2Proof/Machine/Almanac.lean ====
section
/-!
DEFINITION. The training almanac (R245 to R249): its two copies, channel entries and the redirect table.
-/

namespace Sys2Proof.Machine

/-- Bytes `k`, `k + 1`, … of a rising list of cells, 0xFF where none is listed: `n` of them. -/
def expand : Nat → Nat → List Host.Cell → List Byte
  | 0, _, _ => []
  | n + 1, k, [] => 0xFF :: expand n (k + 1) []
  | n + 1, k, (a, b) :: t => if a = k then b :: expand n (k + 1) t else 0xFF :: expand n (k + 1) ((a, b) :: t)

/-- The 64 KiB of one logical sector. -/
def logSector (s : State) (d log : Nat) : List Byte :=
  match holder s d log with
  | some p => expand 65536 (areaSector d p * 65536) (s.flash.bytes.filter fun e => e.1 / 65536 = areaSector d p)
  | none => List.replicate 65536 0xFF

/-- A copy of the almanac: 128 KiB. -/
def almCopy (s : State) (d : Nat) : List Byte := logSector s d 0 ++ logSector s d 1

/-- The image record of a copy: MAGIC, SEQ and CRC (R246). -/
def almRecord (s : State) (d : Nat) : List Byte := flashBytes s (logAddr d 1 + 0xFF00) 12

/-- Has a copy a page that was read as uncorrectable? Its CRC then fails (R246, log 105). -/
def almBad (s : State) (d : Nat) : Bool :=
  [0, 1].any fun log => match holder s d log with
    | some p => s.flash.badPages.any fun g => g / 256 == areaSector d p
    | none => false

/-- Does the image record of a copy verify (R246)? -/
def almValid (rec bs : List Byte) : Bool :=
  leAt rec 0 4 == 0x43524131 && leAt rec 4 4 == leAt bs 8 4 && leAt rec 8 4 == crc32 (bs.take 0x1FF00)

/-- SEQ of a copy. -/
def almSeq (bs : List Byte) : Nat := leAt bs 8 4

/-- The valid copy with the higher SEQ, with its data area (R245). -/
def almBest (s : State) : Option (Nat × List Byte) :=
  let a := almCopy s 0
  let b := almCopy s 1
  match !almBad s 0 && almValid (almRecord s 0) a, !almBad s 1 && almValid (almRecord s 1) b with
  | true, true => if almSeq a < almSeq b then some (1, b) else some (0, a)
  | true, false => some (0, a)
  | false, true => some (1, b)
  | false, false => none

/-- The 256 bytes of the entry of channel `c` at set point `r`. -/
def entryBytes (bs : List Byte) (c r : Nat) : List Byte := slice bs (0x1000 + 256 * (4 * c + r)) 256

/-- Is an entry usable at set point `r`, for the identity `dev` of the device (R248)? What the channel reports is checked apart. -/
def entryOk (dev : BitVec 64) (copy e : List Byte) (r : Nat) : Bool :=
  e.getD 4 0 == 0x5A && leAt e 0 4 == crc32 (e.drop 4) && leAt e 5 1 == r && leAt copy 20 8 == dev.toNat

/-- The entry of the valid copy for a channel at a set point, where it is usable but for what the channel reports. -/
def almEntry (s : State) (c r : Nat) : Option (List Byte) :=
  match almBest s with
  | some (_, bs) => if entryOk s.fuses.devId bs (entryBytes bs c r) r then some (entryBytes bs c r) else none
  | none => none

/-- Do RANKS, DENSITY and ID of an entry equal what a channel reports (R248)? -/
def entryMatches (e : List Byte) (ranks density : Nat) (id : BitVec 64) : Bool :=
  leAt e 6 1 == ranks && leAt e 7 1 == density && leAt e 8 8 == id.toNat

/-- DSPSTAT.ALMV: bit r when the almanac holds usable entries at r for every present channel, of which there is one at least. -/
def almv (s : State) : Nat :=
  pack ((List.range 4).map fun r => (r, b2n (!(presentList s).isEmpty && (presentList s).all fun c =>
    match almEntry s c r with
    | some e => entryMatches e (s.chan c).ranks (s.chan c).density (s.chan c).id
    | none => false)))

/-- Is byte `i` of an entry part of a value of rank 1 (Table 8-6)? -/
def ofRank1 (i : Nat) : Bool :=
  i == 41 || i == 44 || i == 45 || i == 47 || (84 ≤ i && i < 120) || (156 ≤ i && i < 192) || i == 194 || i == 195 || i == 198 || i == 199 ||
    (204 ≤ i && i < 208) || (212 ≤ i && i < 216)

/-- Is byte `i` of an entry the upper byte of a delay (Table 8-6)? -/
def delayHigh (i : Nat) : Bool := i % 2 == 1 && ((24 ≤ i && i < 40) || (42 ≤ i && i < 46) || (48 ≤ i && i < 192))

/-- Bytes 24 to 215 of an entry as they are stored: bits [15:10] of a delay are 0, and so are the values of rank 1 of a one-rank channel
(R247). -/
def storedBytes (ranks : Nat) (measured : List Byte) : List Byte :=
  (List.range 192).map fun i =>
    let b := measured.getD i 0
    if ranks = 1 ∧ ofRank1 (24 + i) = true then 0 else if delayHigh (24 + i) then b &&& 3 else b

/-- The identification of a channel's ranks; a one-rank channel has none of rank 1 (R247). -/
def rankIds (ranks : Nat) (id : BitVec 64) : BitVec 64 := if ranks = 1 then id &&& 0xFFFFFFFF else id

/-- A channel entry (Table 8-6). `measured` are bytes 24 to 215. -/
def mkEntry (r ranks density : Nat) (id : BitVec 64) (temp : Int) (count : Nat) (measured : List Byte) : List Byte :=
  let body := [0x5A, BitVec.ofNat 8 r, BitVec.ofNat 8 ranks, BitVec.ofNat 8 density] ++ leBytes 8 (rankIds ranks id).toNat ++
    leBytes 2 (intBits 16 temp) ++ leBytes 2 (min 65535 count) ++ leBytes 4 0 ++ storedBytes ranks measured ++ List.replicate 40 0
  leBytes 4 (crc32 body) ++ body

/-- The delays of an entry, keyed as DLYSEL names them: KIND 0 and 1 per bit, 4 for CS and CA, 5 to 9 (R247, Table 8-12). -/
def entryDelays (e : List Byte) : List (Nat × Nat) :=
  (List.range 18).flatMap (fun b => [0, 1].flatMap fun k =>
    [(32 * k + b, leAt e (48 + 36 * k + 2 * b) 2 % 1024), (64 + 32 * k + b, leAt e (120 + 36 * k + 2 * b) 2 % 1024)]) ++
  (List.range 8).map (fun i => (64 * 4 + i, leAt e (24 + 2 * i) 2 % 1024)) ++
  [0, 1].flatMap (fun k => [(64 * 5 + 32 * k, leAt e (42 + 2 * k) 2 % 1024), (64 * 8 + 32 * k, leAt e (40 + k) 1),
    (64 * 9 + 32 * k, leAt e (46 + k) 1)] ++
    [0, 1].flatMap fun y => [(64 * 6 + 32 * k + y, leAt e (192 + 2 * k + y) 1), (64 * 7 + 32 * k + y, leAt e (196 + 2 * k + y) 1)])

/-- Load an entry into the PHY of a channel, with its oscillator baseline. -/
def loadEntry (c : Nat) (e : List Byte) (s : State) : State :=
  modChan c (fun k => { k with delays := (entryDelays e).foldl (fun t d => tset t d.1 d.2) k.delays, osc := slice e 200 8 }) s

/-- RDENT of a redirect entry (Table 7-16). -/
def rdent (r : Redirect) : Word :=
  packW [(31, b2n r.valid), (30, b2n r.pend), (24, r.spare), (21, r.rank), (17, r.bank), (0, r.row)]

/-- The redirect entry that a value of RDENT stands for. -/
def rdentOf (v : Nat) : Redirect :=
  { valid := v.testBit 31, pend := v.testBit 30, spare := ext v 24 6, rank := ext v 21 1, bank := ext v 17 4, row := ext v 0 17 }

/-- The redirects of a channel in a copy: entries whose two halves agree (R247). -/
def almRedirects (bs : List Byte) (c : Nat) : List (Nat × Redirect) :=
  (List.range 16).filterMap fun e =>
    let v := leAt bs (0x11000 + 128 * c + 8 * e) 4
    let n := leAt bs (0x11004 + 128 * c + 8 * e) 4
    let r := rdentOf v
    if n = 0xFFFFFFFF - v ∧ (r.valid = true ∨ r.pend = true) then some (e, r) else none

/-- The redirects of a channel after a reload from `alm`: those that the channel holds already, and that of a row being copied, stand, since
the lines they have moved are found there only (log 95). -/
def mergeRedirects (k : Chan) (alm : List (Nat × Redirect)) : Tab Redirect :=
  let own := k.red.filter fun e => e.2.valid || e.2.pend || (match k.rowCopy with | some rc => rc.entry == e.1 | none => false)
  (alm.filter fun a => !own.any fun e => e.1 == a.1).foldl (fun t a => tset t a.1 a.2) own

/-- Reload a channel's redirects from the almanac (F5, R227). -/
def reloadRedirects (c : Nat) (s : State) : State :=
  match almBest s with
  | some (_, bs) => modChan c (fun k => { k with red := mergeRedirects k (almRedirects bs c) }) s
  | none => s

/-- Replace `new.length` bytes at `k`. -/
def overlay (bs : List Byte) (k : Nat) (new : List Byte) : List Byte := bs.take k ++ new ++ bs.drop (k + new.length)

/-- PRESENT of the next copy, `was` that of the copy in use (R246): a channel that has trained is present; of one that has not, its last
full training tells, which was this start's when TRSTAT shows the full path. -/
def presentAt (s : State) (was : Nat) : Nat :=
  pack ((List.range 64).map fun c => (c, b2n ((s.chan c).answered || (fget s (Pg.ch c) F.CH_TRSTAT_PATH != 2 && was.testBit c))))

/-- The next copy of the almanac: header, the entries kept and those written anew, the redirect table, and the record (R245 to
R247). -/
def almNext (s : State) : List Byte :=
  let old : List Byte := match almBest s with | some (_, bs) => bs | none => List.replicate 0x20000 0xFF
  let seq := match almBest s with | some (_, bs) => (almSeq bs + 1) % 2 ^ 32 | none => 1
  let was := match almBest s with | some (_, bs) => leAt bs 12 8 | none => 0
  let hdr := padTo 256 (leBytes 4 0x4D4C4131 ++ leBytes 2 1 ++ [BitVec.ofNat 8 (fget s Pg.clk F.CLK_DSPSTAT_CURRENT), 0] ++
    leBytes 4 seq ++ leBytes 8 (presentAt s was) ++
    leBytes 8 s.fuses.devId.toNat)
  let ents := (List.range 64).flatMap fun c => (List.range 4).flatMap fun r =>
    tget (entryBytes old c r) (s.chan c).entry r
  let reds := (List.range 64).flatMap fun c => (List.range 16).flatMap fun e =>
    let v := (rdent (tget {} (s.chan c).red e)).toNat
    leBytes 4 v ++ leBytes 4 (0xFFFFFFFF - v)
  let body := hdr ++ List.replicate 3840 0xFF ++ ents ++ reds ++ List.replicate 52992 0xFF
  body ++ padTo 256 (leBytes 4 0x43524131 ++ leBytes 4 seq ++ leBytes 4 (crc32 body))

/-- Page `p` of a copy. -/
def almPage (bs : List Byte) (p : Nat) : List Byte := slice bs (256 * p) 256

/-- The first page from `p` on that is to be programmed: a reserved page stays erased (Table 8-4). -/
def nextPage (bs : List Byte) (p : Nat) : Option Nat := (List.range' p (512 - p)).find? fun i => (almPage bs i).any (· != 0xFF)

/-- An almanac write has ended: the entries that it holds are no longer waiting (R249). -/
def almDone (bs : List Byte) (s : State) : State :=
  { s with
    flash := { s.flash with almJob := none }
    chans := s.chans.map fun c => (c.1, { c.2 with entry := c.2.entry.filter fun e => e.2 != entryBytes bs c.1 e.1 }) }

/-- The next operation of an almanac write (R245): the two erases, then header, body and, last, the image record, page by page. It waits for
the management core, its bank, and, for an erase, a suspended erase and a free sector; in SAFE it rests (R406). A worn area refuses it
(R367). -/
def almGo (s : State) : State :=
  match s.flash.almJob with
  | none => s
  | some j =>
    if !coreRuns s || inSafe s || !bankFree s j.area then s
    else if j.next < 2 then
      if areaWorn s j.area then
        flshEvt E.FLSH_AREA_FULL (logAddr j.area j.next) 0
          { s with flash := { s.flash with almJob := none }, boot := { s.boot with almWant := true } }
      else if (s.fbank j.area).susp.isSome then s
      else startLogical j.area j.next .almanac s
    else
      match nextPage j.copy (j.next - 2) with
      | none => almDone j.copy s
      | some p =>
        match holder s j.area (p / 256) with
        | none => almAdvance false s
        | some q =>
          startFlash j.area (.program (areaSector j.area q * 65536 + p % 256 * 256) (almPage j.copy p)) .almanac
            { s with flash := { s.flash with almJob := some { j with next := p + 2 } } }

/-- The area of the copy to be written: not that of the valid one with the higher SEQ (R245). -/
def almTarget (s : State) : Nat := match almBest s with | some (0, _) => 1 | _ => 0

/-- ALMANAC_WRITE: the write of a new copy over the one that is not in use begins, with every change made since the last one (R245, R249);
one under way goes on. -/
def writeAlmanac (s : State) : State :=
  if s.flash.almJob.isSome then almGo s
  else if !s.boot.almWant || !coreRuns s || inSafe s then s
  else almGo { s with
    flash := { s.flash with almJob := some { area := almTarget s, copy := almNext s } }, boot := { s.boot with almWant := false } }

end Sys2Proof.Machine
end

