-- ==== Sys2Proof/Machine/Train.lean ====
section
/-!
DEFINITION. DRAM training (R233 to R257): campaigns, set-point changes, short retraining, the pattern generator, the sweep engine
and the training registers.
-/

namespace Sys2Proof.Machine

def chCfgErr (c : Nat) (s : State) : State := chEvt c E.CH_CFGERR 0 0 s

/-! ### Campaigns -/

/-- TRSTAT.PATH of a campaign. -/
def campPath : Campaign → Nat
  | .fast => 1
  | .full => 2
  | .setPoint => 2
  | .short => 3

/-- Does the campaign begin with step 1 or F1? At a set-point change a channel in service begins with F2 or step 4 (Table 8-7). -/
def Camp.fromStart (m : Camp) : Bool := !m.setPoint || m.startup

/-- The first step of a campaign (Tables 8-2, 8-3 and 8-7). A short retraining has no step of those tables. -/
def campFirst (m : Camp) : Nat :=
  match m.kind with
  | .fast => if m.fromStart then 11 else 12
  | .full => 1
  | .setPoint => 4
  | .short => 0

/-- The last step of a campaign. -/
def campLast (m : Camp) : Nat :=
  match m.kind with
  | .fast => if m.fromStart then 15 else 14
  | .full => 10
  | .setPoint => 9
  | .short => 0

/-- Refresh starts anew: no credit, no round, no hold. -/
def freshRanks (now : Nat) (k : Chan) : Chan :=
  { k with rank := (List.range k.ranks).map fun r =>
      (r, { (k.rk r) with credit := 0, round := [], held := none, lastRef := now, lastTick := now, span := (k.rk r).mult }) }

/-- Does the campaign reset the DRAM and its frequency set points (step 1, or F1 but for a warm entry: after a warm reset, and in a reset of a
channel whose DRAM was placed in self-refresh; R250, R332)? -/
def initsDram (s : State) (c : Nat) (m : Camp) : Bool :=
  (m.kind == .full || (m.kind == .fast && m.fromStart)) && !(m.startup && s.boot.warm) && !((s.chan c).inReset && (s.chan c).canDrive)

/-- The core drives BAYb_DRST_N high as it starts step 1 or F1 on a channel of bay b (R441). -/
def driveDrst (c : Nat) (m : Camp) (s : State) : State :=
  onlyIf ((m.kind == .full || m.kind == .fast) && m.fromStart && coreRuns s)
    (fun t => { t with boot := { t.boot with drst := t.boot.drst ||| BitVec.ofNat 8 (2 ^ (c / 8)) } }) s

/-- Start a campaign on a channel: TRAINING, or TRACKING kept for a short one (R235). Without the management core it stands still (R24,
R255). -/
def beginCamp (c : Nat) (m : Camp) (s : State) : State :=
  let p := Pg.ch c
  let ready := m.kind == .short || m.kind == .setPoint || !m.fromStart
  let t := modChan c (fun k => { k with
    state := if m.kind = .short then .tracking else .training
    fsp := if initsDram s c m then 0 else k.fsp
    fsp1 := if initsDram s c m then none else k.fsp1
    fsp2 := if initsDram s c m then none else k.fsp2
    scrubFrom := k.scrubFrom + selfRefSpan s.now k
    camp := some { m with since := s.now, ready := ready, past := !m.fromStart, stopped := !coreRuns s } }) (driveDrst c m s)
  fset p F.CH_TRSTAT_STEP (campFirst m) (fset p F.CH_TRSTAT_PATH (campPath m.kind) t)

/-- A campaign that no other led to: CAUSE tells of it alone. -/
def newCamp (c : Nat) (m : Camp) (s : State) : State := beginCamp c m (fset (Pg.ch c) F.CH_TRSTAT_CAUSE 0 s)

/-- May a start-up campaign begin on the channel: clocks locked, DRAM bring-up, not tried yet (R234, R323)? -/
def startupMay (s : State) (c : Nat) : Bool :=
  s.boot.state == .dram && s.pll.state == .locked && !startupOver s c && ((s.chan c).state == .absent || (s.chan c).state == .selfref)

/-- The kind that a fast or full campaign takes: fast needs a usable entry (R234). -/
def pathFor (s : State) (c : Nat) (kind : Campaign) : Campaign :=
  if kind = .fast then (if (almEntry s c s.pll.wck).isSome then .fast else .full) else kind

/-- Start a campaign on a channel, or restart one that a core reset or a reset of the channel cut short (R234, R255). -/
def startCampaign (c : Nat) (kind : Campaign) (s : State) : State :=
  let k := s.chan c
  if !coreRuns s || inSafe s then s
  else match k.camp with
    | some m =>
      if !m.stopped then s
      else if m.kind = kind then beginCamp c { m with tries := 0 } s
      else s
    | none =>
      match kind with
      | .short => if k.state == .tracking then newCamp c { kind := .short } s else s
      | .setPoint => s
      | _ =>
        if k.inReset then newCamp c { kind := pathFor s c kind } s
        else if startupMay s c then newCamp c { kind := pathFor s c kind, startup := true } s
        else s

/-- Data blocks of a channel with these parts (R32): 15/16 of the raw capacity in 4 KiB. -/
def ublkOf (ranks density : Nat) : Nat :=
  ranks * (if density = 0 then 12 else if density = 1 then 16 else if density = 2 then 24 else 32) * 30720

/-- One pending redirect is programmed on the cold full path: its entry is free again (R227), and the almanac is to be written
(R249). -/
def programRepair (c : Nat) (s : State) : State :=
  match (s.chan c).red.find? fun e => e.2.pend with
  | some e => wantAlmanac (modChan c (fun k => { k with red := k.red.filter fun f => f.1 != e.1 }) s)
  | none => s

/-- Are the parts within R199: one of its four densities, the same in both ranks? -/
def partsOk (p : Parts) : Bool := p.fits && decide (p.density0.val < 4) && (!p.ranks2 || p.density1 == p.density0)

/-- What a channel reports in step 1 or F1 (R238). -/
def reports (c : Nat) (p : Parts) (s : State) : State :=
  let n := if p.ranks2 then 2 else 1
  modChan c (fun k => { k with ranks := n, density := p.density0, id := rankIds n p.id, ublk := ublkOf n p.density0, rfmAt := p.rfm }) s

/-- The entry of a channel at a set point as the next write of the almanac will hold it: one not yet written, else that of the valid copy. -/
def currentEntry (s : State) (c r : Nat) : Option (List Byte) :=
  let e := tget [] (s.chan c).entry r
  if e.isEmpty then almEntry s c r else some e

/-- The almanac entry of a training that measured every delay (R247, R249): it waits for the next write. -/
def newEntry (c : Nat) (measured : List Byte) (s : State) : List Byte :=
  let k := s.chan c
  let sp := s.pll.wck
  let count := match currentEntry s c sp with | some e => leAt e 18 2 | none => 0
  mkEntry sp k.ranks k.density k.id (tempMax s) (count + 1) measured

/-- The FSP on which a campaign leaves the channel, with what FSP1 and FSP2 hold then (R250): a set-point change has chosen it, full
training uses FSP1, a fast path the operating FSP. -/
def passFsp (m : Camp) (sp : Nat) (k : Chan) : Nat × Option Nat × Option Nat :=
  if !m.fromStart then (k.fsp, k.fsp1, k.fsp2)
  else if sp = 3 then (0, k.fsp1, k.fsp2)
  else if m.kind != .full ∧ k.fsp2 = some sp then (2, k.fsp1, k.fsp2)
  else (1, some sp, k.fsp2)

/-- Admissions reopen on a channel that has passed; a channel in a reset waits for the end of the reset (R332). Background activities
start their periods anew where the controller did. -/
def passChan (c : Nat) (m : Camp) (s : State) : State :=
  let sp := s.pll.wck
  let f := passFsp m sp (s.chan c)
  let t := modChan c (fun k => { k with
    camp := none, rate := sp, answered := k.answered || m.startup, idleSince := s.now
    decayed := k.decayed || (!m.ready && m.fromStart && k.inReset && !k.canDrive && refreshLost s k), canDrive := true
    fsp := f.1, fsp1 := f.2.1, fsp2 := f.2.2 }) s
  let u := onlyIf m.fromStart (modChan c fun k =>
    { (if m.ready then k else freshRanks s.now k) with
      bgLast := [(1, s.now), (2, s.now), (3, s.now)], scrubFrom := if m.startup then s.now else k.scrubFrom }) t
  onlyIf (!(s.chan c).inReset) (modChan c fun k => { k with state := .ready }) (fset (Pg.ch c) F.CH_TRSTAT_STEP (campLast m)
    (fset (Pg.ch c) F.CH_TRSTAT_CAUSE 0 u))

/-- A campaign fails with a cause in a step (R234, R239, R252): a fast path falls back, a channel of the start-up is ABSENT, one in a
reset waits for the end of it, any other fails. -/
def failCampaign (c : Nat) (m : Camp) (cause step : Nat) (s : State) : State :=
  let p := Pg.ch c
  let t := fset p F.CH_TRSTAT_CAUSE cause (fset p F.CH_TRSTAT_STEP step s)
  match m.kind with
  | .fast => beginCamp c { m with kind := if m.fromStart then .full else .setPoint } t
  | _ =>
    if m.startup then modChan c (fun k => { k with camp := none, state := .absent }) t
    else if (s.chan c).inReset then
      onlyIf m.setPoint (dspFailed c) (modChan c (fun k => { k with camp := none }) t)
    else failChannel c 0x10 true t

/-- Count a campaign that has ended (TRCNT). -/
def countCamp (c : Nat) (kind : Campaign) (s : State) : State :=
  match kind with
  | .fast => fbump (Pg.ch c) F.CH_TRCNT_FAST s
  | .short => fbump (Pg.ch c) F.CH_TRCNT_SHORT s
  | _ => fbump (Pg.ch c) F.CH_TRCNT_FULL s

/-- The step of Table 8-2 in which a training failed. -/
def failStep (m : Camp) (f : TrainFail) : Nat :=
  match f with
  | .cbt => if m.kind = .setPoint then 4 else 2
  | .cbtTarget => 4
  | .wck => 5
  | .read => 6
  | .write => 7
  | .centreRead => 8
  | .centreWrite => 8

/-- TRSTAT.CAUSE of a training that failed (Table 8-12). The centring of step 8 fails as read or as write training (log 81). -/
def failCause (f : TrainFail) : Nat :=
  match f with
  | .cbt => 3
  | .cbtTarget => 3
  | .wck => 4
  | .read => 5
  | .centreRead => 5
  | .write => 6
  | .centreWrite => 6

/-- The step in which a fast path fails, if any does (R237): the CA check of F1, an error at any point of F3 on any bit, a drift in F4
beyond TRKMAX. -/
def fastFails (s : State) (c : Nat) (m : Camp) (f : FastCheck) : Option Nat :=
  if m.fromStart && f.caBad then some 11
  else if f.fifo.any (· != 0) || f.rdc != 0 then some 13
  else if fget s (Pg.ch c) F.CH_CALCFG_TRKMAX < f.drift.natAbs then some 14
  else none

/-- Does a campaign wait for the fast checks of its set-point change to end (S5)? -/
def campWaits (s : State) (m : Camp) : Bool := m.setPoint && m.kind != .fast && dspState s == 2

/-- The fast path ends (R237, R248): an entry that does not fit what the channel reported leads on to the full path, as a failed check
does. F5 reloads the redirects, but not at a set-point change (Table 8-7). -/
def endFast (c : Nat) (m : Camp) (f : FastCheck) (s : State) : State :=
  let k := s.chan c
  let on := beginCamp c { m with kind := if m.fromStart then .full else .setPoint } s
  match almEntry s c s.pll.wck with
  | none => on
  | some e =>
    if !entryMatches e k.ranks k.density k.id then on
    else match fastFails s c m f with
      | some step => failCampaign c m 7 step s
      | none => passChan c m (onlyIf m.fromStart (reloadRedirects c) (loadEntry c e s))

/-- A full or set-point training ends (R236, R239). The full path reloads the redirects as F5 does, and on the cold full path of the
start-up programs one repair (R227). -/
def endFull (c : Nat) (m : Camp) (r : CampaignResult) (s : State) : State :=
  match r.fail with
  | some f => failCampaign c m (failCause f) (failStep m f) s
  | none =>
    let e := newEntry c r.measured s
    let t := wantAlmanac (loadEntry c e (modChan c (fun k => { k with entry := tset k.entry s.pll.wck e }) s))
    let u := onlyIf (m.kind == .full && !(s.chan c).red.any (fun e => e.2.valid || e.2.pend)) (reloadRedirects c) t
    passChan c m (onlyIf (m.kind == .full && m.startup && !s.boot.warm) (programRepair c) u)

/-- A fast, full or set-point campaign ends (R237 to R239): parts outside R199 make the channel ABSENT with cause IDMISM, without
another path. -/
def endCampaign (c : Nat) (r : CampaignResult) (s : State) : State :=
  match (s.chan c).camp with
  | none => s
  | some m =>
    if m.kind == .short || m.stopped || !coreRuns s || campWaits s m then s
    else
      let t := countCamp c m.kind (onlyIf m.fromStart (reports c r.parts) s)
      let u :=
        if m.fromStart && !partsOk r.parts then failCampaign c { m with kind := .full } 2 (campFirst m) t
        else match m.kind with
          | .fast => endFast c m r.check t
          | _ => endFull c m r t
      onlyIf m.setPoint dspAdvance u

/-- No answer within 10 ms of step 1 or F1: ABSENT at start-up with cause NORESP (R238). A channel that has gone on to a step after
command-bus training has answered. -/
def noResponse (c : Nat) (s : State) : State :=
  match (s.chan c).camp with
  | some m =>
    if (m.kind == .fast || m.kind == .full) && m.fromStart && !m.past && !m.stopped && coreRuns s && !campWaits s m then
      let t := countCamp c m.kind (waitUntil (m.since + ms 10) s)
      onlyIf m.setPoint dspAdvance (failCampaign c { m with kind := .full } 1 (campFirst m) t)
    else s
  | none => s

/-! ### Set-point changes (R250 to R253) -/

/-- The FSP that a change to set point `t` uses, with what FSP1 and FSP2 hold then (R250). DESIGN CHOICE: where the DRAM runs on FSP0 and both
are filled, FSP2 is the idle one that is written anew (log 94). -/
def nextFsp (k : Chan) (t : Nat) : Nat × Option Nat × Option Nat :=
  if t = 3 then (0, k.fsp1, k.fsp2)
  else if k.fsp1 = some t then (1, k.fsp1, k.fsp2)
  else if k.fsp2 = some t then (2, k.fsp1, k.fsp2)
  else if k.fsp = 1 then (2, k.fsp1, some t)
  else if k.fsp = 2 then (1, some t, k.fsp2)
  else if k.fsp1 = none then (1, some t, k.fsp2)
  else (2, k.fsp1, some t)

/-- Does a set-point change train this channel: in service, or in a campaign that it has abandoned? -/
def dspTrains (s : State) (c : Nat) : Bool := (chServes s c || (s.chan c).camp.isSome) && !chFailed s c

/-- S1 of one channel: drained and flushed into self-refresh, which it leaves on the new FSP (S2, S3). A channel whose DRAM has not been
brought up in this start or this reset has nothing to drain. -/
def switchDram (c : Nat) (s : State) : State :=
  match (s.chan c).camp with
  | some m => if m.startup || (s.chan c).inReset then s else enterSelfRefresh c s
  | none => enterSelfRefresh c s

/-- Steps S1 to S4 of one channel: drained, through self-refresh, onto the new FSP, and into its first campaign: F2 to F4 where it has a
usable entry, else set-point training once the last of those has ended (S5). A start-up campaign restarts (R253). -/
def switchChan (target c : Nat) (s : State) : State :=
  let startup := match (s.chan c).camp with | some m => m.startup | none => false
  let t := switchDram c s
  let k := t.chan c
  let f := nextFsp k target
  let u := modChan c (fun k => freshRanks t.now { k with fsp := f.1, fsp1 := f.2.1, fsp2 := f.2.2, rate := target, sweep := none }) t
  let usable := match almEntry u c target with
    | some e => startup || entryMatches e k.ranks k.density k.id
    | none => false
  beginCamp c { kind := if usable then .fast else if startup then .full else .setPoint, startup := startup, setPoint := true } u

/-- A change starts (R252). -/
def startChange (target : Nat) (s : State) : State :=
  let cs := (List.range 64).filter (dspTrains s)
  let t := fset Pg.clk F.CLK_DSPSTAT_TARGET target (fset Pg.clk F.CLK_DSPSTAT_STATE 2
    { s with pll := { s.pll with wck := target, dspFail := none } })
  dspAdvance (forAll cs (switchChan target) t)

/-- Abandon every running campaign (R253). -/
def abandonAll (s : State) : State :=
  forAll ((List.range 64).filter fun c => (s.chan c).camp.isSome) (fun c t =>
    fbump (Pg.ch c) F.CH_TRCNT_ABANDON (fset (Pg.ch c) F.CH_TRSTAT_CAUSE 8 t)) s

/-- Does a running campaign stand in the middle of a gather step, a sweep (R253)? -/
def gathering (s : State) : Bool := s.chans.any fun e => e.2.camp.isSome && e.2.sweep.isSome

/-- A write of DSPREQ with GO (R251). In SAFE no change runs: training has stopped (R406); TARGET alone is written. -/
def dspRequest (target : Nat) (s : State) : State :=
  let t := fset Pg.clk F.CLK_DSPREQ_TARGET target s
  let refuse (cause : Nat) : State := dspEvt E.CLK_DSP_REFUSED target 0 (fset Pg.clk F.CLK_DSPSTAT_REFUSED cause t)
  if inSafe s then t
  else if target = fget s Pg.clk F.CLK_DSPSTAT_CURRENT then dspEvt E.CLK_DSP_DONE target 0 t
  else if kpSum s ≠ 0 then refuse 1
  else if 2 ≤ dspState s then refuse 2
  else if dspState s = 1 then fset Pg.clk F.CLK_DSPSTAT_TARGET target t
  else if s.chans.any fun e => e.2.camp.isSome then
    dspEvt E.CLK_DSP_DEFER target 0 (fset Pg.clk F.CLK_DSPSTAT_TARGET target (fset Pg.clk F.CLK_DSPSTAT_STATE 1 t))
  else startChange target t

/-- A deferred change starts once no campaign stands in a gather step (R253). -/
def deferredStart (s : State) : State :=
  if dspState s = 1 ∧ gathering s = false ∧ inSafe s = false then startChange (fget s Pg.clk F.CLK_DSPSTAT_TARGET) (abandonAll s) else s

/-- A change ends when every channel has passed or failed (R252, S6). -/
def endChange (s : State) : State :=
  if 2 ≤ dspState s ∧ dspCamp s (fun _ => true) = false then
    let target := fget s Pg.clk F.CLK_DSPSTAT_TARGET
    wantAlmanac (dspEvt E.CLK_DSP_DONE target 0 (fset Pg.clk F.CLK_DSPSTAT_CURRENT target (fset Pg.clk F.CLK_DSPSTAT_STATE 0 s)))
  else s

/-! ### Short retraining (R254) -/

/-- How far the common delay that a key of a delay belongs to has moved, within the 64 steps of its sweep (R254). A bit's lane is that of
R236; KIND 2 and 3 are the common delays themselves. -/
def commonMove (moves : List Int) (key : Nat) : Int :=
  let kind := key / 64
  let sel := key % 32
  let lane := if 2 ≤ kind then sel else if sel < 8 then 0 else if sel < 16 then 1 else sel - 16
  if 4 ≤ kind ∨ 2 ≤ lane then 0 else max (-64) (min 64 (moves.getD (4 * (kind % 2) + 2 * (key / 32 % 2) + lane) 0))

/-- The delays of a channel with the common ones among them: KIND 2 and 3, for both ranks and byte lanes. One never set is 0. -/
def commonKeys (k : Chan) : Tab Nat :=
  [128, 129, 160, 161, 192, 193, 224, 225].foldl (fun t i => tset t i (tget 0 t i)) k.delays

/-- Centre the common delays: they and the per-bit delays of their lanes move together, within ten bits (R254, log 12). -/
def moveCommon (c : Nat) (moves : List Int) (s : State) : State :=
  modChan c (fun k => { k with delays := (commonKeys k).map fun e => (e.1, min 1023 ((e.2 : Int) + commonMove moves e.1).toNat) }) s

/-- Has any per-bit delay moved more than 8 steps from its almanac entry (R249)? -/
def movedFar (s : State) (c : Nat) : Bool :=
  match currentEntry s c s.pll.wck with
  | none => false
  | some e => (entryDelays e).any fun d =>
    decide (d.1 < 128) && decide (8 < (((tget d.2 (s.chan c).delays d.1 : Nat) : Int) - (d.2 : Int)).natAbs)

/-- The entry with the delays and the oscillator baseline as they stand after a short retraining. -/
def movedEntry (s : State) (c : Nat) : Option (List Byte) :=
  (currentEntry s c s.pll.wck).map fun e =>
    let at_ (kind rank b : Nat) : List Byte := leBytes 2 (tget 0 (s.chan c).delays (64 * kind + 32 * rank + b))
    let arr (kind : Nat) : List Byte := [0, 1].flatMap fun rank => (List.range 18).flatMap fun b => at_ kind rank b
    mkEntry s.pll.wck (s.chan c).ranks (s.chan c).density (s.chan c).id (tempMax s) (leAt e 18 2 + 1)
      (slice e 24 24 ++ arr 0 ++ arr 1 ++ slice e 192 8 ++ padTo 8 (s.chan c).osc ++ slice e 208 8)

/-- A short retraining has moved the delays far from the entry: the almanac is to be written with the new one (R249). -/
def noteMoved (c : Nat) (s : State) : State :=
  match movedFar s c, movedEntry s c with
  | true, some e => wantAlmanac (modChan c (fun k => { k with entry := tset k.entry s.pll.wck e }) s)
  | _, _ => s

/-- An attempt ends (R254): a pass takes a new oscillator baseline and reopens admissions, a second failure fails the channel. -/
def shortDone (c : Nat) (pass : Bool) (found : Recentred) (s : State) : State :=
  match (s.chan c).camp with
  | some m =>
    if m.kind != .short || m.stopped || !coreRuns s then s
    else if pass then
      let t := noteMoved c (modChan c (fun k => { k with osc := padTo 8 found.osc }) (moveCommon c found.moves s))
      kpReturn (countCamp c .short (modChan c (fun k => { k with camp := none, state := .ready, idleSince := s.now }) t))
    else if m.tries = 0 then modChan c (fun k => { k with camp := some { m with tries := 1, since := s.now } }) s
    else failChannel c 0x10 true (countCamp c .short s)
  | none => s

/-! ### Pattern generator and sweep engine (R240 to R243) -/

/-- The registers of a PRBS-31 generator for bit `b` (R240). -/
def prbsSeed (seed b : Nat) : Nat :=
  let v := (seed.xor (b * 0x40001)) % 2 ^ 31
  if v = 0 then 2 ^ 31 - 1 else v

/-- One step of a PRBS-31 generator: its output bit and the next register (R109). -/
def prbs31 (r : Nat) : Nat × Nat :=
  let b := (r / 2 ^ 30 + r / 2 ^ 27) % 2
  (b, (2 * r + b) % 2 ^ 31)

/-- The first `n` output bits of a generator. -/
def prbsBits : Nat → Nat → List Nat
  | 0, _ => []
  | n + 1, r => (prbs31 r).1 :: prbsBits n (prbs31 r).2

/-- `n` expected beats of 18 bits: the pattern that PGCTL sets, with its inverted bits, or in OP RDC the pattern that the DRAM returns
from its registers (R240, R241). -/
def patternBeats (s : State) (c n : Nat) : List (BitVec 18) :=
  let p := Pg.ch c
  let ram (i : Nat) : Nat := tget 0 (s.chan c).userRam i
  let inv := BitVec.ofNat 18 (fget s p F.CH_PGCTL_INVERT)
  let raw : List (BitVec 18) :=
    match fget s p F.CH_PGCTL_MODE with
      | 1 =>
        let gens := (List.range 18).map fun b => prbsBits n (prbsSeed (fget s p F.CH_PGSEED_SEED) b)
        (List.range n).map fun k => BitVec.ofNat 18 (pack (gens.zipIdx.map fun g => (g.2, g.1.getD k 0)))
      | 2 => (List.range n).map fun k => BitVec.ofNat 18 (2 ^ (k % 18))
      | 3 => (List.range n).map fun k => ~~~ (BitVec.ofNat 18 (2 ^ (k % 18)))
      | 4 => (List.range n).map fun k => BitVec.ofNat 18 (ram (k % (fget s p F.CH_PGCTL_ULEN + 1)))
      | _ => List.replicate n 0
  if fget s p F.CH_SWCTL_OP = 0 then (List.range n).map fun k => BitVec.ofNat 18 ((s.chan c).rdc.getD (k % 4) 0)
  else raw.map (· ^^^ inv)

/-- Key of the delay that a selector of KIND, RANK and SEL names. -/
def dlyKey (kind rank sel : Nat) : Nat := 64 * kind + 32 * rank + sel

/-- Number of points of the sweep that SWRANGE and SWCTL ask for; none when GO is ignored (R243). -/
def sweepPoints (s : State) (c : Nat) : Option Nat :=
  let p := Pg.ch c
  let a := fget s p F.CH_SWRANGE_START
  let b := fget s p F.CH_SWRANGE_STOP
  let st := fget s p F.CH_SWCTL_STEP
  if st = 0 ∨ b < a then none
  else if 128 < (b - a) / st + 1 then none
  else some ((b - a) / st + 1)

/-- The first sweep of a campaign follows its step 1 or F1: the ranks are initialised, and refresh runs (R235). In the reset of a channel
whose controller was lost, the first refresh ends the time that R332 measures (step 5). -/
def campReady (s : State) (k : Chan) : Chan :=
  match k.camp with
  | some m =>
    if m.ready then k
    else freshRanks s.now { k with
      camp := some { m with ready := true }, decayed := k.decayed || (k.inReset && !k.canDrive && refreshLost s k) }
  | none => k

/-- A sweep of a path other than command-bus loopback belongs to a step after command-bus training: the channel has answered (R238) and runs
on the operating FSP (R250, step 3 of Table 8-2, F2). -/
def campPast (s : State) (op : Nat) (k : Chan) : Chan :=
  match k.camp with
  | some m =>
    if op = 2 ∨ m.past = true then k
    else
      let f := passFsp m s.pll.wck k
      { k with camp := some { m with past := true }, fsp := f.1, fsp1 := f.2.1, fsp2 := f.2.2 }
  | none => k

/-- SWCMD.GO (R242, R243): the engine sets the selected delay to START for the first point. In OP RDC entries 0 to 3 of the user RAM go into
the pattern registers of the DRAM first (R241). -/
def sweepStart (c : Nat) (s : State) : State :=
  let p := Pg.ch c
  let key := dlyKey (fget s p F.CH_SWCTL_KIND) (fget s p F.CH_SWCTL_RANK) (fget s p F.CH_SWCTL_SEL)
  match sweepPoints s c with
  | some n =>
    if (s.chan c).sweep.isSome then chCfgErr c s
    else
      modChan c (fun k => { campPast s (fget s p F.CH_SWCTL_OP) (campReady s k) with
        delays := tset k.delays key (fget s p F.CH_SWRANGE_START)
        berr := List.replicate 18 0, results := []
        rdc := if fget s p F.CH_SWCTL_OP = 0 then (List.range 4).map (fun i => tget 0 k.userRam i) else k.rdc
        sweep := some { key := key, saved := tget 0 k.delays key, points := n, since := s.now } })
        (fclear p [F.CH_SWSTAT_TRUNC, F.CH_SWSTAT_NPTS] s)
  | none => chCfgErr c s

/-- Add the wrong bits of one point to the BERR counters, and the bits that failed at it. -/
def comparePoint (want got : List (BitVec 18)) (berr : List Nat) : List Nat × Nat :=
  let wrong := List.zipWith (· ^^^ ·) want got
  let n (b : Nat) : Nat := (wrong.filter fun w => w.getLsbD b).length
  ((List.range 18).map fun b => min 65535 (berr.getD b 0 + n b), pack ((List.range 18).map fun b => (b, b2n (n b != 0))))

/-- A sweep ends with the points that completed: the received beats of each are compared, the delay from before GO is restored. -/
def sweepEnd (c : Nat) (trunc : Bool) (beats : List (List (BitVec 18))) (s : State) : State :=
  match (s.chan c).sweep with
  | none => s
  | some w =>
    let pts := beats.take w.points
    let want := patternBeats s c (16 * fget s (Pg.ch c) F.CH_SWCTL_BURSTS)
    let res := pts.foldl (fun (a : List Nat × List Nat) g =>
      let q := comparePoint want g a.1
      (q.1, a.2 ++ [q.2])) ((s.chan c).berr, [])
    modChan c (fun k => { k with sweep := none, berr := res.1, results := res.2, delays := tset k.delays w.key w.saved })
      (fset (Pg.ch c) F.CH_SWSTAT_TRUNC (b2n trunc) (fset (Pg.ch c) F.CH_SWSTAT_NPTS pts.length s))

/-- A register write to one of PGCTL to DLYVAL (R244): only the management core makes it, and only in TRAINING or TRACKING. -/
def trainWrite (src : Src) (c off : Nat) (f : State → State) (s : State) : State :=
  match src with
  | .core =>
    let t := wakeFor .core (Pg.ch c) s
    if (t.chan c).state == .training || (t.chan c).state == .tracking then f t else chCfgErr c t
  | .host p =>
    if !linkActive s p || inSafe s then s
    else if regRight s p (Pg.ch c) true then chCfgErr c s
    else countRefused p .denied s
  | .sideband => chCfgErr c (sbRefused (Pg.ch c * 4096 + off) s)

/-- The next value of URSEL.INDEX after an access to URDATA (R241). -/
def urNext (c : Nat) (s : State) : State :=
  fset (Pg.ch c) F.CH_URSEL_INDEX (fget s (Pg.ch c) F.CH_URSEL_INDEX + 1) s

/-- A read of URDATA. -/
def urRead (c : Nat) (s : State) : Word × State :=
  (BitVec.ofNat 32 (tget 0 (s.chan c).userRam (fget s (Pg.ch c) F.CH_URSEL_INDEX)), urNext c s)

/-- A write of URDATA. -/
def urWrite (c : Nat) (v : Word) (s : State) : State :=
  urNext c (modChan c (fun k => { k with userRam := tset k.userRam (fget s (Pg.ch c) F.CH_URSEL_INDEX) (ext v.toNat 0 18) }) s)

/-! ### The commands -/

/-- TRAINING_CAMPAIGN (R234). -/
def execTrainingCampaign (ch : Fin 64) (kind : Campaign) (s : State) : Host.Outcome State Fault Refusal :=
  .next (startCampaign ch kind s)

/-- CAMPAIGN_END (R239). -/
def execCampaignEnd (ch : Fin 64) (result : CampaignResult) (s : State) : Host.Outcome State Fault Refusal :=
  .next (endCampaign ch result s)

/-- CHANNEL_NORESP (R238). -/
def execChannelNoresp (ch : Fin 64) (s : State) : Host.Outcome State Fault Refusal := .next (noResponse ch s)

/-- SWEEP_GO (R243, R244). -/
def execSweepGo (src : Src) (ch : Fin 64) (s : State) : Host.Outcome State Fault Refusal :=
  .next (trainWrite src ch F.CH_SWCMD_GO.off (sweepStart ch) s)

/-- SWEEP_ABORT: the sweep ends at the current point; `beats` holds the points completed (R243). -/
def execSweepAbort (src : Src) (ch : Fin 64) (beats : List (List (BitVec 18))) (s : State) : Host.Outcome State Fault Refusal :=
  .next (trainWrite src ch F.CH_SWCMD_ABORT.off (sweepEnd ch true beats) s)

/-- The sweep has gone through all its points, at the latest 1 ms after GO; else the engine stood at the point it had come to when it
reached 1 ms (R243). -/
def sweepOver (c : Nat) (beats : List (List (BitVec 18))) (s : State) : State :=
  match (s.chan c).sweep with
  | some w =>
    if w.since + ms 1 < s.now then sweepEnd c true beats s
    else if beats.length < w.points then sweepEnd c true beats (waitUntil (w.since + ms 1) s)
    else sweepEnd c false beats s
  | none => s

/-- SWEEP_DONE (R243): `beats` holds the beats received at each point. -/
def execSweepDone (ch : Fin 64) (beats : List (List (BitVec 18))) (s : State) : Host.Outcome State Fault Refusal :=
  .next (sweepOver ch beats s)

/-- SWEEP_TRUNCATE: a sweep reaches 1 ms (R243). -/
def execSweepTruncate (ch : Fin 64) (beats : List (List (BitVec 18))) (s : State) : Host.Outcome State Fault Refusal :=
  .next (match (s.chan ch).sweep with
    | some w => sweepEnd ch true beats (waitUntil (w.since + ms 1) s)
    | none => s)

/-- URDATA_ACCESS (R241, R244). -/
def execUrdataAccess (src : Src) (ch : Fin 64) (write : Option Word) (s : State) : Host.Outcome State Fault Refusal :=
  .next (match write with
    | some v => trainWrite src ch F.CH_URDATA_BEAT.off (urWrite ch v) s
    | none => viaRead src (Pg.ch ch) (urRead ch) s)

/-- DSPREQ (R251). -/
def execDspreq (src : Src) (target : BitVec 2) (s : State) : Host.Outcome State Fault Refusal :=
  .next (viaReg src Pg.clk F.CLK_DSPREQ_GO.off (dspRequest target.toNat) s)

/-- SET_POINT_CHANGE_START (R253). -/
def execSetPointChangeStart (s : State) : Host.Outcome State Fault Refusal := .next (deferredStart s)

/-- ALMANAC_WRITE (R249). -/
def execAlmanacWrite (s : State) : Host.Outcome State Fault Refusal := .next (writeAlmanac s)

/-- SHORT_RETRAIN_DONE (R254). -/
def execShortRetrainDone (ch : Fin 64) (pass : Bool) (found : Recentred) (s : State) : Host.Outcome State Fault Refusal :=
  .next (shortDone ch pass found s)

end Sys2Proof.Machine
end

