-- ==== Sys2Proof/Machine/Power.lean ====
section
/-!
DEFINITION. Power states (R341 to R354): latency tolerance and the target state, port standby and wake, DIM and DARK, RETENTION.
-/

namespace Sys2Proof.Machine

def setPower (p : Power) (s : State) : State := { s with power := p }

/-- A PWR event with its cause (R354). -/
def pwrEvt (bit cause : Nat) (s : State) : State := raise Pg.pwr bit (packW [(27, bit), (0, cause)]) 0 s

/-! ### Tolerance and target (R344, R345) -/

/-- T_x of a port in ns. -/
def portTol (s : State) (l : Nat) : Nat :=
  if fget s (Pg.link l) F.HP_LTOL_EN = 1 then fget s (Pg.link l) F.HP_LTOL_VALUE * 32 ^ fget s (Pg.link l) F.HP_LTOL_SCALE else 0

/-- Host ports in ACTIVE. -/
def hostsActive (s : State) : List Nat := (List.range 16).filter (linkActive s)

/-- T in ns; nothing when no host port is in ACTIVE. -/
def tolMin (s : State) : Option Nat :=
  match hostsActive s with
  | [] => none
  | l :: t => some (t.foldl (fun a x => min a (portTol s x)) (portTol s l))

/-- The target state S as its code of Table 12-1. -/
def targetState (s : State) : Nat :=
  let fits (ns : Nat) : Bool := match tolMin s with | none => true | some t => decide (ns ≤ t)
  let deep := if fits 40000 then 3 else if fits 2000 then 2 else if fits 100 then 1 else 0
  min deep (fget s Pg.pwr F.PWR_PCFG_MAXST)

/-- PSTAT.STATE. -/
def stateCode (s : State) : Nat :=
  match s.power.state with
  | .active => min 1 (targetState s)
  | .dim => 2
  | .dark => 3
  | .retention => 4
  | .entering => 5
  | .waking => 6

/-- PSBY.LEVEL of a link. -/
def sbyLevel (k : Link) : Nat :=
  match k.standby with
  | .entered d => if d then 2 else 1
  | .waking d _ => if d then 2 else 1
  | _ => 0

/-! ### Port standby (R346 to R348) -/

/-- Is nothing of the port open, waiting or unacknowledged (R346)? -/
def portQuiet (s : State) (l : Nat) : Bool :=
  let k := s.link l
  k.tags.isEmpty && k.txq.isEmpty && k.txPartKind.isNone && k.replay.isEmpty && k.unacked == 0 && k.retire.isNone && k.widen.isNone &&
    !(s.accs.any (accOf l)) && !(s.commits.any (commitOf l)) && !(s.bells.any fun b => b.port == l) &&
    !(s.vecs.any fun e => e.2.pending && !e.2.mask && e.2.dport == l)

/-- PORT_STANDBY_START (R346, R347): once the port has been idle for PCFG.IDLE. -/
def standbyStart (l : Nat) (s : State) : State :=
  let k := s.link l
  if 16 ≤ l || !linkActive s l || k.standby != .none || targetState s < 2 || s.power.state == .entering || !portQuiet s l then s
  else
    let dark := targetState s == 3
    let t := waitUntil (k.lastBusy + us (fget s Pg.pwr F.PWR_PCFG_IDLE)) s
    sendGroup l (if dark then 6 else 5) k.active.toNat (modLink l (fun j => { j with standby := .asked dark t.now }) t)

/-- STBY_TIMEOUT (R347): 10 µs without an answer. -/
def standbyTimeout (l : Nat) (s : State) : State :=
  match (s.link l).standby with
  | .asked _ t => standbyRefused l (waitUntil (t + us 10) s)
  | _ => s

/-- The lanes of a mask have locked; once every lane of the active set has, the device sends its marker group with GSEQ 0 (R348). -/
def wakeLocked (l locked : Nat) (s : State) : State :=
  let t := modLink l (fun k => { k with lanes := k.lanes.map fun e =>
    (e.1, if k.active.getLsbD e.1 && locked.testBit e.1 then { e.2 with lock := true } else e.2) }) s
  let k := t.link l
  if goodLanes k = k.active.toNat then sendGroup l 0 k.active.toNat (modLink l (fun j => { j with gseqTx := 0, lastBusy := t.now }) t)
  else t

/-- The channels are out of self-refresh, and the lane PLLs settle: the device sends fill words on the sets of the ports that were
ACTIVE (step 6 of Table 12-2), once. No command stands for the step: it comes with the first command of a later one (log 109). -/
def fillPorts (s : State) : State :=
  if s.power.state != .waking || clocksOff s || s.chans.any (fun e => e.2.state == .selfref) || s.power.filledAt.isSome then s
  else forAll (s.power.wasActive.filter (linkActive s)) sendFill (setPower { s.power with filledAt := some s.now } s)

/-- PORT_WAKE (R348, R349): fill words from the host wake a port in standby, and its lanes lock. -/
def portWake (l locked : Nat) (s : State) : State :=
  if !linkActive s l then s
  else
    let t := fillPorts s
    let t := match (s.link l).standby with
      | .entered _ => wakePort l (wakeDevice 1 l t)
      | _ => t
    match (t.link l).standby with
    | .waking _ _ => wakeLocked l locked t
    | _ => t

/-- WAKE_LOCK_TIMEOUT (R348): a lane that has not locked within twice the wake time is faulty. -/
def wakeTimeout (l y : Nat) (s : State) : State :=
  let k := s.link l
  match k.standby with
  | .waking dark t =>
    if linkActive s l && k.active.getLsbD y && !(k.lane y).lock then lanesFaulty l (2 ^ y) (waitUntil (t + us (if dark then 80 else 4)) s) else s
  | _ => s

/-! ### DIM and DARK (R346, R349) -/

/-- Is no work in progress that keeps the device in ACTIVE (R346)? -/
def deviceQuiet (s : State) : Bool :=
  s.jobs.isEmpty && s.queues.all (fun e => e.2.state != .run || e.2.fetch == e.2.pidx) &&
    !(s.regions.any fun e => e.2.init) && !(s.commits.any (·.accepted)) && !(s.groups.any fun e => e.2.tload.isSome) &&
    !(s.chans.any fun e => e.2.camp.isSome) && dspState s == 0 && !hoBusy s &&
    !((List.range 16).any fun e => (s.mirror e).state == .resync)

/-- The level that the host ports in standby allow: 3, 2, or 0 when one is in service. -/
def standbyLevel (s : State) : Nat :=
  (hostsActive s).foldl (fun a l => match (s.link l).standby with | .entered d => min a (if d then 3 else 2) | _ => 0) 3

/-- The device is in a state of Table 12-1 up to DARK; from DIM on every channel that can be is in power-down (R228, R341). -/
def takeLevel (n : Nat) (s : State) : State :=
  let t := setPower { s.power with state := if n = 3 then .dark else if n = 2 then .dim else .active } s
  onlyIf (decide (2 ≤ n)) (forAll (t.chans.map (·.1)) powerDown) t

/-- POWER_STATE_ENTRY (R346); after a wake it waits for a further IDLE (R349). -/
def powerEntry (s : State) : State :=
  let n := min (targetState s) (standbyLevel s)
  let wait (t : State) : State := waitUntil (t.power.idleFrom + us (fget t Pg.pwr F.PWR_PCFG_IDLE)) t
  if !deviceQuiet s then s
  else if (n = 3 ∧ (s.power.state = .active ∨ s.power.state = .dim)) ∨ (n = 2 ∧ s.power.state = .active) then takeLevel n (wait s)
  else s

/-- DEVICE_WAKE (R349). -/
def deviceWake (c : WakeCause) (s : State) : State :=
  match c with
  | .laneSignal p => wakeDevice 1 p s
  | .message p => wakeDevice 2 p s
  | .sideband => wakeDevice 3 0 s
  | .core => wakeDevice 4 0 s

/-! ### RETENTION (R350 to R352) -/

/-- The first condition of R350 that does not hold, as its code of PSTAT.REFUSE; 0 when all hold. -/
def retainRefusal (s : State) : Nat :=
  if fget s Pg.pwr F.PWR_PCFG_RETEN = 0 then 1
  else if isMaster s then 2
  else if s.regions.any (fun e => e.2.en && e.2.kp) || (List.range 16).any (fun e => (s.mirror e).en) then 3
  else if s.regions.any fun e => e.2.en && !e.2.pendings.isEmpty then 4
  else if hoBusy s then 5
  else if !(s.queues.all fun e => e.2.state == .disabled || (e.2.state == .run && e.2.fetch == e.2.pidx)) || !s.jobs.isEmpty then 6
  else 0

/-- A suspended erase is resumed, so that the entry finds it completed (Table 13-9). -/
def resumeErases (s : State) : State :=
  forAll [0, 1] (fun b t =>
    match (t.fbank b).op, (t.fbank b).susp with
    | none, some o => setFbank b { (t.fbank b) with op := some { o with since := t.now }, susp := none } t
    | _, _ => t) s

/-- PCMD.RETAIN (R350); on the way into RETENTION, in it and on the way out it is ignored (R354). -/
def retain (s : State) : State :=
  if s.power.state == .entering || s.power.state == .retention || s.power.state == .waking then pwrEvt E.PWR_CFGERR 0 s
  else
    let c := retainRefusal s
    if c = 0 then resumeErases (setPower { s.power with state := .entering, refuse := 0, since := s.now, addrMatch := false } s)
    else pwrEvt E.PWR_RET_REFUSED c (setPower { s.power with refuse := c } s)

/-- Is a transaction still open (R351)? -/
def anyOpen (s : State) : Bool := !s.accs.isEmpty || !s.commits.isEmpty || s.links.any fun e => !e.2.tags.isEmpty

/-- Does work that R350 lets finish first make the entry wait? -/
def entryWaits (s : State) : Bool :=
  anyOpen s || s.chans.any (fun e => e.2.camp.isSome) || flashWorking s || s.pll.state == .step

/-- The exit begins (Table 12-2): the lock sequence runs from its first step (R264). -/
def beginExit (s : State) : State :=
  { setPower { s.power with state := .waking, since := s.now, addrMatch := false } s with
    pll := { s.pll with state := .waitref, since := s.now }
    links := s.links.map fun e => (e.1, if s.power.wasActive.contains e.1 then { e.2 with standby := .waking true s.now } else e.2) }

/-- RETENTION_ENTERED (R351): ports stop, the DRAM is in self-refresh, the PLL, WCK (Table 9-2) and the rails are off. Local stores are lost and the
time unit will start from FREE. -/
def retentionEntered (s : State) : State :=
  if s.power.state != .entering then s
  else if entryWaits s then resumeErases s
  else
    let up := (List.range 20).filter (linkActive s)
    let t := forAll ((s.chans.map (·.1)).filter (chServes s)) enterSelfRefresh (endCoast s)
    let u := fbump Pg.pwr F.PWR_PCNT_RETS (fset Pg.clk (F.CLK_OUTk_EN.shift 8) 0 { t with
      links := t.links.map fun e => (e.1, if up.contains e.1 then
        { e.2 with standby := .entered true, lanes := e.2.lanes.map fun a => (a.1, { a.2 with lock := false }) } else e.2)
      groups := t.groups.map fun g => (g.1, { g.2 with tvalid := 0, tables := [], cache := [], tload := none })
      pll := { t.pll with state := .off, offset := 0, hostSlew := false, stepWait := false, refpres := false }
      time := { t.time with
        state := .free, sched := {}, running := false, hops := 31, corr := 0, theta := 0, dirE := {}, dirW := {}, agree := 0
        resume := false, accept := false, adopt := false, epOk := false, holdStep := false }
      merid := { t.merid with inBlank := false }
      ring := { t.ring with links := t.ring.links.map fun r => (r.1, { r.2 with echo := none, fresh := 4, rts := [] }) }
      power := { t.power with state := .retention, since := t.now, wasActive := up, filledAt := none } })
    if s.power.addrMatch then beginExit u else u

/-- RETAIN_ABANDON (R351): a transaction is still open 1 ms after entry began. -/
def retainAbandon (s : State) : State :=
  if s.power.state == .entering && anyOpen s then
    let t := waitUntil (s.power.since + ms 1) s
    pwrEvt E.PWR_RET_REFUSED 7 (setPower { t.power with state := .active, refuse := 7 } t)
  else s

/-- RETENTION_WAKE (R352): an address match is not acknowledged and starts the exit, at once or at the end of the entry. -/
def retentionWake (s : State) : State :=
  match s.power.state with
  | .retention => beginExit { s with sb := { s.sb with state := .ignoring, nak := 1 } }
  | .entering => { setPower { s.power with addrMatch := true } s with sb := { s.sb with state := .ignoring, nak := 1 } }
  | _ => s

/-- RETENTION_EXIT_DONE (R352): the PLL has locked and the channels have left self-refresh; the ports that were ACTIVE are back after
fill words and marker groups, and STATE becomes the target (step 7 of Table 12-2). -/
def retentionExit (s : State) : State :=
  if s.power.state != .waking || s.pll.state != .locked || s.chans.any (fun e => e.2.state == .selfref) then s
  else
    let ports := s.power.wasActive.filter fun l => linkActive s l && sbyLevel (s.link l) != 0
    let v := forAll ports (fun l w =>
      let k := w.link l
      sendGroup l 0 k.active.toNat (setLink l { k with
        standby := .none, gseqTx := 0, lastBusy := w.now
        lanes := k.lanes.map fun a => (a.1, if k.active.getLsbD a.1 then { a.2 with lock := true } else a.2) } w)) (fillPorts s)
    pwrEvt E.PWR_RET_WOKE 3 (fset Pg.pwr F.PWR_WAKESRC_KIND 3 (fset Pg.pwr F.PWR_WAKESRC_PORT 0 (fbump Pg.pwr F.PWR_PCNT_WAKES
      (settleEpch (takeLevel (targetState v) (setPower { v.power with wasActive := [], filledAt := none, idleFrom := v.now } v))))))

/-- PARTNER_NO_ANSWER (R352): a port whose partner is silent 40 µs after step 6 of the exit trains under R89. -/
def partnerSilent (l : Nat) (s : State) : State :=
  let t := fillPorts s
  match t.power.filledAt with
  | some f =>
    if t.power.wasActive.contains l then
      dropToTraining l (waitUntil (f + us 40) (setPower { t.power with wasActive := t.power.wasActive.filter fun x => x != l } t))
    else t
  | none => t

/-! ### The commands -/

/-- PORT_STANDBY_START (R347). -/
def execPortStandbyStart (link : Fin 20) (s : State) : Host.Outcome State Fault Refusal := .next (standbyStart link s)

/-- STBY_ACK (R347). -/
def execStbyAck (link : Fin 20) (s : State) : Host.Outcome State Fault Refusal := .next (standbyAck link s)

/-- STBY_TIMEOUT (R347). -/
def execStbyTimeout (link : Fin 20) (s : State) : Host.Outcome State Fault Refusal := .next (standbyTimeout link s)

/-- PORT_WAKE (R348). -/
def execPortWake (link : Fin 20) (locked : BitVec 8) (s : State) : Host.Outcome State Fault Refusal :=
  .next (portWake link locked.toNat s)

/-- WAKE_LOCK_TIMEOUT (R348). -/
def execWakeLockTimeout (link : Fin 20) (lane : Fin 8) (s : State) : Host.Outcome State Fault Refusal :=
  .next (wakeTimeout link lane s)

/-- POWER_STATE_ENTRY (R346). -/
def execPowerStateEntry (s : State) : Host.Outcome State Fault Refusal := .next (powerEntry s)

/-- DEVICE_WAKE (R349). -/
def execDeviceWake (cause : WakeCause) (s : State) : Host.Outcome State Fault Refusal := .next (deviceWake cause s)

/-- RETAIN (R350). -/
def execRetain (src : Src) (s : State) : Host.Outcome State Fault Refusal :=
  .next (viaReg src Pg.pwr F.PWR_PCMD_RETAIN.off retain s)

/-- RETENTION_ENTERED (R351). -/
def execRetentionEntered (s : State) : Host.Outcome State Fault Refusal := .next (retentionEntered s)

/-- RETAIN_ABANDON (R351). -/
def execRetainAbandon (s : State) : Host.Outcome State Fault Refusal := .next (retainAbandon s)

/-- RETENTION_WAKE (R352). -/
def execRetentionWake (s : State) : Host.Outcome State Fault Refusal := .next (retentionWake s)

/-- RETENTION_EXIT_DONE (R352). -/
def execRetentionExitDone (s : State) : Host.Outcome State Fault Refusal := .next (retentionExit s)

/-- PARTNER_NO_ANSWER (R352). -/
def execPartnerNoAnswer (link : Fin 20) (s : State) : Host.Outcome State Fault Refusal := .next (partnerSilent link s)

end Sys2Proof.Machine
end

