-- ==== Sys2Proof/Machine/SafeState.lean ====
section
/-!
DEFINITION. The safety monitor (R396 to R423): SAFE entry, the scanner, the temperature sensors, the latent tests, FAULT_N and the
fault log.
-/

namespace Sys2Proof.Machine

def setSafe (u : SafeUnit) (s : State) : State := { s with safe := u }

/-! ### Parity errors by their holder (R399, Table 15-2) -/

/-- A fault of joiner-group scope with no event bit of its own. -/
def groupScope (g mech : Nat) (s : State) : State :=
  if inSafe s then logEvent mech 3 g 1 (Pg.jg g) 0 s
  else discardGroup g (modGroup g (fun k => { k with state := .returning }) (scopeReport mech 3 g 1 (Pg.jg g) 0 F.SAFE_FCNT_GROUP s))

/-- A fault of bay scope (Table 2-7): the bay's channels fail and its joiner group discards its work. -/
def bayScope (b mech : Nat) (s : State) : State :=
  if inSafe s then logEvent mech 4 b 2 (Pg.bay b) E.BAY_BAY_FAULT s
  else
    let t := scopeReport mech 4 b 2 (Pg.bay b) E.BAY_BAY_FAULT F.SAFE_FCNT_CHAN (bayFault b 0x3F s)
    let u := forAll ((List.range 8).filter fun i => chServes t (8 * b + i)) (fun i => failChannel (8 * b + i) mech true) t
    discardGroup b (modGroup b (fun k => { k with state := .returning }) u)

/-- A parity error found at use in a register or table of a page (Table 15-2). -/
def pageParity (page : Nat) (s : State) : State :=
  match pageType page with
  | 0x10 => portFault (page - 0x10) [page - 0x10] 0x0A s
  | 0xC0 => portFault (16 + page % 2) (pageLinks s (16 + page % 2)) 0x0A s
  | 0x40 => failChannel (page - 0x40) 0x0A true s
  | 0x80 => groupScope (page - 0x80) 0x0A s
  | 0x20 => bayScope (page - 0x20) 0x0A s
  | _ => deviceFault 0x0A page 0 s

/-! ### SAFE entry (R405) -/

/-- SCMD.ENTER (R405): without its key it is ignored and sets CFGERR. -/
def safeCommand (key : Nat) (s : State) : State :=
  if key = 0xA5C3 then safeFault 0xFF Pg.safe 0 s else safeEvt E.SAFE_CFGERR 0 Pg.safe 0 s

/-- End a host access or commit with DISCARDED and DETAIL 0x16. -/
def discardOpen (s : State) : State :=
  let t := forAll s.accs (discardAcc 0x16) s
  forAll t.commits (fun c u =>
    match c.src with
    | .host port tag => complete port tag 0 (u.region c.region).cls .discarded 0x16 (some c.region) u
    | _ => u) { t with commits := [] }

/-- Pending copies are dropped, and no pin is left (Table 2-7). -/
def dropPending (r : Region) : Region :=
  { r with cps := r.cps.map fun c => { c with role := if c.role = .pending then .idle else c.role, pins := 0 } }

/-- May a queued message still leave in SAFE: no XWR and no KPW does (R405, step 3)? -/
def mayLeave (m : Msg) : Bool :=
  match m.kind with
  | .xwr _ _ _ _ _ => false
  | .ring h => hdrOpc h != 0x40
  | _ => true

/-- SAFE_ENTRY_DONE (Table 15-4): channels in self-refresh, everything open ended with DISCARDED. The descriptors in progress go without a
record, and what QSTAT shows of them is frozen (Table 5-5): they stay listed until the reset that leaves SAFE. -/
def safeEntryDone (s : State) : State :=
  if s.safe.state != .entering then s
  else
    let t := forAll ((s.chans.map (·.1)).filter (drainsIn s)) enterSelfRefresh s
    let u := discardOpen { t with
      bells := []
      groups := t.groups.map fun g => (g.1, { g.2 with work := [] })
      regions := t.regions.map fun r => (r.1, dropPending r.2)
      chans := t.chans.map fun c => (c.1, { c.2 with camp := none, sweep := none, exiting := false })
      links := t.links.map fun l => (l.1, { l.2 with txq := l.2.txq.filter mayLeave }) }
    safeEvt E.SAFE_SAFE_ENTRY u.safe.lastMech Pg.safe 0 (fbump Pg.safe F.SAFE_FCNT_SAFE
      { u with safe := { u.safe with state := .safe }, regions := u.regions.map fun r => (r.1, dropPending r.2) })

/-- Does a fault in the stores of this page outlast a warm reset: PROT, the RWL fields and what else that reset keeps (R408, Table 11-5)? -/
def keptStore (page : Nat) : Bool := [Pg.clk, Pg.prot, Pg.rgn, Pg.epch, Pg.sbnd, Pg.safe].contains page || pageType page == 0x90

/-- SCAN_PASS (R400): a pass ends; `bad` are the pages of stores whose signature, or whose comparison with the region table, differs. A
store stays bad until a reset loads it anew; its signature is else that of what it holds (log 103). -/
def scanPass (bad : List Nat) (s : State) : State :=
  let dur := min 65535 (since s s.safe.scanAt / us 1)
  let t := fset Pg.safe F.SAFE_SCAN_PASSES (fget s Pg.safe F.SAFE_SCAN_PASSES + 1) (fset Pg.safe F.SAFE_SCAN_LASTUS dur
    { s with safe := { s.safe with scanAt := s.now, corrupt := s.safe.corrupt ++ bad.filter fun p => !s.safe.corrupt.contains p } })
  forAll bad (fun p => safeFault 9 p 0) t

/-! ### Temperature (R401) -/

/-- A number put into a rising list. -/
def insInt (x : Int) : List Int → List Int
  | [] => [x]
  | y :: t => if x ≤ y then x :: y :: t else y :: insInt x t

/-- The median of nine readings. -/
def median (l : List Int) : Int := (l.foldr insInt []).getD 4 0

/-- A sensor has differed from the median on two consecutive samples. -/
def sensorFails (i : Nat) (s : State) : State :=
  logEvent 0x0C 0 0 0 Pg.safe E.SAFE_LT_FAIL (safeEvt E.SAFE_LT_FAIL 0x0C Pg.safe i
    { s with safe := { s.safe with ltFail := s.safe.ltFail ||| 0x40#8 } })

/-- TEMP_SAMPLE (R401): nine readings in 1/16 °C. -/
def tempSample (temps : List Int) (s : State) : State :=
  let m := median temps
  let runs := temps.zipIdx.map fun e => if decide (160 < (e.1 - m).natAbs) then s.safe.sensorRun.getD e.2 0 + 1 else 0
  let t := { s with safe := { s.safe with temps := temps, sensorRun := runs } }
  let top := tempMax t
  let warn : Int := fget s Pg.safe F.SAFE_SCFG_TWARN
  let u := forAll ((List.range 9).filter fun i => runs.getD i 0 == 2) sensorFails t
  let v :=
    if u.safe.armed && decide (warn * 16 < top) then
      logEvent 0x0C 0 0 0 Pg.safe E.SAFE_TEMP_WARN (safeEvt E.SAFE_TEMP_WARN 0x0C Pg.safe 0 { u with safe := { u.safe with armed := false } })
    else if top ≤ (warn - 2) * 16 then { u with safe := { u.safe with armed := true } }
    else u
  let hot := if decide (115 * 16 < top) then v.safe.hotRun + 1 else 0
  let w := { v with safe := { v.safe with hotRun := hot } }
  if hot = 2 then deviceFault 0x0C Pg.safe 0 w else w

/-! ### Latent tests (R416 to R419) -/

/-- LTCFG.PERIOD in units. -/
def ltPeriod (s : State) : Nat := ms (60000 * fget s Pg.safe F.SAFE_LTCFG_PERIOD)

/-- Does a failed compare of a slice put the region in SINGLE on its mirror bay (R418)? One whose mirror footprint is lost or not yet whole
stays as it is (log 83). -/
def compareLost (r : Region) (bay : Nat) : Bool :=
  r.en && r.kp && r.pbay == bay && (r.kpState == .dual || (r.kpState == .resync && !r.kpLost))

/-- The mechanism, scope and unit of a failed latent test of a class below 3 (Tables 15-1 and 15-7). -/
def ltEntry (cls unit : Nat) : Nat × Nat × Nat :=
  if cls = 0 then (1, 2, unit) else if cls = 1 then (3, 4, unit % 8) else (4, 3, unit / 8)

/-- A failed in-service test (R418). The unit is the channel, the slice's bay, or 8·group + pair. In ENTERING and SAFE it is only logged
(Table 15-5). -/
def ltFailed (cls unit : Nat) (s : State) : State :=
  let t := { s with safe := { s.safe with ltFail := s.safe.ltFail ||| BitVec.ofNat 8 (2 ^ cls) } }
  if inSafe s && decide (cls < 3) then
    let e := ltEntry cls unit
    logEvent e.1 e.2.1 e.2.2 0 Pg.safe E.SAFE_LT_FAIL t
  else match cls with
  | 0 => if chServes t unit then failChannel unit 1 true t else t
  | 1 => forAll ((t.regions.filter fun e => compareLost e.2 (unit % 8)).map (·.1))
      (fun rn u => rgnEvt E.RGN_KP_SINGLE rn (modRegion rn (fun r => { r with kpState := .single, kpLost := false, toCopy := none }) u)) t
  | 2 => if (t.group (unit / 8)).fence.getLsbD (unit % 8) then t else groupEmpty (unit / 8) (fencePair (unit / 8) (unit % 8) t)
  | 3 => deviceFault 7 Pg.clk 0 t
  | 4 => deviceFault 9 Pg.safe 0 t
  | 5 => deviceFault 0x0D Pg.safe 0 t
  | c => logEvent (if c = 6 then 0x0C else 0) 0 0 0 Pg.safe E.SAFE_LT_FAIL (safeEvt E.SAFE_LT_FAIL (if c = 6 then 0x0C else 0) Pg.safe 0 t)

/-- LATENT_TEST_ROUND (R417): each class passes or fails; a class that passes is no longer overdue. -/
def ltRound (failed : List (Nat × Nat)) (s : State) : State :=
  if !coreRuns s then s
  else
    let t := if s.safe.ltRun then s else waitUntil (s.safe.ltAt + ltPeriod s) s
    let ok (c : Nat) : Bool := !failed.any fun f => f.1 == c
    let u := { t with safe := { t.safe with
      ltRun := false, ltAt := t.now
      ltPass := t.safe.ltPass.zipIdx.map fun e => if ok e.2 then t.now else e.1
      ltOverdue := BitVec.ofNat 8 (pack ((List.range 8).map fun c => (c, b2n (t.safe.ltOverdue.getLsbD c && !ok c)))) } }
    forAll failed (fun f => ltFailed f.1 f.2) u

/-- LT_OVERDUE (R419): classes whose last passed round is older than twice PERIOD. -/
def ltLate (s : State) : State :=
  let left := (List.range 8).filter fun c => !s.safe.ltOverdue.getLsbD c
  match left.map fun c => s.safe.ltPass.getD c 0 with
  | [] => s
  | x :: xs =>
    let t := waitUntil (xs.foldl min x + 2 * ltPeriod s + 1) s
    let late := (List.range 8).filter fun c => decide (2 * ltPeriod s < since t (t.safe.ltPass.getD c 0))
    logEvent 0 0 0 0 Pg.safe E.SAFE_LT_OVERDUE (safeEvt E.SAFE_LT_OVERDUE 0 Pg.safe 0
      { t with safe := { t.safe with ltOverdue := t.safe.ltOverdue ||| BitVec.ofNat 8 (pack (late.map fun c => (c, 1))) } })

/-- DIAG_LOST (R419): the core is HALTED, or has been held in reset for more than PERIOD. -/
def diagLost (s : State) : State :=
  let report (t : State) : State :=
    logEvent 0x0E 0 0 0 Pg.safe E.SAFE_DIAG_LOST (safeEvt E.SAFE_DIAG_LOST 0x0E Pg.safe 0 t)
  if s.boot.state == .halted then report s
  else if !s.boot.coreUp && !s.boot.held then report (waitUntil (s.boot.since + ltPeriod s + 1) s)
  else s

/-- STARTUP_TESTS_DONE (R416): bit 0 the safety-monitor channels, 1 the clock monitors, 2 the scanner and parity checkers, 3 the
decoders, 4 the sensors; pairs as 8·group + pair; channels whose decoder failed. -/
def startupTests (device : Nat) (pairs chans : List Nat) (s : State) : State :=
  if s.boot.held || s.boot.state == .pll || s.boot.testsDone then s
  else
    let t := { s with
      boot := { s.boot with testsDone := true }
      safe := { s.safe with testFail := device != 0 || !pairs.isEmpty || !chans.isEmpty, ltAt := s.now, ltPass := List.replicate 8 s.now } }
    let u := forAll pairs (fun p v => if (v.group (p / 8)).fence.getLsbD (p % 8) then v else groupEmpty (p / 8) (fencePair (p / 8) (p % 8) v)) t
    let v := forAll chans (fun c => failChannel c 1 false) u
    forAll (bitsSet 5 device) (fun i w =>
      match i with
      | 1 => safeFault 7 Pg.clk 0 w
      | 2 => safeFault 9 Pg.safe 0 w
      | 3 => safeFault 1 Pg.safe 0 w
      | 4 => safeFault 0x0C Pg.safe 0 w
      | _ => safeFault 0x0D Pg.safe 0 w) v

/-- FN_MISMATCH (R410): the level of the ball, high for `true`, against the driven one. -/
def fnCheck (level : Bool) (s : State) : State :=
  let t := { s with safe := { s.safe with fnRb := !level } }
  if level != fnDriven s then t
  else
    let u := logEvent 0x0D 0 0 0 Pg.safe E.SAFE_FN_MISMATCH (safeEvt E.SAFE_FN_MISMATCH 0x0D Pg.safe 0 t)
    let v := if fnDriven s then deviceFault 0x0D Pg.safe E.SAFE_FN_MISMATCH u else u
    { v with safe := { v.safe with fnRb := !level } }

/-- SCMD.CLRCNT (R422). -/
def clearSafe (s : State) : State := fclear Pg.safe [F.SAFE_FCNT_PORT, F.SAFE_FCNT_CHAN, F.SAFE_FCNT_GROUP] s

/-! ### The fault log (R413, R414) -/

/-- Bytes 0 to 63 of an entry (Table 15-7). -/
def captureBytes (s : State) (c : Capture) : List Byte :=
  padTo 64 (leBytes 4 0x464C4731 ++ leBytes 4 c.seq ++ leBytes 8 c.time.toNat ++ leBytes 4 c.epoch.toNat ++
    leBytes 1 c.mech ++ leBytes 1 c.scope ++ leBytes 1 c.unit ++ leBytes 1 c.action ++ leBytes 1 c.page ++ leBytes 1 c.bit ++
    leBytes 2 (intBits 16 c.temp) ++ leBytes 4 c.cap0.toNat ++ leBytes 4 c.cap1.toNat ++ leBytes 8 s.fuses.devId.toNat)

/-- A page closed by the CRC-32 of its bytes 0 to 251. -/
def crcPage (bs : List Byte) : List Byte := padTo 252 bs ++ leBytes 4 (crc32 (padTo 252 bs))

/-- The header of a log sector. -/
def logHeader (s : State) (seq : Nat) : List Byte :=
  crcPage (leBytes 4 0x464C4853 ++ leBytes 4 seq ++ leBytes 8 s.fuses.devId.toNat)

/-- The logical sector and page of log entry `n`. -/
def logPlace (n : Nat) : Nat × Nat := (2 + n / 255 % 16, 1 + n % 255)

/-- Where a fault-log write stands next. -/
def setLogJob (j : LogJob) (s : State) : State := { s with flash := { s.flash with logJob := some j } }

/-- The entry stands in both logs: it is freed (R414). -/
def logFinish (c : Capture) (rest : List Capture) (s : State) : State :=
  fset Pg.safe F.SAFE_LOGSTAT_LASTSEQ c.seq
    { s with safe := { s.safe with capture := rest }
             flash := { s.flash with logJob := none, logNext := s.flash.logNext + 1, logSeq := c.seq } }

/-- The first stage of an entry in one area: where its page is the first of a sector, or no sector holds the log there, the next sector of
the ring is erased; a worn area is passed over with AREA_FULL (R367). A page that is not erased, cut short by a reset, is passed over in
both logs (log 106). -/
def logBegin (d n : Nat) (s : State) : State :=
  match if n % 255 = 0 then none else holder s d (logPlace n).1 with
  | some p =>
    if pageBlank s (areaSector d p * 65536 + (logPlace n).2 * 256) then setLogJob ⟨d, 2⟩ s
    else setLogJob ⟨0, 0⟩ { s with flash := { s.flash with logNext := n + 1 } }
  | none =>
    if areaWorn s d then setLogJob ⟨d + 1, 0⟩ (flshEvt E.FLSH_AREA_FULL (logAddr d (logPlace n).1) 0 s)
    else if (s.fbank d).susp.isSome then s
    else startLogical d (logPlace n).1 .faultLog s

/-- The next operation of a fault-log write (R414): it waits for the management core and its bank. -/
def logStep (s : State) : State :=
  match s.safe.capture, s.flash.logJob with
  | c :: rest, some j =>
    let n := s.flash.logNext
    if !coreRuns s then s
    else if 2 ≤ j.area then logFinish c rest s
    else if !bankFree s j.area then s
    else if j.stage = 0 then logBegin j.area n s
    else match holder s j.area (logPlace n).1 with
      | none => setLogJob ⟨j.area, 0⟩ s
      | some p =>
        let base := areaSector j.area p * 65536
        if j.stage = 1 then startFlash j.area (.program base (logHeader s c.seq)) .faultLog s
        else startFlash j.area (.program (base + (logPlace n).2 * 256) (crcPage (captureBytes s c))) .faultLog s
  | _, _ => s

/-- A fault-log write goes on as far as it can without an operation that has to end. -/
def logGo (s : State) : State := forAll (List.range 4) (fun _ => logStep) s

/-- FAULT_LOG_WRITE (R414): the copy of the oldest entry into both logs, area 0 first, begins; one under way goes on. -/
def faultLogWrite (s : State) : State :=
  if s.safe.capture.isEmpty || !coreRuns s then s
  else logGo (match s.flash.logJob with | some _ => s | none => setLogJob ⟨0, 0⟩ s)

/-! ### The commands -/

/-- SAFE_ENTER (R405, R399). -/
def execSafeEnter (cause : SafeCause) (s : State) : Host.Outcome State Fault Refusal :=
  .next (match cause with
    | .command src key => viaReg src Pg.safe F.SAFE_SCMD_ENTER.off (safeCommand key.toNat) s
    | .parity page => pageParity page s
    | .bounds port => deviceFault 0x0A (Pg.link port) 0 s
    | .dataPath => deviceFault 0x0B Pg.dev 0 s)

/-- SAFE_ENTRY_DONE (R405). -/
def execSafeEntryDone (s : State) : Host.Outcome State Fault Refusal := .next (safeEntryDone s)

/-- SCAN_PASS (R400). -/
def execScanPass (bad : List Nat) (s : State) : Host.Outcome State Fault Refusal := .next (scanPass bad s)

/-- TEMP_SAMPLE (R401). -/
def execTempSample (temps : List Int) (s : State) : Host.Outcome State Fault Refusal := .next (tempSample temps s)

/-- LATENT_TEST_ROUND (R417). -/
def execLatentTestRound (failed : List (Fin 8 × Fin 64)) (s : State) : Host.Outcome State Fault Refusal :=
  .next (ltRound (failed.map fun f => (f.1.val, f.2.val)) s)

/-- LTRUN (R417). -/
def execLtrun (src : Src) (s : State) : Host.Outcome State Fault Refusal :=
  .next (viaReg src Pg.safe F.SAFE_SCMD_LTRUN.off (fun t => { t with safe := { t.safe with ltRun := true } }) s)

/-- LT_OVERDUE (R419). -/
def execLtOverdue (s : State) : Host.Outcome State Fault Refusal := .next (ltLate s)

/-- DIAG_LOST (R419). -/
def execDiagLost (s : State) : Host.Outcome State Fault Refusal := .next (diagLost s)

/-- MONITOR_SELF_COMPARE (R409). -/
def execMonitorSelfCompare (s : State) : Host.Outcome State Fault Refusal := .next (deviceFault 0x0D Pg.safe 0 s)

/-- FN_MISMATCH (R410). -/
def execFnMismatch (level : Bool) (s : State) : Host.Outcome State Fault Refusal := .next (fnCheck level s)

/-- SAFE_CLRCNT (R422). -/
def execSafeClrcnt (src : Src) (s : State) : Host.Outcome State Fault Refusal :=
  .next (viaReg src Pg.safe F.SAFE_SCMD_CLRCNT.off clearSafe s)

/-- STARTUP_TESTS_DONE (R416). -/
def execStartupTestsDone (device : BitVec 5) (pairs : List (Fin 64)) (chans : List (Fin 64)) (s : State) :
    Host.Outcome State Fault Refusal :=
  .next (startupTests device.toNat (pairs.map (·.val)) (chans.map (·.val)) s)

/-- FAULT_LOG_WRITE (R414). -/
def execFaultLogWrite (s : State) : Host.Outcome State Fault Refusal := .next (faultLogWrite s)

end Sys2Proof.Machine
end

