-- ==== Sys2Proof/Machine/Flash.lean ====
section
/-!
DEFINITION. The flash as commands: the mailbox, the ends of operations, the read window, rotation and the background reads.
-/

namespace Sys2Proof.Machine

/-- A write of MCMD with an operation code (R372). -/
def mboxVia (src : Src) (op : Nat) (s : State) : State := viaReg src Pg.flsh F.FLSH_MCMD_OP.off (mboxWrite src op) s

/-- Does a mailbox command, an almanac write or a fault-log write for this area go before the rotation, whose slack lasts while FREE is
above 4 (R366)? -/
def rotationYields (s : State) (d : Nat) : Bool :=
  decide (4 < freeSectors s d) && (s.boot.almWant || s.flash.almJob.isSome || !s.safe.capture.isEmpty ||
    match s.flash.mbox with
    | some { op := op, addr := a, result := none, .. } => decide (op ≤ 3) && flashBankOf a == d
    | _ => false)

/-- Start one rotation step in an area: it waits for the core, for its bank and for a suspended erase. -/
def rotate (d : Nat) (s : State) : State :=
  if !coreRuns s || !rotationDue s d || rotationYields s d || bankBusy s d || (s.fbank d).susp.isSome then s
  else
    let t := moveTail d 256 { s with flash := { s.flash with toMove :=
      (s.flash.toMove.filter fun n => sectorBank n != d || holds s d (n % 256)) } }
    match rotationSource t d, nextSector t d with
    | some src, some p => startFlash d (.erase (areaSector d p) 1 none 0) (.rotation src (t.cell src).log) t
    | _, _ => t

/-- The read of every mapped sector of one area and of the image slot of its bank (R368); `bad` names the pages that were weak or
uncorrectable by their flash address. -/
def refreshRead (d : Nat) (bad : List (Nat × FlashIn)) (s : State) : State :=
  if !coreRuns s || bankBusy s d then s
  else
    let t := { s with flash := { s.flash with refreshed := lset 0 s.flash.refreshed d s.now } }
    forAll (bad.filter fun e => flashBankOf e.1 = d && (addrSector s e.1).isSome) (fun e => ownRead e.1 e.2) t

/-! ### The commands -/

/-- MBOX_READ (R372). -/
def execMboxRead (src : Src) (s : State) : Host.Outcome State Fault Refusal := .next (mboxVia src 1 s)

/-- MBOX_PROGRAM (R362). -/
def execMboxProgram (src : Src) (s : State) : Host.Outcome State Fault Refusal := .next (mboxVia src 2 s)

/-- MBOX_ERASE (R361, R366). -/
def execMboxErase (src : Src) (s : State) : Host.Outcome State Fault Refusal := .next (mboxVia src 3 s)

/-- MBOX_SUSPEND (R363). -/
def execMboxSuspend (src : Src) (s : State) : Host.Outcome State Fault Refusal := .next (mboxVia src 4 s)

/-- MBOX_RESUME (R363). -/
def execMboxResume (src : Src) (s : State) : Host.Outcome State Fault Refusal := .next (mboxVia src 5 s)

/-- MBOX_DONE: a mailbox command ends (R372). -/
def execMboxDone (rd : FlashIn) (s : State) : Host.Outcome State Fault Refusal := .next (mboxEnd rd s)

/-- FLASH_OPERATION_DONE: a program, an erase step or a cell write of a bank ends (R361); writes of the almanac and the fault log that are
under way go on (R245, R414). -/
def execFlashOperationDone (bank : Fin 2) (verify : Bool) (s : State) : Host.Outcome State Fault Refusal :=
  .next (logGo (almGo (flashDone bank verify s)))

/-- RWDATA_READ: a read of the window (R356, R358). A busy bank refuses it by source: BUSY for a host port, a NACK of the address
for the sideband, a bus fault for the management core. -/
def execRwdataRead (src : Src) (rd : FlashIn) (s : State) : Host.Outcome State Fault Refusal :=
  if windowBusy s then
    match src with
    | .host p =>
      .next (if !linkActive s p || inSafe s then s
        else if regRight s p Pg.flsh false then countRefused p .busy s else countRefused p .denied s)
    | .sideband => .next (sbEvt E.SBND_BUSY_NAK 0 0 0x504C (fbump Pg.sbnd F.SBND_ERRCNT_BUSY { s with sb := { s.sb with nak := 2 } }))
    | .core => .fault (.busFault (BitVec.ofNat 20 (Pg.flsh * 4096 + F.FLSH_RWDATA_DATA.off)))
  else .next (viaRead src Pg.flsh (windowRead rd) s)

/-- ROTATION_STEP: a rotation step starts in a data area (R366). -/
def execRotationStep (area : Fin 2) (s : State) : Host.Outcome State Fault Refusal := .next (rotate area s)

/-- OPEN_SECTOR_ERASE: boot firmware erases an OPEN sector (R316). -/
def execOpenSectorErase (sector : Fin 1024) (s : State) : Host.Outcome State Fault Refusal :=
  .next (if coreRuns s && (s.cell sector).isOpen && !bankBusy s (sectorBank sector) && (s.fbank (sectorBank sector)).susp.isNone then
    startFlash (sectorBank sector) (.erase sector 1 none 0) .firmware s else s)

/-- FLASH_REFRESH_READ: the management core reads the mapped sectors of an area and a slot (R368). -/
def execFlashRefreshRead (area : Fin 2) (bad : List (Nat × FlashIn)) (s : State) : Host.Outcome State Fault Refusal :=
  .next (refreshRead area bad s)

/-- FLASH_CLRCNT: FCMD.CLRCNT clears FCNT (R374). -/
def execFlashClrcnt (src : Src) (s : State) : Host.Outcome State Fault Refusal :=
  .next (viaReg src Pg.flsh F.FLSH_FCMD_CLRCNT.off
    (fclear Pg.flsh [F.FLSH_FCNT_WEAKS, F.FLSH_FCNT_UNCORS, F.FLSH_FCNT_RETIRES]) s)

end Sys2Proof.Machine
end

