-- ==== Sys2Proof/Machine/Pulse.lean ====
section
/-!
DEFINITION. The meridian pulse and the blanking window (R25 to R27, R53, R297 to R299, R434).
-/

namespace Sys2Proof.Machine

/-- The number of the epoch that a pulse starts, and whether it is the domain's (R299). A master counts on; a member takes the
domain's number `k` unless it lies behind its own next one, and then only when EPADOPT asks for it. -/
def pulseNumber (s : State) (k : Word) : Word × Bool :=
  let n := s.merid.epoch + 1
  if isMaster s then (n, true)
  else if (k - n).toNat < 2 ^ 31 ∨ s.time.adopt = true then (k, true)
  else (n, false)

/-- A member that keeps its number reports it (R299). -/
def reportNumber (own : Bool) (s : State) : State :=
  if own then setTime { s.time with epOk := true, adopt := false } s
  else timeEvt E.TIME_EPOCH_MISM false 0 (setTime { s.time with epOk := false } s)

/-- A PERIOD written before takes effect, from this pulse on (R297). -/
def takePeriod (pt : BitVec 64) (epoch : Word) (s : State) : State :=
  let t := setTime { s.time with lastPtime := pt } s
  match t.time.perNext with
  | some p => setTime { t.time with
      perNext := none, running := p != 0, sched := { t.time.sched with ptime := pt, epoch := epoch, period := p } } t
  | none => t

/-- GUARD and BLANK take effect (R434); with BLANK of at least the period the window is open at once. -/
def takeEpch (epoch : Word) (s : State) : State :=
  let g := fget s Pg.epch F.EPCH_GUARD_US
  let b := fget s Pg.epch F.EPCH_BLANK_US
  let whole (n : Nat) : Bool := pulsing s && decide (s.time.sched.period ≤ us n * 65536)
  onlyIf (whole g) (epchEvt E.EPCH_CFGERR 0 epoch)
    { s with merid := { s.merid with guardNow := g, blankNow := b, inBlank := b != 0 && whole b, openedAt := s.now } }

/-- A step of the PLL or of device time starts when the open window allows it (R277, R292). -/
def windowWork (s : State) : State := tryTimeStep (tryStep s)

/-- The pulse reaches every unit (R26, R53, R160, R276, R298, R306). -/
def pulseEffects (pt : BitVec 64) (k : Word) (s : State) : State :=
  let num := pulseNumber s k
  let e := num.1
  let t := reportNumber num.2 { s with merid := { s.merid with epoch := e, lastPulse := some s.now, pulses := s.merid.pulses + 1, inBlank := false } }
  let u := hoAtPulse e (flipAll e t)
  let v := takeEpch e (takePeriod pt e u)
  let w := epchEvt E.EPCH_PULSE 0 e (forAll (List.range 16) (fun p => trigger (256 + p) false) v)
  windowWork (slewEpoch (presentDue w))

/-- MERIDIAN_PULSE (R298): at the first CK_CORE cycle that begins at or after PT. -/
def meridianPulse (s : State) : State :=
  match nextPulse s with
  | none => s
  | some (pt, k) =>
    let i := nextIdx s
    let t := reach pt s
    let u := elapse ((Config.unitsPerCore - t.now % Config.unitsPerCore) % Config.unitsPerCore) t
    pulseEffects (ptOf u.time.sched i) k u

/-- BLANKING_WINDOW_OPEN (R434). -/
def openWindow (s : State) : State :=
  match nextPulse s with
  | none => s
  | some (pt, _) =>
    if s.merid.blankNow = 0 ∨ s.merid.inBlank = true then s
    else
      let t := reach (pt - BitVec.ofNat 64 (us s.merid.blankNow)) s
      windowWork { t with merid := { t.merid with inBlank := true, openedAt := t.now } }

/-- ECMD.CLRCNT (R434). -/
def clearEpch (s : State) : State := fclear Pg.epch [F.EPCH_LATE_COUNT, F.EPCH_SKIP_COUNT, F.EPCH_FLIPS_COUNT] s

/-- MERIDIAN_PULSE (R298). -/
def execMeridianPulse (s : State) : Host.Outcome State Fault Refusal := .next (meridianPulse s)

/-- BLANKING_WINDOW_OPEN (R434). -/
def execBlankingWindowOpen (s : State) : Host.Outcome State Fault Refusal := .next (openWindow s)

/-- EPCH_CLRCNT (R434). -/
def execEpchClrcnt (src : Src) (s : State) : Host.Outcome State Fault Refusal :=
  .next (viaReg src Pg.epch F.EPCH_ECMD_CLRCNT.off clearEpch s)

end Sys2Proof.Machine
end

