-- ==== Sys2Proof/Machine/Crypto.lean ====
section
/-!
DEFINITION. What the boot ROM verifies an image with (R317, R370): SHA-256 and ECDSA over P-256.
-/

namespace Sys2Proof.Machine

/-! ### Bytes and numbers -/

/-- The number that bytes make, most significant byte first. -/
def beNat (bs : List Byte) : Nat := bs.foldl (fun a b => a * 256 + b.toNat) 0

/-- `n` bytes, most significant first. -/
def beBytes (n v : Nat) : List Byte := (leBytes n v).reverse

/-! ### SHA-256

The hash function that R317 and R370 name. Its constants are not tabled here but made as its standard makes them: 32 bits of the
fractions of the roots of the first primes. -/

/-- The whole part of a root of `v` below 2^40, found bit by bit from the top. -/
def rootPart (k v : Nat) : Nat :=
  (List.range 40).foldr (fun i r => if (r + 2 ^ i) ^ k ≤ v then r + 2 ^ i else r) 0

/-- The first 64 primes. -/
def firstPrimes : List Nat := (List.range 312).filter fun n => decide (1 < n) && (List.range n).all fun d => decide (d < 2) || n % d != 0

/-- The first 32 bits after the binary point of the `k`-th root of a prime. -/
def rootBits (k p : Nat) : Word := BitVec.ofNat 32 (rootPart k (p * 2 ^ (32 * k)))

/-- A word turned right by three amounts, the results added bit by bit. -/
def turned (i j k : Nat) (x : Word) : Word := x.rotateRight i ^^^ x.rotateRight j ^^^ x.rotateRight k

/-- A word turned right by two amounts and shifted by a third, the results added bit by bit. -/
def turnedCut (i j k : Nat) (x : Word) : Word := x.rotateRight i ^^^ x.rotateRight j ^^^ (x >>> k)

/-- The word `i` places back in a history, newest first. -/
def wordBack (h : List Word) (i : Nat) : Word := h.getD i 0

/-- A history of message words with the next word in front. -/
def nextWord (h : List Word) : List Word :=
  (turnedCut 17 19 10 (wordBack h 1) + turnedCut 7 18 3 (wordBack h 14) + wordBack h 6 + wordBack h 15) :: h

/-- The message words of a block with `n` words made beyond its own, newest first. -/
def messageWords (block : List Byte) : Nat → List Word
  | 0 => (pieces 4 block).reverse.map fun w => BitVec.ofNat 32 (beNat w)
  | n + 1 => nextWord (messageWords block n)

/-- What a block changes: two histories of words, newest first. The standard's eight variables are their first four each. -/
structure Digest where
  as : List Word
  es : List Word
deriving DecidableEq, Repr

/-- One round: `kw` is the sum of its constant and its message word. -/
def Digest.round (kw : Word) (d : Digest) : Digest :=
  let pick := (wordBack d.es 0 &&& wordBack d.es 1) ||| (~~~(wordBack d.es 0) &&& wordBack d.es 2)
  let most := (wordBack d.as 0 &&& wordBack d.as 1) ||| (wordBack d.as 2 &&& (wordBack d.as 0 ||| wordBack d.as 1))
  let sum := kw + pick + turned 6 11 25 (wordBack d.es 0) + wordBack d.es 3
  { as := (sum + most + turned 2 13 22 (wordBack d.as 0)) :: d.as, es := (sum + wordBack d.as 3) :: d.es }

/-- The rounds of one block, the last one outermost, and the sum with what was before. -/
def Digest.block (block : List Byte) (d : Digest) : Digest :=
  let keys := List.zipWith (· + ·) (firstPrimes.reverse.map (rootBits 3)) (messageWords block 48)
  let e := keys.foldr Digest.round d
  { as := List.zipWith (· + ·) d.as (e.as.take 4), es := List.zipWith (· + ·) d.es (e.es.take 4) }

/-- The state before the first block. -/
def Digest.first : Digest :=
  let w := firstPrimes.map (rootBits 2)
  { as := w.take 4, es := (w.drop 4).take 4 }

/-- A message with its padding: a 1 bit, zeros, and its length in bits, to whole blocks. -/
def shaPadded (m : List Byte) : List Byte :=
  m ++ [0x80] ++ List.replicate ((119 - m.length % 64) % 64) 0 ++ beBytes 8 (8 * m.length)

/-- SHA-256. -/
def sha256 (m : List Byte) : List Byte :=
  let d := (pieces 64 (shaPadded m)).foldl (fun d b => d.block b) Digest.first
  (d.as ++ d.es).flatMap fun w => beBytes 4 w.toNat

/-! ### P-256 -/

namespace P256
abbrev p : Nat := 0xffffffff00000001000000000000000000000000ffffffffffffffffffffffff
abbrev n : Nat := 0xffffffff00000000ffffffffffffffffbce6faada7179e84f3b9cac2fc632551
abbrev b : Nat := 0x5ac635d8aa3a93e7b3ebbd55769886bc651d06b0cc53b0f63bce3c3e27d2604b
abbrev gx : Nat := 0x6b17d1f2e12c4247f8bce6e563a440f277037d812deb33a0f4a13945d898c296
abbrev gy : Nat := 0x4fe342e2fe1a7f9b8ee7eb4a7c0f9e162bce33576b315ececbb6406837bf51f5
end P256

/-- x^e mod m for e below 2^256. -/
def powMod (x e m : Nat) : Nat :=
  (List.range 256).foldl (fun r i => let q := r * r % m; if e.testBit (255 - i) then q * x % m else q) (1 % m)

/-- The inverse of x modulo a prime. -/
def invMod (x m : Nat) : Nat := powMod (x % m) (m - 2) m

/-- x − y modulo p. -/
def subP (x y : Nat) : Nat := (x + P256.p - y % P256.p) % P256.p

/-- The sum of two points of the curve; `none` is the point at infinity. -/
def addPt (u v : Option (Nat × Nat)) : Option (Nat × Nat) :=
  match u, v with
  | none, v => v
  | u, none => u
  | some (x1, y1), some (x2, y2) =>
    if x1 = x2 ∧ (y1 + y2) % P256.p = 0 then none
    else
      let l := if x1 = x2 then (3 * x1 * x1 + (P256.p - 3)) * invMod (2 * y1) P256.p % P256.p
        else subP y2 y1 * invMod (subP x2 x1) P256.p % P256.p
      let x3 := subP (l * l) (x1 + x2)
      some (x3, subP (l * subP x1 x3) y1)

/-- A multiple of a point. -/
def mulPt (k : Nat) (u : Option (Nat × Nat)) : Option (Nat × Nat) :=
  (List.range 256).foldl (fun r i => let d := addPt r r; if k.testBit (255 - i) then addPt d u else d) none

/-- Does the signature (r, s) over the hash `e` verify under the key (x, y)? -/
def ecdsaOk (x y r s e : Nat) : Bool :=
  let onCurve := decide (x < P256.p) && decide (y < P256.p) &&
    y * y % P256.p == (x * x * x + (P256.p - 3) * x + P256.b) % P256.p
  let w := invMod s P256.n
  let pt := addPt (mulPt (e * w % P256.n) (some (P256.gx, P256.gy))) (mulPt (r * w % P256.n) (some (x, y)))
  onCurve && decide (0 < r) && decide (r < P256.n) && decide (0 < s) && decide (s < P256.n) &&
    match pt with
    | some q => q.1 % P256.n == r
    | none => false

end Sys2Proof.Machine
end

