-- ==== Sys2Proof/Machine/Reset.lean ====
section
/-!
DEFINITION. Power-up, boot, sealing and reset (R312 to R340): cold, warm, core, port, channel and bay resets, the boot ROM's flash
check and image selection, READY and the watchdog.
-/

namespace Sys2Proof.Machine

def setBoot (b : Boot) (s : State) : State := { s with boot := b }

/-- Set a BOOT event (R340). -/
def bootEvt (bit slot unit code : Nat) (s : State) : State :=
  raise Pg.boot bit (packW [(27, bit), (26, slot), (16, unit), (0, code)]) 0 s

/-- A BOOT write that is ignored. -/
def bootCfgErr (s : State) : State := bootEvt E.BOOT_CFGERR (b2n s.boot.slotB) 0 0 s

/-- A write of a register that only the management core may write: from a host port or the sideband it is ignored and sets CFGERR,
and the sideband counts it as refused (R322, R335, R338, R388). -/
def coreOnly (src : Src) (off : Nat) (f : State → State) (s : State) : State :=
  match src with
  | .core => f s
  | .host _ => viaReg src Pg.boot off bootCfgErr s
  | .sideband => bootCfgErr (sbRefused (Pg.boot * 4096 + off) s)

/-! ### Cold reset (R313, R314) -/

/-- What a cold reset leaves: the fuses, the flash with its fault log (Table 11-5), the clock of the model and the waiting commands.
RCAUSE keeps only its cause. -/
def coldReset (cause : Fld) (s : State) : State :=
  let t := flashAbort (hoReset s)
  let u : State := { State.reset with
    pending := t.pending, now := t.now, freeCtr := t.freeCtr, fuses := t.fuses
    boot := { State.reset.boot with since := t.now }
    flash := { t.flash with bank := [], mbox := none, mbResult := 0, mbCbits := 0, mbOp := 0, toMove := [], aborted := false }
    safe := { State.reset.safe with nextSeq := t.flash.logSeq + 1 } }
  fset Pg.boot cause 1 u

/-- The cold reset ends: the straps SA2..SA0, MODE1, MODE0 (bits 4 to 0) are sampled and the PLL lock sequence starts (R264, R314). -/
def coldRelease (straps : Nat) (s : State) : State :=
  if !s.boot.held then s
  else
    let b := s.boot
    let t := setBoot { b with held := false, mode := BitVec.ofNat 2 straps, sa := BitVec.ofNat 3 (straps / 4) }
      { s with pll := { s.pll with state := .waitref, since := s.now } }
    onlyIf (fget t Pg.boot F.BOOT_RCAUSE_RESETN == 0 && fget t Pg.boot F.BOOT_RCAUSE_SWCOLD == 0) (fset Pg.boot F.BOOT_RCAUSE_PWRON 1) t

/-! ### Warm reset (R328, R329) -/

/-- Offsets of the BOOT page that warm and core resets keep: RCAUSE, IMGSTAT, WDCFG and RCNT (Table 11-5). -/
def bootKept (off : Nat) : Bool := [0x44, 0x48, 0x6C, 0x78].contains off

/-- Is the field at `lo` of a register RWL? -/
def isRwl (page off lo : Nat) : Bool :=
  (regMap page).any fun e => (List.range e.cnt).any fun i => e.off + e.stride * i == off && e.flds.any fun f => f.lo == lo && f.ty == .rwl

/-- The register fields that a warm reset keeps (Table 11-5). -/
def warmKeeps (page off lo : Nat) : Bool :=
  [Pg.clk, Pg.time, Pg.prot, Pg.rgn, Pg.epch].contains page ||
  (page == Pg.boot && bootKept off) ||
  (page == Pg.safe && (off == F.SAFE_FCAUSE_MECH.off || off == F.SAFE_LOGSTAT_LASTSEQ.off || (off == F.SAFE_FCNT_SAFE.off && lo == F.SAFE_FCNT_SAFE.lo))) ||
  (pageType page == 0x90 && (0x100 ≤ off) && [0x00, 0x04, 0x08].contains (off % 0x40)) ||
  isRwl page off lo

/-- A region at step 1 of R328 (R329). -/
def warmRegion (r : Region) : Region :=
  { r with
    frame := none
    cps := r.cps.map fun c => { c with role := if c.role = .pending ∨ c.role = .writable then .idle else c.role, pins := 0 } }

/-- A channel after the reset of its logic: the parts keep their contents in self-refresh, its settings return to their reset values. It
stays in the set of present channels until the slot table is built anew (R35). The data of a channel that failed and has not returned is
lost (R78): its queued writes could not drain; so is that of one under a reset whose contents have decayed. A row that is being copied
keeps its lines (R226, log 95). -/
def warmChan (k : Chan) (serves : Bool) : Chan :=
  { state := if serves then .selfref else .absent, ranks := k.ranks, density := k.density, ublk := k.ublk, rate := k.rate
    present := k.present, id := k.id, lost := k.lost || k.state == .failed || (k.inReset && k.decayed), rowCopy := k.rowCopy
    red := k.red
    rank := k.rank.map fun e => (e.1, { lastRef := e.2.lastRef }) }

/-- A vector keeps its settings (Table 11-5). -/
def warmVec (v : Vec) : Vec :=
  { v with pending := false, gather := 0, inflight := false, kp := false, heldSince := none, holdDone := false, again := false, waited := false }

/-- Steps 1 to 4 of R328, which end within 200 µs; the boot ROM, the watchdog and the scanner then start
(step 5, `bootNow`). One written during a warm reset is
ignored. -/
def warmReset (s : State) : State :=
  if inWarm s || s.boot.state == .pll then s
  else
    let t := flashAbort (hoReset s)
    let u := forAll ((t.chans.map (·.1)).filter (drainsIn t)) enterSelfRefresh
      { t with accs := [], commits := [], bells := [], jobs := [] }
    let cnt := fbump Pg.boot F.BOOT_RCNT_WARMS (fset Pg.boot F.BOOT_RCAUSE_WARM 1 u)
    let v := { cnt with
      flds := cnt.flds.filter fun e => warmKeeps (e.1 / 32 / 4096) (e.1 / 32 % 4096) (e.1 % 32)
      hdrs := cnt.hdrs.filter fun e => [Pg.clk, Pg.time, Pg.prot, Pg.rgn, Pg.epch].contains e.1
      links := []
      chans := cnt.chans.map fun e => (e.1, warmChan e.2 (chServes cnt e.1))
      regions := cnt.regions.map fun e => (e.1, if e.2.en then warmRegion e.2 else e.2)
      queues := [], groups := [], ring := {}, power := {}, sb := {}, busResult := none
      vecs := cnt.vecs.map fun e => (e.1, warmVec e.2)
      flash := { cnt.flash with bank := [], mbox := none, mbResult := 0, mbCbits := 0, mbOp := 0, toMove := [], aborted := false }
      boot := { cnt.boot with
        state := .warm, coreUp := true, wdOn := true, wdSince := s.now + us 200, wdWantA5 := false
        wdPeriod := fget cnt Pg.boot F.BOOT_WDCFG_PERIOD
        slotB := false, path := 0, run := false, since := s.now, warm := true, back := none, testsDone := false
        enabledPorts := [], consec := 0, bayWait := [], waiting := [], later := [] }
      safe := { cnt.safe with state := .normal, fnDrv := true, fnRb := true, testFail := false, armed := true, hotRun := 0
                              sensorRun := [0, 0, 0, 0, 0, 0, 0, 0, 0], ltRun := false, lastMech := 0
                              scanAt := s.now + us 200, corrupt := cnt.safe.corrupt.filter keptStore } }
    fset Pg.clk F.CLK_DSPSTAT_STATE 0 (fset Pg.clk F.CLK_DSPSTAT_CURRENT v.pll.wck v)

/-! ### Core reset and watchdog (R330, R335 to R338) -/

/-- Steps common to both causes of a core reset: flash work is cut short, the BOOT page is reset as for a warm reset, campaigns
restart, and the ROM runs again (R330). -/
def coreReset (cause : Fld) (s : State) : State :=
  let t := flashAbort s
  let back := match s.boot.state with
    | .dram => some BState.dram
    | .links => some .links
    | .ready => some .ready
    | .config => none
    | _ => s.boot.back
  let u := freset Pg.boot bootKept (setHdr Pg.boot {} { t with
    chans := t.chans.map fun e => (e.1, { e.2 with camp := e.2.camp.map fun m => { m with stopped := true } })
    boot := { t.boot with run := false, back := back, path := 0, slotB := false } })
  let v := fbump Pg.boot F.BOOT_RCNT_CORES (fset Pg.boot cause 1 u)
  let w := onlyIf v.flash.aborted (bootEvt E.BOOT_FLASH_ABORT (b2n s.boot.slotB) 0 0) { v with flash := { v.flash with aborted := false } }
  if s.boot.state == .pll || s.boot.state == .warm then w else startRom w

/-- Is the watchdog enabled: EN can be 0 only in test mode (R335)? -/
def wdEnabled (s : State) : Bool := s.boot.wdOn && fget s Pg.boot F.BOOT_WDCFG_EN == 1

/-- The expiry itself (R337, R338): at LIMIT consecutive ones the running slot is set aside. -/
def expire (s : State) : State :=
  let n := min 7 (s.boot.consec + 1)
  let aside := decide (fget s Pg.boot F.BOOT_WDCFG_LIMIT ≤ n) && (runningSlot s).isSome
  let t := coreReset F.BOOT_RCAUSE_WD s
  let u := fbump Pg.boot F.BOOT_RCNT_WDEXP (setBoot { t.boot with
    consec := n, asideA := t.boot.asideA || (aside && !s.boot.slotB), asideB := t.boot.asideB || (aside && s.boot.slotB) } t)
  logEvent 0x0E 0 0 4 Pg.boot E.BOOT_WD_EXPIRE (bootEvt E.BOOT_WD_EXPIRE (b2n s.boot.slotB) 0 0 u)

/-- A write of WDKICK (R335): 0x5A and 0xA5 in turn. -/
def kick (code : Nat) (s : State) : State :=
  if code = (if s.boot.wdWantA5 then 0xA5 else 0x5A) then
    setBoot { s.boot with wdWantA5 := !s.boot.wdWantA5, wdSince := s.now, wdPeriod := fget s Pg.boot F.BOOT_WDCFG_PERIOD } s
  else if wdEnabled s then expire s
  else s

/-! ### The boot ROM (R316 to R319) -/

/-- The record page of a slot. -/
def slotRecord (s : State) (slot : Nat) : List Byte := flashBytes s (slot * 2 ^ 25 + 0xFFFF00) 256

/-- Does an image record verify (R370)? -/
def recordOk (r : List Byte) : Bool :=
  leAt r 0 4 == 0x494D5252 && leAt r 4 2 == 1 && leAt r 8 4 != 0 && leAt r 8 4 != 0xFFFFFFFF && leAt r 12 4 % 256 == 0 &&
    decide (4096 ≤ leAt r 12 4) && decide (leAt r 12 4 ≤ 4194304) && (slice r 80 172).all (· == 0) && leAt r 252 4 == crc32 (r.take 252)

/-- The first `n` bytes of a slot. -/
def slotBytes (s : State) (slot n : Nat) : List Byte :=
  expand n (slot * 2 ^ 25) (s.flash.bytes.filter fun e => decide (slot * 2 ^ 25 ≤ e.1) && decide (e.1 < slot * 2 ^ 25 + n))

/-- The failure code of a slot as FAILA gives it, 0 where it is valid (R317, R369, R370). `unread` says that a page of the image is
uncorrectable. -/
def slotFailure (s : State) (slot : Nat) (unread : Bool) : Nat :=
  let r := slotRecord s slot
  let img := slotBytes s slot (if recordOk r then leAt r 12 4 else 0)
  let key := slice img 32 64
  if (if slot = 0 then s.boot.asideA else s.boot.asideB) then 6
  else if (List.range 256).any fun i => (s.cell (512 * slot + i)).isOpen then 5
  else if fget s Pg.boot (if slot = 0 then F.BOOT_SEQA_SEQ else F.BOOT_SEQB_SEQ) = 0 ∨ !recordOk r then 1
  else if unread ∨ leAt img 0 4 ≠ 0x494D4748 ∨ leAt img 4 2 ≠ 1 then 2
  else if !s.fuses.keySet ∨ sha256 key ≠ Config.keyHash then 3
  else if ecdsaOk (beNat (slice key 0 32)) (beNat (slice key 32 32)) (beNat (slice r 16 32)) (beNat (slice r 48 32)) (beNat (sha256 img)) then 0
  else 4

/-- Is this one of the pages that the flash check reads: the records of the slots, and the almanac copies, whose records cover them (R246,
R316; log 39)? -/
def checkPage (addr : Nat) : Bool :=
  [0, 1].any fun d => addr / 256 == (d * 2 ^ 25 + 0xFFFF00) / 256 || addr / 65536 == logAddr d 0 / 65536 || addr / 65536 == logAddr d 1 / 65536

/-- FLASH_CHECK_DONE (R316): erase flags and records have been read; `bad` names those pages among them that were weak or uncorrectable
(R358, R368). After a warm reset the ROM starts 200 µs on (R328). -/
def flashCheck (bad : List (Nat × FlashIn)) (s : State) : State :=
  let t0 := if s.boot.state == .warm then waitUntil (s.boot.since + us 200) s else s
  if bootNow t0 != .flashchk then s
  else
    let s := t0
    let open_ (base : Nat) : Nat := b2n ((List.range 256).any fun i => (s.cell (base + i)).isOpen)
    let t := forAll (bad.filter fun e => checkPage e.1) (fun e => ownRead e.1 e.2) (buildWindow 1 (buildWindow 0 s))
    let seq (slot : Nat) : Nat :=
      if !readUncor t (slot * 2 ^ 25 + 0xFFFF00) ⟨0, false, []⟩ && recordOk (slotRecord s slot) then leAt (slotRecord s slot) 8 4 else 0
    let u := fset Pg.boot F.BOOT_IMGSTAT_AOPEN (open_ 0) (fset Pg.boot F.BOOT_IMGSTAT_BOPEN (open_ 512)
      (fset Pg.boot F.BOOT_IMGSTAT_DOPEN0 (open_ 256) (fset Pg.boot F.BOOT_IMGSTAT_DOPEN1 (open_ 768) t)))
    let v := fset Pg.boot F.BOOT_SEQA_SEQ (seq 0) (fset Pg.boot F.BOOT_SEQB_SEQ (seq 1) u)
    setBoot { v.boot with state := .image } v

/-- Note what came of one slot. A slot that failed verification sets IMG_FAIL; one that is set aside is only skipped (R318). -/
def noteSlot (slot code : Nat) (s : State) : State :=
  let t := fset Pg.boot (if slot = 0 then F.BOOT_IMGSTAT_FAILA else F.BOOT_IMGSTAT_FAILB) code
    (fset Pg.boot (if slot = 0 then F.BOOT_IMGSTAT_AVALID else F.BOOT_IMGSTAT_BVALID) (b2n (code == 0)) s)
  onlyIf (code != 0 && code != 6) (bootEvt E.BOOT_IMG_FAIL slot 0 code) t

/-- The image of a slot runs: boot firmware starts, or goes on where the core reset met it. A device that is sealed writes no RWL
field again (R318, R322, R330). -/
def bootSlot (slot : Nat) (s : State) : State :=
  let st := match s.boot.back with
    | some b => b
    | none => if s.boot.isSealed then .dram else .config
  let t := setBoot { s.boot with state := st, back := none, slotB := slot == 1 } s
  if t.boot.asideA then bootEvt E.BOOT_IMG_FALLBACK 0 0 6 t
  else if t.boot.asideB then bootEvt E.BOOT_IMG_FALLBACK 1 0 6 t
  else t

/-- The ROM selects no image: unless PROT is sealed already, it seals PROT with no rights (R319, R322). -/
def noImage (st : BState) (s : State) : State :=
  let t := setBoot { s.boot with state := st } s
  if s.boot.isSealed then t
  else bootEvt E.BOOT_SEALED (b2n s.boot.slotB) 0 0 (setBoot { t.boot with isSealed := true } (freset Pg.prot (fun _ => false) t))

/-- No slot is left: HALTED after the watchdog limit, else NOIMAGE (R319, R338). -/
def noSlot (s : State) : State :=
  if s.boot.asideA || s.boot.asideB then
    bootEvt E.BOOT_WD_LIMIT (b2n s.boot.slotB) 0 0 (setBoot { s.boot with state := .halted, wdOn := false } s)
  else noImage .noimage s

/-- Does a flash address lie in the image of a slot, as far as its record says? -/
def inImage (s : State) (slot addr : Nat) : Bool :=
  flashLoc addr == .slot (512 * slot + addr % 2 ^ 25 / 65536) && decide (addr / 2 ^ 25 = slot) &&
    decide (addr % 2 ^ 25 < leAt (slotRecord s slot) 12 4)

/-- The ROM reads an image whose record verifies: its weak and uncorrectable pages are counted and reported (R358, R368). -/
def readImage (slot : Nat) (bad : List (Nat × FlashIn)) (s : State) : State :=
  onlyIf (recordOk (slotRecord s slot)) (forAll (bad.filter fun e => inImage s slot e.1) fun e => ownRead e.1 e.2) s

/-- Has the image of a slot a page that is uncorrectable? -/
def imageUnread (s : State) (slot : Nat) : Bool :=
  s.flash.badPages.any fun p => decide (p / 256 / 512 = slot) && decide (p % 131072 * 256 < leAt (slotRecord s slot) 12 4)

/-- Try the slots in order; the first valid one runs. -/
def trySlots (bad : List (Nat × FlashIn)) : List Nat → State → State
  | [], s => noSlot s
  | slot :: rest, s =>
    let u := readImage slot bad s
    let code := slotFailure u slot (imageUnread u slot)
    let t := noteSlot slot code u
    if code = 0 then bootSlot slot t else trySlots bad rest t

/-- IMAGE_SELECT (R318, R319): by descending SEQ, slot A first when they are equal; recovery mode selects none (Table 11-2). `bad` names
pages that were weak or uncorrectable in the images as they were copied. -/
def selectImage (bad : List (Nat × FlashIn)) (s : State) : State :=
  if s.boot.state != .image then s
  else if s.boot.mode = 1 ∨ s.boot.mode = 3 then noImage .recovery s
  else trySlots bad (if fget s Pg.boot F.BOOT_SEQA_SEQ < fget s Pg.boot F.BOOT_SEQB_SEQ then [1, 0] else [0, 1]) s

/-! ### Sealing and READY (R322, R324) -/

/-- BCMD.SEAL by the management core (R322). -/
def sealNow (s : State) : State :=
  bootEvt E.BOOT_SEALED (b2n s.boot.slotB) 0 0
    (setBoot { s.boot with isSealed := true, state := if s.boot.state = .config then .dram else s.boot.state } s)

/-- BCMD.RUN by boot firmware (R338). -/
def runNow (s : State) : State := setBoot { s.boot with run := true, consec := 0 } s

/-- Is every condition of READY met (R324, R416)? -/
def readyMet (s : State) : Bool :=
  s.boot.state == .links && s.built && s.boot.testsDone && !inSafe s && !(s.chans.any fun e => e.2.camp.isSome) &&
    s.boot.enabledPorts.all fun l => (s.link l).state == .active || (s.link l).state == .listen

/-- READY (R324, R315): BTIME, the event, and in normal mode FAULT_N released. After a warm reset a protected store that is still bad takes
the device back to SAFE in place of READY (R408). -/
def enterReady (s : State) : State :=
  if !readyMet s then s
  else if !s.safe.corrupt.isEmpty then safeFault 9 (s.safe.corrupt.headD 0) 0 s
  else
    let free := s.boot.mode == 0 && !s.safe.testFail
    let t := fset Pg.boot F.BOOT_BTIME_READYT (min 65535 (since s s.boot.since / us 100))
      (setBoot { s.boot with state := .ready, warm := false } s)
    bootEvt E.BOOT_READY (b2n s.boot.slotB) 0 0
      (if free then { t with safe := { t.safe with fnDrv := false, fnRb := false } } else t)

/-! ### Port, channel and bay resets (R331 to R333) -/

/-- A part of the device is reset: it is counted (RCNT.PARTS). -/
def countPart (s : State) : State := fbump Pg.boot F.BOOT_RCNT_PARTS s

/-- Offsets that a port reset keeps: LCFG, LLISTEN, LRET, ALGN.WIN, XCFG, and on a ring page RCFG, LASYMA, LASYMB and the settings of
handover and mirroring, which are no part of the port (R331). -/
def portKept (l off : Nat) : Bool :=
  [0x40, 0x48, 0x50, 0x54, 0x80].contains off ||
    (decide (16 ≤ l) && (off == F.RING_RCFG_SPLIT.off || off == F.RING_LASYMA_PS.off || off == F.RING_LASYMB_PS.off || decide (0x220 ≤ off)))

/-- A port reset (R331). -/
def resetPort (l : Nat) (s : State) : State :=
  let ls := pageLinks s l
  let t := forAll ls (fun i u => onlyIf (decide (16 ≤ i)) (modRlink (i - 16) fun _ => {}) (setLink i {} (portOff i u))) (countPart s)
  let u := setHdr (Pg.link l) {} (freset (Pg.link l) (portKept l) t)
  let v := if fget u (Pg.link l) F.HP_LCFG_ENABLE = 1 then forAll ls beginTraining u else u
  bootEvt E.BOOT_RST_DONE (b2n s.boot.slotB) (if l < 16 then l else 16 + l % 2) 0 v

/-- The records of a record line become a poison codeword. -/
def poisonRecs (c v : Nat) (s : State) : State :=
  forAll ((List.range 4).map (4 * v + ·)) (fun u t => setRec c u { (t.brec c u) with bad := true } t) s

/-- A line found with a parity error in a cache becomes a poison codeword: the data lines of a check line, the records of a record
line. -/
def poisonCached (c n : Nat) (s : State) : State :=
  let k := s.chan c
  if k.checkCache.any (·.n == n) then forAll ((List.range 16).map (16 * (n - 64 * k.ublk) + ·)) (putPoison c) s
  else if k.recCache.any (·.n == n) then poisonRecs c (n - 68 * k.ublk) s
  else s

/-- Entries of the write queue and lines of the two caches that fail their parity check become poison; `bad` names lines of the channel
(R332, step 3). -/
def keepWrites (c : Nat) (bad : List Nat) (s : State) : State :=
  forAll bad (poisonCached c) (modChan c (fun k => { k with wq := k.wq.map fun e => if bad.contains e.n then { e with poison := true } else e }) s)

/-- What a channel reset leaves of a campaign: one of the start-up stands until it is restarted (R255), so that the channel can still be
ABSENT (R239). -/
def cutCamp (m : Option Camp) : Option Camp :=
  match m with
  | some m => if m.startup then some { m with stopped := true, ready := false } else none
  | none => none

/-- Steps 1 to 3 of R332. A handover that the device receives aborts with cause RXFAULT (R334, Table 10-4). The channel trains next
(TRAINING_CAMPAIGN). A channel that failed with its controller lost is not measured
before the first refresh of its training (step 5). -/
def beginChanReset (c : Nat) (bad : List Nat) (s : State) : State :=
  let k := s.chan c
  let kept := k.state == .failed || k.state == .selfref || k.state == .training
  let t := kpSingle c (discardReads c (setChan c { k with
    state := .reset, inReset := true, exiting := false, camp := cutCamp k.camp, sweep := none, drain := false, openRow := []
    sideq := [], due := [], urgent := [], acts := [], drift := 0
    scrubFrom := k.scrubFrom + selfRefSpan s.now k, refSince := s.now
    canDrive := k.canDrive || k.state != .failed
    decayed := k.decayed || (!kept && refreshLost s k)
    rank := if k.state = .failed then k.rank else k.rank.map fun e => (e.1, { e.2 with lastRef := s.now, held := none }) } s))
  onlyIf (!s.ring.ho.sender) (hoAbort 8) (keepWrites c bad t)

/-- A channel reset (R332): an ABSENT channel refuses it, and one that comes during a set-point change waits (Table 11-7). -/
def resetChan (c : Nat) (bad : List Nat) (s : State) : State :=
  if (s.chan c).state == .absent then bootCfgErr s
  else
    let t := countPart s
    if 2 ≤ dspState t then setBoot { t.boot with waiting := t.boot.waiting ++ [(c, bad)] } t else beginChanReset c bad t

/-- The poison walk of R332, step 5: every data line of the channel a poison codeword, every record ANCIENT with an empty map. -/
def poisonWalk (c : Nat) (s : State) : State :=
  forAll (List.range (64 * (s.chan c).ublk)) (putPoison c)
    { s with recs := s.recs.filter fun e => (if e.1 < 2 ^ 27 then e.1 / 2 ^ 21 else (e.1 - 2 ^ 27) / 2 ^ 17) != c }

/-- Has a channel of a bay under reset come to rest: step 6 ended, FAILED, or absent? -/
def chRests (s : State) (c : Nat) : Bool := !(s.chan c).inReset && !(s.boot.waiting.any fun w => w.1 == c)

/-- A bay reset ends when its group is back in service, or stays out, and every channel has come to rest (R333). -/
def checkBay (b : Nat) (s : State) : State :=
  if s.boot.bayWait.contains b && (s.group b).state != .returning && (List.range 8).all fun i => chRests s (8 * b + i) then
    bootEvt E.BOOT_RST_DONE (b2n s.boot.slotB) b 0 (bayEvt b E.BAY_RESET_DONE 0x3F (setBoot { s.boot with bayWait := s.boot.bayWait.filter (· != b) } s))
  else s

/-- Has the training of a channel under reset passed (R332, step 4)? -/
def resetPassed (s : State) (c : Nat) : Bool := (s.chan c).state == .training && fget s (Pg.ch c) F.CH_TRSTAT_CAUSE == 0

/-- Steps 5 and 6 of R332 once the training has passed, FAILED once it has failed; `pass` says which of the two ends is meant. In SAFE
the channel rests (R405, R406). -/
def endChanReset (c : Nat) (pass : Bool) (s : State) : State :=
  let k := s.chan c
  if !k.inReset || k.camp.isSome || k.state == .reset || inSafe s || resetPassed s c != pass then s
  else
    let t :=
      if pass then
        let u := drainChan c (onlyIf k.decayed (poisonWalk c) s)
        kpReturn (modChan c (fun j => { j with state := .ready, inReset := false, decayed := false, canDrive := true, idleSince := s.now }) u)
      else modChan c (fun j => { j with state := if j.state = .absent then .absent else .failed, inReset := false, refSince := s.now }) s
    checkBay (c / 8) (bootEvt E.BOOT_RST_DONE (b2n s.boot.slotB) c 0 t)

/-- Forget the reads of a table load. -/
def dropImage (g : Nat) (s : State) : State :=
  forAll (readsOf s (.table g)) (fun a t =>
    onlyIf a.pinned (pinCopy a.region a.copy false) { t with accs := t.accs.filter fun b => b.id != a.id }) s

/-- The joiner group's part of a bay reset (R333, R177). -/
def resetGroup (g : Nat) (s : State) : State :=
  let k := s.group g
  let t := discardGroup g (setGroup g { k with
    state := .returning, tvalid := 0, cache := [], tload := none, tests := [0, 1, 2, 3, 4, 5, 6, 7], bayTest := true } (dropImage g s))
  match k.tload with
  | some l => jgEvt g E.JG_TLOAD_DONE 0xF l.1 (jgEvt g E.JG_CFGERR 0xF l.1 t)
  | none => t

/-- Does some DRAM of a bay not answer the self-refresh entry of R332: has its controller been lost (R230, R441)? -/
def bayMute (s : State) (b : Nat) : Bool :=
  (List.range 8).any fun i => let k := s.chan (8 * b + i); k.state == .failed && !k.canDrive

/-- A bay reset (R333). BAYb_DRST_N goes low when a DRAM of the bay does not answer (R441, log 84). -/
def resetBay (b : Nat) (bad : List (Nat × Nat)) (s : State) : State :=
  let t := setBoot { s.boot with
      bayWait := s.boot.bayWait.filter (· != b) ++ [b]
      drst := if bayMute s b then s.boot.drst &&& ~~~(BitVec.ofNat 8 (2 ^ b)) else s.boot.drst }
    (resetGroup b (fbump (Pg.bay b) F.BAY_BCNT_RESETS (countPart s)))
  forAll ((List.range 8).filter fun i => (s.chan (8 * b + i)).state != .absent) (fun i u =>
    let c := 8 * b + i
    let lines := (bad.filter fun e => e.1 == c).map (·.2)
    if 2 ≤ dspState u then setBoot { u.boot with waiting := u.boot.waiting ++ [(c, lines)] } u else beginChanReset c lines u) t

/-- Channel resets that waited for a set-point change run once it has ended (Table 11-7). -/
def runWaiting (s : State) : State :=
  if 2 ≤ dspState s then s
  else forAll s.boot.waiting (fun w => beginChanReset w.1 w.2) (setBoot { s.boot with waiting := [] } s)

/-! ### RSTCMD (R326) -/

/-- A write of RSTCMD: it acts with its key and exactly one command bit. -/
def resetCommand (val : Word) (s : State) : State :=
  if ext val.toNat 16 16 ≠ 0xA5C3 then bootCfgErr s
  else match ext val.toNat 0 3 with
    | 1 => coreReset F.BOOT_RCAUSE_CORE s
    | 2 => warmReset s
    | 4 => coldReset F.BOOT_RCAUSE_SWCOLD s
    | _ => bootCfgErr s

/-- The value of RSTCMD that carries the key and one command bit. -/
def rstcmdWord (bit : Nat) : Word := packW [(16, 0xA5C3), (bit, 1)]

/-! ### Boundary scan (R453) -/

/-- The instruction that the TAP takes: outside test mode every one but BYPASS and IDCODE selects BYPASS. -/
def tapTake (s : State) (i : TapInst) : TapInst :=
  match i with
  | .idcode => .idcode
  | .bypass => .bypass
  | .other => .bypass
  | x => if s.boot.mode = 2 then x else .bypass

/-! ### The commands -/

/-- COLD_RESET (R313). -/
def execColdReset (cause : ColdCause) (s : State) : Host.Outcome State Fault Refusal :=
  .next (coldReset (match cause with | .pwrok => F.BOOT_RCAUSE_PWRON | .resetN => F.BOOT_RCAUSE_RESETN | .rail => F.BOOT_RCAUSE_RESETN) s)

/-- COLD_RESET_RELEASE (R314). -/
def execColdResetRelease (straps : BitVec 5) (s : State) : Host.Outcome State Fault Refusal := .next (coldRelease straps.toNat s)

/-- RAIL_TRIP (R456, R313): a rail has been out of its range for `outside` ns; up to 2 µs are ignored. -/
def execRailTrip (outside : Nat) (s : State) : Host.Outcome State Fault Refusal :=
  .next (if 2000 < outside then coldReset F.BOOT_RCAUSE_RESETN s else s)

/-- RSTCMD_COLD (R326). -/
def execRstcmdCold (src : Src) (s : State) : Host.Outcome State Fault Refusal :=
  .next (viaReg src Pg.boot F.BOOT_RSTCMD_KEY.off (resetCommand (rstcmdWord 2)) s)

/-- RSTCMD_WARM (R326, R328). -/
def execRstcmdWarm (src : Src) (s : State) : Host.Outcome State Fault Refusal :=
  .next (viaReg src Pg.boot F.BOOT_RSTCMD_KEY.off (resetCommand (rstcmdWord 1)) s)

/-- RSTCMD_CORE (R326, R330). -/
def execRstcmdCore (src : Src) (s : State) : Host.Outcome State Fault Refusal :=
  .next (viaReg src Pg.boot F.BOOT_RSTCMD_KEY.off (resetCommand (rstcmdWord 0)) s)

/-- PORT_RESET (R331). -/
def execPortReset (src : Src) (link : Fin 20) (s : State) : Host.Outcome State Fault Refusal :=
  .next (viaReg src Pg.boot F.BOOT_RSTPORT_HOST.off (resetPort link) s)

/-- CHANNEL_RESET (R332). -/
def execChannelReset (src : Src) (ch : Fin 64) (bad : List Nat) (s : State) : Host.Outcome State Fault Refusal :=
  .next (viaReg src Pg.boot F.BOOT_RSTCH_GO.off (resetChan ch bad) s)

/-- CHANNEL_RESET_DONE (R332). -/
def execChannelResetDone (ch : Fin 64) (pass : Bool) (s : State) : Host.Outcome State Fault Refusal := .next (endChanReset ch pass s)

/-- BAY_RESET (R333). -/
def execBayReset (src : Src) (bay : Fin 8) (bad : List (Fin 64 × Nat)) (s : State) : Host.Outcome State Fault Refusal :=
  .next (viaReg src Pg.boot F.BOOT_RSTBAY_BAYS.off (resetBay bay (bad.map fun e => (e.1.val, e.2))) s)

/-- GROUP_RETURN (R193); the end of a bay reset may follow (R333). -/
def execGroupReturn (group : Fin 8) (s : State) : Host.Outcome State Fault Refusal := .next (checkBay group (returnGroup group s))

/-- UNFENCE_TEST_DONE (R194); the last test of a bay reset may end it (R333). -/
def execUnfenceTestDone (group pair : Fin 8) (pass : Bool) (s : State) : Host.Outcome State Fault Refusal :=
  .next (checkBay group (endPairTest group pair pass s))

/-- SET_POINT_CHANGE_END (R252); channel resets that waited begin (Table 11-7). -/
def execSetPointChangeEnd (s : State) : Host.Outcome State Fault Refusal := .next (runWaiting (endChange s))

/-- FLASH_CHECK_DONE (R316). -/
def execFlashCheckDone (bad : List (Nat × FlashIn)) (s : State) : Host.Outcome State Fault Refusal := .next (flashCheck bad s)

/-- IMAGE_SELECT (R318). -/
def execImageSelect (bad : List (Nat × FlashIn)) (s : State) : Host.Outcome State Fault Refusal := .next (selectImage bad s)

/-- SEAL (R322). -/
def execBcmdSeal (src : Src) (s : State) : Host.Outcome State Fault Refusal := .next (coreOnly src F.BOOT_BCMD_SEAL.off sealNow s)

/-- BCMD_RUN (R338). -/
def execBcmdRun (src : Src) (s : State) : Host.Outcome State Fault Refusal := .next (coreOnly src F.BOOT_BCMD_RUN.off runNow s)

/-- READY (R324). -/
def execReady (s : State) : Host.Outcome State Fault Refusal := .next (enterReady s)

/-- WDKICK (R335). -/
def execWdkick (src : Src) (val : Word) (s : State) : Host.Outcome State Fault Refusal :=
  .next (coreOnly src F.BOOT_WDKICK_CODE.off (kick (val.toNat % 256)) s)

/-- WATCHDOG_EXPIRE (R337). -/
def execWatchdogExpire (s : State) : Host.Outcome State Fault Refusal :=
  .next (if wdEnabled s then expire (waitUntil (s.boot.wdSince + wdUnits s) s) else s)

/-- TAP_INSTRUCTION (R453). -/
def execTapInstruction (inst : TapInst) (s : State) : Host.Outcome State Fault Refusal := .next { s with tap := tapTake s inst }

end Sys2Proof.Machine
end

