-- ==== Sys2Proof/Machine/Vector.lean ====
section
/-!
DEFINITION. Interrupt vectors as commands: sending (R167 to R169), the HOLD timer, and VCMD (R171).
-/

namespace Sys2Proof.Machine

/-- Units of device time in a GAP setting (100 ns steps, Table 5-11). -/
def gapUnits (gap : Nat) : Nat := gap * Config.unitsPerUs / 10

/-- Has the vector gathered enough to send: BATCH reached, HOLD over or 0, king-post work (R167), or a message that was lost (R102)? -/
def batchReady (s : State) (e : Vec) : Bool :=
  decide (e.batch ≤ e.gather) || e.hold == 0 || e.kp || e.again || e.holdDone ||
    (match e.heldSince with | some t => decide (t + us e.hold ≤ s.now) | none => false)

/-- The conditions of R167. -/
def maySend (s : State) (v : Nat) : Bool :=
  let e := s.vec v
  e.pending && !e.mask && !e.inflight && linkActive s e.dport &&
    (match e.lastSent with | some t => decide (t + gapUnits e.gap ≤ s.now) | none => true) &&
    batchReady s e && (!inSafe s || pageEventVector v)

/-- IRQ_SEND (R167): the message goes to its port, which latches the device time as the header leaves (R169); a message whose port is not
ACTIVE waits and is reported once (R168). -/
def sendIrq (v : Nat) (s : State) : State :=
  let e := s.vec v
  if !maySend s v then checkWait v s
  else
    let t := setVec v { e with
      pending := false, gather := 0, inflight := true, kp := false, heldSince := none, holdDone := false, again := false, waited := false } s
    sendMsg e.dport (.irq v e.kp) (irqHdr v e) (if e.timev then List.replicate 16 0 else []) t

/-- HOLD_EXPIRE (R167). -/
def holdExpire (v : Nat) (s : State) : State :=
  let e := s.vec v
  match e.heldSince with
  | some t => modVec v (fun e => { e with holdDone := true }) (waitUntil (t + us e.hold) s)
  | none => s

/-- The vector that VEC.SEL selects. -/
def selVec (s : State) : Nat := fget s Pg.vec F.VEC_SEL_VECTOR

/-- VCMD.CLRPEND (R171). -/
def clearPending (v : Nat) (s : State) : State :=
  modVec v (fun e => { e with pending := false, gather := 0, kp := false, heldSince := none, holdDone := false, again := false, waited := false }) s

/-! ### The commands -/

/-- IRQ_SEND (R167). -/
def execIrqSend (vec : Fin 512) (s : State) : Host.Outcome State Fault Refusal := .next (sendIrq vec s)

/-- HOLD_EXPIRE (R167). -/
def execHoldExpire (vec : Fin 512) (s : State) : Host.Outcome State Fault Refusal := .next (holdExpire vec s)

/-- VECTOR_FIRE (R171). -/
def execVectorFire (src : Src) (s : State) : Host.Outcome State Fault Refusal :=
  .next (viaReg src Pg.vec F.VEC_VCMD_FIRE.off (fun t => trigger (selVec t) false t) s)

/-- VECTOR_CLRPEND (R171). -/
def execVectorClrpend (src : Src) (s : State) : Host.Outcome State Fault Refusal :=
  .next (viaReg src Pg.vec F.VEC_VCMD_CLRPEND.off (fun t => clearPending (selVec t) t) s)

end Sys2Proof.Machine
end

