-- ==== Sys2Proof/Machine/RegRead.lean ====
section
/-!
DEFINITION. Reading a register: the common header (R427), registers whose fields show the state of a unit, and the effects that a
read has (R178, R241, R285, R356). A register that is not defined reads 0 (R425).
-/

namespace Sys2Proof.Machine

/-! ### The fields of a register -/

/-- The fields of the register at an offset of a page, none at a reserved offset. -/
def regAt (page off : Nat) : Option (List Fld) :=
  (regMap page).findSome? fun e =>
    let d := off - e.off
    if off < e.off then none
    else if e.stride = 0 then (if d = 0 then some e.flds else none)
    else if d % e.stride = 0 ∧ d / e.stride < e.cnt then some (e.flds.map (·.shift d))
    else none

/-- What the listed fields of a register hold; a WO field reads 0 (Table 0-5). -/
def fieldsWord (s : State) (page off : Nat) : Nat :=
  match regAt page off with
  | some fs => fs.foldl (fun a f => if f.ty = .wo then a else a + fget s page f * 2 ^ f.lo) 0
  | none => 0

/-- Does a page hold RWL fields (Table 16-5)? -/
def hasRwl (page : Nat) : Bool := page == Pg.prot || page == Pg.sbnd || page == Pg.safe || pageType page == 0x90

/-- The registers of the common header (Tables 16-2 and 16-3). PROT has no events. -/
def headerWord (s : State) (page off : Nat) : Nat :=
  let h := s.hdr page
  if off = 0x00 then pack [(24, pageType page), (16, page - pageType page), (8, page)]
  else if off = 0x04 then pack [(24, 0xB0), (16, 1)]
  else if off = 0x24 then pack [(31, b2n (s.boot.isSealed && hasRwl page)), (30, b2n (hasRwl page)), (0, h.denies)]
  else if off = 0x0C then (statOf h).toNat
  else if page = Pg.prot then 0
  else if off = 0x10 then h.evt.toNat
  else if off = 0x14 then h.evtEn.toNat
  else if off = 0x1C then h.cap0.toNat
  else if off = 0x20 then h.cap1.toNat
  else 0

/-! ### Registers that show state -/

/-- A number shown in two's complement, saturating (R273, R291). -/
def satBits (w : Nat) (i : Int) : Nat := intBits w (max (-(2 ^ (w - 1) : Int)) (min (2 ^ (w - 1) - 1 : Int) i))

def BState.code : BState → Nat
  | .pll => 0
  | .flashchk => 1
  | .image => 2
  | .config => 3
  | .dram => 4
  | .links => 5
  | .ready => 6
  | .noimage => 7
  | .halted => 8
  | .warm => 9
  | .recovery => 10

/-- DEV (Table 16-10). -/
def devWord (s : State) (off : Nat) : Option Nat :=
  if off = 0x40 then some (s.fuses.devId.toNat % 2 ^ 32)
  else if off = 0x44 then some (s.fuses.devId.toNat / 2 ^ 32)
  else if off = 0x4C then
    some (pack [(31, b2n (s.boot.state == .ready)), (30, b2n (inSafe s)), (29, b2n s.boot.isSealed), (28, b2n s.fuses.keySet),
      (20, bitsOf 8 fun b => (List.range 8).any fun i => chPresent s (8 * b + i)), (0, (geom s).n)])
  else if 0x60 ≤ off ∧ off < 0x80 ∧ off % 4 = 0 then some (leAt Config.keyHash (off - 0x60) 4)
  else if 0x80 ≤ off ∧ off < 0xA0 ∧ off % 4 = 0 then
    some (bitsOf 32 fun j =>
      let p := 8 * (off - 0x80) + j
      pageAssigned p && (s.hdr p).evt &&& (s.hdr p).evtEn != 0)
  else none

/-- The feedback ratio in 2^−40: N, with the offset of a STEP (R267). -/
def ratioNow (s : State) : Nat :=
  if pdMode s = 0 then 0
  else ((ratioOf (pdMode s) * 2 ^ 40 : Nat) + (if s.pll.state = .step then stepFrac s else 0)).toNat

/-- CLK (Tables 9-9 and 8-10); FBSTAT1 and FBSTAT0 but for a SLEW (R267). -/
def clkWord (s : State) (off : Nat) : Option Nat :=
  if off = 0x44 then
    some (pack [(28, s.pll.state.code), (27, b2n (pllLocked s)), (26, b2n (pllLocked s)), (25, b2n (detv s)),
      (24, b2n s.pll.refpres), (22, pdMode s)])
  else if off = 0x48 then some (pack [(24, ratioNow s / 2 ^ 40), (0, ratioNow s / 2 ^ 32 % 2 ^ 8)])
  else if off = 0x4C then some (ratioNow s % 2 ^ 32)
  else if off = 0x60 then some (pack [(16, intBits 16 (offsetNow s)), (0, satBits 16 s.pll.jump)])
  else if off = 0x68 then some (coastMs s)
  else if off = 0x6C then some (satBits 16 s.pll.ferr * 2 ^ 16)
  else if 0x70 ≤ off ∧ off < 0x88 ∧ off % 4 = 0 then some (fieldsWord s Pg.clk off + outDiv s ((off - 0x70) / 4) * 2 ^ 16)
  else if off = 0xC4 then some (fieldsWord s Pg.clk off + almv s * 2 ^ 20)
  else none

/-- BOOT (Table 11-9). -/
def bootWord (s : State) (off : Nat) : Option Nat :=
  if off = 0x40 then
    some (pack [(30, if s.boot.mode = 3 then 1 else s.boot.mode.toNat), (26, (bootNow s).code), (25, b2n s.boot.slotB), (24, b2n s.boot.isSealed),
      (22, s.boot.path), (21, b2n s.boot.run)])
  else if off = 0x74 then
    let left := s.boot.wdSince + wdUnits s - s.now
    some (pack [(31, b2n (flashWorking s)), (28, min 7 s.boot.consec), (0, if wdEnabled s then min 0x3FFF (left / ms 1) else 0)])
  else none

/-- PWR (Table 12-4). STATE and TARGET show their reset values until the PLL gives a clock. -/
def pwrWord (s : State) (off : Nat) : Option Nat :=
  let up := b2n (s.boot.state != .pll)
  if off = 0x44 then
    some (pack [(28, up * stateCode s), (24, up * targetState s), (20, s.power.refuse), (0, bitsOf 16 fun l => sbyLevel (s.link l) != 0)])
  else if off = 0x48 then
    some (match tolMin s with | none => 2 ^ 31 | some n => min (2 ^ 31 - 1) n)
  else none

def SafeMode.code : SafeMode → Nat
  | .normal => 0
  | .entering => 1
  | .safe => 2

/-- The sensor with the highest reading (TEMP.SENSOR); the lowest such one. -/
def hottest (s : State) : Nat := (s.safe.temps.findIdx? fun t => t == tempMax s).getD 0

/-- SAFE (Table 15-11). -/
def safeWord (s : State) (off : Nat) : Option Nat :=
  if off = 0x44 then
    some (pack [(28, s.safe.state.code), (27, b2n (fnDriven s)), (26, b2n (s.safe.fnRb || tapHolds s)), (8, s.safe.lastMech)])
  else if off = 0x54 then
    some (pack [(24, s.safe.ltFail.toNat), (16, s.safe.ltOverdue.toNat),
      (0, min 0xFFFF (s.safe.ltPass.foldl (fun a t => max a (since s t / ms 60000)) 0))])
  else if off = 0x58 then some (fieldsWord s Pg.safe off + pack [(27, s.safe.capture.length), (19, s.safe.lost)])
  else if off = 0x60 then
    some (match s.safe.capture[fget s Pg.safe F.SAFE_LOGSEL_ENTRY]? with
      | some c => leAt (captureBytes s c) (4 * fget s Pg.safe F.SAFE_LOGSEL_WORD) 4
      | none => 0)
  else if off = 0x64 then some (pack [(16, intBits 16 (tempMax s)), (12, hottest s)])
  else none

/-- FSTAT.OP of a bank (Table 13-12). -/
def bankOp (s : State) (b : Nat) : Nat :=
  match (s.fbank b).op with
  | none => 0
  | some o =>
    match o.work with
    | .program _ _ => 1
    | .erase _ step _ _ => if step = 2 then 2 else if step = 4 then 1 else 3

/-- FLSH (Table 13-12). -/
def flshWord (s : State) (off : Nat) : Option Nat :=
  let sel := fget s Pg.flsh F.FLSH_CELLSEL_SECTOR
  if off = 0x44 then
    some (pack [(31, b2n (bankBusy s 0)), (30, b2n (bankBusy s 1)), (29, b2n (s.fbank 0).susp.isSome),
      (28, b2n (s.fbank 1).susp.isSome), (26, bankOp s 0), (24, bankOp s 1)])
  else if off = 0x5C then
    some (pack [(31, b2n s.flash.mbox.isSome), (27, s.flash.mbResult), (23, s.flash.mbCbits), (16, s.flash.mbOp)])
  else if off = 0x60 ∨ off = 0x64 then
    let d := (off - 0x60) / 4
    some (pack [(24, s.fhead d), (16, s.ftail d), (8, min 32 (freeSectors s d)), (0, min 255 (256 - usable s d))])
  else if off = 0x6C then some (s.cell sel).w0.toNat
  else if off = 0x70 then some (s.cell sel).gen.toNat
  else none

def SbState.code : SbState → Nat
  | .idle => 0
  | .address => 1
  | .write => 2
  | .read => 3
  | .ignoring => 4

/-- SBND (Table 14-9). -/
def sbndWord (s : State) (off : Nat) : Option Nat :=
  if off = 0x4C then
    some (pack [(28, s.sb.state.code), (25, s.boot.sa.toNat), (24, b2n s.sb.held), (20, s.sb.nak)])
  else none

/-- VEC: the registers of the selected vector (Table 5-11). -/
def vecWord (s : State) (off : Nat) : Option Nat :=
  let v := s.vec (selVec s)
  if off = 0x44 then some (v.addr.toNat % 2 ^ 32)
  else if off = 0x48 then some (v.addr.toNat / 2 ^ 32)
  else if off = 0x4C then some v.data.toNat
  else if off = 0x50 then
    some (pack [(31, b2n v.mask), (30, b2n v.timev), (29, b2n v.pending), (28, b2n v.inflight), (20, min 255 v.gather), (0, v.dport)])
  else if off = 0x54 then some (pack [(24, v.batch), (12, v.hold), (0, v.gap)])
  else if off = 0x58 then some (v.latched.toNat % 2 ^ 32)
  else if off = 0x5C then some (v.latched.toNat / 2 ^ 32)
  else if 0x80 ≤ off ∧ off < 0xC0 ∧ off % 4 = 0 then some (bitsOf 32 fun j => (s.vec (8 * (off - 0x80) + j)).pending)
  else none

def TState.code : TState → Nat
  | .free => 0
  | .locked => 1
  | .hold => 2
  | .asym => 3
  | .bigwait => 4
  | .slew => 5
  | .step => 6
  | .master => 7

/-- TIME (Table 10-6): PERL and PERH of a master show the PERIOD most recently set by a PERH write (R297). -/
def timeWord (s : State) (off : Nat) : Option Nat :=
  let period := if isMaster s then s.time.perSet else s.time.sched.period
  if off = 0x44 then
    some (pack [(28, s.time.state.code), (27, b2n (dirValid s false)), (26, b2n (dirValid s true)), (25, b2n s.time.dirE.stepSeen),
      (24, b2n s.time.dirW.stepSeen), (23, b2n s.time.epOk), (18, s.time.hops), (13, s.time.agree)])
  else if off = 0x4C then some s.time.nowh.toNat
  else if off = 0x58 then some (period % 2 ^ 32)
  else if off = 0x5C then some (period / 2 ^ 32 % 2 ^ 16)
  else if off = 0x60 then some s.merid.epoch.toNat
  else if off = 0x64 then some (s.time.lastPtime.toNat % 2 ^ 32)
  else if off = 0x68 then some (s.time.lastPtime.toNat / 2 ^ 32)
  else if off = 0x6C then some (satBits 32 (inUnits s.time.dirE.theta))
  else if off = 0x70 then some (satBits 32 (inUnits s.time.dirW.theta))
  else none

/-- RGN: the registers of the selected region, of the layout and of the slot table (Tables 2-9 to 2-12). -/
def rgnWord (s : State) (off : Nat) : Option Nat :=
  let r := s.region (selRegion s)
  let g := geom s
  if off = 0x44 then some r.base
  else if off = 0x48 then some r.size
  else if off = 0x4C then some (rattrWord r).toNat
  else if off = 0x50 then some (rpinWord r).toNat
  else if off = 0x54 then some r.stale.toNat
  else if off = 0x58 then some (rstatWord r).toNat
  else if off = 0x5C then some r.rlate
  else if off = 0x60 then some r.rskip
  else if off = 0x80 then some (pack [(16, g.k), (7, g.s), (0, g.n)])
  else if off = 0x88 then some g.memsize
  else if off = 0x8C then some g.isize
  else if off = 0x94 then
    some (match s.slots[fget s Pg.rgn F.RGN_SLOTSEL_SLOT]? with
      | some e => pack [(15, 1), (8, e.1), (0, e.2)]
      | none => 0)
  else if off = 0x98 then some (kpSum s)
  else none

/-- Has the commit deadline of the next pulse passed (ESTAT.PASTDL)? -/
def pastDeadline (s : State) : Bool :=
  match toPulse s with
  | some d => decide (d < (us s.merid.guardNow : Int))
  | none => false

/-- EPCH (Table 16-12). -/
def epchWord (s : State) (off : Nat) : Option Nat :=
  if off = 0x48 then
    some (pack [(31, b2n s.merid.inBlank), (30, b2n (pastDeadline s)), (16, s.merid.guardNow), (0, s.merid.blankNow)])
  else none

/-- LTRAIN of a link, or BTRAIN of a half link (Table 3-8, R310). -/
def ltrainWord (k : Link) : Nat :=
  pack [(28, k.state.code), (26, min 3 k.attempt), (22, k.failPh), (21, b2n k.rate100), (17, popCount 8 k.active.toNat)]

/-- Lanes of the links of a page for which the condition holds (the halves of a split port have their own lanes, R282). -/
def laneMask (s : State) (l : Nat) (p : Link → Nat → Bool) : Nat := bitsOf 8 fun y => p (s.link (laneLink s l y)) y

/-- Sum of a number over the links of a page (R310). -/
def sumLinks (s : State) (l : Nat) (f : Link → Nat) : Nat := (pageLinks s l).foldl (fun a i => a + f (s.link i)) 0

/-- LySTAT (Table 3-10). -/
def lystatWord (k : Link) (y : Nat) : Nat :=
  let a := k.lane y
  let use := if k.active.getLsbD y then 1 else if k.failed.getLsbD y then 3 else if k.retired.getLsbD y then 2 else 0
  pack [(31, b2n a.lock), (30, b2n a.sigdet), (29, b2n a.aligned), (28, b2n a.pcrx), (27, b2n a.chkLock), (25, use),
    (18, a.slips), (12, a.skew), (8, a.pre), (4, a.post)]

/-- Lane and transaction registers of a port page (Tables 3-8 to 3-11 and 4-11). -/
def portWord (s : State) (l off : Nat) : Option Nat :=
  let p := Pg.link l
  if off = 0x44 then some (ltrainWord (s.link l))
  else if off = 0x4C then
    some (pack [(24, laneMask s l fun k y => k.active.getLsbD y), (16, laneMask s l fun k y => k.retired.getLsbD y),
      (8, laneMask s l fun k y => k.failed.getLsbD y), (0, laneMask s l fun k y => (k.lane y).pctx)])
  else if off = 0x54 then
    let busy := laneMask s l fun k y => aligning k y && decide ((k.lane y).sinceSlip < alignWin s l) && decide (0 < (k.lane y).slips)
    some (fieldsWord s p off + pack [(24, b2n (busy != 0)), (0, laneMask s l fun k y => (k.lane y).aligned)])
  else if off = 0x84 then
    some (pack [(22, sumLinks s l fun k => k.tags.length), (11, sumLinks s l fun k => k.replay.length)])
  else if off = 0x88 then
    some (pack [(20, sumLinks s l fun k => k.credHdr.getD 1 0), (4, sumLinks s l fun k => k.credDat.getD 1 0)])
  else if 0x100 ≤ off ∧ off < 0x200 ∧ off % 0x20 = 4 then
    let y := (off - 0x100) / 0x20
    some (lystatWord (s.link (laneLink s l y)) y)
  else none

def HoState.code : HoState → Nat
  | .idle => 0
  | .armed => 1
  | .check => 2
  | .copy => 3
  | .freeze => 4
  | .receiving => 5
  | .done => 6
  | .aborted => 7

def MState.code : MState → Nat
  | .off => 0
  | .resync => 1
  | .attached => 2
  | .detached => 3

/-- Ring registers (Table 10-9). -/
def ringWord (s : State) (l off : Nat) : Option Nat :=
  let a := s.rlink (l % 2)
  let h := s.ring.ho
  let m := s.mirror (fget s (Pg.link 16) F.RING_MSEL_ENTRY)
  if off = 0x204 then some (if isHalf s l then ltrainWord (s.link (18 + l % 2)) else 0)
  else if off = 0x210 then some (satBits 32 a.rt)
  else if off = 0x214 then some (satBits 32 (s.rlink (2 + l % 2)).rt)
  else if off = 0x218 then some (a.nbr.toNat % 2 ^ 32)
  else if off = 0x21C then some (a.nbr.toNat / 2 ^ 32)
  else if l % 2 = 1 then portWord s l off
  else if off = 0x228 then some (pack [(28, h.state.code), (24, h.cause), (16, h.pass), (8, min 255 h.postpones)])
  else if off = 0x22C then some h.dirty.length
  else if off = 0x244 then some (pack [(31, b2n m.en), (30, b2n m.dest), (8, m.preg), (0, m.lreg)])
  else if off = 0x248 then some (pack [(30, m.state.code), (0, min 0xFFFF m.detaches)])
  else portWord s l off

/-- Host port (Tables 3-8 to 3-11, 4-11 and 12-4). -/
def hpWord (s : State) (l off : Nat) : Option Nat :=
  if off = 0x204 then some (fieldsWord s (Pg.link l) off + sbyLevel (s.link l) * 2 ^ 30)
  else portWord s l off

/-- BAY (Table 16-13). The channels of a bay are gated once the start-up has found every one of them ABSENT (R10). -/
def bayWord (s : State) (b off : Nat) : Option Nat :=
  let st (i : Nat) : ChState := (s.chan (8 * b + i)).state
  if off = 0x40 then
    some (pack [(24, bitsOf 8 fun i => chPresent s (8 * b + i)), (16, bitsOf 8 fun i => st i == .failed),
      (8, bitsOf 8 fun i => st i == .reset || st i == .training || st i == .tracking),
      (0, b2n ((List.range 8).all fun i => st i == .absent && startupOver s (8 * b + i)))])
  else none

def ChState.code : ChState → Nat
  | .absent => 0
  | .training => 1
  | .ready => 2
  | .powerdown => 3
  | .selfref => 4
  | .failed => 5
  | .reset => 6
  | .tracking => 7

def RefMult.code : RefMult → Nat
  | .x1 => 0
  | .half => 1
  | .quarter => 2

/-- CH (Tables 7-16 and 8-12). CSTAT.RFMULT shows the faster of the ranks' multipliers, DRAIN the draining of queued writes (R212). -/
def chWord (s : State) (c off : Nat) : Option Nat :=
  let p := Pg.ch c
  let k := s.chan c
  if off = 0x40 then
    some (pack [(30, k.rate), (29, k.ranks - 1), (26, k.density), (25, b2n (decide (k.rate < 3))), (0, k.ublk)])
  else if off = 0x44 then
    some (pack [(28, k.state.code), (26, (List.range k.ranks).foldl (fun a r => max a (RefMult.code (k.rk r).mult)) 0), (25, b2n (draining k && !k.wq.isEmpty)),
      (24, b2n (k.rank.any fun e => e.2.held.isSome)), (8, k.rq.length), (0, k.wq.length)])
  else if off = 0x54 then some (pack [(24, intBits 8 k.credit), (16, intBits 8 k.minCredit)])
  else if off = 0x64 then some (fieldsWord s p off + (if scrubLines k = 0 then 0 else k.scrubPos * 2 ^ 16 / scrubLines k % 2 ^ 16))
  else if off = 0x84 then some (rdent (tget {} k.red (fget s p F.CH_RDSEL_ENTRY))).toNat
  else if off = 0x100 then some (fieldsWord s p off + k.fsp * 2 ^ 20)
  else if off = 0x124 then some (fieldsWord s p off + b2n k.sweep.isSome * 2 ^ 31)
  else if off = 0x12C then some (k.results.getD (fget s p F.CH_SWRSEL_POINT) 0)
  else if 0x130 ≤ off ∧ off < 0x154 ∧ off % 4 = 0 then
    let i := (off - 0x130) / 2
    some (pack [(16, min 0xFFFF (k.berr.getD (i + 1) 0)), (0, min 0xFFFF (k.berr.getD i 0))])
  else if off = 0x158 then
    some (tget 0 k.delays (dlyKey (fget s p F.CH_DLYSEL_KIND) (fget s p F.CH_DLYSEL_RANK) (fget s p F.CH_DLYSEL_SEL)))
  else none

def GState.code : GState → Nat
  | .inService => 0
  | .returning => 1
  | .out => 2

/-- Lamp records that an entry holds: two in each line, but for an odd last one. -/
def CacheEnt.records (e : CacheEnt) : Nat := (e.lines.map fun l => min 2 (e.nlamp - 2 * (l.1 - e.map / 64))).sum

/-- JG (Table 6-8). In SAFE every descriptor has ended (Table 2-7). -/
def jgWord (s : State) (g off : Nat) : Option Nat :=
  let k := s.group g
  if off = 0x40 then
    some (pack [(16, bitsOf 16 (unitBusy k)), (6, k.state.code), (0, if s.safe.state = .safe then 0 else slotsUsed s g)])
  else if off = 0x44 then some k.fence.toNat
  else if off = 0x4C then some (fieldsWord s (Pg.jg g) off + b2n k.tload.isSome * 2 ^ 30)
  else if off = 0x50 then some k.tvalid.toNat
  else if off = 0x60 then some (pack [(28, k.cache.length), (0, (k.cache.map (·.records)).sum)])
  else none

def QState.code : QState → Nat
  | .disabled => 0
  | .run => 1
  | .draining => 2
  | .error => 3

/-- WQ (Table 5-9). -/
def wqWord (s : State) (page off : Nat) : Option Nat :=
  let q := 16 * (page - 0x90) + (off - 0x100) / 0x40
  let k := s.queue q
  if off < 0x100 ∨ 0x500 ≤ off then none
  else if off % 0x40 = 0x10 then some k.pidx.toNat
  else if off % 0x40 = 0x14 then some (pack [(30, k.state.code), (24, inProgress s q), (8, k.cause)])
  else if off % 0x40 = 0x18 then some (pack [(16, k.fetch.toNat), (0, k.retired.toNat)])
  else none

/-- The link of a port page. -/
def pageLink (page : Nat) : Nat := if page < 0x20 then page - 0x10 else 16 + (page - 0xC0)

/-- A register that shows the state of a unit, none where its fields alone give its value. -/
def shownWord (s : State) (page off : Nat) : Option Nat :=
  match pageType page with
  | 0x00 => devWord s off
  | 0x01 => clkWord s off
  | 0x02 => bootWord s off
  | 0x03 => pwrWord s off
  | 0x04 => safeWord s off
  | 0x05 => flshWord s off
  | 0x06 => sbndWord s off
  | 0x08 => vecWord s off
  | 0x09 => timeWord s off
  | 0x0A => rgnWord s off
  | 0x0B => epchWord s off
  | 0x10 => hpWord s (pageLink page) off
  | 0x20 => bayWord s (page - 0x20) off
  | 0x40 => chWord s (page - 0x40) off
  | 0x80 => jgWord s (page - 0x80) off
  | 0x90 => wqWord s page off
  | 0xC0 => ringWord s (pageLink page) off
  | _ => none

/-- The value of a register, without the effects of a read. -/
def regWord (s : State) (page off : Nat) : Word :=
  BitVec.ofNat 32 (if off % 4 ≠ 0 then 0 else if off < 0x40 then headerWord s page off else (shownWord s page off).getD (fieldsWord s page off))

/-! ### A read -/

/-- FBSTAT while the slew engine offsets the feedback ratio (R267): NINT is N, or N - 1 while the offset is negative, that is while the
device time has to fall back (a positive `pll.offset`), and FRAC, whose value the manual does not state, is free (log 6). -/
def slewRatio (s : State) (off : Nat) : Word :=
  let w := Config.freeWord s.freeCtr
  if off = 0x4C then w
  else (w &&& 0xFF#32) ||| BitVec.ofNat 32 ((96 - b2n (decide (0 < s.pll.offset))) * 2 ^ 24)

/-- Do REFCLK edges come, seen by no command until it qualifies (R264, R265, R273)? -/
def refUnknown (s : State) : Bool :=
  !s.pll.refpres && (s.pll.state == .waitref || s.pll.state == .freerun || s.pll.state == .coast)

/-- PLLSTAT while REFCLK has not qualified: whether edges are present is free (log 6). -/
def pllstatFree (s : State) : Word :=
  regWord s Pg.clk 0x44 ||| (Config.freeWord s.freeCtr &&& 1#32) <<< 24

/-- TRSTAT of a channel in a campaign: STEP names some step of its path, from the first to the last. No command ends a step between
them, so which one it is stays free (R236, R257, log 82). -/
def trstatNow (s : State) (c : Nat) (m : Camp) : Word :=
  let n := campLast m - campFirst m + 1
  regWord (fset (Pg.ch c) F.CH_TRSTAT_STEP (campFirst m + (Config.freeWord s.freeCtr).toNat % n) s) (Pg.ch c) 0x100

/-- TRSTAT (R257). -/
def readTrstat (c : Nat) (s : State) : Word × State :=
  match (s.chan c).camp with
  | some m => if m.kind = .short then (regWord s (Pg.ch c) 0x100, s) else (trstatNow s c m, nextFree s)
  | none => (regWord s (Pg.ch c) 0x100, s)

/-- Read a register of an assigned page with the effects of the read. -/
def regRead (page off : Nat) (rd : FlashIn) (s : State) : Word × State :=
  if page = Pg.time ∧ off = 0x48 then readNowl s
  else if page = Pg.flsh ∧ off = 0x4C then windowRead rd s
  else if page = Pg.clk ∧ (off = 0x48 ∨ off = 0x4C) ∧ s.pll.state = .slew then (slewRatio s off, nextFree s)
  else if page = Pg.clk ∧ off = 0x44 ∧ refUnknown s = true then (pllstatFree s, nextFree s)
  else if pageType page = 0x40 ∧ off = 0x100 then readTrstat (page - 0x40) s
  else if pageType page = 0x40 ∧ off = 0x114 then urRead (page - 0x40) s
  else if pageType page = 0x80 ∧ off = 0x58 then (BitVec.ofNat 32 (windowEntry s (page - 0x80)), stepWindow (page - 0x80) s)
  else (regWord s page off, s)

/-- TWDATA_READ (R178). -/
def execTwdataRead (src : Src) (group : Fin 8) (s : State) : Host.Outcome State Fault Refusal :=
  .next (viaRead src (Pg.jg group) (regRead (Pg.jg group) F.JG_TWDATA_ENTRY.off ⟨0, false, []⟩) s)

end Sys2Proof.Machine
end

