-- ==== Sys2Proof/Machine/RegWrite.lean ====
section
/-!
DEFINITION. Writing a register: what each access type does (Table 0-5), the limits and conditions that the field tables set, and the
actions of the command registers.
-/

namespace Sys2Proof.Machine

/-- A number brought to the nearer limit of a range. -/
def limit (lo hi v : Nat) : Nat := max lo (min hi v)

/-- Write one field (Table 0-5): RW and RWL take the value, W1C clears and W1S sets the bits written 1, the others ignore it. -/
def putField (page : Nat) (v : Nat) (f : Fld) (s : State) : State :=
  let x := ext v f.lo f.w
  match f.ty with
  | .rw => fset page f x s
  | .rwl => fset page f x s
  | .w1c => fset page f (fget s page f - (fget s page f).land x) s
  | .w1s => fset page f ((fget s page f).lor x) s
  | .ro => s
  | .wo => s

/-- Write every field of a register. -/
def putFields (page off v : Nat) (s : State) : State :=
  match regAt page off with
  | some fs => forAll fs (putField page (if page = Pg.prot then v.land (protBits off) else v)) s
  | none => s

/-- A value with the bits `lo` to `lo + w − 1` replaced. -/
def withBits (v lo w x : Nat) : Nat := v - ext v lo w * 2 ^ lo + x % 2 ^ w * 2 ^ lo

/-- A value with a field brought to the nearer limit. -/
def limitFld (f : Fld) (lo hi v : Nat) : Nat := withBits v f.lo f.w (limit lo hi (ext v f.lo f.w))

/-- A value with a field of 0 replaced by 1. -/
def someFld (f : Fld) (v : Nat) : Nat := limitFld f 1 (2 ^ f.w - 1) v

/-- A value in which a field keeps what it holds. -/
def keepFld (s : State) (page : Nat) (f : Fld) (v : Nat) : Nat := withBits v f.lo f.w (fget s page f)

/-- Are MODE straps at test (R314)? -/
def testMode (s : State) : Bool := s.boot.mode == 2

def wrClk (off v : Nat) (s : State) : State :=
  let p := Pg.clk
  if off = 0x40 then
    if ext v 30 2 ≠ 0 ∧ testMode s = false then clkCfgErr s else putFields p off v s
  else if off = 0x50 then writeDseed (BitVec.ofNat 32 v) s
  else if off = 0x54 then putFields p off (limitFld F.CLK_CSTCFG_QUALT 1 1000 v) s
  else if off = 0x58 then putFields p off (limitFld F.CLK_PJCFG_SLEWRATE 1 100 v) s
  else if off = 0x5C then pjCommand (v.testBit 1) (v.testBit 0) s
  else if 0x70 ≤ off ∧ off < 0x88 then
    let k := (off - 0x70) / 4
    writeFdly k (ext v 0 8) (writeOutEn k (v.testBit 31) s)
  else if off = 0x8C then onlyIf (v.testBit 0) clearClk s
  else if off = 0xC0 then
    if v.testBit 31 then dspRequest (ext v 0 2) s else putFields p off v s
  else putFields p off v s

/-- BOOT registers whose effect only the management core's write has (R322, R335, R338). -/
def coreBoot (off : Nat) : Bool := off == F.BOOT_BCMD_RUN.off || off == F.BOOT_WDKICK_CODE.off

def wrBoot (src : Src) (off v : Nat) (s : State) : State :=
  if coreBoot off && src != .core then bootCfgErr s
  else if off = 0x58 then onlyIf (v.testBit 0) sealNow (onlyIf (v.testBit 1) runNow s)
  else if off = 0x5C then resetCommand (BitVec.ofNat 32 v) s
  else if off = 0x60 then
    forAll (bitsSet 18 v) resetPort s
  else if off = 0x64 then onlyIf (v.testBit 31) (resetChan (ext v 0 6) []) s
  else if off = 0x68 then forAll (bitsSet 8 v) (fun b => resetBay b []) s
  else if off = 0x6C then
    let w := someFld F.BOOT_WDCFG_LIMIT (limitFld F.BOOT_WDCFG_PERIOD 10 10000 v)
    putFields Pg.boot off (if testMode s then w else keepFld s Pg.boot F.BOOT_WDCFG_EN w) s
  else if off = 0x70 then kick (ext v 0 8) s
  else putFields Pg.boot off v s

def wrPwr (off v : Nat) (s : State) : State :=
  if off = 0x40 then putFields Pg.pwr off (someFld F.PWR_PCFG_IDLE v) s
  else if off = 0x4C then onlyIf (v.testBit 0) retain s
  else putFields Pg.pwr off v s

def wrSafe (off v : Nat) (s : State) : State :=
  if off = 0x40 then putFields Pg.safe off (limitFld F.SAFE_SCFG_TWARN 60 110 v) s
  else if off = 0x50 then putFields Pg.safe off (limitFld F.SAFE_LTCFG_PERIOD 1 1440 v) s
  else if off = 0x6C then
    onlyIf (v.testBit 1) (safeCommand (ext v 16 16))
      (onlyIf (v.testBit 2) (fun t => { t with safe := { t.safe with ltRun := true } }) (onlyIf (v.testBit 0) clearSafe s))
  else putFields Pg.safe off v s

def wrFlsh (src : Src) (off v : Nat) (s : State) : State :=
  if off = 0x40 then
    putFields Pg.flsh off (limitFld F.FLSH_FCFG_ROTLOW 5 32 (limitFld F.FLSH_FCFG_WEAKTHR 1 8 v)) s
  else if off = 0x54 then mboxWrite src (ext v 0 4) s
  else if off = 0x78 then
    onlyIf (v.testBit 0) (fclear Pg.flsh [F.FLSH_FCNT_WEAKS, F.FLSH_FCNT_UNCORS, F.FLSH_FCNT_RETIRES]) s
  else putFields Pg.flsh off v s

/-- SBND.SCMD.CLRCNT (R394). -/
def clearSbnd (s : State) : State :=
  fclear Pg.sbnd [F.SBND_ERRCNT_PROTO, F.SBND_ERRCNT_PEC, F.SBND_ERRCNT_DENIED, F.SBND_ERRCNT_BUSY, F.SBND_XCNT_WR, F.SBND_XCNT_RD] s

def wrSbnd (off v : Nat) (s : State) : State :=
  if off = 0x44 then putFields Pg.sbnd off (limitFld F.SBND_STIM_THOLD 1 50 v) s
  else if off = 0x48 then putFields Pg.sbnd off (limitFld F.SBND_TOUT_SCLTO 5 50 (limitFld F.SBND_TOUT_SDATO 5 50 v)) s
  else if off = 0x5C then onlyIf (v.testBit 0) clearSbnd s
  else putFields Pg.sbnd off v s

def wrVec (off v : Nat) (s : State) : State :=
  let n := selVec s
  let cfgErr (t : State) : State := raise Pg.vec E.VEC_CFGERR (packW [(0, n)]) 0 t
  if off = 0x40 then if 512 ≤ v then cfgErr s else putFields Pg.vec off v s
  else if off = 0x44 then modVec n (fun e => { e with addr := BitVec.ofNat 64 (withBits e.addr.toNat 0 32 v) }) s
  else if off = 0x48 then modVec n (fun e => { e with addr := BitVec.ofNat 64 (withBits e.addr.toNat 32 32 v) }) s
  else if off = 0x4C then modVec n (fun e => { e with data := BitVec.ofNat 32 v }) s
  else if off = 0x50 then
    if ext v 4 16 ≠ 0 then cfgErr s
    else checkWait n (modVec n (fun e => { e with mask := v.testBit 31, timev := v.testBit 30, dport := ext v 0 4 }) s)
  else if off = 0x54 then
    modVec n (fun e => { e with batch := max 1 (ext v 24 8), hold := ext v 12 12, gap := ext v 0 12 }) s
  else if off = 0x60 then onlyIf (v.testBit 1) (trigger n false) (onlyIf (v.testBit 0) (clearPending n) s)
  else putFields Pg.vec off v s

/-- The bits of TCMD in the order CLRCNT, SET, EPADOPT, STEP, SLEW, RESUME (Table 10-6). -/
def timeCommand (v : Nat) (s : State) : State :=
  let t := onlyIf (v.testBit 3) (fun t => setTime { t.time with adopt := true } t)
    (onlyIf (v.testBit 4) timeSet (onlyIf (v.testBit 5) clearTime s))
  let bigwait (f : State → State) (t : State) : State := if t.time.state == .bigwait then f t else timeCfgErr t
  onlyIf (v.testBit 0) timeResume (onlyIf (v.testBit 1) (bigwait chooseTimeSlew) (onlyIf (v.testBit 2) (bigwait chooseTimeStep) t))

def wrTime (off v : Nat) (s : State) : State :=
  if off = 0x40 then
    setRole (ext v 30 2) (putFields Pg.time off (keepFld s Pg.time F.TIME_TCFG_ROLE (limitFld F.TIME_TCFG_SYNCINT 1 64 v)) s)
  else if off = 0x58 then writePerl (BitVec.ofNat 32 v) s
  else if off = 0x5C then writePerh (BitVec.ofNat 32 v) s
  else if off = 0x74 then putFields Pg.time off (limitFld F.TIME_SLEW_RATE 10 1000 v) s
  else if off = 0x7C then timeCommand v s
  else putFields Pg.time off v s

/-- A write to RBASE, RSIZE, RATTR or RPIN of the selected region: refused while it is enabled (R42). -/
def wrRegion (f : Region → Region) (s : State) : State :=
  let rn := selRegion s
  if (s.region rn).en then rgnEvt E.RGN_CFGERR rn s else modRegion rn f s

/-- A write to a register of RGN. DESIGN CHOICE: of the bits of one RCMD write CLRCNT acts first (log 79), and the CFGERR of a refused
SPLIT write names the selected region (log 76). -/
def wrRgn (off v : Nat) (s : State) : State :=
  let rn := selRegion s
  if off = 0x44 then wrRegion (fun r => { r with base := ext v 0 18 }) s
  else if off = 0x48 then wrRegion (fun r => { r with size := ext v 0 18 }) s
  else if off = 0x4C then
    wrRegion (fun r => { r with
      writer := ext v 16 4, copies := ext v 10 2, kp := v.testBit 9, pinned := v.testBit 8, aged := v.testBit 7 }) s
  else if off = 0x50 then
    wrRegion (fun r => { r with
      bayset := BitVec.ofNat 8 (ext v 24 8), mbay := ext v 20 3, pbay := ext v 16 3, resoff := ext v 0 12 }) s
  else if off = 0x54 then modRegion rn (fun r => { r with stale := BitVec.ofNat 32 v }) s
  else if off = 0x64 then
    if v.testBit 0 && v.testBit 1 then rgnEvt E.RGN_CFGERR rn s
    else
      onlyIf (v.testBit 0) (enableRegion rn) (onlyIf (v.testBit 1) (disableRegion rn) (onlyIf (v.testBit 2) (clearRegionCounts rn) s))
  else if off = 0x84 then
    if s.regions.any (fun e => e.2.en) || (s.built && decide (uMin s / 512 < ext v 0 12)) then rgnEvt E.RGN_CFGERR rn s
    else putFields Pg.rgn off v s
  else putFields Pg.rgn off v s

def wrEpch (off v : Nat) (s : State) : State :=
  if off = 0x40 then
    let g := ext v 0 10
    settleEpch (onlyIf (limit 10 1000 g != g) (epchEvt E.EPCH_CFGERR 0 (s.merid.epoch + 1))
      (putFields Pg.epch off (limit 10 1000 g) s))
  else if off = 0x44 then settleEpch (putFields Pg.epch off v s)
  else if off = 0x58 then onlyIf (v.testBit 0) clearEpch s
  else putFields Pg.epch off v s

/-- Lane and transaction registers of a port (Tables 3-8 to 3-10 and 4-11). The fields of LCFG other than ENABLE take their values
before ENABLE acts. -/
def wrPort (src : Src) (l off v : Nat) (s : State) : State :=
  let p := Pg.link l
  if off = 0x40 then
    let t := putFields p off (keepFld s p F.HP_LCFG_ENABLE v) s
    if v.testBit 31 then enablePort src l t else disablePort l t
  else if off = 0x48 then putFields p off (limitFld F.HP_LLISTEN_PERIOD 1 10000 v) s
  else if off = 0x50 then
    putFields p off (someFld F.HP_LRET_RETRYMAX (someFld F.HP_LRET_RETRYPER (someFld F.HP_LRET_SOAK v))) s
  else if off = 0x54 then
    let t := putFields p off (someFld F.HP_ALGN_WIN v) s
    let u := onlyIf (ext v 8 8 != 0) (fun t => forAll (pageLinks t l) (fun i => slipLanes i (ext v 8 8)) t) t
    onlyIf (ext v 16 8 != 0) (fun t => forAll (pageLinks t l) (fun i => algnDropLanes i (ext v 16 8)) t) u
  else if off = 0x5C then
    onlyIf (v.testBit 1) (fun t => forAll (pageLinks t l) retrainLink t) (onlyIf (v.testBit 0) (clearLaneCounts l) s)
  else if off = 0x80 then
    putFields p off (someFld F.HP_XCFG_RPLTO (someFld F.HP_XCFG_RPLMAX (someFld F.HP_XCFG_ACKDLY v))) s
  else if off = 0xA4 then onlyIf (v.testBit 0) (clearXcnt l) s
  else if 0x100 ≤ off ∧ off < 0x200 ∧ off % 0x20 = 0 then writeLyctl l ((off - 0x100) / 0x20) v s
  else putFields p off v s

def wrHp (src : Src) (l off v : Nat) (s : State) : State :=
  if off = 0x200 then if 4 < ext v 10 3 then linkCfgErr l 15 s else putFields (Pg.link l) off v s
  else wrPort src l off v s

def wrRing (src : Src) (l off v : Nat) (s : State) : State :=
  let p := Pg.link l
  if off = 0x200 then
    if fget s p F.HP_LCFG_ENABLE = 1 then linkCfgErr l 15 s else putFields p off v s
  else if l % 2 = 1 then wrPort src l off v s
  else if off = 0x220 then
    putFields p off (someFld F.RING_HOCFG_FINAL (someFld F.RING_HOCFG_MAXPOST (someFld F.RING_HOCFG_LINKTO v))) s
  else if off = 0x224 then
    onlyIf (v.testBit 0) hoStart (onlyIf (v.testBit 1) hoArm (onlyIf (v.testBit 2) hoHostAbort s))
  else if off = 0x244 then writeMcfg (v.testBit 31) (v.testBit 30) (ext v 8 8) (ext v 0 8) s
  else wrPort src l off v s

/-- The training helpers (Table 8-12); only the management core writes them, in TRAINING or TRACKING (R244). -/
def wrTraining (c off v : Nat) (s : State) : State :=
  let p := Pg.ch c
  if off = 0x114 then urWrite c (BitVec.ofNat 32 v) s
  else if off = 0x118 then putFields p off (someFld F.CH_SWCTL_BURSTS v) s
  else if off = 0x120 then onlyIf (v.testBit 0) (sweepStart c) (onlyIf (v.testBit 1) (sweepEnd c true []) s)
  else if off = 0x158 then
    modChan c (fun k => { k with
      delays := tset k.delays (dlyKey (fget s p F.CH_DLYSEL_KIND) (fget s p F.CH_DLYSEL_RANK) (fget s p F.CH_DLYSEL_SEL)) (ext v 0 10) }) s
  else putFields p off v s

def wrCh (src : Src) (c off v : Nat) (s : State) : State :=
  let p := Pg.ch c
  if 0x108 ≤ off ∧ off ≤ 0x158 then
    match src with
    | .core => trainWrite src c off (wrTraining c off v) s
    | _ => chCfgErr c s
  else if off = 0x48 then
    if ext v 8 6 ≤ ext v 0 6 ∨ 60 < ext v 8 6 then chCfgErr c s else putFields p off v s
  else if off = 0x4C then
    let ok (n : Nat) : Bool := decide (1 ≤ n) && decide (n ≤ 60)
    if ok (ext v 8 6) && ok (ext v 0 6) then putFields p off v s else chCfgErr c s
  else if off = 0x50 then
    if 8 < ext v 8 4 ∨ 8 < ext v 4 4 then chCfgErr c s
    else if 8 ≤ ext v 0 4 then chCfgErr c (putFields p off (keepFld s p F.CH_RFCFG_STEER v) s)
    else putFields p off v s
  else if off = 0x60 then
    if ext v 0 5 = 0 ∨ 24 < ext v 0 5 then chCfgErr c (putFields p off (keepFld s p F.CH_SCRCFG_PERIOD v) s) else putFields p off v s
  else if off = 0x68 then
    putFields p off (someFld F.CH_CALCFG_ZQPER (limitFld F.CH_CALCFG_OSCPER 1 64 v)) s
  else if off = 0x70 then
    if ext v 16 8 = 0 ∨ 32 < ext v 16 8 then chCfgErr c s else putFields p off (someFld F.CH_ECFG_FAILTHR v) s
  else if off = 0xA0 then onlyIf (v.testBit 1) (snapRequest c) (onlyIf (v.testBit 0) (clearChan c) s)
  else putFields p off v s

/-- A write to a register of a JG page. DESIGN CHOICE: a refused write of TWSEL or RCFG concerns no pair and no table set, so bits [6:4]
of its capture are 0 (log 80). -/
def wrJg (src : Src) (g off v : Nat) (s : State) : State :=
  let p := Pg.jg g
  let cfgErr (t : State) : State := jgEvt g E.JG_CFGERR 0xF 0 t
  if off = 0x4C then
    if (s.group g).tload.isSome then jgEvt g E.JG_CFGERR 0xF (ext v 0 3) s
    else onlyIf (v.testBit 31) (startLoad g src) (onlyIf (v.testBit 29) (markValid g) (putFields p off v s))
  else if off = 0x54 then
    if ext v 12 2 = 3 then cfgErr (putFields p off (keepFld s p F.JG_TWSEL_PRIM v) s) else putFields p off v s
  else if off = 0x58 then writeWindow g (BitVec.ofNat 32 v) s
  else if off = 0x5C then
    onlyIf (v.testBit 1) (startUnfence g (ext v 8 3)) (onlyIf (v.testBit 0) (dropUnused g) (onlyIf (v.testBit 2) (clearGroupCounts g) s))
  else if 0x100 ≤ off ∧ off < 0x200 ∧ off % 16 = 0 then
    if ext v 20 2 = 3 ∨ ext v 12 2 = 3 then cfgErr s else putFields p off v s
  else if 0x100 ≤ off ∧ off < 0x200 ∧ off % 16 = 4 then putFields p off (max 1 (ext v 0 16)) s
  else putFields p off v s

/-- QCTL (Table 5-9): CLRCNT acts first; of the other bits at most one may be set, or the write is refused (R164). -/
def queueControl (q v : Nat) (s : State) : State :=
  if 1 < popCount 3 v then onlyIf (!inSafe s) (queueRefused q) s
  else
    onlyIf (v.testBit 2) (ctlAbort q) (onlyIf (v.testBit 1) (ctlDisable q) (onlyIf (v.testBit 0) (ctlEnable q)
      (onlyIf (v.testBit 3) (ctlClrcnt q) s)))

def wrWq (page off v : Nat) (s : State) : State :=
  let q := 16 * (page - 0x90) + (off - 0x100) / 0x40
  let w := BitVec.ofNat 32 v
  if off < 0x100 ∨ 0x500 ≤ off then s
  else if off % 0x40 = 0 then writeQueueCfg q .qbase w s
  else if off % 0x40 = 4 then writeQueueCfg q .qcbase w s
  else if off % 0x40 = 8 then writeQueueCfg q .qcfg w s
  else if off % 0x40 = 0xC then queueControl q v s
  else if off % 0x40 = 0x10 then writeQpidx q (BitVec.ofNat 16 v) s
  else s

/-- Registers from offset 0x040. -/
def wrBlock (src : Src) (page off v : Nat) (s : State) : State :=
  match pageType page with
  | 0x01 => wrClk off v s
  | 0x02 => wrBoot src off v s
  | 0x03 => wrPwr off v s
  | 0x04 => wrSafe off v s
  | 0x05 => wrFlsh src off v s
  | 0x06 => wrSbnd off v s
  | 0x08 => wrVec off v s
  | 0x09 => wrTime off v s
  | 0x0A => wrRgn off v s
  | 0x0B => wrEpch off v s
  | 0x10 => wrHp src (pageLink page) off v s
  | 0x40 => wrCh src (page - 0x40) off v s
  | 0x80 => wrJg src (page - 0x80) off v s
  | 0x90 => wrWq page off v s
  | 0xC0 => wrRing src (pageLink page) off v s
  | _ => putFields page off v s

/-! ### The common header -/

/-- CTRL.CAPCLR (R427). -/
def clearCaps (page : Nat) (s : State) : State := modHdr page (fun h => { h with cap0 := 0, cap1 := 0, evtCnt := 0 }) s

/-- ERR_CAP0 of a forced event: the event's bit number in its place, or the unit it belongs to (R428). -/
def forceCap0 (page bit : Nat) : Word :=
  match pageType page with
  | 0x08 => 0
  | 0x0A => packW [(8, bit)]
  | 0x80 => packW [(8, bit)]
  | 0x90 => packW [(0, bit % 16)]
  | 0x01 => if bit < 12 then packW [(27, bit)] else 0
  | 0x10 => if 11 ≤ bit ∧ bit < 17 then 0 else packW [(8, bit)]
  | 0xC0 => if 11 ≤ bit ∧ bit < 17 then 0 else packW [(8, bit)]
  | _ => packW [(27, bit)]

/-- ERR_CAP1 of a forced event: the events of the transaction layer (Table 4-12) and of set points (Table 8-11) name their bit there. -/
def forceCap1 (page bit : Nat) : Word :=
  match pageType page with
  | 0x01 => if bit < 12 then 0 else packW [(27, bit)]
  | 0x10 => if 11 ≤ bit ∧ bit < 17 then packW [(10, bit)] else 0
  | 0xC0 => if 11 ≤ bit ∧ bit < 17 then packW [(10, bit)] else 0
  | _ => 0

/-- Set one event bit through EVT_FORCE, with its capture and vector (R428). -/
def forceOne (page bit : Nat) (s : State) : State := raise page bit (forceCap0 page bit) (forceCap1 page bit) s

/-- EVT_FORCE: the reserved bits of the page force nothing, and the highest bit writes the capture last; then each event has its
fault-log entry with ACTION 0 (R428, R412). -/
def forceEvents (page : Nat) (mask : Word) (s : State) : State :=
  let bits := bitsSet 32 (mask &&& evtMask page).toNat
  forAll bits (logEvent 0 0 0 0 page) (forAll bits (forceOne page) s)

/-- The registers of the common header. -/
def wrHeader (page off v : Nat) (s : State) : State :=
  let w := BitVec.ofNat 32 v
  if page = Pg.prot then s
  else if off = 0x08 then onlyIf (v.testBit 1) (clearCaps page) (onlyIf (v.testBit 0) (clearEvt page 0xFFFFFFFF) s)
  else if off = 0x10 then clearEvt page w s
  else if off = 0x14 then modHdr page (fun h => { h with evtEn := w &&& evtMask page }) s
  else if off = 0x18 then forceEvents page w s
  else s

/-- Is a write to the page ignored whatever it holds: at a reserved offset (R425), or of RO fields alone (Table 0-5)? -/
def writeIgnored (page off : Nat) : Bool :=
  if off < 0x40 then !([0x08, 0x10, 0x14, 0x18].contains off)
  else match regAt page off with
    | some fs => fs.all fun f => f.ty == .ro
    | none => true

/-- CFGERR of a page on which it says that a write was ignored (R281, R309, R340, R354, R395, R423, R433). Of the SBND page the capture
names the register: in the slot that committed the word, or as the bus is idle for another source (DESIGN CHOICE, log 107). -/
def ignoredEvt (src : Src) (page off : Nat) (s : State) : State :=
  match page with
  | 0x00 => raise Pg.dev E.DEV_CFGERR (packW [(27, E.DEV_CFGERR)]) 0 s
  | 0x01 => clkCfgErr s
  | 0x02 => bootCfgErr s
  | 0x03 => pwrEvt E.PWR_CFGERR 0 s
  | 0x04 => safeEvt E.SAFE_CFGERR 0 Pg.safe 0 s
  | 0x06 =>
    match src with
    | .sideband => sbEvt E.SBND_CFGERR (if s.sb.p then 5 else 4) 3 (page * 4096 + off) s
    | _ => sbEvt E.SBND_CFGERR 7 0 (page * 4096 + off) s
  | 0x09 => timeCfgErr s
  | _ => s

/-- The effect of a register write that its source may make, at an assigned page (R5, R425); the unit of the page is awake by then (R349). -/
def performWrite (src : Src) (page off : Nat) (val : Word) (s : State) : State :=
  if off % 4 ≠ 0 then s
  else
    let t := wakeFor src page s
    if writeIgnored page off then ignoredEvt src page off t
    else if off < 0x40 then wrHeader page off val.toNat t else wrBlock src page off val.toNat t

end Sys2Proof.Machine
end

