-- ==== Sys2Proof/Machine/Sideband.lean ====
section
/-!
DEFINITION. The two-wire sideband target (R376 to R395): address match, the register address, write and read words with their check
bytes, protocol errors and line timeouts.
-/

namespace Sys2Proof.Machine

def setSb (b : Sideband) (s : State) : State := { s with sb := b }

/-- One byte of the CRC-8 of R385, polynomial 0x07, most significant bit first. -/
def pecByte (c : Nat) (b : Byte) : Nat :=
  (List.range 8).foldl (fun a _ => if 128 ≤ a then (a * 2 % 256).xor 0x07 else a * 2) (c.xor b.toNat)

def pecRun (c : Nat) (bs : List Byte) : Nat := bs.foldl pecByte c

/-- Does a word lie in a flash bank that is busy (R356)? -/
def busyWord (s : State) (raddr : Nat) : Bool := raddr == Pg.flsh * 4096 + F.FLSH_RWDATA_DATA.off && windowBusy s

/-- The address of the next word: 4 further on, within the page (R382). -/
def nextRaddr (raddr : Nat) : Nat := raddr / 4096 * 4096 + (raddr + 4) % 4096

/-- The phase of the transaction (R395): own address, address byte, data byte, check byte or idle bus. -/
def sbPhase (b : Sideband) : Nat :=
  match b.state with
  | .idle => 7
  | .ignoring => 7
  | .address => if b.expectAddr then 0 else min 3 (b.addr.length + 1)
  | .write => if b.p && b.got.length == 4 then 5 else 4
  | .read => if b.p && b.out == 4 then 5 else 4

/-- The byte within the word (R395). -/
def sbByte (b : Sideband) : Nat := min 3 (if b.state == .read then b.out else b.got.length)

/-- Is the device taking part in a transaction? -/
def sbTakesPart (b : Sideband) : Bool := b.state != .idle && b.state != .ignoring

/-- A protocol error or timeout, counted in ERRCNT.PROTO (R381, R389, R390). -/
def sbError (bit phase byte raddr : Nat) (s : State) : State := sbEvt bit phase byte raddr (fbump Pg.sbnd F.SBND_ERRCNT_PROTO s)

/-- The phase of an error at a position of the bus. -/
def posPhase (b : Sideband) (pos : BusPos) : Nat := if pos = .inAck then 6 else sbPhase b

/-- The error of a START or STOP inside a byte or in an acknowledge slot (R389). -/
def posError (pos : BusPos) (s : State) : State :=
  onlyIf (pos != .boundary && sbTakesPart s.sb) (sbError E.SBND_PROTO (posPhase s.sb pos) (sbByte s.sb) s.sb.raddr) s

/-- What a transaction leaves when it ends: nothing of the word, the addresses or the check byte. -/
def sbEnded (b : Sideband) (st : SbState) : Sideband :=
  { b with state := st, expectAddr := false, afterSr := false, fresh := false, raddr := 0, got := [], out := 0, word := none, aborted := false }

/-- A START or repeated START: STIM and TOUT take effect, and an address byte follows (R378, R380, R394). SDA has risen before it. -/
def sbStart (pos : BusPos) (s : State) : State :=
  let t := posError pos s
  let sr := pos == .boundary && t.sb.state == .write && t.sb.fresh
  setSb { sbEnded t.sb .address with
    expectAddr := true, afterSr := sr, held := false, addr := [], p := sr && t.sb.p
    raddr := if sr then t.sb.raddr else 0, crc := if sr then t.sb.crc else 0
    thold := fget t Pg.sbnd F.SBND_STIM_THOLD, filt := fget t Pg.sbnd F.SBND_STIM_FILT
    sclto := fget t Pg.sbnd F.SBND_TOUT_SCLTO, sdato := fget t Pg.sbnd F.SBND_TOUT_SDATO } t

/-- A STOP: a word not committed is discarded, and after 1 to 3 bytes of a write word that is an error (R378, R389). -/
def sbStop (pos : BusPos) (s : State) : State :=
  let n := s.sb.got.length
  let t := if pos = .boundary then
      onlyIf (s.sb.state == .write && decide (1 ≤ n) && decide (n ≤ 3)) (sbError E.SBND_PROTO 4 (n - 1) s.sb.raddr) s
    else posError pos s
  setSb { sbEnded t.sb .idle with held := false } t

/-- Is the sideband deaf: the clocks do not run yet, a warm reset has not come to the boot ROM, or the device enters, holds or begins to
leave RETENTION (Table 14-4)? It answers again 0.2 ms after the lock, the longest that step 4 of Table 12-2 allows (log 108). -/
def sbDeaf (s : State) : Bool :=
  s.boot.state == .pll || bootNow s == .warm || s.power.state == .entering || clocksOff s ||
    (s.power.state == .waking && decide (s.now < s.power.since + us 200))

/-- A byte is not acknowledged, and the device ignores the bus until a START or STOP (R386). -/
def sbNack (cause : Nat) (s : State) : State := setSb { sbEnded s.sb .ignoring with nak := cause } s

/-- A NACK for a busy bank or a full buffer. -/
def sbBusyNak (cause phase raddr : Nat) (s : State) : State :=
  sbEvt E.SBND_BUSY_NAK phase 0 raddr (fbump Pg.sbnd F.SBND_ERRCNT_BUSY (sbNack cause s))

/-- Read a register for the sideband (R384); a unit that sleeps is woken by it (R349). -/
def sbFetch (raddr : Nat) (rd : FlashIn) (s : State) : State :=
  let r := regRead (raddr / 4096) (raddr % 4096) rd (wakeFor .sideband (raddr / 4096) s)
  fbump Pg.sbnd F.SBND_XCNT_RD (setSb { r.2.sb with word := some r.1 } r.2)

/-- The device's own address (R376, R381, R384). Word 0 of a read is read before the R/W bit is known. -/
def sbOwn (read : Bool) (crc : Nat) (rd : FlashIn) (s : State) : State :=
  let b := s.sb
  if b.afterSr then
    let busy := busyWord s b.raddr
    let t := if busy then s else sbFetch b.raddr rd s
    if !read then setSb { sbEnded t.sb .address with crc := crc, p := false, raddr := 0 } t
    else if busy then sbBusyNak 2 0 b.raddr t
    else setSb { t.sb with state := .read, expectAddr := false, afterSr := false, crc := pecByte b.crc (BitVec.ofNat 8 (2 * (0x58 + s.boot.sa.toNat) + 1)) } t
  else if read then sbError E.SBND_PROTO 0 0 0 (sbNack 6 s)
  else setSb { sbEnded b .address with crc := crc } s

/-- The first address byte of a transaction: the 7-bit address is 0b1011 and SA2 to SA0 (R376, R377). -/
def sbDevice (byte : Byte) (rd : FlashIn) (s : State) : State :=
  if byte.toNat / 2 ≠ 0x58 + s.boot.sa.toNat then setSb (sbEnded s.sb .ignoring) s
  else if sbDeaf s then retentionWake (sbNack 1 s)
  else sbOwn (byte.getLsbD 0) (pecByte 0 byte) rd s

/-- The third address byte is acknowledged under the conditions of R381. -/
def sbThird (third : Byte) (raddr : Nat) (s : State) : Bool :=
  raddr % 4 == 0 && ext third.toNat 4 3 == 0 && pageAssigned (raddr / 4096) &&
    (third.getLsbD 7 || fget s Pg.sbnd F.SBND_SCFG_PECREQ == 0)

/-- A register-address byte (Table 14-2). -/
def sbAddrByte (byte : Byte) (s : State) : State :=
  let bs := s.sb.addr ++ [byte]
  let t := setSb { s.sb with addr := bs, crc := pecByte s.sb.crc byte } s
  if bs.length < 3 then t
  else
    let raddr := leNat bs % 2 ^ 20
    if sbThird byte raddr s then
      setSb { t.sb with state := .write, fresh := true, raddr := raddr, p := byte.getLsbD 7, got := [] } t
    else sbError E.SBND_PROTO 3 0 raddr (sbNack 3 t)

/-- An address byte of the device or of a register. -/
def sbAddress (byte : Byte) (rd : FlashIn) (s : State) : State :=
  if s.sb.state != .address then s
  else if s.sb.expectAddr then sbDevice byte rd s
  else sbAddrByte byte s

/-- A register write of the sideband to an assigned page (R388, R392, R425). -/
def sbWrite (page off : Nat) (val : Word) (s : State) : State :=
  if !sbReach s page off then
    let t := sbRefused (page * 4096 + off) s
    if page == Pg.boot && coreBoot off then bootCfgErr t
    else if trainingReg page off then chCfgErr (page - 0x40) t
    else t
  else if sealStops s .sideband page off val then sbRefused (page * 4096 + off) (noteDeny page s)
  else performWrite .sideband page off val s

/-- The word commits: it is counted and takes effect, and the next word follows in the page (R382, R383). -/
def sbCommit (val : Word) (s : State) : State :=
  let a := s.sb.raddr
  sbWrite (a / 4096) (a % 4096) val
    (fbump Pg.sbnd F.SBND_XCNT_WR (setSb { s.sb with got := [], raddr := nextRaddr a } s))

/-- One byte of a write word (R383, R385): a data byte, or with P the check byte after four. `full` says that the write buffer has no
room for another word (R386). -/
def sbWriteByte (full : Bool) (byte : Byte) (s : State) : State :=
  let b := s.sb
  if b.state != .write then s
  else if full && b.got.isEmpty then sbBusyNak 4 4 b.raddr s
  else if b.got.length < 4 then
    let got := b.got ++ [byte]
    let t := setSb { b with got := got, fresh := false, crc := pecByte b.crc byte } s
    if got.length = 4 ∧ b.p = false then sbCommit (BitVec.ofNat 32 (leNat got)) t else t
  else if byte.toNat = b.crc then sbCommit (BitVec.ofNat 32 (leNat b.got)) (setSb { b with crc := 0 } s)
  else sbEvt E.SBND_PEC_ERR 5 3 b.raddr (fbump Pg.sbnd F.SBND_ERRCNT_PEC (sbNack 5 s))

/-- Bytes of write words (R383): what follows a whole word begins the next. -/
def sbWriteWord (bytes : List Byte) (full : Bool) (s : State) : State := forAll bytes (sbWriteByte full) s

/-- The bytes of a read word as the controller sees them: a released line reads 0xFF (R387). -/
def sentWord (b : Sideband) : Word := if b.aborted then 0xFFFFFFFF else b.word.getD 0

/-- The next word of a read is read, or found in a busy flash bank (R384, R387). -/
def sbNextWord (rd : FlashIn) (s : State) : State :=
  let a := nextRaddr s.sb.raddr
  let t := setSb { s.sb with raddr := a } s
  if s.sb.aborted then t
  else if busyWord s a then sbEvt E.SBND_RD_ABORT 4 0 a (setSb { t.sb with aborted := true, word := none } t)
  else sbFetch a rd t

/-- A read word is shifted out; the controller acknowledges its first `acked` bytes, and its third acknowledge has the next word
read (R384). The word stands in `busResult`. One that was cut short is followed by the START or STOP that cut it. -/
def sbReadWord (acked : Nat) (cut : Bool) (rd : FlashIn) (s : State) : State :=
  if s.sb.state != .read || s.sb.out != 0 then s
  else
    let w := sentWord s.sb
    let c := pecRun s.sb.crc (leBytes 4 w.toNat)
    let chk := BitVec.ofNat 8 (if s.sb.aborted then 255 - c else c)
    let t := setSb { s.sb with
        crc := if s.sb.p then pecByte c chk else c
        sentCheck := if s.sb.p && decide (4 ≤ acked) then chk else s.sb.sentCheck } { s with busResult := some w }
    let u := if 3 ≤ acked then sbNextWord rd t else t
    if (if s.sb.p then 5 else 4) ≤ acked then u
    else if cut then setSb { u.sb with out := acked } u
    else setSb (sbEnded u.sb .ignoring) u

/-- The bus moves: the watches of R390 count from here. While the device is held in cold reset it follows nothing. -/
def busMoves (f : State → State) (s : State) : State := if s.boot.held then s else f (setSb { s.sb with lastAt := s.now } s)

/-- Does the device drive SDA: as it sends, or in an acknowledge slot of its own (R387, R390)? -/
def sbDrives (b : Sideband) : Bool := sbTakesPart b && !(b.state == .read && b.aborted && !b.p)

/-- A line has not moved for `limit` ms (R390): the target state machine is reset. -/
def sbTimeout (bit phase limit : Nat) (s : State) : State :=
  let t := waitUntil (s.sb.lastAt + ms limit) s
  sbError bit phase (sbByte s.sb) s.sb.raddr (setSb { sbEnded t.sb .idle with lastAt := t.now } t)

/-- SB_START (R378, R389). -/
def execSbStart (pos : BusPos) (s : State) : Host.Outcome State Fault Refusal := .next (busMoves (sbStart pos) s)

/-- SB_STOP (R378, R389). -/
def execSbStop (pos : BusPos) (s : State) : Host.Outcome State Fault Refusal := .next (busMoves (sbStop pos) s)

/-- SB_ADDRESS (R381). -/
def execSbAddress (byte : Byte) (rd : FlashIn) (s : State) : Host.Outcome State Fault Refusal := .next (busMoves (sbAddress byte rd) s)

/-- SB_WRITE_WORD (R383). -/
def execSbWriteWord (bytes : List Byte) (full : Bool) (s : State) : Host.Outcome State Fault Refusal :=
  .next (busMoves (sbWriteWord bytes full) s)

/-- SB_READ_WORD (R384). -/
def execSbReadWord (acked : ReadEnd) (rd : FlashIn) (s : State) : Host.Outcome State Fault Refusal :=
  .next (busMoves (sbReadWord acked.acked acked.cut rd) s)

/-- SDA_TO (R390): the device drives SDA in an acknowledge slot, or as it sends. -/
def execSdaTo (s : State) : Host.Outcome State Fault Refusal :=
  .next (if s.boot.held || !sbDrives s.sb then s
    else sbTimeout E.SBND_SDA_TO (if s.sb.state == .read then sbPhase s.sb else 6) s.sb.sdato s)

/-- SCL_TO (R390). -/
def execSclTo (s : State) : Host.Outcome State Fault Refusal :=
  .next (if s.boot.held then s else sbTimeout E.SBND_SCL_TO (sbPhase s.sb) s.sb.sclto s)

/-- BUS_HELD (R390). -/
def execBusHeld (s : State) : Host.Outcome State Fault Refusal :=
  .next (if s.boot.held then s else sbTimeout E.SBND_BUS_HELD 7 s.sb.sdato (setSb { s.sb with held := true } s))

/-- SB_CLRCNT (R394). -/
def execSbClrcnt (src : Src) (s : State) : Host.Outcome State Fault Refusal :=
  .next (viaReg src Pg.sbnd F.SBND_SCMD_CLRCNT.off clearSbnd s)

end Sys2Proof.Machine
end

