-- ==== Sys2Proof/Machine/RegCmd.lean ====
section
/-!
DEFINITION. Register accesses as commands: REG_RD and REG_WR of a host port (R131, R140), a register write by any source (R5, R425),
the commands of the common header (R427, R428), and sending a flit, which may release a reset that waits for its completion (R326).
-/

namespace Sys2Proof.Machine

/-- DEV.EVT.REGADDR (R433). -/
def regAddrEvt (port raddr : Nat) (s : State) : State :=
  raise Pg.dev E.DEV_REGADDR (packW [(27, E.DEV_REGADDR), (20, port), (0, raddr)]) 0 s

/-- Is this a write to the QPIDX of a queue that the port does not own (R150)? -/
def bellOfOther (s : State) (src : Src) (page off : Nat) : Bool :=
  pageType page == 0x90 && decide (0x100 ≤ off) && decide (off < 0x500) && off % 0x40 == 0x10 &&
    notOwner s src (16 * (page - 0x90) + (off - 0x100) / 0x40)

/-- The admission checks of a register request (Table 4-7, R150, R351). -/
def checkReg (s : State) (port : Nat) (write : Bool) (raddr : Nat) (val : Word) : Option (Status × Nat) :=
  let page := raddr / 4096
  let src : Src := .host ⟨port % 16, Nat.mod_lt _ (by decide)⟩
  if inSafe s then some (.discarded, 0x16)
  else if s.power.state == .entering then some (.busy, 0x09)
  else if raddr % 4 ≠ 0 ∨ pageAssigned page = false then some (.unsupported, 0x0C)
  else if !regRight s port page write then some (.denied, 0x05)
  else if write && bellOfOther s src page (raddr % 4096) then some (.denied, 0x05)
  else if write && sealStops s src page (raddr % 4096) val then some (.denied, 0x0B)
  else if busyWord s raddr then some (.busy, 0x0F)
  else none

/-- What a refused register request sets besides its completion: REGADDR, and SEAL.DENIES of the page (R430, R433). -/
def noteRefusal (port raddr : Nat) (e : Status × Nat) (s : State) : State :=
  if e.2 = 0x0C then regAddrEvt port raddr s else if e.2 = 0x0B then noteDeny (raddr / 4096) s else s

/-- A parity error that a register access finds acts on the scope of its page (R399), before the value leaves (R402): the request does
nothing and completes with DISCARDED, with the DETAIL of its scope (Table 4-9). -/
def withParity (parity : Bool) (page port tag : Nat) (f : State → State) (s : State) : State :=
  if !parity then f s
  else
    let t := pageParity page s
    let detail := if inSafe t then 0x16 else if [0x10, 0xC0].contains (pageType page) then 0x14 else 0x15
    refuseNP port tag 0 .bulk .discarded detail none t

/-- A register request of a host port: the tag, the checks, then the access. -/
def hostReg (port tag opc : Nat) (write : Bool) (raddr : Nat) (val : Word) (f : State → State) (s : State) : State :=
  if (s.link port).tags.contains tag then tagError port opc tag s
  else
    let t := useTag port tag s
    match checkReg s port write raddr val with
    | some e => refuseNP port tag 0 .bulk e.1 e.2 none (noteRefusal port raddr e t)
    | none => f t

/-- A REG_RD that its checks let through. -/
def readFor (port tag raddr : Nat) (rd : FlashIn) (s : State) : State :=
  let r := regRead (raddr / 4096) (raddr % 4096) rd s
  completeReg port tag r.1 r.2

/-- Would the write start a reset that ends the port that wrote it (R326)? -/
def endsPort (port raddr : Nat) (val : Word) : Bool :=
  raddr / 4096 == Pg.boot &&
    ((raddr % 4096 == F.BOOT_RSTCMD_KEY.off && ext val.toNat 16 16 == 0xA5C3 &&
        (ext val.toNat 0 3 == 2 || ext val.toNat 0 3 == 4)) ||
      (raddr % 4096 == F.BOOT_RSTPORT_HOST.off && val.toNat.testBit port))

/-- A REG_WR that its checks let through: it completes once the write has taken effect (R131); a reset that ends the port waits until
the completion has left (R326). -/
def writeFor (port : Fin 16) (tag raddr : Nat) (val : Word) (s : State) : State :=
  let done (t : State) : State := complete port tag 0 .bulk .ok 0 none t
  if endsPort port raddr val then
    done (setBoot { s.boot with later := s.boot.later ++ [(port.val, tag, raddr % 4096, val)] } s)
  else done (performWrite (.host port) (raddr / 4096) (raddr % 4096) val s)

def hostRegRd (port tag raddr : Nat) (parity : Bool) (rd : FlashIn) (s : State) : State :=
  hostReg port tag 0x08 false raddr 0 (withParity parity (raddr / 4096) port tag (readFor port tag raddr rd)) s

def hostRegWr (port : Fin 16) (tag raddr : Nat) (val : Word) (parity : Bool) (s : State) : State :=
  hostReg port tag 0x09 true raddr val (withParity parity (raddr / 4096) port tag (writeFor port tag raddr val)) s

/-- A register write of a host port that needs no tag: a refusal is counted. -/
def hostWrite (port : Fin 16) (raddr : Nat) (val : Word) (s : State) : State :=
  if !linkActive s port then s
  else
    match checkReg s port true raddr val with
    | some e => countRefused port e.1 (noteRefusal port raddr e s)
    | none => performWrite (.host port) (raddr / 4096) (raddr % 4096) val s

/-- A register write by its source (Table 16-1). -/
def writeBy (src : Src) (raddr : Nat) (val : Word) (s : State) : Host.Outcome State Fault Refusal :=
  let page := raddr / 4096
  let off := raddr % 4096
  match src with
  | .core =>
    if pageAssigned page then .next (if sealStops s .core page off val then s else performWrite .core page off val s)
    else .fault (.busFault (BitVec.ofNat 20 raddr))
  | .sideband =>
    .next (if pageAssigned page && raddr % 4 == 0 then sbWrite page off val s
      else sbError E.SBND_PROTO 3 0 raddr (setSb { s.sb with nak := 3 } s))
  | .host p => .next (hostWrite p raddr val s)

/-- The state after a register write, with the parity error of its register (R399). -/
def thenParity (parity : Bool) (page : Nat) (o : Host.Outcome State Fault Refusal) : Host.Outcome State Fault Refusal :=
  match o with
  | .next t => .next (onlyIf parity (pageParity page) t)
  | x => x

/-- REG_RD (R131). -/
def execRegRd (port : Fin 16) (tag : Fin 512) (raddr : RegAddr) (parity : Bool) (rd : FlashIn) (s : State) :
    Host.Outcome State Fault Refusal :=
  .next (arrives port (hostRegRd port tag raddr.toNat parity rd) s)

/-- REG_WR (R131). -/
def execRegWr (port : Fin 16) (tag : Fin 512) (raddr : RegAddr) (data : Word) (parity : Bool) (s : State) :
    Host.Outcome State Fault Refusal :=
  .next (arrives port (hostRegWr port tag raddr.toNat data parity) s)

/-- REGISTER_WRITE (R5): every field acts by its access type, after the checks of the source (R425). -/
def execRegisterWrite (src : Src) (addr : RegAddr) (val : Word) (parity : Bool) (s : State) : Host.Outcome State Fault Refusal :=
  thenParity parity (addr.toNat / 4096) (writeBy src addr.toNat val s)

/-- EVT_FORCE (R428). -/
def execEvtForce (src : Src) (page : Fin 256) (mask : Word) (s : State) : Host.Outcome State Fault Refusal :=
  writeBy src (page.val * 4096 + 0x18) mask s

/-- EVTCLR (R427). -/
def execEvtClr (src : Src) (page : Fin 256) (s : State) : Host.Outcome State Fault Refusal :=
  writeBy src (page.val * 4096 + 0x08) 1 s

/-- CAPCLR (R427). -/
def execCapClr (src : Src) (page : Fin 256) (s : State) : Host.Outcome State Fault Refusal :=
  writeBy src (page.val * 4096 + 0x08) 2 s

/-- Does the completion of a tag still wait in the port, or is it going out? -/
def completionWaits (k : Link) (tag : Nat) : Bool :=
  let isIt (m : MsgKind) : Bool := match m with | .cpl t _ => t == tag | _ => false
  k.txq.any (fun m => isIt m.kind) || k.toDiscard.any isIt || (match k.txPartKind with | some m => isIt m | none => false)

/-- The reset writes whose completions have left the port act 1 µs later (R326). -/
def runLater (l : Nat) (s : State) : State :=
  let go (w : Nat × Nat × Nat × Word) : Bool := w.1 == l && !completionWaits (s.link l) w.2.1
  let due := s.boot.later.filter go
  if due.isEmpty then s
  else
    let t := waitUntil (s.now + us 1) (setBoot { s.boot with later := s.boot.later.filter fun w => !go w } s)
    forAll due (fun w => wrBoot .core w.2.2.1 w.2.2.2.toNat) t

/-- FLIT_SEND (R117). -/
def execFlitSend (link : Fin 20) (s : State) : Host.Outcome State Fault Refusal := .next (runLater link (flitSend link s))

end Sys2Proof.Machine
end

