-- ==== Sys2Proof/Machine/Flit.lean ====
section
/-!
DEFINITION. The receiver of a port: codewords, flits and the messages in them (R113 to R132, R300).
-/

namespace Sys2Proof.Machine

/-! ### The messages of a flit -/

/-- A link protocol error (R123): PROTO, and the port is handled as R122 gives. -/
def protoError (l opc tag : Nat) (s : State) : State := dropToTraining l (hpEvt l E.HP_PROTO opc tag 0 s)

/-- Data slots of a ring message (Table 10-3); nothing for an opcode that is none. -/
def ringSlots (h : BitVec 128) : Option Nat :=
  match hdrOpc h with
  | 0x40 => some (4 * (ext h.toNat 105 6 + 1))
  | 0x41 => some 0
  | 0x42 => some 256
  | 0x43 => some 1
  | 0x44 => some 0
  | 0x45 => some 1
  | 0x46 => some 1
  | _ => none

/-- Is the opcode one of Table 4-5? -/
def hostOpc (o : Nat) : Bool := [0x01, 0x02, 0x03, 0x04, 0x08, 0x09, 0x0C, 0x10, 0x11, 0x20, 0x21].contains o

/-- Data slots of a message that begins on a link; nothing where its opcode is a protocol error (R123, R300). -/
def rxSlots (l : Nat) (h : BitVec 128) : Option Nat :=
  if 16 ≤ l then ringSlots h else if hostOpc (hdrOpc h) then some (hostSlots h) else none

/-- Credit class of a received message (R125, R300): 1 is P, 2 is NP, 0 takes no credits. -/
def rxClass (l : Nat) (h : BitVec 128) : Nat :=
  if 16 ≤ l then 1
  else if [0x03, 0x0C, 0x10, 0x11].contains (hdrOpc h) then 1
  else if [0x20, 0x21].contains (hdrOpc h) then 0 else 2

/-- A message of the host (R129 to R132). One of class CPL, IRQ or XWR is dropped (R127). -/
def hostMessage (port : Fin 16) (h : BitVec 128) (data : List Byte) (s : State) : State :=
  let f (lo w : Nat) : Nat := ext h.toNat lo w
  match hdrOpc h with
  | 0x01 => hostRd port (f 111 9) (f 105 6) (f 88 8) (f 40 40) s
  | 0x02 => hostWrAck port (f 111 9) (f 105 6) (f 40 40) data s
  | 0x03 => hostWrPost port (f 105 6) (f 40 40) data s
  | 0x04 => hostCommit port (f 111 9) (f 102 1 == 1) (f 88 8) (BitVec.ofNat 16 (f 64 16)) s
  | 0x08 => hostRegRd port (f 111 9) (f 80 20) false { cbits := 0, uncor := false, flips := [] } s
  | 0x09 => hostRegWr port (f 111 9) (f 80 20) (BitVec.ofNat 32 (f 0 32)) false s
  | 0x0C => doorbell port (f 88 8) (BitVec.ofNat 16 (f 0 16)) s
  | o => hpEvt port E.HP_UNEXPECTED o (f 111 9) 0 s

/-- A HOCTL message (Table 10-3). -/
def hoctlMessage (m : RingMsg) (s : State) : State :=
  match hdrFld m 88 8 with
  | 1 => recvStart s
  | 2 => recvArmed s
  | 3 => hoReceiving (recvSwitch m) s
  | 4 => recvReady m s
  | 5 => recvAbort m s
  | 6 => recvDone s
  | _ => s

/-- A message of the ring neighbour (Table 10-3). -/
def ringMessage (p : Nat) (m : RingMsg) (s : State) : State :=
  match hdrOpc m.hdr with
  | 0x40 => recvKpw p m s
  | 0x41 => recvKpack m s
  | 0x42 => hoReceiving (recvHodata m) s
  | 0x43 => hoReceiving (recvHorec m) s
  | 0x44 => hoctlMessage m s
  | 0x45 => recvHoreg m s
  | 0x46 => hoReceiving (recvHostate m) s
  | _ => s

/-- A whole message has arrived: its buffer is free again, so its credits are owed back (R126), and it acts. -/
def deliverMsg (l : Nat) (h : BitVec 128) (data : List Byte) (s : State) : State :=
  let c := rxClass l h
  let t := modLink l (fun k => { k with
    rxPart := [], rxNeed := 0
    oweHdr := if c = 0 then k.oweHdr else lset 0 k.oweHdr c (k.oweHdr.getD c 0 + 1)
    oweDat := if c = 0 then k.oweDat else lset 0 k.oweDat c (k.oweDat.getD c 0 + data.length / 16) }) s
  if l < 16 then hostMessage ⟨l % 16, Nat.mod_lt _ (by decide)⟩ h data t else ringMessage (l - 16) { hdr := h, data := data } t

/-- The header in a slot. -/
def slotHdr (slot : List Byte) : BitVec 128 := BitVec.ofNat 128 (leNat slot)

/-- A message begins with this header: its opcode and its credits are checked (R123), and its credits are used. -/
def beginRx (l : Nat) (slot : List Byte) (s : State) : State :=
  let h := slotHdr slot
  let k := s.link l
  let tag := ext h.toNat 111 9
  match rxSlots l h with
  | none => protoError l (hdrOpc h) tag s
  | some n =>
    let c := rxClass l h
    if c ≠ 0 ∧ (k.grantHdr.getD c 0 = 0 ∨ k.grantDat.getD c 0 < n) then protoError l (hdrOpc h) tag s
    else
      let t := setLink l { k with
        grantHdr := if c = 0 then k.grantHdr else lset 0 k.grantHdr c (k.grantHdr.getD c 0 - 1)
        grantDat := if c = 0 then k.grantDat else lset 0 k.grantDat c (k.grantDat.getD c 0 - n)
        rxPart := slot, rxNeed := n } s
      if n = 0 then deliverMsg l h [] t else t

/-- One slot of an accepted flit (R124). -/
def takeSlot (l : Nat) (slot : List Byte) (s : State) : State :=
  let k := s.link l
  if k.state != .active then s
  else if k.rxNeed = 0 then (if hdrOpc (slotHdr slot) = 0 then s else beginRx l slot s)
  else if k.rxNeed = 1 then deliverMsg l (slotHdr (k.rxPart.take 16)) (k.rxPart.drop 16 ++ slot) s
  else setLink l { k with rxPart := k.rxPart ++ slot, rxNeed := k.rxNeed - 1 } s

/-- The device's own parse (R123): the first slot after the `need` slots of a message in progress that begins a message. -/
def firstSlot (need : Nat) (slots : List (List Byte)) : Nat :=
  match (slots.zipIdx).find? fun e => decide (need ≤ e.2) && hdrOpc (slotHdr e.1) != 0 with
  | some e => e.2
  | none => 15

/-! ### Flits -/

/-- A bad flit, or a TX flit out of order (R119). -/
def nakFlit (l : Nat) (s : State) : State :=
  if (s.link l).nakEpisode then s
  else modLink l (fun k => { k with nakEpisode := true }) (fbump (Pg.link l) F.HP_XCNT1_NAKSENT s)

/-- ACKSEQ and ACKKIND of a good flit (R120, R121, R123). -/
def takeAck (l kind n : Nat) (s : State) : State :=
  if !ackInRange (s.link l) n then protoError l 0 0 s
  else match kind with
    | 1 => freeUpTo l n s
    | 2 => recvNak l n s
    | _ => s

/-- Credits that an accepted flit returns (R126). -/
def takeCredits (cls hdr dat : Nat) (k : Link) : Link :=
  if cls = 1 ∨ cls = 2 then
    { k with credHdr := lset 0 k.credHdr cls (k.credHdr.getD cls 0 + hdr), credDat := lset 0 k.credDat cls (k.credDat.getD cls 0 + dat) }
  else k

/-- A TX flit in order is accepted (R119, R120): its number, its credits, then its messages. -/
def acceptTx (l : Nat) (flit : List Byte) (s : State) : State :=
  let f (lo w : Nat) : Nat := ext (leAt flit 0 8) lo w
  let slots := pieces 16 (slice flit 8 240)
  let t := modLink l (fun k => takeCredits (f 32 2) (f 24 8) (f 12 12) { k with
    expSeq := (k.expSeq + 1) % 4096, nakEpisode := false, unacked := k.unacked + 1
    ackSince := match k.ackSince with | some a => some a | none => some s.now }) s
  if f 8 4 ≠ firstSlot (s.link l).rxNeed slots then protoError l 0 0 t else forAll slots (takeSlot l) t

/-- A good flit (R117, R119). A TX flit out of order is discarded, but for its acknowledgement. -/
def goodFlit (l : Nat) (flit : List Byte) (s : State) : State :=
  let f (lo w : Nat) : Nat := ext (leAt flit 0 8) lo w
  let t := takeAck l (f 34 2) (f 36 12) s
  if (t.link l).state != .active || f 60 4 == 2 then t
  else
    let u := heard l t
    if f 48 12 = (u.link l).expSeq then acceptTx l flit u else nakFlit l u

/-- Are the CRC and the type of a flit good (R115, R119)? -/
def crcGood (flit : List Byte) : Bool := crc64 (flit.take 248) == leAt flit 248 8

/-- A decoded codeword (R114, R119). -/
def takeFlit (l : Nat) (flit : List Byte) (s : State) : State :=
  if !crcGood flit then nakFlit l (fbump (Pg.link l) F.HP_XCRCE_COUNT s)
  else if ext (leAt flit 0 8) 60 4 = 1 ∨ ext (leAt flit 0 8) 60 4 = 2 then goodFlit l flit s
  else nakFlit l s

/-- Count corrected bytes on the lanes that carried them (R105). `first` is the logical lane of word 0. -/
def countFixed (l first : Nat) (got right : List Byte) (s : State) : State :=
  let k := s.link l
  let n := widthOf k.active.toNat
  let bad := (List.range 272).filter fun i => got.getD i 0 != right.getD i 0
  forAll bad (fun i t => fbump (Pg.link l) (laneFld (physLane k.active.toNat ((first + i / 16) % n)) F.HP_LyFECC_COUNT) t) s

/-! ### Words from the lanes -/

/-- Take one word from the next logical lane: precoding and scrambling are undone (R84, R86, R87). `x` is the level received before
the word and the word as it stood on the lane. -/
def takeWord (a : Link × List Byte) (x : Fin 4 × BitVec 128) : Link × List Byte :=
  let k := a.1
  let y := physLane k.active.toNat k.wordRx
  let b := k.lane y
  let d := scramble b.scrRx (unlineWord b.pcrx x.1 x.2)
  ({ k with wordRx := (k.wordRx + 1) % max 1 (widthOf k.active.toNat), lanes := tset k.lanes y { b with scrRx := d.2 } },
    a.2 ++ leBytes 16 d.1.toNat)

/-- A codeword has arrived on an ACTIVE port (R86, R114). -/
def recvCodeword (l : Nat) (words : List (Fin 4 × BitVec 128)) (s : State) : State :=
  let k := s.link l
  let r := ((words.take 17).foldl takeWord (k, []) : Link × List Byte)
  let cw := padTo 272 r.2
  let t := setLink l { r.1 with cwRx := r.1.cwRx + 1 } s
  match fecDecode cw with
  | none => nakFlit l (fbump (Pg.link l) F.HP_XFECU_COUNT t)
  | some (flit, n) =>
    takeFlit l flit (if n = 0 then t else countFixed l k.wordRx cw (flit ++ fecCheck flit) t)

/-- Does the port receive codewords? One in standby does not until it has woken (R347, R348). -/
def receives (s : State) (l : Nat) : Bool :=
  linkActive s l && !asleep (s.link l)

/-- FLIT_RECEIVE: `parity` says that the receive buffer met a parity error (R399, R404). -/
def flitReceive (l : Nat) (words : List (Fin 4 × BitVec 128)) (parity : Bool) (s : State) : State :=
  if !receives s l then s
  else
    let t := onlyIf parity (portFault l [l] 0x0B) s
    if receives t l then recvCodeword l words t else t

/-- FLIT_RECEIVE (R119). -/
def execFlitReceive (link : Fin 20) (words : List (Fin 4 × BitVec 128)) (parity : Bool) (s : State) :
    Host.Outcome State Fault Refusal :=
  .next (flitReceive link words parity s)

end Sys2Proof.Machine
end

