-- ==== Sys2Proof/Machine/Dispatch.lean ====
section
/-!
DEFINITION. The dispatch of a command to its meaning: one arm per constructor of Instr.
-/

namespace Sys2Proof.Machine

def exec (i : Instr) (s : State) : Host.Outcome State Fault Refusal :=
  match i with
  | .registerWrite src addr val parity => Sys2Proof.Machine.execRegisterWrite src addr val parity s
  | .evtForce src page mask => Sys2Proof.Machine.execEvtForce src page mask s
  | .evtClr src page => Sys2Proof.Machine.execEvtClr src page s
  | .capClr src page => Sys2Proof.Machine.execCapClr src page s
  | .meridianPulse => Sys2Proof.Machine.execMeridianPulse s
  | .blankingWindowOpen => Sys2Proof.Machine.execBlankingWindowOpen s
  | .rd port tag len tc maxage addr => Sys2Proof.Machine.execRd port tag len tc maxage addr s
  | .wrAck port tag len tc addr data => Sys2Proof.Machine.execWrAck port tag len tc addr data s
  | .wrPost port len tc addr data => Sys2Proof.Machine.execWrPost port len tc addr data s
  | .commit port tag touch region frame => Sys2Proof.Machine.execCommit port tag touch region frame s
  | .commitAccept region => Sys2Proof.Machine.execCommitAccept region s
  | .fillForwardDone region bad => Sys2Proof.Machine.execFillForwardDone region bad s
  | .regRd port tag raddr parity rd => Sys2Proof.Machine.execRegRd port tag raddr parity rd s
  | .regWr port tag raddr data parity => Sys2Proof.Machine.execRegWr port tag raddr data parity s
  | .doorbell port queue pidx => Sys2Proof.Machine.execDoorbell port queue pidx s
  | .orderingPointPass access => Sys2Proof.Machine.execOrderingPointPass access s
  | .schedulerSlot ch slot => Sys2Proof.Machine.execSchedulerSlot ch slot s
  | .readComplete access errs => Sys2Proof.Machine.execReadComplete access errs s
  | .phyFault ch canDrive => Sys2Proof.Machine.execPhyFault ch canDrive s
  | .refreshTick ch rank => Sys2Proof.Machine.execRefreshTick ch rank s
  | .backgroundDue ch act => Sys2Proof.Machine.execBackgroundDue ch act s
  | .backgroundSlackOut ch act => Sys2Proof.Machine.execBackgroundSlackOut ch act s
  | .oscMeasureDone ch drift => Sys2Proof.Machine.execOscMeasureDone ch drift s
  | .mr4ReadDone ch rank mult => Sys2Proof.Machine.execMr4ReadDone ch rank mult s
  | .scrubPassDeadline ch => Sys2Proof.Machine.execScrubPassDeadline ch s
  | .telemetrySnap src ch => Sys2Proof.Machine.execTelemetrySnap src ch s
  | .chClrcnt src ch => Sys2Proof.Machine.execChClrcnt src ch s
  | .powerdownEntry ch => Sys2Proof.Machine.execPowerdownEntry ch s
  | .rowRedirect ch errs => Sys2Proof.Machine.execRowRedirect ch errs s
  | .redirectDone ch => Sys2Proof.Machine.execRedirectDone ch s
  | .descriptorFetch queue errs => Sys2Proof.Machine.execDescriptorFetch queue errs s
  | .descriptorStart queue => Sys2Proof.Machine.execDescriptorStart queue s
  | .chunkTake group unit => Sys2Proof.Machine.execChunkTake group unit s
  | .chunkComplete group unit faults => Sys2Proof.Machine.execChunkComplete group unit faults s
  | .groupReturn group => Sys2Proof.Machine.execGroupReturn group s
  | .movePiece queue idx errs => Sys2Proof.Machine.execMovePiece queue idx errs s
  | .jobComplete queue idx => Sys2Proof.Machine.execJobComplete queue idx s
  | .completionRecordPass queue idx => Sys2Proof.Machine.execCompletionRecordPass queue idx s
  | .qpidxWrite src queue pidx => Sys2Proof.Machine.execQpidxWrite src queue pidx s
  | .queueEnable src queue => Sys2Proof.Machine.execQueueEnable src queue s
  | .queueDisable src queue => Sys2Proof.Machine.execQueueDisable src queue s
  | .queueAbort src queue => Sys2Proof.Machine.execQueueAbort src queue s
  | .queueClrcnt src queue => Sys2Proof.Machine.execQueueClrcnt src queue s
  | .queueConfigWrite src queue reg val => Sys2Proof.Machine.execQueueConfigWrite src queue reg val s
  | .queueDrained queue => Sys2Proof.Machine.execQueueDrained queue s
  | .irqSend vec => Sys2Proof.Machine.execIrqSend vec s
  | .holdExpire vec => Sys2Proof.Machine.execHoldExpire vec s
  | .vectorFire src => Sys2Proof.Machine.execVectorFire src s
  | .vectorClrpend src => Sys2Proof.Machine.execVectorClrpend src s
  | .regionEnable src => Sys2Proof.Machine.execRegionEnable src s
  | .initDone region => Sys2Proof.Machine.execInitDone region s
  | .regionDisable src => Sys2Proof.Machine.execRegionDisable src s
  | .regionClrcnt src => Sys2Proof.Machine.execRegionClrcnt src s
  | .slotTableBuild => Sys2Proof.Machine.execSlotTableBuild s
  | .kpResyncDone region bad => Sys2Proof.Machine.execKpResyncDone region bad s
  | .epchClrcnt src => Sys2Proof.Machine.execEpchClrcnt src s
  | .flitReceive link words parity => Sys2Proof.Machine.execFlitReceive link words parity s
  | .flitSend link => Sys2Proof.Machine.execFlitSend link s
  | .ackTimer link => Sys2Proof.Machine.execAckTimer link s
  | .replayTimeout link => Sys2Proof.Machine.execReplayTimeout link s
  | .xcmdClrcnt src link => Sys2Proof.Machine.execXcmdClrcnt src link s
  | .markerGroup link words => Sys2Proof.Machine.execMarkerGroup link words s
  | .markerGroupDue link => Sys2Proof.Machine.execMarkerGroupDue link s
  | .laneFault link lane => Sys2Proof.Machine.execLaneFault link lane s
  | .retireReq link mask => Sys2Proof.Machine.execRetireReq link mask s
  | .retireAck link mask => Sys2Proof.Machine.execRetireAck link mask s
  | .retireReqRepeat link => Sys2Proof.Machine.execRetireReqRepeat link s
  | .retireTo link => Sys2Proof.Machine.execRetireTo link s
  | .portEnable src link => Sys2Proof.Machine.execPortEnable src link s
  | .portDisable src link => Sys2Proof.Machine.execPortDisable src link s
  | .retrain src link => Sys2Proof.Machine.execRetrain src link s
  | .laneClrcnt src link => Sys2Proof.Machine.execLaneClrcnt src link s
  | .signalDetect link lane => Sys2Proof.Machine.execSignalDetect link lane s
  | .cdrLock link lane => Sys2Proof.Machine.execCdrLock link lane s
  | .trainingBlock link lane block => Sys2Proof.Machine.execTrainingBlock link lane block s
  | .phaseTimeout link => Sys2Proof.Machine.execPhaseTimeout link s
  | .listenPeriod link => Sys2Proof.Machine.execListenPeriod link s
  | .algnSlip src link mask => Sys2Proof.Machine.execAlgnSlip src link mask s
  | .algnDrop src link mask => Sys2Proof.Machine.execAlgnDrop src link mask s
  | .retryPeriod link => Sys2Proof.Machine.execRetryPeriod link s
  | .soakEnd link lane localErrs farPassed => Sys2Proof.Machine.execSoakEnd link lane localErrs farPassed s
  | .widenReq link mask => Sys2Proof.Machine.execWidenReq link mask s
  | .widenAck link mask => Sys2Proof.Machine.execWidenAck link mask s
  | .widenAckTimeout link => Sys2Proof.Machine.execWidenAckTimeout link s
  | .laneTest src link lane val => Sys2Proof.Machine.execLaneTest src link lane val s
  | .prbsInject src link lane => Sys2Proof.Machine.execPrbsInject src link lane s
  | .checkerLock link lane syms => Sys2Proof.Machine.execCheckerLock link lane syms s
  | .chkLoss link lane syms => Sys2Proof.Machine.execChkLoss link lane syms s
  | .portStandbyStart link => Sys2Proof.Machine.execPortStandbyStart link s
  | .stbyAck link => Sys2Proof.Machine.execStbyAck link s
  | .stbyTimeout link => Sys2Proof.Machine.execStbyTimeout link s
  | .portWake link locked => Sys2Proof.Machine.execPortWake link locked s
  | .wakeLockTimeout link lane => Sys2Proof.Machine.execWakeLockTimeout link lane s
  | .powerStateEntry => Sys2Proof.Machine.execPowerStateEntry s
  | .deviceWake cause => Sys2Proof.Machine.execDeviceWake cause s
  | .retain src => Sys2Proof.Machine.execRetain src s
  | .retentionEntered => Sys2Proof.Machine.execRetentionEntered s
  | .retainAbandon => Sys2Proof.Machine.execRetainAbandon s
  | .retentionWake => Sys2Proof.Machine.execRetentionWake s
  | .retentionExitDone => Sys2Proof.Machine.execRetentionExitDone s
  | .trainingCampaign ch kind => Sys2Proof.Machine.execTrainingCampaign ch kind s
  | .campaignEnd ch result => Sys2Proof.Machine.execCampaignEnd ch result s
  | .channelNoresp ch => Sys2Proof.Machine.execChannelNoresp ch s
  | .sweepGo src ch => Sys2Proof.Machine.execSweepGo src ch s
  | .sweepAbort src ch beats => Sys2Proof.Machine.execSweepAbort src ch beats s
  | .sweepDone ch beats => Sys2Proof.Machine.execSweepDone ch beats s
  | .sweepTruncate ch beats => Sys2Proof.Machine.execSweepTruncate ch beats s
  | .urdataAccess src ch write => Sys2Proof.Machine.execUrdataAccess src ch write s
  | .dspreq src target => Sys2Proof.Machine.execDspreq src target s
  | .setPointChangeStart => Sys2Proof.Machine.execSetPointChangeStart s
  | .setPointChangeEnd => Sys2Proof.Machine.execSetPointChangeEnd s
  | .almanacWrite => Sys2Proof.Machine.execAlmanacWrite s
  | .shortRetrainDone ch pass found => Sys2Proof.Machine.execShortRetrainDone ch pass found s
  | .refclkQualified ferr => Sys2Proof.Machine.execRefclkQualified ferr s
  | .freerun => Sys2Proof.Machine.execFreerun s
  | .pllLock => Sys2Proof.Machine.execPllLock s
  | .refclkLoss => Sys2Proof.Machine.execRefclkLoss s
  | .refStep => Sys2Proof.Machine.execRefStep s
  | .unlock => Sys2Proof.Machine.execUnlock s
  | .relockRampStep => Sys2Proof.Machine.execRelockRampStep s
  | .phaseMeasured dphi => Sys2Proof.Machine.execPhaseMeasured dphi s
  | .pjcmdSlew src => Sys2Proof.Machine.execPjcmdSlew src s
  | .pjcmdStep src => Sys2Proof.Machine.execPjcmdStep src s
  | .stepDone => Sys2Proof.Machine.execStepDone s
  | .clockMonitorFail mon => Sys2Proof.Machine.execClockMonitorFail mon s
  | .clkOutputEnable src out en => Sys2Proof.Machine.execClkOutputEnable src out en s
  | .fdlyWrite src out fdly => Sys2Proof.Machine.execFdlyWrite src out fdly s
  | .dseedWrite src seed => Sys2Proof.Machine.execDseedWrite src seed s
  | .clkClrcnt src => Sys2Proof.Machine.execClkClrcnt src s
  | .ldlySend port => Sys2Proof.Machine.execLdlySend port s
  | .ldly port group => Sys2Proof.Machine.execLdly port group s
  | .syncSend => Sys2Proof.Machine.execSyncSend s
  | .sync port group => Sys2Proof.Machine.execSync port group s
  | .syncLoss => Sys2Proof.Machine.execSyncLoss s
  | .timeSet src => Sys2Proof.Machine.execTimeSet src s
  | .epadopt src => Sys2Proof.Machine.execEpadopt src s
  | .timeStep src => Sys2Proof.Machine.execTimeStep src s
  | .timeSlew src => Sys2Proof.Machine.execTimeSlew src s
  | .resume src => Sys2Proof.Machine.execResume src s
  | .timeClrcnt src => Sys2Proof.Machine.execTimeClrcnt src s
  | .roleChange src master => Sys2Proof.Machine.execRoleChange src master s
  | .perlWrite src val => Sys2Proof.Machine.execPerlWrite src val s
  | .perhWrite src val => Sys2Proof.Machine.execPerhWrite src val s
  | .fsyncEdge => Sys2Proof.Machine.execFsyncEdge s
  | .nowlRead src => Sys2Proof.Machine.execNowlRead src s
  | .kpw port msg => Sys2Proof.Machine.execKpw port msg s
  | .kpack port msg => Sys2Proof.Machine.execKpack port msg s
  | .mirrorDetach entry => Sys2Proof.Machine.execMirrorDetach entry s
  | .mirrorEnable src => Sys2Proof.Machine.execMirrorEnable src s
  | .mirrorResyncDone entry => Sys2Proof.Machine.execMirrorResyncDone entry s
  | .hocmdArm src => Sys2Proof.Machine.execHocmdArm src s
  | .hocmdStart src => Sys2Proof.Machine.execHocmdStart src s
  | .hocmdAbort src => Sys2Proof.Machine.execHocmdAbort src s
  | .hodata port msg => Sys2Proof.Machine.execHodata port msg s
  | .horec port msg => Sys2Proof.Machine.execHorec port msg s
  | .horeg port msg => Sys2Proof.Machine.execHoreg port msg s
  | .hostate port msg => Sys2Proof.Machine.execHostate port msg s
  | .hoctlStart port msg => Sys2Proof.Machine.execHoctlStart port msg s
  | .hoctlArmed port msg => Sys2Proof.Machine.execHoctlArmed port msg s
  | .hoctlSwitch port msg => Sys2Proof.Machine.execHoctlSwitch port msg s
  | .hoctlReady port msg => Sys2Proof.Machine.execHoctlReady port msg s
  | .hoctlAbort port msg => Sys2Proof.Machine.execHoctlAbort port msg s
  | .hoctlDone port msg => Sys2Proof.Machine.execHoctlDone port msg s
  | .handoverPassEnd => Sys2Proof.Machine.execHandoverPassEnd s
  | .handoverFreeze => Sys2Proof.Machine.execHandoverFreeze s
  | .handoverFinalCheck => Sys2Proof.Machine.execHandoverFinalCheck s
  | .handoverLinkTimeout => Sys2Proof.Machine.execHandoverLinkTimeout s
  | .coldReset cause => Sys2Proof.Machine.execColdReset cause s
  | .coldResetRelease straps => Sys2Proof.Machine.execColdResetRelease straps s
  | .railTrip outside => Sys2Proof.Machine.execRailTrip outside s
  | .rstcmdCold src => Sys2Proof.Machine.execRstcmdCold src s
  | .rstcmdWarm src => Sys2Proof.Machine.execRstcmdWarm src s
  | .rstcmdCore src => Sys2Proof.Machine.execRstcmdCore src s
  | .portReset src link => Sys2Proof.Machine.execPortReset src link s
  | .channelReset src ch bad => Sys2Proof.Machine.execChannelReset src ch bad s
  | .channelResetDone ch pass => Sys2Proof.Machine.execChannelResetDone ch pass s
  | .bayReset src bay bad => Sys2Proof.Machine.execBayReset src bay bad s
  | .flashCheckDone bad => Sys2Proof.Machine.execFlashCheckDone bad s
  | .imageSelect bad => Sys2Proof.Machine.execImageSelect bad s
  | .bcmdSeal src => Sys2Proof.Machine.execBcmdSeal src s
  | .bcmdRun src => Sys2Proof.Machine.execBcmdRun src s
  | .ready => Sys2Proof.Machine.execReady s
  | .startupTestsDone device pairs chans => Sys2Proof.Machine.execStartupTestsDone device pairs chans s
  | .wdkick src val => Sys2Proof.Machine.execWdkick src val s
  | .watchdogExpire => Sys2Proof.Machine.execWatchdogExpire s
  | .mboxRead src => Sys2Proof.Machine.execMboxRead src s
  | .mboxProgram src => Sys2Proof.Machine.execMboxProgram src s
  | .mboxErase src => Sys2Proof.Machine.execMboxErase src s
  | .mboxSuspend src => Sys2Proof.Machine.execMboxSuspend src s
  | .mboxResume src => Sys2Proof.Machine.execMboxResume src s
  | .mboxDone rd => Sys2Proof.Machine.execMboxDone rd s
  | .flashOperationDone bank verify => Sys2Proof.Machine.execFlashOperationDone bank verify s
  | .rwdataRead src rd => Sys2Proof.Machine.execRwdataRead src rd s
  | .rotationStep area => Sys2Proof.Machine.execRotationStep area s
  | .openSectorErase sector => Sys2Proof.Machine.execOpenSectorErase sector s
  | .flashRefreshRead area bad => Sys2Proof.Machine.execFlashRefreshRead area bad s
  | .flashClrcnt src => Sys2Proof.Machine.execFlashClrcnt src s
  | .faultLogWrite => Sys2Proof.Machine.execFaultLogWrite s
  | .sbStart pos => Sys2Proof.Machine.execSbStart pos s
  | .sbStop pos => Sys2Proof.Machine.execSbStop pos s
  | .sbAddress byte rd => Sys2Proof.Machine.execSbAddress byte rd s
  | .sbWriteWord bytes full => Sys2Proof.Machine.execSbWriteWord bytes full s
  | .sbReadWord acked rd => Sys2Proof.Machine.execSbReadWord acked rd s
  | .sdaTo => Sys2Proof.Machine.execSdaTo s
  | .sclTo => Sys2Proof.Machine.execSclTo s
  | .busHeld => Sys2Proof.Machine.execBusHeld s
  | .sbClrcnt src => Sys2Proof.Machine.execSbClrcnt src s
  | .safeEnter cause => Sys2Proof.Machine.execSafeEnter cause s
  | .safeEntryDone => Sys2Proof.Machine.execSafeEntryDone s
  | .scanPass bad => Sys2Proof.Machine.execScanPass bad s
  | .tempSample temps => Sys2Proof.Machine.execTempSample temps s
  | .latentTestRound failed => Sys2Proof.Machine.execLatentTestRound failed s
  | .ltrun src => Sys2Proof.Machine.execLtrun src s
  | .ltOverdue => Sys2Proof.Machine.execLtOverdue s
  | .diagLost => Sys2Proof.Machine.execDiagLost s
  | .monitorSelfCompare => Sys2Proof.Machine.execMonitorSelfCompare s
  | .fnMismatch level => Sys2Proof.Machine.execFnMismatch level s
  | .safeClrcnt src => Sys2Proof.Machine.execSafeClrcnt src s
  | .tableLoad src group => Sys2Proof.Machine.execTableLoad src group s
  | .tableLoadDone group errs => Sys2Proof.Machine.execTableLoadDone group errs s
  | .setv src group => Sys2Proof.Machine.execSetv src group s
  | .twdataWrite src group val => Sys2Proof.Machine.execTwdataWrite src group val s
  | .twdataRead src group => Sys2Proof.Machine.execTwdataRead src group s
  | .unfence src group pair => Sys2Proof.Machine.execUnfence src group pair s
  | .unfenceTestDone group pair pass => Sys2Proof.Machine.execUnfenceTestDone group pair pass s
  | .cinval src group => Sys2Proof.Machine.execCinval src group s
  | .jgClrcnt src group => Sys2Proof.Machine.execJgClrcnt src group s
  | .slewEpochWithoutPulse => Sys2Proof.Machine.execSlewEpochWithoutPulse s
  | .timeSlewEnd => Sys2Proof.Machine.execTimeSlewEnd s
  | .tapInstruction inst => Sys2Proof.Machine.execTapInstruction inst s
  | .partnerNoAnswer link => Sys2Proof.Machine.execPartnerNoAnswer link s

end Sys2Proof.Machine
end

