-- ==== Sys2Proof/Safety.lean ====
section
/-!
DEFINITION. The terms that claims use: the parts of the state, what it means that a command stays within some of them, the
canonical form of the stored bytes, and which register a command writes.
-/

namespace Sys2Proof.Machine

/-- The parts of the state, one for each field of `State`. -/
inductive Part where
  | pending | now | freeCtr | busResult | fuses | hdrs | flds | links | accs | nextId | commits | chans | mem | recs | regions
  | slots | built | queues | jobs | bells | vecs | groups | merid | pll | time | ring | sb | boot | power | flash | safe | tap
deriving DecidableEq, Repr

/-- The part is the same in both states. -/
abbrev Same (p : Part) (s t : State) : Prop :=
  match p with
  | .pending => t.pending = s.pending
  | .now => t.now = s.now
  | .freeCtr => t.freeCtr = s.freeCtr
  | .busResult => t.busResult = s.busResult
  | .fuses => t.fuses = s.fuses
  | .hdrs => t.hdrs = s.hdrs
  | .flds => t.flds = s.flds
  | .links => t.links = s.links
  | .accs => t.accs = s.accs
  | .nextId => t.nextId = s.nextId
  | .commits => t.commits = s.commits
  | .chans => t.chans = s.chans
  | .mem => t.mem = s.mem
  | .recs => t.recs = s.recs
  | .regions => t.regions = s.regions
  | .slots => t.slots = s.slots
  | .built => t.built = s.built
  | .queues => t.queues = s.queues
  | .jobs => t.jobs = s.jobs
  | .bells => t.bells = s.bells
  | .vecs => t.vecs = s.vecs
  | .groups => t.groups = s.groups
  | .merid => t.merid = s.merid
  | .pll => t.pll = s.pll
  | .time => t.time = s.time
  | .ring => t.ring = s.ring
  | .sb => t.sb = s.sb
  | .boot => t.boot = s.boot
  | .power => t.power = s.power
  | .flash => t.flash = s.flash
  | .safe => t.safe = s.safe
  | .tap => t.tap = s.tap

/-- The canonical form of the flash: keys strictly rising and no entry equal to the 0xFF that an erased byte reads as. -/
def Flash.wf (f : Flash) : Bool := keysRising f.bytes && f.bytes.all fun e => e.2 != 0xFF

/-- What happens from `s` to `t` stays within some parts: every other part is the same, the clock and the counter of the free
values never run back, and the stored bytes keep their canonical form. -/
structure Within (ps : List Part) (s t : State) : Prop where
  same : ∀ p, ps.contains p = false → Same p s t
  now : s.now ≤ t.now
  free : s.freeCtr ≤ t.freeCtr
  mem : Memory.wf s.mem = true → Memory.wf t.mem = true
  flash : s.flash.wf = true → t.flash.wf = true

/-- A command that answers a next state stays within some parts. -/
def StaysWithin (ps : List Part) (c : Instr) : Prop := ∀ s t, exec c s = .next t → Within ps s t

/-- The invariant of every step: the DRAM and the flash hold their bytes in canonical form. -/
def StoredWf (s : State) : Prop := Memory.wf s.mem = true ∧ s.flash.wf = true

/-! ### What statements say of a command -/

/-- The command answers a next state, and `post` holds of it. -/
def Answers (c : Instr) (s : State) (post : State → Prop) : Prop := ∃ t, exec c s = .next t ∧ post t

/-- May the source write this register now (R425): a host port under Table 4-7, the sideband under Table 14-6? -/
def mayWrite (s : State) (src : Src) (page off : Nat) : Bool :=
  match src with
  | .host p => linkActive s p && !inSafe s && s.power.state != .entering && regRight s p page true
  | .sideband => sbReach s page off
  | .core => true

/-- May the source read registers of this page now (R425)? -/
def mayRead (s : State) (src : Src) (page : Nat) : Bool :=
  match src with
  | .host p => linkActive s p && !inSafe s && s.power.state != .entering && regRight s p page false
  | _ => true

/-- Every register field but the listed ones of a page reads as before. -/
def OtherFields (page : Nat) (fs : List Fld) (s t : State) : Prop :=
  ∀ (p : Nat) (f : Fld), (∀ g ∈ fs, fkey p f.off f.lo ≠ fkey page g.off g.lo) → fget t p f = fget s p f

/-- The listed counters of a page are 0, and every other register field reads as before. -/
def Cleared (page : Nat) (fs : List Fld) (s t : State) : Prop := (∀ f ∈ fs, fget t page f = 0) ∧ OtherFields page fs s t

/-- Every byte of the DRAM and of the flash reads as before. -/
def KeepsBytes (s t : State) : Prop :=
  (∀ a, memRead t.mem a = memRead s.mem a) ∧ (∀ a, tget 0xFF t.flash.bytes a = tget 0xFF s.flash.bytes a)

/-- The byte is one of the data or check bytes of line `n` of channel `c`, where the line lies now. -/
def InLine (s : State) (c n a : Nat) : Prop :=
  (∃ i < 64, a = dataKey c (physLine (s.chan c) n) i) ∨ (∃ i < 4, a = chkAt (s.chan c) c n i)

/-- The data and the check bytes of line `n` of channel `c` lie apart, as they do where no two rows share a spare row. -/
def LinesApart (s : State) (c n : Nat) : Prop := ∀ i < 64, ∀ j < 4, dataKey c (physLine (s.chan c) n) i ≠ chkAt (s.chan c) c n j

/-- Every byte of the DRAM but those of a set reads as before, and so does every byte of the flash. -/
def KeepsBytesOutside (p : Nat → Prop) (s t : State) : Prop :=
  (∀ a, ¬p a → memRead t.mem a = memRead s.mem a) ∧ (∀ a, tget 0xFF t.flash.bytes a = tget 0xFF s.flash.bytes a)

/-- The event is set in the page. -/
def EventSet (t : State) (page bit : Nat) : Prop := (t.hdr page).evt.getLsbD bit = true

/-- The counter has gone up by 1, or stays at its maximum. -/
def Counted (page : Nat) (f : Fld) (s t : State) : Prop := fget t page f = min (fget s page f + 1) (2 ^ f.w - 1)

/-- The state after a cold reset with its cause (R313, Table 11-5): every part as after reset but for the clock of the model, which says
when the start began, the queue, the fuses, the flash with its fault log, and the cause in RCAUSE. -/
def ColdReset (cause : Fld) (s t : State) : Prop :=
  (∀ p, p ∉ [Part.pending, .now, .freeCtr, .fuses, .flds, .boot, .flash, .safe] → Same p State.reset t) ∧ t.boot = { State.reset.boot with since := s.now } ∧
  (∀ p ∈ [Part.pending, .now, .fuses], Same p s t) ∧ OtherFields Pg.boot [cause] State.reset t ∧ fget t Pg.boot cause = 1 ∧
  t.safe = { State.reset.safe with nextSeq := s.flash.logSeq + 1 } ∧ t.flash.logSeq = s.flash.logSeq ∧ t.flash.logNext = s.flash.logNext ∧
  (flashWorking s = false → t.flash.bytes = s.flash.bytes ∧ t.flash.cells = s.flash.cells)

/-- Source, page and offset of a command that is the effect of one register write. -/
def regTarget : Instr → Option (Src × Nat × Nat)
  | .telemetrySnap src ch => some (src, Pg.ch ch, F.CH_CCMD_SNAP.off)
  | .chClrcnt src ch => some (src, Pg.ch ch, F.CH_CCMD_CLRCNT.off)
  | .mboxRead src => some (src, Pg.flsh, F.FLSH_MCMD_OP.off)
  | .mboxProgram src => some (src, Pg.flsh, F.FLSH_MCMD_OP.off)
  | .mboxErase src => some (src, Pg.flsh, F.FLSH_MCMD_OP.off)
  | .mboxSuspend src => some (src, Pg.flsh, F.FLSH_MCMD_OP.off)
  | .mboxResume src => some (src, Pg.flsh, F.FLSH_MCMD_OP.off)
  | .flashClrcnt src => some (src, Pg.flsh, F.FLSH_FCMD_CLRCNT.off)
  | .hocmdArm src => some (src, Pg.link 16, F.RING_HOCMD_ARM.off)
  | .hocmdStart src => some (src, Pg.link 16, F.RING_HOCMD_START.off)
  | .hocmdAbort src => some (src, Pg.link 16, F.RING_HOCMD_ABORT.off)
  | .tableLoad src group => some (src, Pg.jg group, F.JG_TLCMD_GO.off)
  | .setv src group => some (src, Pg.jg group, F.JG_TLCMD_SETV.off)
  | .twdataWrite src group _ => some (src, Pg.jg group, F.JG_TWDATA_ENTRY.off)
  | .unfence src group _ => some (src, Pg.jg group, F.JG_JCMD_UNFENCE.off)
  | .cinval src group => some (src, Pg.jg group, F.JG_JCMD_CINVAL.off)
  | .jgClrcnt src group => some (src, Pg.jg group, F.JG_JCMD_CLRCNT.off)
  | .xcmdClrcnt src link => some (src, Pg.link link, F.HP_XCMD_CLRCNT.off)
  | .portEnable src link => some (src, Pg.link link, F.HP_LCFG_ENABLE.off)
  | .portDisable src link => some (src, Pg.link link, F.HP_LCFG_ENABLE.off)
  | .retrain src link => some (src, Pg.link link, F.HP_LCMD_RETRAIN.off)
  | .laneClrcnt src link => some (src, Pg.link link, F.HP_LCMD_CLRCNT.off)
  | .algnSlip src link _ => some (src, Pg.link link, F.HP_ALGN_SLIP.off)
  | .algnDrop src link _ => some (src, Pg.link link, F.HP_ALGN_DROP.off)
  | .laneTest src link lane _ => some (src, Pg.link link, (laneFld lane F.HP_LyCTL_TXPAT).off)
  | .prbsInject src link lane => some (src, Pg.link link, (laneFld lane F.HP_LyCTL_INJECT).off)
  | .mirrorEnable src => some (src, Pg.link 16, F.RING_MCFG_EN.off)
  | .pjcmdSlew src => some (src, Pg.clk, F.CLK_PJCMD_SLEW.off)
  | .pjcmdStep src => some (src, Pg.clk, F.CLK_PJCMD_STEP.off)
  | .clkOutputEnable src out _ => some (src, Pg.clk, (F.CLK_OUTk_EN.off + 4 * out))
  | .fdlyWrite src out _ => some (src, Pg.clk, (F.CLK_OUTk_FDLY.off + 4 * out))
  | .dseedWrite src _ => some (src, Pg.clk, F.CLK_DSEED_SEED.off)
  | .clkClrcnt src => some (src, Pg.clk, F.CLK_CCMD_CLRCNT.off)
  | .retain src => some (src, Pg.pwr, F.PWR_PCMD_RETAIN.off)
  | .epchClrcnt src => some (src, Pg.epch, F.EPCH_ECMD_CLRCNT.off)
  | .qpidxWrite src queue _ => some (src, Pg.wq queue, (qOff queue 0x110))
  | .queueEnable src queue => some (src, Pg.wq queue, (qOff queue 0x10C))
  | .queueDisable src queue => some (src, Pg.wq queue, (qOff queue 0x10C))
  | .queueAbort src queue => some (src, Pg.wq queue, (qOff queue 0x10C))
  | .queueClrcnt src queue => some (src, Pg.wq queue, (qOff queue 0x10C))
  | .queueConfigWrite src queue reg _ => some (src, Pg.wq queue, (cfgOff queue reg))
  | .regionEnable src => some (src, Pg.rgn, F.RGN_RCMD_ENABLE.off)
  | .regionDisable src => some (src, Pg.rgn, F.RGN_RCMD_DISABLE.off)
  | .regionClrcnt src => some (src, Pg.rgn, F.RGN_RCMD_CLRCNT.off)
  | .rstcmdCold src => some (src, Pg.boot, F.BOOT_RSTCMD_KEY.off)
  | .rstcmdWarm src => some (src, Pg.boot, F.BOOT_RSTCMD_KEY.off)
  | .rstcmdCore src => some (src, Pg.boot, F.BOOT_RSTCMD_KEY.off)
  | .portReset src _ => some (src, Pg.boot, F.BOOT_RSTPORT_HOST.off)
  | .channelReset src _ _ => some (src, Pg.boot, F.BOOT_RSTCH_GO.off)
  | .bayReset src _ _ => some (src, Pg.boot, F.BOOT_RSTBAY_BAYS.off)
  | .safeEnter (.command src _) => some (src, Pg.safe, F.SAFE_SCMD_ENTER.off)
  | .ltrun src => some (src, Pg.safe, F.SAFE_SCMD_LTRUN.off)
  | .safeClrcnt src => some (src, Pg.safe, F.SAFE_SCMD_CLRCNT.off)
  | .sbClrcnt src => some (src, Pg.sbnd, F.SBND_SCMD_CLRCNT.off)
  | .timeSet src => some (src, Pg.time, F.TIME_TCMD_SET.off)
  | .epadopt src => some (src, Pg.time, F.TIME_TCMD_EPADOPT.off)
  | .timeStep src => some (src, Pg.time, F.TIME_TCMD_STEP.off)
  | .timeSlew src => some (src, Pg.time, F.TIME_TCMD_SLEW.off)
  | .resume src => some (src, Pg.time, F.TIME_TCMD_RESUME.off)
  | .timeClrcnt src => some (src, Pg.time, F.TIME_TCMD_CLRCNT.off)
  | .roleChange src _ => some (src, Pg.time, F.TIME_TCFG_ROLE.off)
  | .perlWrite src _ => some (src, Pg.time, F.TIME_PERL_PERIOD.off)
  | .perhWrite src _ => some (src, Pg.time, F.TIME_PERH_PERIOD.off)
  | .dspreq src _ => some (src, Pg.clk, F.CLK_DSPREQ_GO.off)
  | .vectorFire src => some (src, Pg.vec, F.VEC_VCMD_FIRE.off)
  | .vectorClrpend src => some (src, Pg.vec, F.VEC_VCMD_CLRPEND.off)
  | _ => none

/-- The rows of Table 4-7 that let a memory request of `lines` lines through, with the region it names; R351 adds the state of power and
R302, R304 and R306 what a mirrored region and a handover hold back. -/
structure RequestOk (s : State) (port : Nat) (write : Bool) (addr lines maxage rn : Nat) (r : Region) : Prop where
  normal : inSafe s = false
  awake : s.power.state ≠ .entering
  inBlock : addr % 64 = 0 ∧ addr % 4096 / 64 + lines ≤ 64
  below : addr < (geom s).memsize * 2 ^ 21
  region : regionOf s addr = some (rn, r)
  number : rn < 256
  shadow : inShadow r addr = false
  right : memRight s port rn write = true
  writer : write = true → (r.buffered = true → r.writer = port) ∧ mirrorDest s rn = false
  aged : write = false → maxage = 0 ∨ r.aged = true
  walked : r.init = false
  handover : hoHolds s write = false
  copy : write = true → r.writeCopy.isSome = true

/-- The CFGERR event of a page that has one for writes that were ignored (R281, R309, R340, R354, R395, R423, R433). -/
def ignoredBit (page : Nat) : Option Nat :=
  match page with
  | 0x00 => some E.DEV_CFGERR
  | 0x01 => some E.CLK_CFGERR
  | 0x02 => some E.BOOT_CFGERR
  | 0x03 => some E.PWR_CFGERR
  | 0x04 => some E.SAFE_CFGERR
  | 0x06 => some E.SBND_CFGERR
  | 0x09 => some E.TIME_CFGERR
  | _ => none

/-- The port has taken in one more message to send, after those it held. -/
def Queued (port : Nat) (kind : MsgKind) (hdr : BitVec 128) (data : List Byte) (s t : State) : Prop :=
  (t.link port).txq = (s.link port).txq ++ [{ kind := kind, hdr := hdr, data := data }]

/-- The port has a completion without data to send. -/
def Completes (port tag len : Nat) (cls : TClass) (st : Status) (detail : Nat) (region : Option Nat) (s t : State) : Prop :=
  Queued port (.cpl tag (cplHdr false tag len cls st detail region none)) (cplHdr false tag len cls st detail region none) [] s t

/-- Only the named links have changed. -/
def OtherLinks (ls : List Nat) (s t : State) : Prop := ∀ l, l ∉ ls → t.link l = s.link l

/-- The parts of the state that a command may change. Every other part is unchanged by it. -/
def touches : Instr → List Part
  | .registerWrite .. => [.freeCtr, .busResult, .hdrs, .flds, .links, .accs, .nextId, .commits, .chans, .mem, .recs, .regions, .slots, .built, .queues, .jobs, .bells, .vecs, .groups, .merid, .pll, .time, .ring, .sb, .boot, .power, .flash, .safe, .tap]
  | .evtForce .. => [.freeCtr, .busResult, .hdrs, .flds, .links, .accs, .nextId, .commits, .chans, .mem, .recs, .regions, .slots, .built, .queues, .jobs, .bells, .vecs, .groups, .merid, .pll, .time, .ring, .sb, .boot, .power, .flash, .safe, .tap]
  | .evtClr .. => [.freeCtr, .busResult, .hdrs, .flds, .links, .accs, .nextId, .commits, .chans, .mem, .recs, .regions, .slots, .built, .queues, .jobs, .bells, .vecs, .groups, .merid, .pll, .time, .ring, .sb, .boot, .power, .flash, .safe, .tap]
  | .capClr .. => [.freeCtr, .busResult, .hdrs, .flds, .links, .accs, .nextId, .commits, .chans, .mem, .recs, .regions, .slots, .built, .queues, .jobs, .bells, .vecs, .groups, .merid, .pll, .time, .ring, .sb, .boot, .power, .flash, .safe, .tap]
  | .meridianPulse .. => [.now, .hdrs, .flds, .links, .accs, .nextId, .commits, .chans, .recs, .regions, .queues, .jobs, .bells, .vecs, .groups, .merid, .pll, .time, .ring]
  | .blankingWindowOpen .. => [.now, .hdrs, .flds, .vecs, .merid, .pll, .time]
  | .rd .. => [.hdrs, .flds, .links, .accs, .nextId, .commits, .vecs]
  | .wrAck .. => [.hdrs, .flds, .links, .accs, .nextId, .commits, .vecs]
  | .wrPost .. => [.hdrs, .flds, .links, .accs, .nextId, .commits, .vecs]
  | .commit .. => [.hdrs, .flds, .links, .accs, .nextId, .commits, .vecs]
  | .commitAccept .. => [.flds, .links, .commits, .regions, .jobs]
  | .fillForwardDone .. => [.hdrs, .flds, .links, .accs, .nextId, .commits, .chans, .regions, .queues, .jobs, .bells, .vecs, .groups, .pll, .ring, .safe]
  | .regRd .. => [.freeCtr, .hdrs, .flds, .links, .accs, .commits, .chans, .regions, .queues, .jobs, .bells, .vecs, .groups, .pll, .time, .ring, .flash, .safe]
  | .regWr .. => [.freeCtr, .busResult, .hdrs, .flds, .links, .accs, .nextId, .commits, .chans, .mem, .recs, .regions, .slots, .built, .queues, .jobs, .bells, .vecs, .groups, .merid, .pll, .time, .ring, .sb, .boot, .power, .flash, .safe, .tap]
  | .doorbell .. => [.hdrs, .flds, .links, .queues, .bells, .vecs]
  | .orderingPointPass .. => [.hdrs, .flds, .links, .accs, .nextId, .chans, .recs, .regions, .queues, .jobs, .bells, .vecs, .groups, .ring]
  | .schedulerSlot .. => [.hdrs, .flds, .links, .accs, .nextId, .commits, .chans, .mem, .recs, .regions, .queues, .jobs, .bells, .vecs, .groups, .pll, .ring, .safe]
  | .readComplete .. => [.hdrs, .flds, .links, .accs, .nextId, .commits, .chans, .recs, .regions, .queues, .jobs, .bells, .vecs, .groups, .pll, .ring, .safe]
  | .phyFault .. => [.hdrs, .flds, .links, .accs, .commits, .chans, .regions, .queues, .jobs, .bells, .vecs, .groups, .pll, .ring, .safe]
  | .refreshTick .. => [.now, .chans, .time]
  | .backgroundDue .. => [.now, .chans, .time]
  | .backgroundSlackOut .. => [.now, .chans, .time]
  | .oscMeasureDone .. => [.now, .hdrs, .chans, .regions, .vecs, .time]
  | .mr4ReadDone .. => [.hdrs, .chans, .vecs]
  | .scrubPassDeadline .. => [.now, .hdrs, .chans, .vecs, .time]
  | .telemetrySnap .. => [.freeCtr, .hdrs, .flds, .links, .chans, .vecs, .power]
  | .chClrcnt .. => [.freeCtr, .hdrs, .flds, .links, .chans, .vecs, .power]
  | .powerdownEntry .. => [.now, .chans, .time]
  | .rowRedirect .. => [.hdrs, .flds, .links, .accs, .nextId, .commits, .chans, .mem, .recs, .regions, .queues, .jobs, .bells, .vecs, .groups, .pll, .ring, .safe]
  | .redirectDone .. => [.hdrs, .chans, .vecs, .boot]
  | .descriptorFetch .. => [.hdrs, .flds, .links, .accs, .nextId, .commits, .chans, .recs, .regions, .queues, .jobs, .bells, .vecs, .groups, .pll, .ring, .safe]
  | .descriptorStart .. => [.flds, .accs, .nextId, .commits, .chans, .recs, .regions, .queues, .jobs, .groups]
  | .chunkTake .. => [.accs, .nextId, .jobs, .groups]
  | .chunkComplete .. => [.hdrs, .flds, .links, .accs, .nextId, .commits, .chans, .recs, .regions, .queues, .jobs, .bells, .vecs, .groups, .pll, .ring, .safe]
  | .groupReturn .. => [.hdrs, .vecs, .groups, .boot]
  | .movePiece .. => [.hdrs, .flds, .links, .accs, .nextId, .commits, .chans, .recs, .regions, .queues, .jobs, .bells, .vecs, .groups, .pll, .ring, .safe]
  | .jobComplete .. => [.hdrs, .flds, .regions, .queues, .jobs, .vecs]
  | .completionRecordPass .. => [.hdrs, .flds, .links, .accs, .nextId, .chans, .recs, .regions, .queues, .jobs, .vecs, .groups, .ring]
  | .qpidxWrite .. => [.hdrs, .flds, .queues, .vecs]
  | .queueEnable .. => [.hdrs, .flds, .accs, .regions, .queues, .vecs]
  | .queueDisable .. => [.hdrs, .flds, .queues, .vecs]
  | .queueAbort .. => [.hdrs, .flds, .accs, .commits, .regions, .queues, .jobs, .vecs, .groups]
  | .queueClrcnt .. => [.hdrs, .flds, .vecs]
  | .queueConfigWrite .. => [.hdrs, .flds, .queues, .vecs]
  | .queueDrained .. => [.hdrs, .accs, .regions, .queues, .vecs]
  | .irqSend .. => [.hdrs, .links, .vecs]
  | .holdExpire .. => [.now, .vecs, .time]
  | .vectorFire .. => [.hdrs, .flds, .vecs]
  | .vectorClrpend .. => [.hdrs, .flds, .vecs]
  | .regionEnable .. => [.hdrs, .flds, .regions, .vecs]
  | .initDone .. => [.hdrs, .chans, .mem, .recs, .regions, .vecs, .groups]
  | .regionDisable .. => [.hdrs, .flds, .links, .accs, .commits, .regions, .queues, .jobs, .bells, .vecs, .ring]
  | .regionClrcnt .. => [.hdrs, .flds, .regions, .vecs]
  | .slotTableBuild .. => [.hdrs, .flds, .links, .accs, .commits, .chans, .regions, .slots, .built, .queues, .jobs, .bells, .vecs, .ring, .boot]
  | .kpResyncDone .. => [.hdrs, .flds, .links, .accs, .nextId, .commits, .chans, .recs, .regions, .queues, .jobs, .bells, .vecs, .groups, .pll, .ring, .safe]
  | .epchClrcnt .. => [.hdrs, .flds, .vecs]
  | .flitReceive .. => [.freeCtr, .busResult, .hdrs, .flds, .links, .accs, .nextId, .commits, .chans, .mem, .recs, .regions, .slots, .built, .queues, .jobs, .bells, .vecs, .groups, .merid, .pll, .time, .ring, .sb, .boot, .power, .flash, .safe, .tap]
  | .flitSend .. => [.now, .freeCtr, .busResult, .hdrs, .flds, .links, .accs, .nextId, .commits, .chans, .mem, .recs, .regions, .slots, .built, .queues, .jobs, .bells, .vecs, .groups, .merid, .pll, .time, .ring, .sb, .boot, .power, .flash, .safe, .tap]
  | .ackTimer .. => [.now, .links, .time]
  | .replayTimeout .. => [.now, .hdrs, .flds, .links, .accs, .commits, .regions, .jobs, .bells, .vecs, .groups, .time, .ring]
  | .xcmdClrcnt .. => [.freeCtr, .hdrs, .flds, .links, .chans, .vecs, .power]
  | .markerGroup .. => [.freeCtr, .hdrs, .flds, .links, .accs, .commits, .regions, .jobs, .bells, .vecs, .groups, .ring]
  | .markerGroupDue .. => [.freeCtr, .links]
  | .laneFault .. => [.freeCtr, .hdrs, .flds, .links, .accs, .commits, .regions, .jobs, .bells, .vecs, .groups, .ring]
  | .retireReq .. => [.freeCtr, .hdrs, .flds, .links, .accs, .commits, .regions, .jobs, .bells, .vecs, .groups, .ring]
  | .retireAck .. => [.freeCtr, .hdrs, .flds, .links, .accs, .commits, .regions, .jobs, .bells, .vecs, .groups, .ring]
  | .retireReqRepeat .. => [.now, .freeCtr, .links, .time]
  | .retireTo .. => [.now, .hdrs, .flds, .links, .accs, .commits, .regions, .jobs, .bells, .vecs, .groups, .time, .ring]
  | .portEnable .. => [.freeCtr, .hdrs, .flds, .links, .chans, .vecs, .boot, .power]
  | .portDisable .. => [.freeCtr, .hdrs, .flds, .links, .accs, .commits, .chans, .regions, .jobs, .bells, .vecs, .groups, .ring, .power]
  | .retrain .. => [.freeCtr, .hdrs, .flds, .links, .accs, .commits, .chans, .regions, .jobs, .bells, .vecs, .groups, .ring, .power]
  | .laneClrcnt .. => [.freeCtr, .hdrs, .flds, .links, .chans, .vecs, .power]
  | .signalDetect .. => [.freeCtr, .hdrs, .flds, .links, .chans, .vecs, .power]
  | .cdrLock .. => [.links]
  | .trainingBlock .. => [.freeCtr, .hdrs, .flds, .links, .vecs, .ring]
  | .phaseTimeout .. => [.now, .freeCtr, .hdrs, .flds, .links, .vecs, .time, .ring]
  | .listenPeriod .. => [.now, .links, .time]
  | .algnSlip .. => [.freeCtr, .hdrs, .flds, .links, .chans, .vecs, .power]
  | .algnDrop .. => [.freeCtr, .hdrs, .flds, .links, .chans, .vecs, .power]
  | .retryPeriod .. => [.now, .freeCtr, .hdrs, .links, .vecs, .time]
  | .soakEnd .. => [.now, .freeCtr, .hdrs, .flds, .links, .vecs, .time]
  | .widenReq .. => [.freeCtr, .hdrs, .flds, .links, .vecs, .ring]
  | .widenAck .. => [.freeCtr, .hdrs, .flds, .links, .vecs, .ring]
  | .widenAckTimeout .. => [.now, .links, .time]
  | .laneTest .. => [.freeCtr, .hdrs, .flds, .links, .chans, .vecs, .power]
  | .prbsInject .. => [.freeCtr, .hdrs, .flds, .links, .chans, .vecs, .power]
  | .checkerLock .. => [.hdrs, .flds, .links, .vecs]
  | .chkLoss .. => [.hdrs, .flds, .links, .vecs]
  | .portStandbyStart .. => [.now, .freeCtr, .links, .time]
  | .stbyAck .. => [.freeCtr, .flds, .links]
  | .stbyTimeout .. => [.now, .flds, .links, .time]
  | .portWake .. => [.freeCtr, .hdrs, .flds, .links, .chans, .vecs, .power]
  | .wakeLockTimeout .. => [.now, .freeCtr, .hdrs, .flds, .links, .accs, .commits, .regions, .jobs, .bells, .vecs, .groups, .time, .ring]
  | .powerStateEntry .. => [.now, .chans, .time, .power]
  | .deviceWake .. => [.freeCtr, .hdrs, .flds, .links, .chans, .vecs, .power]
  | .retain .. => [.hdrs, .flds, .vecs, .power, .flash]
  | .retentionEntered .. => [.flds, .links, .accs, .chans, .mem, .groups, .merid, .pll, .time, .ring, .power, .flash]
  | .retainAbandon .. => [.now, .hdrs, .vecs, .time, .power]
  | .retentionWake .. => [.links, .pll, .sb, .power]
  | .retentionExitDone .. => [.now, .freeCtr, .hdrs, .flds, .links, .chans, .vecs, .merid, .time, .power]
  | .trainingCampaign .. => [.flds, .chans, .boot]
  | .campaignEnd .. => [.hdrs, .flds, .links, .accs, .commits, .chans, .regions, .queues, .jobs, .bells, .vecs, .groups, .pll, .ring, .boot, .safe]
  | .channelNoresp .. => [.now, .hdrs, .flds, .links, .accs, .commits, .chans, .regions, .queues, .jobs, .bells, .vecs, .groups, .pll, .time, .ring, .boot, .safe]
  | .sweepGo .. => [.freeCtr, .hdrs, .flds, .links, .chans, .vecs, .power]
  | .sweepAbort .. => [.freeCtr, .hdrs, .flds, .links, .chans, .vecs, .power]
  | .sweepDone .. => [.now, .flds, .chans, .time]
  | .sweepTruncate .. => [.now, .flds, .chans, .time]
  | .urdataAccess .. => [.freeCtr, .busResult, .hdrs, .flds, .links, .chans, .vecs, .power]
  | .dspreq .. => [.hdrs, .flds, .accs, .chans, .mem, .vecs, .pll, .boot]
  | .setPointChangeStart .. => [.flds, .accs, .chans, .mem, .pll, .boot]
  | .setPointChangeEnd .. => [.hdrs, .flds, .links, .accs, .commits, .chans, .mem, .recs, .regions, .queues, .jobs, .bells, .vecs, .groups, .ring, .boot]
  | .almanacWrite .. => [.hdrs, .chans, .vecs, .boot, .flash]
  | .shortRetrainDone .. => [.hdrs, .flds, .links, .accs, .commits, .chans, .regions, .queues, .jobs, .bells, .vecs, .groups, .pll, .ring, .boot, .safe]
  | .refclkQualified .. => [.now, .pll, .time]
  | .freerun .. => [.now, .hdrs, .flds, .vecs, .pll, .time, .boot, .power, .safe]
  | .pllLock .. => [.hdrs, .flds, .chans, .vecs, .pll, .boot, .power, .safe]
  | .refclkLoss .. => [.hdrs, .flds, .vecs, .pll]
  | .refStep .. => [.hdrs, .flds, .vecs, .pll]
  | .unlock .. => [.hdrs, .flds, .vecs, .pll]
  | .relockRampStep .. => [.now, .pll, .time]
  | .phaseMeasured .. => [.hdrs, .flds, .vecs, .pll]
  | .pjcmdSlew .. => [.hdrs, .flds, .vecs, .pll]
  | .pjcmdStep .. => [.hdrs, .flds, .vecs, .pll]
  | .stepDone .. => [.now, .hdrs, .flds, .vecs, .pll, .time]
  | .clockMonitorFail .. => [.hdrs, .flds, .links, .accs, .commits, .regions, .queues, .jobs, .bells, .vecs, .ring, .safe]
  | .clkOutputEnable .. => [.hdrs, .flds, .vecs]
  | .fdlyWrite .. => [.hdrs, .flds, .vecs, .pll]
  | .dseedWrite .. => [.hdrs, .flds, .vecs, .pll]
  | .clkClrcnt .. => [.hdrs, .flds, .vecs, .pll]
  | .ldlySend .. => [.now, .freeCtr, .links, .time, .ring]
  | .ldly .. => [.now, .hdrs, .flds, .links, .vecs, .time, .ring]
  | .syncSend .. => [.now, .freeCtr, .links, .time, .ring]
  | .sync .. => [.now, .freeCtr, .hdrs, .flds, .links, .vecs, .merid, .time, .ring]
  | .syncLoss .. => [.now, .hdrs, .flds, .vecs, .time]
  | .timeSet .. => [.hdrs, .flds, .vecs, .time, .ring]
  | .epadopt .. => [.hdrs, .flds, .vecs, .time]
  | .timeStep .. => [.hdrs, .flds, .vecs, .time]
  | .timeSlew .. => [.hdrs, .flds, .vecs, .time]
  | .resume .. => [.hdrs, .flds, .vecs, .time]
  | .timeClrcnt .. => [.hdrs, .flds, .vecs]
  | .roleChange .. => [.hdrs, .flds, .vecs, .merid, .time]
  | .perlWrite .. => [.hdrs, .flds, .vecs, .time]
  | .perhWrite .. => [.hdrs, .flds, .vecs, .time]
  | .fsyncEdge .. => [.hdrs, .vecs, .time]
  | .nowlRead .. => [.busResult, .flds, .time]
  | .kpw .. => [.links, .accs, .nextId, .ring]
  | .kpack .. => [.flds, .links, .accs, .ring]
  | .mirrorDetach .. => [.now, .hdrs, .flds, .links, .accs, .vecs, .time, .ring]
  | .mirrorEnable .. => [.hdrs, .flds, .links, .accs, .vecs, .ring]
  | .mirrorResyncDone .. => [.hdrs, .flds, .links, .accs, .commits, .chans, .regions, .queues, .jobs, .bells, .vecs, .groups, .pll, .ring, .safe]
  | .hocmdArm .. => [.hdrs, .flds, .vecs, .ring]
  | .hocmdStart .. => [.hdrs, .flds, .links, .accs, .commits, .regions, .queues, .jobs, .bells, .vecs, .ring]
  | .hocmdAbort .. => [.hdrs, .flds, .links, .accs, .commits, .regions, .queues, .jobs, .bells, .vecs, .ring]
  | .hodata .. => [.hdrs, .flds, .links, .accs, .nextId, .commits, .regions, .queues, .jobs, .bells, .vecs, .ring]
  | .horec .. => [.hdrs, .flds, .links, .accs, .commits, .recs, .regions, .queues, .jobs, .bells, .vecs, .ring]
  | .horeg .. => [.hdrs, .flds, .links, .accs, .commits, .regions, .queues, .jobs, .bells, .vecs, .ring]
  | .hostate .. => [.hdrs, .flds, .links, .accs, .commits, .regions, .queues, .jobs, .bells, .vecs, .ring]
  | .hoctlStart .. => [.hdrs, .flds, .links, .accs, .commits, .regions, .queues, .jobs, .bells, .vecs, .ring]
  | .hoctlArmed .. => [.hdrs, .flds, .links, .accs, .commits, .chans, .regions, .queues, .jobs, .bells, .vecs, .groups, .pll, .ring, .safe]
  | .hoctlSwitch .. => [.hdrs, .flds, .links, .accs, .commits, .regions, .queues, .jobs, .bells, .vecs, .ring]
  | .hoctlReady .. => [.ring]
  | .hoctlAbort .. => [.hdrs, .flds, .links, .accs, .commits, .regions, .queues, .jobs, .bells, .vecs, .ring]
  | .hoctlDone .. => [.hdrs, .flds, .links, .accs, .commits, .regions, .queues, .jobs, .bells, .vecs, .ring]
  | .handoverPassEnd .. => [.hdrs, .flds, .links, .accs, .commits, .chans, .regions, .queues, .jobs, .bells, .vecs, .groups, .pll, .ring, .safe]
  | .handoverFreeze .. => [.now, .hdrs, .flds, .links, .accs, .commits, .chans, .regions, .queues, .jobs, .bells, .vecs, .groups, .pll, .time, .ring, .safe]
  | .handoverFinalCheck .. => [.now, .hdrs, .flds, .links, .chans, .recs, .regions, .vecs, .time, .ring]
  | .handoverLinkTimeout .. => [.now, .hdrs, .flds, .links, .accs, .commits, .regions, .queues, .jobs, .bells, .vecs, .time, .ring]
  | .coldReset .. => [.freeCtr, .busResult, .hdrs, .flds, .links, .accs, .nextId, .commits, .chans, .mem, .recs, .regions, .slots, .built, .queues, .jobs, .bells, .vecs, .groups, .merid, .pll, .time, .ring, .sb, .boot, .power, .flash, .safe, .tap]
  | .coldResetRelease .. => [.flds, .pll, .boot]
  | .railTrip .. => [.freeCtr, .busResult, .hdrs, .flds, .links, .accs, .nextId, .commits, .chans, .mem, .recs, .regions, .slots, .built, .queues, .jobs, .bells, .vecs, .groups, .merid, .pll, .time, .ring, .sb, .boot, .power, .flash, .safe, .tap]
  | .rstcmdCold .. => [.freeCtr, .busResult, .hdrs, .flds, .links, .accs, .nextId, .commits, .chans, .mem, .recs, .regions, .slots, .built, .queues, .jobs, .bells, .vecs, .groups, .merid, .pll, .time, .ring, .sb, .boot, .power, .flash, .safe, .tap]
  | .rstcmdWarm .. => [.freeCtr, .busResult, .hdrs, .flds, .links, .accs, .nextId, .commits, .chans, .mem, .recs, .regions, .slots, .built, .queues, .jobs, .bells, .vecs, .groups, .merid, .pll, .time, .ring, .sb, .boot, .power, .flash, .safe, .tap]
  | .rstcmdCore .. => [.freeCtr, .busResult, .hdrs, .flds, .links, .accs, .nextId, .commits, .chans, .mem, .recs, .regions, .slots, .built, .queues, .jobs, .bells, .vecs, .groups, .merid, .pll, .time, .ring, .sb, .boot, .power, .flash, .safe, .tap]
  | .portReset .. => [.hdrs, .flds, .links, .accs, .commits, .regions, .jobs, .bells, .vecs, .groups, .ring]
  | .channelReset .. => [.hdrs, .flds, .links, .accs, .commits, .chans, .mem, .recs, .regions, .queues, .jobs, .bells, .vecs, .groups, .ring, .boot]
  | .channelResetDone .. => [.hdrs, .accs, .chans, .mem, .recs, .regions, .vecs, .boot]
  | .bayReset .. => [.hdrs, .flds, .links, .accs, .commits, .chans, .mem, .recs, .regions, .queues, .jobs, .bells, .vecs, .groups, .ring, .boot]
  | .flashCheckDone .. => [.now, .hdrs, .flds, .vecs, .time, .boot, .flash]
  | .imageSelect .. => [.hdrs, .flds, .vecs, .boot, .flash]
  | .bcmdSeal .. => [.hdrs, .flds, .vecs, .boot]
  | .bcmdRun .. => [.hdrs, .flds, .vecs, .boot]
  | .ready .. => [.hdrs, .flds, .links, .accs, .commits, .regions, .queues, .jobs, .bells, .vecs, .ring, .boot, .safe]
  | .startupTestsDone .. => [.hdrs, .flds, .links, .accs, .commits, .chans, .regions, .queues, .jobs, .bells, .vecs, .groups, .pll, .ring, .boot, .safe]
  | .wdkick .. => [.freeCtr, .hdrs, .flds, .chans, .vecs, .boot, .flash, .safe]
  | .watchdogExpire .. => [.now, .freeCtr, .hdrs, .flds, .chans, .vecs, .time, .boot, .flash, .safe]
  | .mboxRead .. => [.hdrs, .flds, .vecs, .boot, .flash]
  | .mboxProgram .. => [.hdrs, .flds, .vecs, .boot, .flash]
  | .mboxErase .. => [.hdrs, .flds, .vecs, .boot, .flash]
  | .mboxSuspend .. => [.hdrs, .flds, .vecs, .boot, .flash]
  | .mboxResume .. => [.hdrs, .flds, .vecs, .boot, .flash]
  | .mboxDone .. => [.hdrs, .flds, .vecs, .boot, .flash]
  | .flashOperationDone .. => [.freeCtr, .hdrs, .flds, .chans, .vecs, .boot, .flash, .safe]
  | .rwdataRead .. => [.busResult, .hdrs, .flds, .vecs, .sb, .flash]
  | .rotationStep .. => [.boot, .flash]
  | .openSectorErase .. => [.boot, .flash]
  | .flashRefreshRead .. => [.hdrs, .flds, .vecs, .flash]
  | .flashClrcnt .. => [.hdrs, .flds, .vecs]
  | .faultLogWrite .. => [.hdrs, .flds, .vecs, .boot, .flash, .safe]
  | .sbStart .. => [.hdrs, .flds, .vecs, .sb]
  | .sbStop .. => [.hdrs, .flds, .vecs, .sb]
  | .sbAddress .. => [.freeCtr, .hdrs, .flds, .links, .chans, .vecs, .pll, .time, .sb, .power, .flash]
  | .sbWriteWord .. => [.freeCtr, .busResult, .hdrs, .flds, .links, .accs, .nextId, .commits, .chans, .mem, .recs, .regions, .slots, .built, .queues, .jobs, .bells, .vecs, .groups, .merid, .pll, .time, .ring, .sb, .boot, .power, .flash, .safe, .tap]
  | .sbReadWord .. => [.freeCtr, .busResult, .hdrs, .flds, .links, .chans, .vecs, .time, .sb, .power, .flash]
  | .sdaTo .. => [.now, .hdrs, .flds, .vecs, .time, .sb]
  | .sclTo .. => [.now, .hdrs, .flds, .vecs, .time, .sb]
  | .busHeld .. => [.now, .hdrs, .flds, .vecs, .time, .sb]
  | .sbClrcnt .. => [.hdrs, .flds, .vecs]
  | .safeEnter .. => [.freeCtr, .hdrs, .flds, .links, .accs, .commits, .chans, .regions, .queues, .jobs, .bells, .vecs, .groups, .pll, .ring, .power, .safe]
  | .safeEntryDone .. => [.hdrs, .flds, .links, .accs, .commits, .chans, .mem, .regions, .bells, .vecs, .groups, .safe]
  | .scanPass .. => [.hdrs, .flds, .links, .accs, .commits, .regions, .queues, .jobs, .bells, .vecs, .ring, .safe]
  | .tempSample .. => [.hdrs, .flds, .links, .accs, .commits, .regions, .queues, .jobs, .bells, .vecs, .ring, .safe]
  | .latentTestRound .. => [.now, .hdrs, .flds, .links, .accs, .commits, .chans, .regions, .queues, .jobs, .bells, .vecs, .groups, .pll, .time, .ring, .safe]
  | .ltrun .. => [.hdrs, .flds, .vecs, .safe]
  | .ltOverdue .. => [.now, .hdrs, .vecs, .time, .safe]
  | .diagLost .. => [.now, .hdrs, .vecs, .time, .safe]
  | .monitorSelfCompare .. => [.hdrs, .flds, .links, .accs, .commits, .regions, .queues, .jobs, .bells, .vecs, .ring, .safe]
  | .fnMismatch .. => [.hdrs, .flds, .links, .accs, .commits, .regions, .queues, .jobs, .bells, .vecs, .ring, .safe]
  | .safeClrcnt .. => [.hdrs, .flds, .vecs]
  | .tableLoad .. => [.freeCtr, .hdrs, .flds, .links, .accs, .nextId, .chans, .vecs, .groups, .power]
  | .tableLoadDone .. => [.hdrs, .flds, .links, .accs, .nextId, .commits, .chans, .recs, .regions, .queues, .jobs, .bells, .vecs, .groups, .pll, .ring, .safe]
  | .setv .. => [.freeCtr, .hdrs, .flds, .links, .chans, .vecs, .groups, .power]
  | .twdataWrite .. => [.freeCtr, .hdrs, .flds, .links, .chans, .vecs, .groups, .power]
  | .twdataRead .. => [.freeCtr, .busResult, .hdrs, .flds, .links, .chans, .vecs, .time, .power, .flash]
  | .unfence .. => [.freeCtr, .hdrs, .flds, .links, .chans, .vecs, .groups, .power]
  | .unfenceTestDone .. => [.hdrs, .vecs, .groups, .boot]
  | .cinval .. => [.freeCtr, .hdrs, .flds, .links, .chans, .vecs, .groups, .power]
  | .jgClrcnt .. => [.freeCtr, .hdrs, .flds, .links, .chans, .vecs, .power]
  | .slewEpochWithoutPulse .. => [.now, .hdrs, .vecs, .pll, .time]
  | .timeSlewEnd .. => [.now, .hdrs, .vecs, .time]
  | .tapInstruction .. => [.tap]
  | .partnerNoAnswer .. => [.now, .freeCtr, .hdrs, .flds, .links, .accs, .commits, .regions, .jobs, .bells, .vecs, .groups, .time, .ring, .power]

end Sys2Proof.Machine
end

