-- ==== Sys2Proof/Certificates/Slice0/Obligations.lean ====
section
/-!
DEFINITION. The statements about the model, by chapter of the manual. Where one rests on a choice of the model, its text names the entry of the
assumption log; it then states the manual's rule as the model reads it.
-/

open Sys2Proof Sys2Proof.Machine

/-! ### The block as a whole -/

/-- With a command at the front of the queue, a step is that command on the state with the queue's rest (the queue and its one sender are the model's, log
62). -/
def Obligations.StepRunsFront : Prop :=
  ∀ (c : Instr) (rest : List Instr) (s : State),
    step { s with pending := c :: rest } = exec c { s with pending := rest }

/-- With no command waiting, a step lets one CK_CORE cycle (32 units) pass: the clock moves on, nothing is stored or sent, and only device time and what
it moves change. This is the model's choice (log 1). -/
def Obligations.StepIdles : Prop :=
  ∀ s : State, s.pending = [] → ∃ t, step s = .next t ∧ t.now = s.now + 32 ∧ Within [.now, .time] s t

/-- Reset as the rules give it: in cold reset with no port, channel or queue in service, the page headers clear (Table 16-3), the register fields at their
reset values (R5), the safety monitor in NORMAL with FAULT_N driven (R314), the epoch number 0, the time unit in FREE (R292), the sideband idle
(R378), no seal, and nothing stored. A field whose reset value the manual does not give has the model's (log 4), and that nothing is stored is its
choice too (log 5). -/
def Obligations.ResetValues : Prop :=
  State.reset.boot.held = true ∧ State.reset.boot.isSealed = false ∧ State.reset.boot.state = .pll ∧
  State.reset.pending = [] ∧ State.reset.mem = [] ∧ State.reset.recs = [] ∧
  (∀ (p : Nat) (f : Fld), fget State.reset p f = f.rst) ∧
  (∀ p, State.reset.hdr p = { evt := 0, evtEn := 0, cap0 := 0, cap1 := 0, evtCnt := 0, denies := 0 }) ∧
  (∀ l, (State.reset.link l).state = .off) ∧ (∀ c, (State.reset.chan c).state = .absent) ∧
  (∀ q, (State.reset.queue q).state = .disabled) ∧ (∀ v, (State.reset.vec v).mask = true ∧ (State.reset.vec v).pending = false) ∧
  (∀ r, (State.reset.region r).en = false) ∧ State.reset.safe.state = .normal ∧ State.reset.safe.fnDrv = true ∧
  State.reset.merid.epoch = 0 ∧ State.reset.time.state = .free ∧ State.reset.time.dev = 0 ∧ State.reset.sb.state = .idle

/-- The canonical form of the stored bytes holds at reset. (The model's choices and readings here: log 5.) -/
def Obligations.StoredCanonicalAtReset : Prop :=
StoredWf State.reset

/-- Every step keeps the stored bytes of the DRAM and of the flash in canonical form: whatever command runs, or none. (The model's choices and readings
here: log 5.) -/
def Obligations.StoredStaysCanonical : Prop :=
∀ s t : State, step s = .next t → StoredWf s → StoredWf t

/-- No command is refused, and the only fault is a bus fault of the management core (Table 16-1, R356): every command of a host port, of the sideband, of
a link or of the block's own engines answers a next state. (The model's choices and readings here: log 7.) -/
def Obligations.OnlyBusFaults : Prop :=
  ∀ (c : Instr) (s : State), (∃ t, exec c s = .next t) ∨ ∃ a, exec c s = .fault (.busFault a) ∧
    ((∃ v p, c = .registerWrite .core a v p) ∨ (∃ page m, c = .evtForce .core page m) ∨ (∃ page, c = .evtClr .core page) ∨
      (∃ page, c = .capClr .core page) ∨ (∃ rd, c = .rwdataRead .core rd))

/-- The frame of every command: a command that answers a next state changes only the parts of the state that Safety.lean lists for it (touches); every
other part is as before, the clock and the counter of the free values do not run back, and the stored bytes keep their canonical form. So a command
without the DRAM or the flash in its list leaves every byte of it as it was. -/
def Obligations.CommandsStayInTheirParts : Prop :=
  ∀ c : Instr, StaysWithin (touches c) c

/-! ### Counters and registers -/

/-- CLRCNT of every page: with the write admitted, each command clears exactly the counters its rule lists (R80, R111, R145, R170, R196, R231, R280, R308,
R374, R394, R422, R434), and every other register field, unit and event stays as it is, in a device that an access to a unit asleep has woken first
(wakeFor, R349). (The model's choices and readings here: log 37.) -/
def Obligations.CountersClear : Prop :=
  ∀ (s : State) (src : Src),
    (mayWrite s src Pg.epch F.EPCH_ECMD_CLRCNT.off = true → Answers (.epchClrcnt src) s fun t =>
      Within [.flds] s t ∧ Cleared Pg.epch [F.EPCH_LATE_COUNT, F.EPCH_SKIP_COUNT, F.EPCH_FLIPS_COUNT] s t) ∧
    (mayWrite s src Pg.rgn F.RGN_RCMD_CLRCNT.off = true → Answers (.regionClrcnt src) s fun t =>
      Within [.regions] s t ∧ t.region (selRegion s) = { (s.region (selRegion s)) with rlate := 0, rskip := 0 } ∧
      ∀ r, r ≠ selRegion s → t.region r = s.region r) ∧
    (∀ ch : Fin 64, mayWrite s src (Pg.ch ch) F.CH_CCMD_CLRCNT.off = true → Answers (.chClrcnt src ch) s fun t =>
      let s := wakeFor src (Pg.ch ch) s
      Within [.flds, .chans] s t ∧
      Cleared (Pg.ch ch) [F.CH_RFINTR_COUNT, F.CH_RFHOLD_COUNT, F.CH_SCRPOS_PASSES, F.CH_CECNT_COUNT, F.CH_UECNT_COUNT,
        F.CH_HAZCNT_HAZARD, F.CH_HAZCNT_DRAINS, F.CH_TRCNT_FULL, F.CH_TRCNT_FAST, F.CH_TRCNT_SHORT, F.CH_TRCNT_ABANDON] s t ∧
      t.chan ch = { (s.chan ch) with linesRd := 0, linesWr := 0, linesRt := 0, minCredit := 0 } ∧
      ∀ c, c ≠ ch.val → t.chan c = s.chan c) ∧
    (∀ q : Fin 256, mayWrite s src (Pg.wq q) (qOff q 0x10C) = true → inSafe s = false → Answers (.queueClrcnt src q) s fun t =>
      Within [.flds] s t ∧ Cleared (Pg.wq q) [qfld q F.WQ_QCNT_DONE, qfld q F.WQ_QCNT_DISC] s t) ∧
    (∀ l : Fin 20, mayWrite s src (Pg.link l) F.HP_XCMD_CLRCNT.off = true → Answers (.xcmdClrcnt src l) s fun t =>
      let s := wakeFor src (Pg.link l) s
      Within [.flds] s t ∧
      Cleared (Pg.link l) [F.HP_XCNT1_REPLAYS, F.HP_XCNT1_NAKSENT, F.HP_XFECU_COUNT, F.HP_XCRCE_COUNT, F.HP_XSTS1_DENIED,
        F.HP_XSTS1_UNSUP, F.HP_XSTS2_DISC, F.HP_XSTS2_BUSY, F.HP_XPDROP_POST, F.HP_XPDROP_DBELL] s t) ∧
    (∀ l : Fin 20, mayWrite s src (Pg.link l) F.HP_LCMD_CLRCNT.off = true → Answers (.laneClrcnt src l) s fun t =>
      let s := wakeFor src (Pg.link l) s
      Within [.flds] s t ∧
      Cleared (Pg.link l) ([F.HP_LCNT_RETIRES, F.HP_LCNT_WIDENS, F.HP_LCNT_RETRAINS, F.HP_LCNT_LRETRY] ++
        ((List.range 8).map fun y => [F.HP_LyBERR_COUNT, F.HP_LySERR_COUNT, F.HP_LyFECC_COUNT, F.HP_LyLOSS_LOL,
          F.HP_LyLOSS_RELOCK].map (laneFld y)).flatten) s t) ∧
    (mayWrite s src Pg.clk F.CLK_CCMD_CLRCNT.off = true → Answers (.clkClrcnt src) s fun t =>
      Within [.flds, .pll] s t ∧ Cleared Pg.clk [F.CLK_CSTCNT_COASTS, F.CLK_CSTCNT_JUMPS, F.CLK_CSTTIME_MS] s t) ∧
    (mayWrite s src Pg.time F.TIME_TCMD_CLRCNT.off = true → Answers (.timeClrcnt src) s fun t =>
      Within [.flds] s t ∧ Cleared Pg.time [F.TIME_TCNT_PSTEPS, F.TIME_TCNT_ASYMS, F.TIME_TCNT_LOSSES, F.TIME_TCNT_BIGS] s t) ∧
    (mayWrite s src Pg.flsh F.FLSH_FCMD_CLRCNT.off = true → Answers (.flashClrcnt src) s fun t =>
      Within [.flds] s t ∧ Cleared Pg.flsh [F.FLSH_FCNT_WEAKS, F.FLSH_FCNT_UNCORS, F.FLSH_FCNT_RETIRES] s t) ∧
    (mayWrite s src Pg.sbnd F.SBND_SCMD_CLRCNT.off = true → Answers (.sbClrcnt src) s fun t =>
      Within [.flds] s t ∧
      Cleared Pg.sbnd [F.SBND_ERRCNT_PROTO, F.SBND_ERRCNT_PEC, F.SBND_ERRCNT_DENIED, F.SBND_ERRCNT_BUSY, F.SBND_XCNT_WR,
        F.SBND_XCNT_RD] s t) ∧
    (mayWrite s src Pg.safe F.SAFE_SCMD_CLRCNT.off = true → Answers (.safeClrcnt src) s fun t =>
      Within [.flds] s t ∧ Cleared Pg.safe [F.SAFE_FCNT_PORT, F.SAFE_FCNT_CHAN, F.SAFE_FCNT_GROUP] s t) ∧
    (∀ g : Fin 8, mayWrite s src (Pg.jg g) F.JG_JCMD_CLRCNT.off = true → Answers (.jgClrcnt src g) s fun t =>
      let s := wakeFor src (Pg.jg g) s
      Within [.flds] s t ∧
      Cleared (Pg.jg g) [F.JG_JCNT_DONE, F.JG_JCNT_DISC, F.JG_FCNT_LSMISM, F.JG_FCNT_LSUNC, F.JG_FCNT_TPAR, F.JG_CCNT_HIT,
        F.JG_CCNT_MISS] s t)

/-! ### Requests of the host ports -/

/-- RD (R140): a read that Table 4-7 lets through, with a tag that is free, takes the tag and waits at its ordering point; nothing but the port and the
list of accesses changes. The tracker entries that requests of the port hold by then stay theirs (settleTracker, R137). WR_ACK and WR_POST (R140,
R141): a write that Table 4-7 lets through, to a line with a footprint that is not lost, waits at its ordering point with its lines of data; the
acknowledged one takes its tag. COMMIT (R48, R130, R140): a commit from the writer to an enabled, epoch-buffered region waits to be accepted, with its
frame number and its TOUCH flag. DOORBELL (R132, R148): the owner's doorbell for a queue in RUN, with no earlier posted write or doorbell of its port
waiting, moves PIDX to a producer index that names at most as many descriptors as the ring holds; while RETENTION is entered it is dropped (R351).
(The model's choices and readings here: log 23, 64, 91.) -/
def Obligations.RequestsAreAdmitted : Prop :=
  (∀ (s : State) (port : Fin 16) (tag : Fin 512) (len : Fin 64) (tc : BitVec 2) (maxage : BitVec 8) (addr : BitVec 40) (rn : Nat)
    (r : Region), linkActive s port = true → (s.link port).tags.contains tag.val = false →
    RequestOk s port false addr.toNat (len + 1) maxage.toNat rn r →
    Answers (.rd port tag len tc maxage addr) s fun t =>
      Within [.flds, .links, .accs, .nextId, .commits] s t ∧ OtherLinks [port] s t ∧ OtherFields (Pg.link port) [F.HP_PSBY_REFUSED] s t ∧
      (t.link port).tags = (s.link port).tags ++ [tag.val] ∧ t.nextId = s.nextId + 1 ∧ t.commits = (settleTracker port s).commits ∧
      t.accs = (settleTracker port s).accs ++ [{ id := s.nextId, src := .hostNP port tag, write := false, cls := r.cls, kp := r.kp, addr := addr.toNat, lines := len + 1, maxage := maxage.toNat, region := rn, data := [] }]) ∧
  (∀ (s : State) (port : Fin 16) (tag : Fin 512) (len : Fin 64) (tc : BitVec 2) (addr : BitVec 40) (data : List Byte) (rn : Nat)
    (r : Region), linkActive s port = true → RequestOk s port true addr.toNat (len + 1) 0 rn r →
    writeLost s r addr.toNat = false →
    ((s.link port).tags.contains tag.val = false → Answers (.wrAck port tag len tc addr data) s fun t =>
      Within [.flds, .links, .accs, .nextId, .commits] s t ∧ OtherLinks [port] s t ∧ OtherFields (Pg.link port) [F.HP_PSBY_REFUSED] s t ∧
      (t.link port).tags = (s.link port).tags ++ [tag.val] ∧ t.nextId = s.nextId + 1 ∧ t.commits = (settleTracker port s).commits ∧
      t.accs = (settleTracker port s).accs ++ [{ id := s.nextId, src := .hostNP port tag, write := true, cls := r.cls, kp := r.kp, addr := addr.toNat, lines := len + 1, maxage := 0, region := rn, data := pieces 64 (padTo (64 * (len + 1)) data) }]) ∧
    Answers (.wrPost port len tc addr data) s fun t =>
      Within [.flds, .links, .accs, .nextId, .commits] s t ∧ OtherLinks [port] s t ∧ OtherFields (Pg.link port) [F.HP_PSBY_REFUSED] s t ∧
      (t.link port).tags = (s.link port).tags ∧ t.nextId = s.nextId + 1 ∧ t.commits = (settleTracker port s).commits ∧
      t.accs = (settleTracker port s).accs ++ [{ id := s.nextId, src := .hostPost port, write := true, cls := r.cls, kp := r.kp, addr := addr.toNat, lines := len + 1, maxage := 0, region := rn, data := pieces 64 (padTo (64 * (len + 1)) data) }]) ∧
  (∀ (s : State) (port : Fin 16) (tag : Fin 512) (touch : Bool) (rn : Fin 256) (frame : BitVec 16),
    linkActive s port = true → (s.link port).tags.contains tag.val = false → inSafe s = false → s.power.state ≠ .entering →
    (s.region rn).en = true → memRight s port rn true = true → (s.region rn).buffered = true → (s.region rn).writer = port.val →
    mirrorDest s rn = false → (s.region rn).init = false → hoHolds s true = false →
    Answers (.commit port tag touch rn frame) s fun t =>
      Within [.flds, .links, .accs, .nextId, .commits] s t ∧ t.accs = (settleTracker port s).accs ∧ OtherLinks [port] s t ∧
      OtherFields (Pg.link port) [F.HP_PSBY_REFUSED] s t ∧ (t.link port).tags = (s.link port).tags ++ [tag.val] ∧
      t.nextId = s.nextId + 1 ∧
      t.commits = (settleTracker port s).commits ++ [{ src := .host port tag, port := port, region := rn, touch := touch, frame := frame, seq := s.nextId }]) ∧
  (∀ (s : State) (port : Fin 16) (q : Fin 256) (pidx : BitVec 16), linkActive s port = true → inSafe s = false →
    (s.power.state = .entering → Answers (.doorbell port q pidx) s fun t => Within [.hdrs, .flds, .links, .vecs] s t ∧
      EventSet t (Pg.link port) E.HP_POSTED_DROP) ∧
    (s.power.state ≠ .entering → postWaits s port s.nextId = false →
    s.bells.any (fun b => b.port == port.val) = false →
    qget s q F.WQ_QCFG_OWNER = port.val → (s.queue q).state = .run →
    (pidx - (s.queue q).retired).toNat ≤ 2 ^ qget s q F.WQ_QCFG_SIZE →
    (pidx - (s.queue q).pidx).toNat ≤ 2 ^ qget s q F.WQ_QCFG_SIZE →
    Answers (.doorbell port q pidx) s fun t =>
      Within [.flds, .links, .queues, .bells] s t ∧ OtherLinks [port] s t ∧ t.queue q = { (s.queue q) with pidx := pidx } ∧
      ∀ j, j ≠ q.val → t.queue j = s.queue j))

/-- R30 and R31: a memory request that is not made of whole lines inside one 4 KiB block, or that names an address at or above MEMSIZE, completes with
UNSUPPORTED; one below MEMSIZE that lies in no enabled region, or in a shadow range, completes with DENIED. It reaches no ordering point. -/
def Obligations.BadAddressesAreRefused : Prop :=
  ∀ (s : State) (port : Fin 16) (tag : Fin 512) (len : Fin 64) (tc : BitVec 2) (maxage : BitVec 8) (addr : BitVec 40) (data : List Byte)
    (st : Status) (detail : Nat), linkActive s port = true → (s.link port).tags.contains tag.val = false → inSafe s = false →
    s.power.state ≠ .entering →
    ((addr.toNat % 64 ≠ 0 ∨ 64 < addr.toNat % 4096 / 64 + (len + 1)) ∧ st = .unsupported ∧ detail = 1 ∨
      addr.toNat % 64 = 0 ∧ addr.toNat % 4096 / 64 + (len + 1) ≤ 64 ∧
        ((geom s).memsize * 2 ^ 21 ≤ addr.toNat ∧ st = .unsupported ∧ detail = 2 ∨
          addr.toNat < (geom s).memsize * 2 ^ 21 ∧
            (regionOf s addr.toNat = none ∧ st = .denied ∧ detail = 3 ∨
              (∃ rn r, regionOf s addr.toNat = some (rn, r) ∧ inShadow r addr.toNat = true) ∧ st = .denied ∧ detail = 4))) →
    (∃ cls region, Answers (.rd port tag len tc maxage addr) s fun t =>
      Within [.flds, .links] s t ∧ Completes port tag len cls st detail region s t) ∧
    (∃ cls region, Answers (.wrAck port tag len tc addr data) s fun t =>
      Within [.flds, .links] s t ∧ Completes port tag len cls st detail region s t) ∧
    Answers (.wrPost port len tc addr data) s fun t =>
      Within [.hdrs, .flds, .links, .vecs] s t ∧ (t.link port).txq = (s.link port).txq ∧
      (t.hdr (Pg.link port)).evt.getLsbD E.HP_POSTED_DROP = true

/-- R19: a memory request that passes the rows of Table 4-7 before row 7 and lacks its right completes with DENIED and reaches no ordering point, and a
posted one, which has no completion, is dropped with POSTED_DROP; a commit and a register request without their right complete with DENIED too. -/
def Obligations.NoRightMeansDenied : Prop :=
  ∀ (s : State) (port : Fin 16) (tag : Fin 512), linkActive s port = true → (s.link port).tags.contains tag.val = false →
    inSafe s = false → s.power.state ≠ .entering →
    (∀ (len : Fin 64) (tc : BitVec 2) (maxage : BitVec 8) (addr : BitVec 40) (data : List Byte) (rn : Nat) (r : Region),
      addr.toNat % 64 = 0 → addr.toNat % 4096 / 64 + (len + 1) ≤ 64 → addr.toNat < (geom s).memsize * 2 ^ 21 →
      regionOf s addr.toNat = some (rn, r) → rn < 256 → inShadow r addr.toNat = false →
      (memRight s port rn false = false → Answers (.rd port tag len tc maxage addr) s fun t =>
        Within [.flds, .links] s t ∧ Completes port tag len r.cls .denied 5 (some rn) s t) ∧
      (memRight s port rn true = false → Answers (.wrAck port tag len tc addr data) s fun t =>
        Within [.flds, .links] s t ∧ Completes port tag len r.cls .denied 5 (some rn) s t) ∧
      (memRight s port rn true = false → Answers (.wrPost port len tc addr data) s fun t =>
        Within [.hdrs, .flds, .links, .vecs] s t ∧ (t.link port).txq = (s.link port).txq ∧
        EventSet t (Pg.link port) E.HP_POSTED_DROP)) ∧
    (∀ (touch : Bool) (rn : Fin 256) (frame : BitVec 16), (s.region rn).en = true → memRight s port rn true = false →
      Answers (.commit port tag touch rn frame) s fun t =>
        Within [.flds, .links] s t ∧ Completes port tag 0 (s.region rn).cls .denied 5 (some rn.val) s t) ∧
    (∀ (a : RegAddr) (v : Word) (parity : Bool) (rd : FlashIn), a.toNat % 4 = 0 → pageAssigned (a.toNat / 4096) = true →
      (regRight s port (a.toNat / 4096) false = false → Answers (.regRd port tag a parity rd) s fun t =>
        Within [.flds, .links] s t ∧ Completes port tag 0 .bulk .denied 5 none s t) ∧
      (regRight s port (a.toNat / 4096) true = false → Answers (.regWr port tag a v parity) s fun t =>
        Within [.flds, .links] s t ∧ Completes port tag 0 .bulk .denied 5 none s t))

/-! ### Register accesses -/

/-- EVTCLR, CAPCLR and EVT_FORCE (R427, R428): with the write admitted, EVTCLR clears every bit of EVT and leaves the captures, CAPCLR clears both
captures and the event count and leaves EVT, and EVT_FORCE sets the bits of its mask that the page does not reserve, adds an entry with ACTION 0 to
the capture buffer for each, and takes no other action. PROT has no events and changes nothing. An access to a unit that sleeps wakes the device first
(wakeFor, R349). REGISTER_WRITE acts on each field by its access type (R5, Table 0-5, R425, R427): EVT is W1C, EVT_EN takes the written bits that the
page does not reserve, the read-only registers of the header and the reserved offsets ignore the write, with CFGERR on a page that has an event for it
(log 107), and a RW register of DEV takes the word. An access to a unit that sleeps wakes the device first (R349). (The model's choices and readings
here: log 29.) -/
def Obligations.RegistersActByTheirType : Prop :=
  (∀ (s : State) (src : Src) (page : Fin 256), pageAssigned page = true →
    (page.val ≠ Pg.prot → mayWrite s src page 8 = true →
      (Answers (.evtClr src page) s fun t => let s := wakeFor src page s
        Within [.hdrs] s t ∧ t.hdr page = { (s.hdr page) with evt := 0 } ∧ ∀ p, p ≠ page.val → t.hdr p = s.hdr p) ∧
      (Answers (.capClr src page) s fun t => let s := wakeFor src page s
        Within [.hdrs] s t ∧
        t.hdr page = { (s.hdr page) with cap0 := 0, cap1 := 0, evtCnt := 0 } ∧ ∀ p, p ≠ page.val → t.hdr p = s.hdr p)) ∧
    (page.val ≠ Pg.prot → mayWrite s src page 0x18 = true → ∀ mask : Word,
      Answers (.evtForce src page mask) s fun t => let s := wakeFor src page s
        Within [.hdrs, .vecs, .safe] s t ∧
        (∀ b, b < 32 → (mask &&& evtMask page).getLsbD b = true → (t.hdr page).evt.getLsbD b = true) ∧
        (page.val ≠ Pg.vec → page.val ≠ Pg.safe → (t.hdr page).evt = (s.hdr page).evt ||| (mask &&& evtMask page)) ∧
        (∀ p, p ≠ page.val → p ≠ Pg.vec → p ≠ Pg.safe → t.hdr p = s.hdr p) ∧
        (s.safe.capture.length + popCount 32 (mask &&& evtMask page).toNat ≤ 16 →
          ∃ es, t.safe.capture = s.safe.capture ++ es ∧ es.length = popCount 32 (mask &&& evtMask page).toNat ∧
            ∀ e ∈ es, e.action = 0 ∧ e.page = page.val)) ∧
    (page.val = Pg.prot → mayWrite s src page 8 = true → mayWrite s src page 0x18 = true → ∀ mask : Word,
      Answers (.evtClr src page) s (fun t => t = s) ∧ Answers (.capClr src page) s (fun t => t = s) ∧
        Answers (.evtForce src page mask) s (fun t => t = s))) ∧
  (∀ (s : State) (src : Src) (page : Fin 256) (val : Word), pageAssigned page = true →
    (page.val ≠ Pg.prot → mayWrite s src page 0x10 = true →
      Answers (.registerWrite src (BitVec.ofNat 20 (page * 4096 + 0x10)) val false) s fun t => let s := wakeFor src page s
        Within [.hdrs] s t ∧
        t.hdr page = { (s.hdr page) with evt := (s.hdr page).evt &&& ~~~val } ∧ ∀ p, p ≠ page.val → t.hdr p = s.hdr p) ∧
    (page.val ≠ Pg.prot → mayWrite s src page 0x14 = true →
      Answers (.registerWrite src (BitVec.ofNat 20 (page * 4096 + 0x14)) val false) s fun t => let s := wakeFor src page s
        Within [.hdrs] s t ∧ t.hdr page = { (s.hdr page) with evtEn := val &&& evtMask page } ∧ ∀ p, p ≠ page.val → t.hdr p = s.hdr p) ∧
    (∀ off ∈ [0x00, 0x04, 0x0C, 0x1C, 0x20, 0x24, 0x28, 0x2C, 0x30, 0x34, 0x38, 0x3C], mayWrite s src page off = true →
      Answers (.registerWrite src (BitVec.ofNat 20 (page * 4096 + off)) val false) s fun t => let s := wakeFor src page s
        match ignoredBit page with
        | some bit => Within [.hdrs, .vecs] s t ∧ EventSet t page bit
        | none => t = s) ∧
    (mayWrite s src Pg.dev 0x50 = true → Answers (.registerWrite src 0x50 val false) s fun t => Within [.flds] s t ∧
      fget t Pg.dev F.DEV_SCRATCH_DATA = val.toNat ∧ OtherFields Pg.dev [F.DEV_SCRATCH_DATA] s t))

/-- REG_RD and REG_WR (R131): a register access that Table 4-7 lets through takes its tag and completes: the read with CPLD and the value of the register,
the write with OK after it has taken effect. The register of the statement is EVT_EN of a page. (The model's choices and readings here: log 31, 107.) -/
def Obligations.HostRegisterAccesses : Prop :=
  ∀ (s : State) (port : Fin 16) (tag : Fin 512) (page : Fin 256) (val : Word) (rd : FlashIn),
    linkActive s port = true → (s.link port).tags.contains tag.val = false → inSafe s = false → s.power.state ≠ .entering →
    pageAssigned page = true → page.val ≠ Pg.prot →
    (regRight s port page false = true → Answers (.regRd port tag (BitVec.ofNat 20 (page * 4096 + 0x14)) false rd) s fun t =>
      Within [.flds, .links] s t ∧ OtherLinks [port] s t ∧ (t.link port).tags = (s.link port).tags ++ [tag.val] ∧
      Queued port (.cpl tag (cplHdr true tag 0 .bulk .ok 0 none (some (s.hdr page).evtEn)))
        (cplHdr true tag 0 .bulk .ok 0 none (some (s.hdr page).evtEn)) [] s t) ∧
    (regRight s port page true = true → Answers (.regWr port tag (BitVec.ofNat 20 (page * 4096 + 0x14)) val false) s fun t =>
      Within [.hdrs, .flds, .links] s t ∧ OtherLinks [port] s t ∧ (t.link port).tags = (s.link port).tags ++ [tag.val] ∧
      (t.hdr page).evtEn = val &&& evtMask page ∧ (∀ p, p ≠ page.val → t.hdr p = s.hdr p) ∧ Completes port tag 0 .bulk .ok 0 none s t)

/-- R8: after the seal, a REG_WR that would change an RWL field leaves every field of its register as it is and completes with DENIED, and SEAL.DENIES of
the page counts it (R430); a sideband write that would do so leaves them too, and is counted in SBND.ERRCNT. -/
def Obligations.SealedFieldsStay : Prop :=
  ∀ (s : State) (a : RegAddr) (val : Word), s.boot.isSealed = true → a.toNat % 4 = 0 → pageAssigned (a.toNat / 4096) = true →
    rwlChange s (a.toNat / 4096) (a.toNat % 4096) val = true →
    (∀ (port : Fin 16) (tag : Fin 512) (parity : Bool), linkActive s port = true → (s.link port).tags.contains tag.val = false →
      inSafe s = false → s.power.state ≠ .entering → regRight s port (a.toNat / 4096) true = true →
      Answers (.regWr port tag a val parity) s fun t =>
        Within [.hdrs, .flds, .links] s t ∧ OtherFields (Pg.link port) [F.HP_PSBY_REFUSED, F.HP_XSTS1_DENIED] s t ∧
        (t.hdr (a.toNat / 4096)).denies = min 0xFFFF ((s.hdr (a.toNat / 4096)).denies + 1) ∧
        Completes port tag 0 .bulk .denied 0x0B none s t) ∧
    Answers (.registerWrite .sideband a val false) s fun t =>
      Within [.hdrs, .flds, .vecs] s t ∧ OtherFields Pg.sbnd [F.SBND_ERRCNT_DENIED] s t ∧
      fget t Pg.sbnd F.SBND_ERRCNT_DENIED = min (fget s Pg.sbnd F.SBND_ERRCNT_DENIED + 1) 255

/-- R388: a committed sideband word changes no field of its register, is counted in ERRCNT.DENIED and sets WR_DENIED, and the transaction goes on, when it
would change an RWL field that is sealed or not yet sealed, or goes to a training register, to BOOT.BCMD or BOOT.WDKICK, or to a register that SACC
forbids. -/
def Obligations.SidebandRefusals : Prop :=
  ∀ (s : State) (a : RegAddr) (val : Word), a.toNat % 4 = 0 → pageAssigned (a.toNat / 4096) = true →
    (rwlChange s (a.toNat / 4096) (a.toNat % 4096) val = true ∨
      trainingReg (a.toNat / 4096) (a.toNat % 4096) = true ∨
      a.toNat / 4096 = Pg.boot ∧ (a.toNat % 4096 = 0x58 ∨ a.toNat % 4096 = 0x70) ∨
      (a.toNat / 4096 ≠ Pg.sbnd ∧
        fget s Pg.sbnd (if mailboxReg (a.toNat / 4096) (a.toNat % 4096) then F.SBND_SACC_MBOX else F.SBND_SACC_WREN) = 0)) →
    Answers (.registerWrite .sideband a val false) s fun t =>
      Within [.hdrs, .flds, .vecs] s t ∧ t.sb = s.sb ∧ OtherFields Pg.sbnd [F.SBND_ERRCNT_DENIED] s t ∧
      fget t Pg.sbnd F.SBND_ERRCNT_DENIED = min (fget s Pg.sbnd F.SBND_ERRCNT_DENIED + 1) 255 ∧
      (t.hdr Pg.sbnd).evt.getLsbD E.SBND_WR_DENIED = true

/-- A register write that its source may not make changes none of the units (Tables 4-7 and 14-6): for each command that is the effect of one register
write, a host port at most counts the refusal, and the sideband counts it in ERRCNT.DENIED and sets WR_DENIED. (The model's choices and readings here:
log 62.) -/
def Obligations.RefusedWritesDoNothing : Prop :=
  ∀ (c : Instr) (s : State) (src : Src) (page off : Nat), regTarget c = some (src, page, off) → mayWrite s src page off = false →
    (∀ p : Fin 16, src = .host p → Answers c s fun t =>
      Within [.flds] s t ∧ OtherFields (Pg.link p) [F.HP_XSTS1_DENIED, F.HP_XSTS2_BUSY] s t) ∧
    (src = .sideband → Answers c s fun t => Within [.hdrs, .flds, .vecs] s t ∧ OtherFields Pg.sbnd [F.SBND_ERRCNT_DENIED] s t ∧
      (t.hdr Pg.sbnd).evt.getLsbD E.SBND_WR_DENIED = true)

/-! ### The frame store -/

/-- A read that nothing holds back passes its ordering point (R13, R44, R47): it takes the visible copy and the epoch of that moment and pins the copy,
unless its job chose both beforehand, and enters the read queue of every footprint that serves and has not failed, one entry a line. No byte stored
changes. A write that nothing holds back passes its ordering point (R13, R69, R73), whoever issued it: from then on every line of it reads back in
every footprint it goes to, whether it has drained or not; a line of a KPW or a HODATA that is marked poison reads as a poison codeword (log 89). A
write of a host port is acknowledged, one to a mirrored region that is ATTACHED once its partner answers (R302). No byte stored changes before it
drains. (The model's choices and readings here: log 42, 46, 64, 89.) -/
def Obligations.OrderingPointsPass : Prop :=
  (∀ (s : State) (a : Acc), s.accs.find? (fun b => b.id == a.id && b.phase == .waiting) = some a → a.write = false →
    inSafe s = false → (∀ p, a.src.port = some p → inTracker s p a.id = true) → waitsBehind s a = false → outranked s a = false →
    (s.region a.region).en = true → (s.region a.region).init = false →
    readAdmits s ((footLines s (s.region a.region) (s.region a.region).readFeet (accCopy (s.region a.region) a) a.addr).filter
      fun f => !chFailed s f.2.1) a.lines a.cls = true →
    Answers (.orderingPointPass a.id) s fun t =>
      Within [.hdrs, .flds, .accs, .nextId, .chans, .regions, .queues, .bells, .vecs] s t ∧
      (∀ b ∈ s.accs, b.id = a.id → ∃ b' ∈ t.accs, b'.id = a.id ∧ b'.phase = .passed ∧ b'.copy = accCopy (s.region a.region) a ∧
        b'.epoch = (if a.chosen then a.epoch else s.merid.epoch) ∧ b'.pinned = !a.chosen ∧ b'.addr = b.addr ∧ b'.lines = b.lines) ∧
      (∀ b ∈ s.accs, b.id ≠ a.id → b ∈ t.accs) ∧
      (a.chosen = false → (s.region a.region).vis < (s.region a.region).cps.length →
        ((t.region a.region).cp (s.region a.region).vis).pins = ((s.region a.region).cp (s.region a.region).vis).pins + 1) ∧
      ∀ f ∈ footLines s (s.region a.region) (s.region a.region).readFeet (accCopy (s.region a.region) a) a.addr,
        chFailed s f.2.1 = false → ∀ i < a.lines,
        ∃ e ∈ (t.chan f.2.1).rq, e.acc = some a.id ∧ e.mirror = f.1 ∧ e.cls = a.cls ∧ e.n = f.2.2 + i ∧ e.idx = i) ∧
  (∀ (s : State) (a : Acc) (cp : Nat), s.accs.find? (fun b => b.id == a.id && b.phase == .waiting) = some a → a.write = true →
    inSafe s = false → (∀ p, a.src.port = some p → inTracker s p a.id = true) → waitsBehind s a = false → outranked s a = false →
    (s.region a.region).en = true → (s.region a.region).init = false → writeTo (s.region a.region) a = some cp →
    (∀ l q g, a.src = .kpw l q g → cp = 0) → a.addr / 64 % 64 + a.lines ≤ 64 → a.data.length = a.lines →
    (∃ f ∈ footLines s (s.region a.region) (s.region a.region).writeFeet cp a.addr, chFailed s f.2.1 = false) →
    writeAdmits s (footLines s (s.region a.region) (s.region a.region).writeFeet cp a.addr) a.lines a.cls = true →
    Answers (.orderingPointPass a.id) s fun t =>
      Within [.hdrs, .flds, .links, .accs, .nextId, .chans, .recs, .regions, .queues, .bells, .jobs, .vecs, .groups, .ring] s t ∧
      (∀ f ∈ footLines s (s.region a.region) (s.region a.region).writeFeet cp a.addr, ∀ i < a.lines,
        (((∃ l q g, a.src = .kpw l q g) ∨ a.src = .hodata) ∧ a.poison.contains i = true →
          currentLine t f.2.1 (f.2.2 + i) = (padTo 64 [], poisonCheck (f.2.2 + i))) ∧
        (¬(((∃ l q g, a.src = .kpw l q g) ∨ a.src = .hodata) ∧ a.poison.contains i = true) →
          currentLine t f.2.1 (f.2.2 + i) = (padTo 64 (a.data.getD i []), lineCheck (f.2.2 + i) (a.data.getD i [])))) ∧
      (∀ port, a.src.port = some port →
        (a.chosen = false → (s.region a.region).buffered = true → ((t.region a.region).cp cp).role = .writable) ∧
        (mirrorSource s a.region = none → (∀ b ∈ t.accs, b.id ≠ a.id) ∧
          ∀ tag, a.src = .hostNP port tag → linkUp s port = true →
            Completes port tag (a.lines - 1) a.cls .ok 0 (some a.region) s t) ∧
        (∀ e, mirrorSource s a.region = some e → (s.mirror e).state = .attached → a.src.posted = false →
          (∃ b ∈ t.accs, b.id = a.id ∧ b.phase = .passed) ∧
          ∃ k ∈ t.ring.kpwOut, k.acc = some a.id ∧ k.entry = e ∧ k.data = a.data.flatten)))

/-- Rows 2 to 5 of Table 2-5 for a read outside king-post regions (R59, R60): the first whose condition holds gives the completion, the last message that
the port has taken in to send: POISONED when no codeword came back or the block record cannot be corrected, STALE with the stale pattern when the
block is too old for MAXAGE, OK with the corrected data, POISONED when a line cannot be corrected. The access is over. In ENTERING or SAFE the read is
DISCARDED instead (row 1). (The model's choices and readings here: log 64, 91.) -/
def Obligations.PlainReadsComplete : Prop :=
  ∀ (s : State) (a : Acc) (errs : List RdErr) (port tag : Nat),
    s.accs.find? (fun b => b.id == a.id && !b.write && b.src.port.isSome) = some a → readBack s a = true → a.kp = false →
    a.src = .hostNP port tag → linkUp s port = true →
    (inSafe s = true → Answers (.readComplete a.id errs) s fun t => Within [.flds, .links, .accs, .regions] s t ∧
      (∀ b ∈ t.accs, b.id ≠ a.id) ∧ Completes port tag (a.lines - 1) a.cls .discarded 0x16 (some a.region) s t) ∧
    (inSafe s = false → ∀ (st : Status) (detail : Nat) (data : List Byte),
    (a.got = [] ∧ st = .poisoned ∧ detail = 0x10 ∨
      a.got ≠ [] ∧ (recRead s a errs false).1.lost = true ∧ st = .poisoned ∧ detail = 0x12 ∨
      a.got ≠ [] ∧ (recRead s a errs false).1.lost = false ∧
        (a.maxage ≠ 0 ∧ ((recRead s a errs false).2.ancient = true ∨ a.maxage < (a.epoch - (recRead s a errs false).2.tag).toNat) ∧
            st = .stale ∧ data = stalePattern (s.region a.region).stale a.lines ∨
          (a.maxage = 0 ∨ (recRead s a errs false).2.ancient = false ∧
              (a.epoch - (recRead s a errs false).2.tag).toNat ≤ a.maxage) ∧
            ((∃ bs : List (List Byte), (List.range a.lines).map (plainLine a errs) = bs.map some ∧ st = .ok ∧ data = bs.flatten) ∨
              (∃ i < a.lines, plainLine a errs i = none) ∧ st = .poisoned ∧ detail = 0x11))) →
    Answers (.readComplete a.id errs) s fun t =>
      Within [.hdrs, .flds, .links, .accs, .commits, .chans, .regions, .queues, .jobs, .bells, .vecs, .groups, .pll, .ring, .safe] s t ∧
      (∀ b ∈ t.accs, b.id ≠ a.id) ∧
      ∃ ms, (t.link port).txq = (s.link port).txq ++ ms ++
        (if st = .ok ∨ st = .stale then
          [{ kind := .cpl tag (cplHdr true tag (a.lines - 1) a.cls st 0 (some a.region) none)
             hdr := cplHdr true tag (a.lines - 1) a.cls st 0 (some a.region) none, data := data }]
        else
          [{ kind := .cpl tag (cplHdr false tag (a.lines - 1) a.cls st detail (some a.region) none)
             hdr := cplHdr false tag (a.lines - 1) a.cls st detail (some a.region) none, data := [] }]))

/-- Table 2-6 for one king-post line (R66): good and equal copies give their data; two good copies that differ become poison codewords in both footprints;
one good copy gives its data and rewrites the other footprint's line, and its block record where that was not good; a line poisoned in both stays as
it is; with no good copy nothing is written. A footprint is rewritten at its ordering point, so that the line reads as rewritten from then on, unless
it is out of service once the errors are counted or a later write has passed the line. The completion is OK with data, or POISONED with DETAIL 0x13;
in ENTERING or SAFE it is DISCARDED (Table 2-5, row 1). (The model's choices and readings here: log 64, 93.) -/
def Obligations.KingPostReadsComplete : Prop :=
  ∀ (s : State) (a : Acc) (errs : List RdErr) (port tag : Nat),
    s.accs.find? (fun b => b.id == a.id && !b.write && b.src.port.isSome) = some a → readBack s a = true → a.kp = true →
    a.lines = 1 → a.maxage = 0 → a.src = .hostNP port tag → linkUp s port = true →
    (inSafe s = true → Answers (.readComplete a.id errs) s fun t => Within [.flds, .links, .accs, .regions] s t ∧
      (∀ b ∈ t.accs, b.id ≠ a.id) ∧ Completes port tag 0 a.cls .discarded 0x16 (some a.region) s t) ∧
    (inSafe s = false → repairsFit s a [(0, kpLine s a errs 0)] = true →
    Answers (.readComplete a.id errs) s fun t =>
      Within [.hdrs, .flds, .links, .accs, .nextId, .commits, .chans, .recs, .regions, .queues, .jobs, .bells, .vecs, .groups, .pll,
        .ring, .safe] s t ∧
      (∀ b ∈ t.accs, b.id ≠ a.id) ∧
      (∀ d, kpLine s a errs 0 = .data d → ∃ ms, (t.link port).txq = (s.link port).txq ++ ms ++
        [{ kind := .cpl tag (cplHdr true tag 0 a.cls .ok 0 (some a.region) none)
           hdr := cplHdr true tag 0 a.cls .ok 0 (some a.region) none, data := d }]) ∧
      (∀ d toM, kpLine s a errs 0 = .repair d toM →
        ((kpLine s a errs 0).feet (countKp a errs s) a 0 ≠ [] →
          currentLine t (accLoc a toM).1 ((accLoc a toM).2 * 64 + a.addr / 64 % 64) =
            (padTo 64 d, lineCheck ((accLoc a toM).2 * 64 + a.addr / 64 % 64) d) ∧
          ((recRead s a errs toM).1.lost = true → (∀ m, (s.chan (accLoc a m).1).rowCopy = none) →
            t.brec (accLoc a toM).1 (accLoc a toM).2 = s.brec (accLoc a (!toM)).1 (accLoc a (!toM)).2) ∧
          EventSet t Pg.rgn E.RGN_KP_REPAIR) ∧
        ∃ ms, (t.link port).txq = (s.link port).txq ++ ms ++
          [{ kind := .cpl tag (cplHdr true tag 0 a.cls .ok 0 (some a.region) none)
             hdr := cplHdr true tag 0 a.cls .ok 0 (some a.region) none, data := d }]) ∧
      (kpLine s a errs 0 = .mismatch → EventSet t Pg.rgn E.RGN_KP_MISMATCH ∧ ∀ m ∈ (kpLine s a errs 0).feet (countKp a errs s) a 0,
        currentLine t (accLoc a m).1 ((accLoc a m).2 * 64 + a.addr / 64 % 64) =
          (padTo 64 [], poisonCheck ((accLoc a m).2 * 64 + a.addr / 64 % 64))) ∧
      (kpLine s a errs 0 = .lost → EventSet t Pg.rgn E.RGN_KP_LOST) ∧
      (kpLine s a errs 0 = .mismatch ∨ kpLine s a errs 0 = .lost ∨ kpLine s a errs 0 = .poisoned →
        ∃ ms, (t.link port).txq = (s.link port).txq ++ ms ++
          [{ kind := .cpl tag (cplHdr false tag 0 a.cls .poisoned 0x13 (some a.region) none)
             hdr := cplHdr false tag 0 a.cls .poisoned 0x13 (some a.region) none, data := [] }]))

/-- COMMIT_ACCEPT (R48, R50, R52): the region's first waiting commit, behind no write of its port, makes the writable copy pending with the epoch of that
moment and its TOUCH flag, and gives the region its FRAME; the fill-forward is still to come. A commit to a region that has been disabled ends with
DENIED, one to a region being initialised with BUSY, and one behind an earlier write waits. FILL_FORWARD_DONE (R51, R52): the fill-forward of the
region's earliest accepted commit goes as far as the queues take its lines; a line that is copied takes the bytes of the source copy, or a poison
codeword where they cannot be read, at its ordering point in every footprint that writes go to. With no line left the copy has its fill-forward and
the commit completes with OK. No byte stored changes before a line drains. (The model's choices and readings here: log 3, 46.) -/
def Obligations.CommitsArePendingThenFilled : Prop :=
  (∀ (s : State) (rn : Fin 256) (c : Commit), s.commits.find? (fun d => d.region == rn.val && !d.accepted) = some c → inSafe s = false →
    (commitBlocked s c = true → Answers (.commitAccept rn) s fun t => t = s) ∧
    (commitBlocked s c = false → (s.region rn).en = false → ∀ port tag, c.src = .host port tag → linkUp s port = true →
      Answers (.commitAccept rn) s fun t => Within [.flds, .links, .commits] s t ∧
        t.commits = s.commits.filter (fun d => d.seq != c.seq) ∧
        Completes port tag 0 (s.region rn).cls .denied 3 (some rn.val) s t) ∧
    (commitBlocked s c = false → (s.region rn).en = true → (s.region rn).init = true → ∀ port tag, c.src = .host port tag →
      linkUp s port = true → Answers (.commitAccept rn) s fun t => Within [.flds, .links, .commits] s t ∧
        t.commits = s.commits.filter (fun d => d.seq != c.seq) ∧
        Completes port tag 0 (s.region rn).cls .busy 9 (some rn.val) s t) ∧
    (∀ i, commitBlocked s c = false → (s.region rn).en = true → (s.region rn).init = false → (s.region rn).frame ≠ some c.frame →
      (s.region rn).idxOf .writable = some i →
      Answers (.commitAccept rn) s fun t => Within [.commits, .regions] s t ∧
        ((t.region rn).cp i).role = .pending ∧ ((t.region rn).cp i).ec = s.merid.epoch ∧ ((t.region rn).cp i).acceptedAt = s.now ∧
        ((t.region rn).cp i).touch = c.touch ∧ ((t.region rn).cp i).ffDone = false ∧ (t.region rn).frame = some c.frame ∧
        (∀ j, j ≠ i → (t.region rn).cp j = (s.region rn).cp j) ∧ (∀ r, r ≠ rn.val → t.region r = s.region r) ∧
        (∃ d ∈ t.commits, d.seq = c.seq ∧ d.accepted = true ∧ d.copy = some i ∧ d.fill = fillSet s (s.region rn) i))) ∧
  (∀ (s : State) (rn : Fin 256) (bad : List (Nat × Nat)) (c : Commit),
    s.commits.find? (fun d => d.region == rn.val && d.accepted) = some c → (∀ d ∈ s.commits, d.seq = c.seq → d = c) →
    inSafe s = false →
    (c.fill = [] → Answers (.fillForwardDone rn bad) s fun t => Within [.flds, .links, .commits, .regions, .jobs] s t ∧
      ((t.region rn).cp (c.copy.getD 0)).ffDone = true ∧ ((t.region rn).cp (c.copy.getD 0)).role = ((s.region rn).cp (c.copy.getD 0)).role ∧
      t.commits = s.commits.filter (fun d => d.seq != c.seq) ∧
      (∀ port tag, c.src = .host port tag → linkUp s port = true →
        Completes port tag 0 (s.region c.region).cls .ok 0 (some c.region) s t)) ∧
    (∀ bl, c.fill = [bl] →
      let x := fillCopy s (s.region rn) (fillSource (s.region rn) (c.copy.getD 0)) (c.copy.getD 0) bad bl
      (x.can s = false → Answers (.fillForwardDone rn bad) s fun t => Within [.flds, .chans] s t) ∧
      (x.can s = true →
        (bad.contains bl = true → Answers (.fillForwardDone rn bad) s fun t => ∀ p ∈ x.dst,
          currentLine t p.1 p.2 = (padTo 64 [], poisonCheck p.2)) ∧
        (bad.contains bl = false → ∀ d, (∀ p ∈ x.src, chFailed s p.1 = false →
            lineData s p.1 p.2 = d ∧ decodeLine (detectMode s p.1 (s.region rn).kp) p.2 (lineData s p.1 p.2) (lineChk s p.1 p.2) = .clean) →
          Answers (.fillForwardDone rn bad) s fun t => ((t.region rn).cp (c.copy.getD 0)).ffDone = true ∧
            (∀ e ∈ t.commits, e.seq ≠ c.seq) ∧ ∀ p ∈ x.dst, currentLine t p.1 p.2 = (padTo 64 d, lineCheck p.2 d)))) ∧
    Answers (.fillForwardDone rn bad) s fun t => KeepsBytes s t)

/-- R49: a commit to a region that is not epoch-buffered completes with UNSUPPORTED. A commit while the region has no writable copy is accepted and
completes with OK; it changes no copy, no role and no tag, and sets the region's FRAME record to its FRAME. -/
def Obligations.CommitsWithoutACopy : Prop :=
  (∀ (s : State) (port : Fin 16) (tag : Fin 512) (touch : Bool) (rn : Fin 256) (frame : BitVec 16), linkActive s port = true →
    (s.link port).tags.contains tag.val = false → inSafe s = false → s.power.state ≠ .entering → (s.region rn).en = true →
    memRight s port rn true = true → mirrorDest s rn = false → (s.region rn).buffered = false →
    Answers (.commit port tag touch rn frame) s fun t =>
      Within [.flds, .links] s t ∧ Completes port tag 0 (s.region rn).cls .unsupported 8 (some rn.val) s t) ∧
  (∀ (s : State) (rn : Fin 256) (c : Commit), s.commits.find? (fun d => d.region == rn.val && !d.accepted) = some c → inSafe s = false →
    commitBlocked s c = false → (s.region rn).en = true → (s.region rn).init = false → (s.region rn).idxOf .writable = none →
    Answers (.commitAccept rn) s fun t => Within [.flds, .links, .commits, .regions, .jobs] s t ∧
      t.region rn = { (s.region rn) with frame := some c.frame } ∧ (∀ r, r ≠ rn.val → t.region r = s.region r) ∧
      t.commits = s.commits.filter (fun d => d.seq != c.seq) ∧
      (∀ port tag, c.src = .host port tag → linkUp s port = true → Completes port tag 0 (s.region rn).cls .ok 0 (some rn.val) s t) ∧
      ∀ q idx, c.src = .queue q idx → ∀ j ∈ s.jobs, j.is q idx = true → ∃ j' ∈ t.jobs, j'.is q idx = true ∧ j'.fin = some (0, 0))

/-! ### DRAM channels -/

/-- A command slot that chooses an operation (R208, R210, R211): it issues the activate, so that the row of the line is open, or to an open row the column
command. A write then puts its line into the DRAM with its check bytes, or a poison codeword; a read gives the stored codeword to its access; either
way the operation is done and no other byte of the DRAM changes. An operation of the side queue is done too, and a fill puts its line into its cache.
A command slot that refreshes (R198, R211, R216, R217): REFpb gives its rank one credit, REFab eight and the round is complete, at most 64 in all; a
hold holds the banks or refreshes them at once; a refresh or RFM closes the rows of its banks. A background slot takes its activity from those due
(R221). A parity error fails the channel (R230), and in SAFE is only logged. With nothing to do the slot moves no line. In power-down only what is due
or past its deadline runs, and the channel goes on sleeping (R228). (The model's choices and readings here: log 5, 10, 11, 66, 67, 94.) -/
def Obligations.SlotsMoveLinesAndRefresh : Prop :=
  (∀ (s : State) (ch : Fin 64) (slot : SlotIn) (x : Cand), slot.parity = false → slot.tableParity = false → chRuns s ch = true →
    (s.chan ch).state ≠ .powerdown →
    chooseSlot (updateDrain ch (moveDrift ch s)) ch slot.busy = .op x →
    (openHit (s.chan ch) x.e = false → Answers (.schedulerSlot ch slot) s fun t =>
      Within [.flds, .chans] s t ∧ (∀ c, c ≠ ch.val → t.chan c = s.chan c) ∧
      tget (2 ^ 40) (t.chan ch).openRow (placeBank (s.chan ch) x.e.n) = placeRow (s.chan ch) x.e.n) ∧
    (openHit (s.chan ch) x.e = true → x.side = false → Answers (.schedulerSlot ch slot) s fun t =>
      Within [.flds, .accs, .chans, .mem] s t ∧ (∀ c, c ≠ ch.val → t.chan c = s.chan c) ∧
      (x.write = true → LinesApart s ch x.e.n → t.accs = s.accs ∧
        lineData t ch x.e.n = (if x.e.poison then List.replicate 64 0 else padTo 64 x.e.data) ∧
        lineChk t ch x.e.n = padTo 4 (if x.e.poison then poisonCheck x.e.n else lineCheck x.e.n x.e.data) ∧
        KeepsBytesOutside (InLine s ch x.e.n) s t ∧ ∀ y ∈ (t.chan ch).wq, y.same x.e = false) ∧
      (x.write = false → KeepsBytes s t ∧ (∀ y ∈ (t.chan ch).rq, y.same x.e = false) ∧
        ∀ a ∈ s.accs, x.e.acc = some a.id → ∃ b ∈ t.accs, b.id = a.id ∧
          b.got = a.got ++ [{ mirror := x.e.mirror, line := x.e.idx, data := lineData s ch x.e.n, chk := lineChk s ch x.e.n }])) ∧
    (openHit (s.chan ch) x.e = true → x.side = true → Answers (.schedulerSlot ch slot) s fun t =>
      Within [.flds, .chans] s t ∧ (∀ c, c ≠ ch.val → t.chan c = s.chan c) ∧
      ∀ o, (s.chan ch).sideq.find? (fun o => o.n == x.e.n && o.back == x.write) = some o →
        o ∉ (t.chan ch).sideq ∧ (o.back = false → ∃ l ∈ (t.chan ch).cache o.isRec, l.n = o.n))) ∧
  (∀ (s : State) (ch : Fin 64) (slot : SlotIn),
    (slot.parity = false → slot.tableParity = false → chRuns s ch = true → (s.chan ch).state ≠ .powerdown →
      (∀ r p, chooseSlot (updateDrain ch (moveDrift ch s)) ch slot.busy = .refPb r p → Answers (.schedulerSlot ch slot) s fun t =>
        Within [.flds, .chans] s t ∧ ((t.chan ch).rk r).credit = min 64 (((s.chan ch).rk r).credit + 1) ∧
        (((s.chan ch).rk r).held = some p → ((t.chan ch).rk r).held = none) ∧ ((t.chan ch).rk r).lastRef = s.now ∧
        ∀ e ∈ (t.chan ch).openRow, e.1 ∉ pairBanks r p) ∧
      (∀ r limit, chooseSlot (updateDrain ch (moveDrift ch s)) ch slot.busy = .refAb r limit → Answers (.schedulerSlot ch slot) s fun t =>
        Within [.hdrs, .flds, .chans, .vecs] s t ∧ ((t.chan ch).rk r).credit = min 64 (((s.chan ch).rk r).credit + 8) ∧
        ((t.chan ch).rk r).round = [] ∧ ((t.chan ch).rk r).held = none ∧ (limit = true → EventSet t (Pg.ch ch) E.CH_RFINTR) ∧
        ∀ e ∈ (t.chan ch).openRow, e.1 ∉ rankBanks r) ∧
      (∀ r p, chooseSlot (updateDrain ch (moveDrift ch s)) ch slot.busy = .hold r p → Answers (.schedulerSlot ch slot) s fun t =>
        Within [.flds, .chans] s t ∧ (((t.chan ch).rk r).held = some p ∨
          ((t.chan ch).rk r).held = none ∧
            ((t.chan ch).rk r).credit = min 64 (((s.chan ch).rk r).credit + if p = 8 then 8 else 1))) ∧
      (∀ b, chooseSlot (updateDrain ch (moveDrift ch s)) ch slot.busy = .rfm b → Answers (.schedulerSlot ch slot) s fun t =>
        Within [.flds, .chans] s t ∧ (t.chan ch).rq = (s.chan ch).rq ∧ (t.chan ch).wq = (s.chan ch).wq ∧
        ∀ e ∈ (t.chan ch).openRow, e.1 ≠ b) ∧
      (∀ act, chooseSlot (updateDrain ch (moveDrift ch s)) ch slot.busy = .bg act → Answers (.schedulerSlot ch slot) s fun t =>
        (∀ d ∈ (t.chan ch).due, d.1 ≠ act) ∧ act ∉ (t.chan ch).urgent ∧
        (act = .snap → fget t (Pg.ch ch) F.CH_SNEP_EPOCH = s.merid.epoch.toNat)) ∧
      (chooseSlot (updateDrain ch (moveDrift ch s)) ch slot.busy = .none → Answers (.schedulerSlot ch slot) s fun t =>
        Within [.flds, .chans] s t ∧ (t.chan ch).rq = (s.chan ch).rq ∧ (t.chan ch).wq = (s.chan ch).wq)) ∧
    (slot.parity = false → slot.tableParity = false → (s.chan ch).state = .powerdown →
      (∀ r p, downSlot s ch slot.busy = .refPb r p → Answers (.schedulerSlot ch slot) s fun t => Within [.chans] s t ∧
        ((t.chan ch).rk r).credit = min 64 (((s.chan ch).rk r).credit + 1) ∧ ((t.chan ch).rk r).lastRef = s.now ∧
        ((s.chan ch).ops = [] → (t.chan ch).state = .powerdown)) ∧
      (downSlot s ch slot.busy = .none → (s.chan ch).ops = [] → Answers (.schedulerSlot ch slot) s fun t => t = s)) ∧
    ((slot.parity || slot.tableParity) = true → chPresent s ch = true → chFailed s ch = false →
      (inSafe s = false → Answers (.schedulerSlot ch slot) s fun t =>
        Within [.hdrs, .flds, .links, .accs, .commits, .chans, .regions, .queues, .jobs, .bells, .vecs, .groups, .pll, .ring, .safe] s t ∧
        (t.chan ch).state = .failed ∧ EventSet t (Pg.ch ch) E.CH_FAIL) ∧
      (inSafe s = true → Answers (.schedulerSlot ch slot) s fun t => Within [.hdrs, .vecs, .safe] s t)))

/-- PHY_FAULT (R9, R230): a present channel fails: its state is FAILED with the event FAIL, its reads leave the queue and its queued writes stay for its
return; the host reads outside king-post regions that waited for it end; no channel that is not being trained with it changes. In SAFE the fault is
only logged. Refresh and the background of a channel whose controller runs: a tick takes one credit every tREFIpb (R216, R219), an activity becomes
due at its period and urgent once its slack is over (R221), an MR4 read gives the multiplier and HOT at 0.25 (R219), a pass that overruns sets
SCRUB_LATE once (R224). (The model's choices and readings here: log 2, 9.) -/
def Obligations.ChannelsFailAndComeDue : Prop :=
  (∀ (s : State) (ch : Fin 64) (canDrive : Bool), chPresent s ch = true → chFailed s ch = false →
    (inSafe s = false → Answers (.phyFault ch canDrive) s fun t =>
      Within [.hdrs, .flds, .links, .accs, .commits, .chans, .regions, .queues, .jobs, .bells, .vecs, .groups, .pll, .ring, .safe] s t ∧
      (t.chan ch).state = .failed ∧ (t.chan ch).rq = [] ∧ (t.chan ch).wq = (s.chan ch).wq ∧ (t.chan ch).canDrive = canDrive ∧
      EventSet t (Pg.ch ch) E.CH_FAIL ∧ ((s.chan ch).camp = none → ∀ c, c ≠ ch.val → t.chan c = s.chan c) ∧
      (∀ a ∈ s.accs, a.kp = false → a.src.port.isSome = true → queuedIn s ch a = true → ∀ b ∈ t.accs, b.id ≠ a.id) ∧
      ∀ rn ∈ s.regions.map (·.1), (s.region rn).en = true → (s.region rn).kp = true → (s.region rn).kpState = .dual →
        (ch.val ∈ resChans s (s.region rn) false ∨ ch.val ∈ resChans s (s.region rn) true) → (t.region rn).kpState = .single ∨
          (t.region rn).en = false) ∧
    (inSafe s = true → Answers (.phyFault ch canDrive) s fun t => Within [.hdrs, .vecs, .safe] s t)) ∧
  (∀ (s : State) (ch : Fin 64), chRuns s ch = true →
    (∀ rank : Fin 2, rank.val < (s.chan ch).ranks → Answers (.refreshTick ch rank) s fun t => Within [.now, .chans, .time] s t ∧
      ((t.chan ch).rk rank).credit = max (-64) (((s.chan ch).rk rank).credit - 1) ∧ (t.chan ch).rq = (s.chan ch).rq ∧
      ((s.chan ch).rk rank).lastTick + refPeriod ((s.chan ch).rk rank) ≤ t.now ∧
      (t.chan ch).wq = (s.chan ch).wq ∧ (∀ r, r ≠ rank.val → (t.chan ch).rk r = (s.chan ch).rk r) ∧
      ∀ c, c ≠ ch.val → t.chan c = s.chan c) ∧
    (∀ act, act ≠ .snap → (act = .scrub → fget s (Pg.ch ch) F.CH_SCRCFG_EN ≠ 0) → Answers (.backgroundDue ch act) s fun t =>
      Within [.now, .chans, .time] s t ∧ (∃ d ∈ (t.chan ch).due, d.1 = act) ∧ dueAt s ch act ≤ t.now ∧
      (∀ d ∈ (s.chan ch).due, d ∈ (t.chan ch).due) ∧ ∀ c, c ≠ ch.val → t.chan c = s.chan c) ∧
    (∀ act d, (s.chan ch).due.find? (fun d => d.1 == act) = some d → Answers (.backgroundSlackOut ch act) s fun t =>
      Within [.now, .chans, .time] s t ∧ act ∈ (t.chan ch).urgent ∧ slackEnd s ch act d.2 ≤ t.now) ∧
    (∀ (rank : Fin 2) (mult : RefMult), Answers (.mr4ReadDone ch rank mult) s fun t => Within [.hdrs, .chans, .vecs] s t ∧
      t.chan ch = { (s.chan ch) with rank := tset (s.chan ch).rank rank { ((s.chan ch).rk rank) with mult := mult } } ∧
      (mult = .quarter → EventSet t (Pg.ch ch) E.CH_HOT) ∧ (mult ≠ .quarter → t.hdrs = s.hdrs ∧ t.vecs = s.vecs)) ∧
    ((s.chan ch).scrubLate = false → fget s (Pg.ch ch) F.CH_SCRCFG_EN ≠ 0 → Answers (.scrubPassDeadline ch) s fun t =>
      Within [.now, .hdrs, .chans, .vecs, .time] s t ∧ EventSet t (Pg.ch ch) E.CH_SCRUB_LATE ∧ (t.chan ch).scrubLate = true ∧
      paceTime s ch (max 1 (scrubLines (s.chan ch))) ≤ t.now) ∧
    ((s.chan ch).scrubLate = true ∨ fget s (Pg.ch ch) F.CH_SCRCFG_EN = 0 → Answers (.scrubPassDeadline ch) s fun t => t = s))

/-- Tracking, telemetry, power-down and row repair of a channel (R221, R223, R226, R228, R229): a drift below OSCTHR changes nothing, one up to TRKMAX
makes the next slot move the read and write DQ delays (log 12), a larger one stops the channel in TRACKING, and the measurement that ends self-refresh
exit opens the channel; SNAP makes a snapshot due; a channel powers down when it is idle or when the power state asks for it, its open rows as they
are; the oldest candidate row is given a free spare row, its lines are copied one by one, each lying in the spare row from then on, and the redirect
is valid when the copy is done. (The model's choices and readings here: log 9, 12, 94, 95.) -/
def Obligations.ChannelsTrackAndRepair : Prop :=
  ∀ (s : State) (ch : Fin 64),
    (∀ drift : Int, chRuns s ch = true → (s.chan ch).exiting = false →
      (drift.natAbs < fget s (Pg.ch ch) F.CH_CALCFG_OSCTHR → drift.natAbs ≤ fget s (Pg.ch ch) F.CH_CALCFG_TRKMAX →
        Answers (.oscMeasureDone ch drift) s fun t => t = s) ∧
      (fget s (Pg.ch ch) F.CH_CALCFG_OSCTHR ≤ drift.natAbs → drift.natAbs ≤ fget s (Pg.ch ch) F.CH_CALCFG_TRKMAX →
        Answers (.oscMeasureDone ch drift) s fun t => Within [.chans] s t ∧
          t.chan ch = { (s.chan ch) with drift := driftSteps (s.chan ch).rate drift }) ∧
      (fget s (Pg.ch ch) F.CH_CALCFG_TRKMAX < drift.natAbs → Answers (.oscMeasureDone ch drift) s fun t =>
        Within [.hdrs, .chans, .regions, .vecs] s t ∧ t.chan ch = { (s.chan ch) with state := .tracking } ∧
        EventSet t (Pg.ch ch) E.CH_TRACK)) ∧
    (∀ slot : SlotIn, slot.parity = false → slot.tableParity = false → chRuns s ch = true → (s.chan ch).state ≠ .powerdown → (s.chan ch).drift ≠ 0 → Answers (.schedulerSlot ch slot) s fun t =>
      (t.chan ch).drift = 0 ∧ (t.chan ch).delays = (moveDelays (s.chan ch).drift (s.chan ch)).delays) ∧
    (∀ drift : Int, (s.chan ch).exiting = true → drift.natAbs < fget s (Pg.ch ch) F.CH_CALCFG_OSCTHR →
      drift.natAbs ≤ fget s (Pg.ch ch) F.CH_CALCFG_TRKMAX → Answers (.oscMeasureDone ch drift) s fun t =>
        Within [.now, .chans, .time] s t ∧ (t.chan ch).state = .ready ∧ (t.chan ch).exiting = false ∧
        ∀ r < (s.chan ch).ranks, ((t.chan ch).rk r).credit = 0) ∧
    (∀ src, mayWrite s src (Pg.ch ch) F.CH_CCMD_SNAP.off = true → Answers (.telemetrySnap src ch) s fun t =>
      let s := wakeFor src (Pg.ch ch) s
      Within [.chans] s t ∧ (∃ d ∈ (t.chan ch).due, d.1 = .snap) ∧ ∀ c, c ≠ ch.val → t.chan c = s.chan c) ∧
    ((s.chan ch).state = .ready → askedDown s = true → chIdle (s.chan ch) = true → Answers (.powerdownEntry ch) s fun t =>
      Within [.chans] s t ∧ (t.chan ch).state = .powerdown ∧ (t.chan ch).openRow = (s.chan ch).openRow) ∧
    ((s.chan ch).state = .ready → askedDown s = false → mayPowerDown (s.chan ch) = true → fget s (Pg.ch ch) F.CH_PDCFG_IDLE ≠ 0 →
      Answers (.powerdownEntry ch) s fun t =>
        Within [.now, .chans, .time] s t ∧ (t.chan ch).state = .powerdown ∧ (t.chan ch).openRow = (s.chan ch).openRow ∧
        (s.chan ch).idleSince + fget s (Pg.ch ch) F.CH_PDCFG_IDLE * ckUnits (s.chan ch).rate ≤ t.now) ∧
    (∀ errs, coreRuns s = true → inSafe s = false → chRuns s ch = true →
      (∀ row rest entry spare, (s.chan ch).cands = row :: rest → (s.chan ch).rowCopy = none →
        fget s (Pg.ch ch) F.CH_ECFG_AUTORD ≠ 0 → freeRedirect (s.chan ch) = some (entry, spare) →
        Answers (.rowRedirect ch errs) s fun t => Within [.chans] s t ∧ (t.chan ch).cands = rest ∧
          (t.chan ch).rowCopy = some { entry := entry, rank := row / 16 % 2, bank := row % 16, row := row / 32, next := 0 } ∧
          tget {} (t.chan ch).red entry = { spare := spare, rank := row / 16 % 2, bank := row % 16, row := row / 32 }) ∧
      (∀ rc n, (s.chan ch).rowCopy = some rc → rc.next < 32 →
        n = rowFirstLine (s.chan ch).ranks (rc.row * 32 + rc.rank * 16 + rc.bank) + rc.next → n < 64 * (s.chan ch).ublk →
        (s.chan ch).ops.any (fun x => !x.side && x.e.n == n) = false → writeFits s ch n 1 .bulk = true →
        readFree s ch .bulk 1 = true → (s.chan ch).cacheReach false (checkLine (s.chan ch) n) .bulk = true → errs = [] →
        (∀ m, decodeLine m n (lineData s ch n) (lineChk s ch n) = .clean) →
        Answers (.rowRedirect ch errs) s fun t => Within [.chans, .nextId] s t ∧
          (t.chan ch).rowCopy = some { rc with next := rc.next + 1 } ∧
          currentLine t ch n = (padTo 64 (lineData s ch n), lineCheck n (lineData s ch n)))) ∧
    (∀ rc, (s.chan ch).rowCopy = some rc →
      (32 ≤ rc.next → Answers (.redirectDone ch) s fun t => Within [.hdrs, .chans, .vecs, .boot] s t ∧
        (t.chan ch).rowCopy = none ∧ (tget {} (t.chan ch).red rc.entry).valid = true ∧ (tget {} (t.chan ch).red rc.entry).pend = true ∧
        (tget {} (t.chan ch).red rc.entry).spare = (tget {} (s.chan ch).red rc.entry).spare ∧ EventSet t (Pg.ch ch) E.CH_RD_NEW ∧
        t.boot.almWant = true) ∧
      (rc.next < 32 → Answers (.redirectDone ch) s fun t => t = s))

/-! ### Epochs, pulses and regions -/

/-- MERIDIAN_PULSE (R26, R298, R299, R434): at a CK_CORE boundary the epoch moves to the next number, a member's to the domain's unless that lies behind
its own and EPADOPT has not asked for it; GUARD and BLANK take effect, the event PULSE is set and the sixteen epoch vectors are triggered. Without a
schedule no pulse comes. BLANKING_WINDOW_OPEN (R434): with BLANK in force and pulses coming, the blanking window opens. (The model's choices and
readings here: log 2, 57.) -/
def Obligations.PulsesAndBlanking : Prop :=
  (∀ s : State, (nextPulse s = none → Answers .meridianPulse s fun t => t = s) ∧
    ∀ pt k, nextPulse s = some (pt, k) → Answers .meridianPulse s fun t =>
      t.now % 32 = 0 ∧ t.merid.lastPulse = some t.now ∧ t.merid.pulses = s.merid.pulses + 1 ∧
      t.merid.epoch = (if isMaster s then s.merid.epoch + 1
        else if (k - (s.merid.epoch + 1)).toNat < 2 ^ 31 ∨ s.time.adopt = true then k else s.merid.epoch + 1) ∧
      t.merid.guardNow = fget s Pg.epch F.EPCH_GUARD_US ∧ t.merid.blankNow = fget s Pg.epch F.EPCH_BLANK_US ∧
      Within [.now, .hdrs, .flds, .links, .accs, .nextId, .commits, .chans, .recs, .regions, .queues, .jobs, .bells, .vecs, .groups, .merid, .pll,
        .time, .ring] s t ∧
      EventSet t Pg.epch E.EPCH_PULSE ∧ (∀ p < 16, (t.vec (256 + p)).pending = true) ∧
      (inSafe s = true ∨ s.boot.warm = true → ¬(s.ring.ho.sender = true ∧ s.ring.ho.pulse.isSome = true) → s.ring.ho.state ≠ .receiving →
        ∀ rn i, ((t.region rn).cp i).role = ((s.region rn).cp i).role)) ∧
  (∀ (s : State) (pt : BitVec 64) (k : Word), nextPulse s = some (pt, k) → s.merid.blankNow ≠ 0 → s.merid.inBlank = false →
    Answers .blankingWindowOpen s fun t => Within [.now, .hdrs, .flds, .vecs, .merid, .pll, .time] s t ∧
      t.merid = { s.merid with inBlank := true, openedAt := t.now })

/-- One region at a pulse (R53, R54): the newest eligible pending copy becomes visible, the copy visible before and every older pending copy become idle;
where none is eligible every copy keeps its role, no record changes, and each copy that misses its first pulse is marked late, with the event LATE. -/
def Obligations.FlipsShowTheNewest : Prop :=
  ∀ (s : State) (epoch : Word) (rn : Nat), (s.region rn).en = true → (s.region rn).buffered = true →
    (∀ i, ((s.region rn).pendings.filter (eligible s (s.region rn))).getLast? = some i →
      (((flipRegion epoch rn s).region rn).cp i).role = .visible ∧
      (i ≠ (s.region rn).vis → (((flipRegion epoch rn s).region rn).cp (s.region rn).vis).role = .idle) ∧
      (∀ j ∈ (s.region rn).pendings, j ≠ i → ((s.region rn).cp j).ord.getD 0 < ((s.region rn).cp i).ord.getD 0 →
        (((flipRegion epoch rn s).region rn).cp j).role = .idle)) ∧
    ((s.region rn).pendings.filter (eligible s (s.region rn)) = [] →
      (∀ j, (((flipRegion epoch rn s).region rn).cp j).role = ((s.region rn).cp j).role) ∧
      (flipRegion epoch rn s).recs = s.recs ∧
      (∀ j ∈ (s.region rn).pendings, ((s.region rn).cp j).late = false →
        (((flipRegion epoch rn s).region rn).cp j).late = true ∧ EventSet (flipRegion epoch rn s) Pg.rgn E.RGN_LATE))

/-- RGN.RCMD (R40 to R42): ENABLE of a region that meets the conditions enables it with copy 0 visible, the others idle and its walk to do, and otherwise
sets CFGERR and changes no region; DISABLE drops its copies and its commits, accesses that wait for it end, and queues with a ring in it stop. No
other region changes. INIT_DONE (R41): the walk of an enabled region ends: every line of every block of it reads as zeros with its true check bytes,
also where a write to it is still queued, its records are ANCIENT with empty maps, and no other block of any channel changes. Channels with redirected
rows, and places that no line has, are left out of what the statement says of the bytes. SLOT_TABLE_BUILD (R35, R239, Table 2-9): in the DRAM state,
once the start-up training of every channel has ended, the management core takes the channels that answered as present, builds the slot table from
them and goes on to the links; RESERVE is held to what the smallest channel can give. KP_RESYNC_DONE (R67): the copy of the footprint that was out of
service goes on while the queues take its lines, each reading like the good footprint's from then on, and the record of each block; with nothing left
the region is DUAL again. No byte stored changes before a line drains. (The model's choices and readings here: log 3, 5, 76.) -/
def Obligations.RegionsAreEnabledWalkedAndLaidOut : Prop :=
  (∀ (s : State) (src : Src),
    (mayWrite s src Pg.rgn F.RGN_RCMD_ENABLE.off = true →
      ((s.region (selRegion s)).en = false → enableOk s (selRegion s) = true → Answers (.regionEnable src) s fun t =>
        Within [.hdrs, .regions, .vecs] s t ∧ (t.region (selRegion s)).en = true ∧ (t.region (selRegion s)).init = true ∧
        (t.region (selRegion s)).cps = freshCopies (s.region (selRegion s)).copies ∧ (t.region (selRegion s)).frame = none ∧
        ∀ r, r ≠ selRegion s → t.region r = s.region r) ∧
      ((s.region (selRegion s)).en = true ∨ enableOk s (selRegion s) = false → Answers (.regionEnable src) s fun t =>
        Within [.hdrs, .vecs] s t ∧ EventSet t Pg.rgn E.RGN_CFGERR)) ∧
    (mayWrite s src Pg.rgn F.RGN_RCMD_DISABLE.off = true → (s.region (selRegion s)).en = true →
      Answers (.regionDisable src) s fun t =>
        Within [.hdrs, .flds, .links, .accs, .commits, .regions, .queues, .jobs, .bells, .vecs, .ring] s t ∧
        (t.region (selRegion s)).en = false ∧ (t.region (selRegion s)).cps = [] ∧ (∀ r, r ≠ selRegion s → t.region r = s.region r) ∧
        (∀ c ∈ t.commits, c.region ≠ selRegion s) ∧ (∀ a ∈ t.accs, a.region = selRegion s → a.phase ≠ .waiting) ∧
        (inSafe s = false → ∀ q ∈ s.queues.map (·.1), (s.queue q).state ≠ .disabled →
          ringRegion s q F.WQ_QBASE_BLOCK = some (selRegion s) ∨ ringRegion s q F.WQ_QCBASE_BLOCK = some (selRegion s) →
          (t.queue q).state = .error ∧ (t.queue q).cause = 2))) ∧
  (∀ (s : State) (rn : Fin 256), (s.region rn).en = true → (s.region rn).init = true → inSafe s = false → s.boot.warm = false →
    ((s.region rn).feet.all fun m => if (s.region rn).inReserve then (resChans s (s.region rn) m).any (chHolds s)
      else (presentList s).any fun c => chHolds s c && !chFailed s c) = false →
    (s.chans.any fun e => e.2.rq.any fun q => (s.region rn).holds s e.1 (q.n / 64)) = false →
    Answers (.initDone rn) s fun t => Within [.hdrs, .chans, .mem, .recs, .regions, .vecs, .groups] s t ∧ EventSet t Pg.rgn E.RGN_INIT_DONE ∧
      t.region rn = { (s.region rn) with init := false } ∧ (∀ r, r ≠ rn.val → t.region r = s.region r) ∧
      ((∀ c, redirects (s.chan c) = []) → (∀ l ∈ listedAll s, l.2 < 2 ^ 27) → (∀ e ∈ s.recs, e.1 < 2 ^ 27) → ∀ c u, u < 2 ^ 21 →
        ((s.region rn).holds s c u = true → t.brec c u = {} ∧ ∀ n < 64,
          currentLine t c (64 * u + n) = (List.replicate 64 0, padTo 4 (lineCheck (64 * u + n) []))) ∧
        ((s.region rn).holds s c u = false → t.brec c u = s.brec c u ∧ ∀ n < 64,
          currentLine t c (64 * u + n) = currentLine s c (64 * u + n)))) ∧
  (∀ s : State, coreRuns s = true → s.boot.state = .dram → (∀ c < 64, startupOver s c = true) →
    s.chans.any (fun c => c.2.camp.isSome) = false →
    Answers .slotTableBuild s fun t =>
      Within [.hdrs, .flds, .links, .accs, .commits, .chans, .regions, .slots, .built, .queues, .jobs, .bells, .vecs, .ring, .boot] s t ∧
      t.built = true ∧ t.boot.state = .links ∧ (∀ c, (t.chan c).present = (s.chan c).answered) ∧ t.slots = slotsOf t ∧
      fget t Pg.rgn F.RGN_SPLIT_RESERVE ≤ uMin t / 512) ∧
  (∀ (s : State) (rn : Fin 256) (bad : List (Nat × Nat)), (s.region rn).en = true → (s.region rn).kpState = .resync → inSafe s = false →
    (resChans s (s.region rn) false ++ resChans s (s.region rn) true).any (chHolds s) = false →
    (Answers (.kpResyncDone rn bad) s fun t => KeepsBytes s t) ∧
    ((s.region rn).toCopy = some [] → Answers (.kpResyncDone rn bad) s fun t => Within [.regions] s t ∧
      t.region rn = { (s.region rn) with kpState := .dual, toCopy := none } ∧ ∀ r, r ≠ rn.val → t.region r = s.region r) ∧
    (∀ l, (s.region rn).toCopy = some [l] → l.2.2 ≠ 64 →
      let x := resyncCopy s (s.region rn) bad l
      (x.can s = false → Answers (.kpResyncDone rn bad) s fun t => Within [.flds, .chans] s t) ∧
      (x.can s = true → x.bad = false → ∀ d, (∀ p ∈ x.src, chFailed s p.1 = false →
          lineData s p.1 p.2 = d ∧ decodeLine (detectMode s p.1 true) p.2 (lineData s p.1 p.2) (lineChk s p.1 p.2) = .clean) →
        Answers (.kpResyncDone rn bad) s fun t => (t.region rn).kpState = .dual ∧
          ∀ p ∈ x.dst, currentLine t p.1 p.2 = (padTo 64 d, lineCheck p.2 d))) ∧
    (∀ l, (s.region rn).toCopy = some [l] → l.2.2 = 64 → (∀ c, (s.chan c).rowCopy = none) →
      let a := regionLoc s (s.region rn) (!(s.region rn).kpLost) l.1 l.2.1
      let b := regionLoc s (s.region rn) (s.region rn).kpLost l.1 l.2.1
      (s.chan a.1).cacheReach true (recLine (s.chan a.1) a.2) .bulk = true →
      (s.chan b.1).cacheReach true (recLine (s.chan b.1) b.2) .bulk = true →
      Answers (.kpResyncDone rn bad) s fun t => Within [.chans, .recs, .regions] s t ∧ (t.region rn).kpState = .dual ∧
        t.brec b.1 b.2 = s.brec a.1 a.2))

/-! ### Vectors -/

/-- Interrupt vectors (R167, R168, R171): a vector that may send puts its message into its port's queue and is no longer PENDING; one that waits for a
port that is not ACTIVE stays PENDING and is reported once in WAITPORT; the end of HOLD lets it go; FIRE triggers the selected vector and CLRPEND
forgets its trigger. (The model's choices and readings here: log 45, 70.) -/
def Obligations.VectorsSend : Prop :=
  ∀ (s : State),
    (∀ v : Fin 512, maySend s v = true → Answers (.irqSend v) s fun t => Within [.links, .vecs] s t ∧
      t.vec v = { (s.vec v) with
        pending := false, gather := 0, inflight := true, kp := false, heldSince := none, holdDone := false, again := false, waited := false } ∧
      (∀ w, w ≠ v.val → t.vec w = s.vec w) ∧ OtherLinks [(s.vec v).dport] s t ∧
      Queued (s.vec v).dport (.irq v (s.vec v).kp) (irqHdr v (s.vec v)) (if (s.vec v).timev then List.replicate 16 0 else []) s t) ∧
    (∀ v : Fin 512, maySend s v = false → Answers (.irqSend v) s fun t => Within [.hdrs, .vecs] s t ∧
      ((s.vec v).pending = true → (t.vec v).pending = true) ∧ (v.val ≠ 391 → (t.vec v).pending = (s.vec v).pending) ∧
      (waitsForPort s v = true → EventSet t Pg.vec E.VEC_WAITPORT ∧ (t.vec v).waited = true)) ∧
    (∀ (v : Fin 512) (h : Nat), (s.vec v).heldSince = some h → Answers (.holdExpire v) s fun t => Within [.now, .vecs, .time] s t ∧
      t.vec v = { (s.vec v) with holdDone := true } ∧ h + us (s.vec v).hold ≤ t.now ∧ ∀ w, w ≠ v.val → t.vec w = s.vec w) ∧
    (∀ src, mayWrite s src Pg.vec F.VEC_VCMD_FIRE.off = true → Answers (.vectorFire src) s fun t => Within [.hdrs, .vecs] s t ∧
      (t.vec (selVec s)).pending = true ∧ (selVec s ≠ 391 → (t.vec (selVec s)).gather = min 255 ((s.vec (selVec s)).gather + 1)) ∧
      ∀ w, w ≠ selVec s → w ≠ 391 → t.vec w = s.vec w) ∧
    (∀ src, mayWrite s src Pg.vec F.VEC_VCMD_CLRPEND.off = true → Answers (.vectorClrpend src) s fun t => Within [.vecs] s t ∧
      t.vec (selVec s) = { (s.vec (selVec s)) with
        pending := false, gather := 0, kp := false, heldSince := none, holdDone := false, again := false, waited := false } ∧
      ∀ w, w ≠ selVec s → t.vec w = s.vec w)

/-! ### Work queues -/

/-- The registers of a work queue out of SAFE (R148, R150, R151, R164): QPIDX moves PIDX or, with too many descriptors, stops the queue with cause 1;
ENABLE starts a queue whose rings are in order, refuses it with cause 4 otherwise, waits for earlier work, and does nothing to a running queue;
DISABLE drains; ABORT discards what has not ended, but for an accepted commit, and drains; configuration is written only while the queue is DISABLED.
(The model's choices and readings here: log 37, 44, 75.) -/
def Obligations.QueuesAreControlled : Prop :=
  ∀ (s : State) (src : Src) (q : Fin 256), inSafe s = false →
    (∀ pidx, mayWrite s src (Pg.wq q) (qOff q 0x110) = true → (∀ p, src = .host p → qget s q F.WQ_QCFG_OWNER = p.val) →
      (s.queue q).state = .run → pidx ≠ (s.queue q).pidx →
      ((pidx - (s.queue q).retired).toNat ≤ 2 ^ qget s q F.WQ_QCFG_SIZE → (pidx - (s.queue q).pidx).toNat ≤ 2 ^ qget s q F.WQ_QCFG_SIZE →
        Answers (.qpidxWrite src q pidx) s fun t => Within [.queues] s t ∧ t.queue q = { (s.queue q) with pidx := pidx } ∧
          ∀ j, j ≠ q.val → t.queue j = s.queue j) ∧
      (2 ^ qget s q F.WQ_QCFG_SIZE < (pidx - (s.queue q).retired).toNat ∨
          2 ^ qget s q F.WQ_QCFG_SIZE < (pidx - (s.queue q).pidx).toNat →
        Answers (.qpidxWrite src q pidx) s fun t => Within [.hdrs, .queues, .vecs] s t ∧
          t.queue q = { (s.queue q) with state := .error, cause := 1 } ∧ EventSet t (Pg.wq q) (q.val % 16))) ∧
    (mayWrite s src (Pg.wq q) (qOff q 0x10C) = true →
      ((s.queue q).state = .run ∨ (s.queue q).state = .draining → Answers (.queueEnable src q) s fun t => t = s) ∧
      ((s.queue q).state = .disabled ∨ (s.queue q).state = .error →
        (queueIdle s q = true → ringsOk s q = true → Answers (.queueEnable src q) s fun t => Within [.queues, .accs, .regions] s t ∧
          t.queue q = { state := .run } ∧ ∀ j, j ≠ q.val → t.queue j = s.queue j) ∧
        (queueIdle s q = true → ringsOk s q = false → Answers (.queueEnable src q) s fun t => Within [.hdrs, .queues, .vecs] s t ∧
          (t.queue q).state = .disabled ∧ (t.queue q).cause = 4 ∧ EventSet t (Pg.wq q) (q.val % 16)) ∧
        (queueIdle s q = false → Answers (.queueEnable src q) s fun t => Within [.queues] s t ∧
          t.queue q = { (s.queue q) with heldEnable := true })) ∧
      ((s.queue q).state ≠ .disabled → Answers (.queueDisable src q) s fun t => Within [.queues] s t ∧
        t.queue q = { (s.queue q) with state := if queueIdle s q then .disabled else .draining, fetched := [], heldEnable := false } ∧
        ∀ j, j ≠ q.val → t.queue j = s.queue j) ∧
      ((s.queue q).state ≠ .disabled → Answers (.queueAbort src q) s fun t =>
        Within [.accs, .commits, .regions, .queues, .jobs, .groups] s t ∧
        t.queue q = { (s.queue q) with state := if queueIdle s q then .disabled else .draining, fetched := [], heldEnable := false } ∧
        (∀ j, j ≠ q.val → t.queue j = s.queue j) ∧
        ∀ j, s.jobs.filter (fun i => i.is q j.idx.toNat) = [j] → j.fin = none → j.recorded = false →
          commitTaken s q j.idx.toNat = false →
          ∃ i ∈ t.jobs, i.is q j.idx.toNat = true ∧ i.fin = some (2, 0) ∧ i.pins = [])) ∧
    (∀ reg val, mayWrite s src (Pg.wq q) (cfgOff q reg) = true → sealStops s src (Pg.wq q) (cfgOff q reg) val = false →
      ((s.queue q).state = .disabled → Answers (.queueConfigWrite src q reg val) s fun t => Within [.flds] s t ∧
        (∀ f ∈ cfgFields reg, qget t q f = ext val.toNat f.lo f.w) ∧
        OtherFields (Pg.wq q) ((cfgFields reg).map (qfld q)) s t) ∧
      ((s.queue q).state ≠ .disabled → Answers (.queueConfigWrite src q reg val) s fun t => Within [.hdrs, .queues, .vecs] s t ∧
        t.queue q = { (s.queue q) with cause := 5 } ∧ EventSet t (Pg.wq q) (q.val % 16))) ∧
    (queueIdle s q = true →
      ((s.queue q).heldEnable = false → (s.queue q).state = .draining → Answers (.queueDrained q) s fun t => Within [.queues] s t ∧
        t.queue q = { (s.queue q) with state := .disabled }) ∧
      ((s.queue q).heldEnable = true → ringsOk s q = true → Answers (.queueDrained q) s fun t => Within [.queues, .accs, .regions] s t ∧
        t.queue q = { state := .run }))

/-- A descriptor on its way (R152 to R163): a read of its 64 bytes is asked for, and its data fetch it, or a poisoned fetch gives it the status POISONED;
in its turn it takes a job slot and its recipe, and starts with the visible copies pinned or ends with what Table 5-1 refuses; when its work is done
its record is made, or the queue enters ERROR where the record cannot be admitted; and when the record passes its ordering point it is stored, RETIRED
moves on and the queue's vector is triggered. (The model's choices and readings here: log 42, 43, 44, 107.) -/
def Obligations.DescriptorsRun : Prop :=
  ∀ (s : State) (q : Fin 256), inSafe s = false →
    (∀ errs rn r, (s.queue q).state = .run → (s.queue q).fetch ≠ (s.queue q).pidx → readsOf s (.descr q) = [] →
      regionOf s (slotAddr s q F.WQ_QBASE_BLOCK (s.queue q).fetch) = some (rn, r) →
      Answers (.descriptorFetch q errs) s fun t => Within [.accs, .nextId] s t ∧
        ∃ a, t.accs = s.accs ++ [a] ∧ a.src = .descr q ∧ a.write = false ∧ a.lines = 1 ∧ a.region = rn ∧
          a.addr = slotAddr s q F.WQ_QBASE_BLOCK (s.queue q).fetch ∧ (r.kp = false → a.cls = .bulk)) ∧
    (∀ errs a, (readsOf s (.descr q)).head? = some a → unitBack s a = true → unitFits s errs a = true →
      ((takeRead errs a s).queue q).state = .run →
      Answers (.descriptorFetch q errs) s fun t =>
        Within [.hdrs, .flds, .links, .accs, .nextId, .commits, .chans, .recs, .regions, .queues, .bells, .jobs, .vecs, .groups, .pll,
          .ring, .safe] s t ∧
        (∀ b ∈ t.accs, b.id ≠ a.id) ∧ (t.queue q).fetch = ((takeRead errs a s).queue q).fetch + 1 ∧
        (t.queue q).retired = ((takeRead errs a s).queue q).retired ∧
        (∀ d age, unitLine s errs a 0 = .good d age → (t.queue q).fetched = ((takeRead errs a s).queue q).fetched ++
          [{ idx := ((takeRead errs a s).queue q).fetch, bytes := d }]) ∧
        (∀ d, unitLine s errs a 0 = .bad d → (t.queue q).fetched = ((takeRead errs a s).queue q).fetched ∧
          ∃ j ∈ t.jobs, j.queue = q.val ∧ j.idx = ((takeRead errs a s).queue q).fetch ∧ j.fin = some (3, d) ∧ j.recorded = true ∧
            j.slot = false)) ∧
    (∀ f rest, (s.queue q).fetched = f :: rest → nextQueue s (qget s q F.WQ_QCFG_JG) = some q.val →
      Answers (.descriptorStart q) s fun t =>
        Within [.flds, .accs, .nextId, .commits, .chans, .recs, .regions, .queues, .jobs, .groups] s t ∧
        t.queue q = { (s.queue q) with fetched := rest } ∧ (∀ j, j ≠ q.val → t.queue j = s.queue j) ∧
        (∀ st d, startRefused s (qget s q F.WQ_QCFG_OWNER) (qget s q F.WQ_QCFG_JG) f.bytes = some (st, d) →
          Within [.nextId, .queues, .jobs, .groups] s t ∧ ∃ j, t.jobs = s.jobs ++ [j] ∧ j.queue = q.val ∧ j.idx = f.idx ∧
            j.group = qget s q F.WQ_QCFG_JG ∧ j.fin = some (st.code, d) ∧ j.epoch = s.merid.epoch ∧ (d = 0x0D → j.slot = false)) ∧
        (startRefused s (qget s q F.WQ_QCFG_OWNER) (qget s q F.WQ_QCFG_JG) f.bytes = none → leAt f.bytes 0 1 ≠ 4 →
          ∃ j, t.jobs = s.jobs ++ [j] ∧ j.queue = q.val ∧ j.idx = f.idx ∧ j.group = qget s q F.WQ_QCFG_JG ∧ j.bytes = f.bytes ∧
            j.phase = .run ∧ j.fin = none ∧ j.epoch = s.merid.epoch ∧ ∀ p ∈ j.pins, p.2 = (s.region p.1).vis) ∧
        (startRefused s (qget s q F.WQ_QCFG_OWNER) (qget s q F.WQ_QCFG_JG) f.bytes = none → leAt f.bytes 0 1 = 4 →
          epochWaits (dEpoch f.bytes) s.merid.epoch = true → ∃ j, t.jobs = s.jobs ++ [j] ∧ j.queue = q.val ∧ j.idx = f.idx ∧
            j.phase = .waitEpoch ∧ j.fin = none)) ∧
    (∀ (idx : BitVec 16) j, s.jobs.find? (fun i => i.is q idx.toNat) = some j → j.recorded = false → workDone s j = true →
      let put := unitPut (forAll j.pins (fun p => pinCopy p.1 p.2 false) s) (slotAddr s q F.WQ_QCBASE_BLOCK j.idx) 1
        (recordCls (forAll j.pins (fun p => pinCopy p.1 p.2 false) s) q j)
      (put ≠ .failed → put ≠ .noRegion → Answers (.jobComplete q idx) s fun t => Within [.regions, .jobs] s t ∧
        ∃ i ∈ t.jobs, i.is q idx.toNat = true ∧ i.fin = some j.outcome ∧ i.pins = [] ∧
          i.phase = .record (recordBytes j j.outcome.1 j.outcome.2) j.outcome.1) ∧
      (put = .failed → (s.queue q).state ≠ .disabled → Answers (.jobComplete q idx) s fun t =>
        Within [.hdrs, .flds, .regions, .queues, .jobs, .vecs] s t ∧ (∀ i ∈ t.jobs, i.is q idx.toNat = false) ∧
        (t.queue q).state = .error ∧ (t.queue q).cause = 3 ∧ EventSet t (Pg.wq q) (q.val % 16))) ∧
    (∀ (idx : BitVec 16) j bs st cp rn r, s.jobs.find? (fun i => i.is q idx.toNat) = some j → j.phase = .record bs st →
      unitPut s (slotAddr s q F.WQ_QCBASE_BLOCK j.idx) 1 (recordCls s q j) = .taken cp →
      regionOf s (slotAddr s q F.WQ_QCBASE_BLOCK j.idx) = some (rn, r) →
      Answers (.completionRecordPass q idx) s fun t =>
        Within [.hdrs, .flds, .links, .accs, .nextId, .chans, .recs, .regions, .queues, .jobs, .vecs, .groups, .ring] s t ∧
        (∀ i ∈ t.jobs, i.is q idx.toNat = false) ∧
        (∀ f ∈ footLines s (s.region rn) (s.region rn).writeFeet cp (slotAddr s q F.WQ_QCBASE_BLOCK j.idx),
          currentLine t f.2.1 f.2.2 = (padTo 64 bs, lineCheck f.2.2 bs)) ∧
        ((s.queue q).ahead = [] → idx = (s.queue q).retired → (t.queue q).retired = (s.queue q).retired + 1 ∧ (t.queue q).ahead = []) ∧
        ((s.queue q).ahead = [] → idx ≠ (s.queue q).retired →
          (t.queue q).retired = (s.queue q).retired ∧ (t.queue q).ahead = [idx]) ∧
        qget t q F.WQ_QCNT_DONE = min 65535 (qget s q F.WQ_QCNT_DONE + 1) ∧
        (dNoirq j.bytes = false → (t.vec q).pending = true) ∧ (st = 2 → EventSet t (Pg.wq q) (16 + q.val % 16)))

/-- MOVE_PIECE (R69, R156, R159): the next piece of a FILL, and that of a COPY once the read of its source is back, is admitted whole: each of its lines
reads back in the destination from then on, a poisoned source line as poison and a FILL line as its pattern, and the descriptor goes on behind it. The
source of a COPY is read in the copy and the epoch that the descriptor chose. A piece waits for room in the destination's channels; one with no
writable copy is lost, and one whose channels have failed is POISONED, and the descriptor goes on. (The model's choices and readings here: log 42.) -/
def Obligations.MovesAdmitWholePieces : Prop :=
  ∀ (s : State) (q : Fin 256) (idx : BitVec 16) (errs : List RdErr) (j : Job),
    s.jobs.find? (fun i => i.is q idx.toNat) = some j → inSafe s = false → j.fin = none → j.recorded = false →
    pieceLines j ≠ 0 → (s.group j.group).state = .inService →
    (∀ cp rn r, j.dtype = 3 → unitPut s (dDst j.bytes + 64 * j.nextChunk) (pieceLines j) j.cls = .taken cp →
      regionOf s (dDst j.bytes + 64 * j.nextChunk) = some (rn, r) →
      Answers (.movePiece q idx errs) s fun t =>
        Within [.links, .accs, .nextId, .chans, .recs, .regions, .jobs, .groups, .ring] s t ∧
        (∃ i ∈ t.jobs, i.is q idx.toNat = true ∧ i.nextChunk = j.nextChunk + pieceLines j ∧ i.done = j.done + pieceLines j) ∧
        ∀ f ∈ footLines s (s.region rn) (s.region rn).writeFeet cp (dDst j.bytes + 64 * j.nextChunk), ∀ i < pieceLines j,
          currentLine t f.2.1 (f.2.2 + i) = (padTo 64 (List.replicate 16 (dPattern j.bytes)).flatten,
            lineCheck (f.2.2 + i) (List.replicate 16 (dPattern j.bytes)).flatten)) ∧
    (j.dtype = 3 → unitPut s (dDst j.bytes + 64 * j.nextChunk) (pieceLines j) j.cls = .wait →
      Answers (.movePiece q idx errs) s fun t => Within [.jobs] s t ∧
        ∃ i ∈ t.jobs, i.is q idx.toNat = true ∧ i.nextChunk = j.nextChunk ∧ i.waitOn = putChans s (dDst j.bytes + 64 * j.nextChunk)) ∧
    (j.dtype = 3 → unitPut s (dDst j.bytes + 64 * j.nextChunk) (pieceLines j) j.cls = .noCopy →
      Answers (.movePiece q idx errs) s fun t => Within [.jobs] s t ∧
        ∃ i ∈ t.jobs, i.is q idx.toNat = true ∧ i.nextChunk = j.nextChunk + pieceLines j ∧ i.done = j.done ∧ i.lost = true) ∧
    (j.dtype = 3 → unitPut s (dDst j.bytes + 64 * j.nextChunk) (pieceLines j) j.cls = .failed →
      Answers (.movePiece q idx errs) s fun t => Within [.jobs] s t ∧
        ∃ i ∈ t.jobs, i.is q idx.toNat = true ∧ i.nextChunk = j.nextChunk + pieceLines j ∧ i.done = j.done ∧ i.pois.isSome = true) ∧
    (j.dtype = 2 → readsOf s (.move q idx.toNat) = [] → Answers (.movePiece q idx errs) s fun t => Within [.accs, .nextId] s t ∧
      ∃ a, t.accs = s.accs ++ [a] ∧ a.src = .move q idx.toNat ∧ a.write = false ∧ a.addr = dSrc j.bytes + 64 * j.nextChunk ∧
        a.lines = pieceLines j ∧ a.chosen = true ∧ a.epoch = j.epoch ∧ a.copy = j.copyOf s (regionNo s (dSrc j.bytes + 64 * j.nextChunk))) ∧
    (∀ a cp rn r, j.dtype = 2 → (readsOf s (.move q idx.toNat)).head? = some a → unitBack s a = true → unitFits s errs a = true →
      unitPut (takeRead errs a s) (dDst j.bytes + 64 * j.nextChunk) (pieceLines j) j.cls = .taken cp →
      regionOf s (dDst j.bytes + 64 * j.nextChunk) = some (rn, r) → a.lines = pieceLines j →
      Answers (.movePiece q idx errs) s fun t =>
        Within [.hdrs, .flds, .links, .accs, .nextId, .commits, .chans, .recs, .regions, .queues, .bells, .jobs, .vecs, .groups, .pll,
          .ring, .safe] s t ∧
        (∃ i ∈ t.jobs, i.is q idx.toNat = true ∧ i.nextChunk = j.nextChunk + pieceLines j ∧ i.done = j.done + pieceLines j) ∧
        ∀ f ∈ footLines (takeRead errs a s) ((takeRead errs a s).region rn) ((takeRead errs a s).region rn).writeFeet cp
            (dDst j.bytes + 64 * j.nextChunk), ∀ i < pieceLines j, currentLine t f.2.1 (f.2.2 + i) =
          (if (copyPiece s errs j a).poison.getD i false then (padTo 64 [], poisonCheck (f.2.2 + i))
          else (padTo 64 ((copyPiece s errs j a).data.getD i []), lineCheck (f.2.2 + i) ((copyPiece s errs j a).data.getD i []))))

/-! ### Joiner groups -/

/-- R178: a write to TWDATA that the device accepts stores the entry that TWSEL selects, and a read returns that entry; each adds 1 to TWSEL.INDEX,
wrapping from 4,095 to 0 with no change to PRIM or TSET. A window write that R176 refuses stores nothing and leaves INDEX unchanged. A window write
clears the set's bit in TVALID, and a write of 1 to TLCMD.SETV marks set TLCMD.TSET valid. An access of the sideband or the core to a group that
sleeps wakes the device first (wakeFor, R349). -/
def Obligations.TheTableWindow : Prop :=
  ∀ (s : State) (src : Src) (g : Fin 8),
    (mayWrite s src (Pg.jg g) F.JG_TWDATA_ENTRY.off = true →
      (∀ val : Word, setInUse s g (fget s (Pg.jg g) F.JG_TWSEL_TSET) = false → Answers (.twdataWrite src g val) s fun t =>
        let s := wakeFor src (Pg.jg g) s
        Within [.flds, .groups] s t ∧ OtherFields (Pg.jg g) [F.JG_TWSEL_INDEX] s t ∧
        fget t (Pg.jg g) F.JG_TWSEL_INDEX = (fget s (Pg.jg g) F.JG_TWSEL_INDEX + 1) % 4096 ∧
        (t.group g).entry (fget s (Pg.jg g) F.JG_TWSEL_TSET) (fget s (Pg.jg g) F.JG_TWSEL_PRIM) (fget s (Pg.jg g) F.JG_TWSEL_INDEX) =
          val.toNat % 65536 ∧
        (∀ a b e, (a, b, e) ≠ (fget s (Pg.jg g) F.JG_TWSEL_TSET, fget s (Pg.jg g) F.JG_TWSEL_PRIM, fget s (Pg.jg g) F.JG_TWSEL_INDEX) →
          fget s (Pg.jg g) F.JG_TWSEL_PRIM < 4 → fget s (Pg.jg g) F.JG_TWSEL_INDEX < 4096 → b < 4 → e < 4096 →
          (t.group g).entry a b e = (s.group g).entry a b e) ∧
        (t.group g).tvalid.getLsbD (fget s (Pg.jg g) F.JG_TWSEL_TSET) = false ∧ ∀ j, j ≠ g.val → t.group j = s.group j) ∧
      (∀ val : Word, setInUse s g (fget s (Pg.jg g) F.JG_TWSEL_TSET) = true → Answers (.twdataWrite src g val) s fun t =>
        let s := wakeFor src (Pg.jg g) s
        Within [.hdrs, .vecs] s t ∧ EventSet t (Pg.jg g) E.JG_CFGERR)) ∧
    (mayRead s src (Pg.jg g) = true → Answers (.twdataRead src g) s fun t =>
      let s := wakeFor src (Pg.jg g) s
      Within [.busResult, .flds] s t ∧
      t.busResult = some (BitVec.ofNat 32 ((s.group g).entry (fget s (Pg.jg g) F.JG_TWSEL_TSET) (fget s (Pg.jg g) F.JG_TWSEL_PRIM)
        (fget s (Pg.jg g) F.JG_TWSEL_INDEX))) ∧
      OtherFields (Pg.jg g) [F.JG_TWSEL_INDEX] s t ∧
      fget t (Pg.jg g) F.JG_TWSEL_INDEX = (fget s (Pg.jg g) F.JG_TWSEL_INDEX + 1) % 4096) ∧
    (mayWrite s src (Pg.jg g) F.JG_TLCMD_SETV.off = true → (s.group g).tload = none →
      setInUse s g (fget s (Pg.jg g) F.JG_TLCMD_TSET) = false → Answers (.setv src g) s fun t =>
        let s := wakeFor src (Pg.jg g) s
        Within [.groups] s t ∧
        t.group g = { (s.group g) with tvalid := (s.group g).tvalid ||| BitVec.ofNat 8 (2 ^ fget s (Pg.jg g) F.JG_TLCMD_TSET) } ∧
        ∀ j, j ≠ g.val → t.group j = s.group j)

/-- Loading a transfer table (R176, R177): GO starts a load of a set that is not in use and makes it invalid, and asks for the 24 KiB of the image at BULK
class where TLSRC names memory that may be read; it is refused while the set is in use or a load runs. A sleeping device is woken first (R349). When
the reads are back the set holds the image and is valid, or it stays invalid and CFGERR is set. No other set changes. Fences, self-tests and the
record cache (R190, R193, R194): a group on its way back is in service again, or out of service with every pair fenced; UNFENCE starts the self-test
of a fenced pair, which at its end frees the pair or leaves it fenced with UNFENCE_FAIL; CINVAL drops the cache entries that no job uses. A write to a
group that sleeps wakes the device first (R349). (The model's choices and readings here: log 9, 77.) -/
def Obligations.TablesLoadAndPairsReturn : Prop :=
  (∀ (s : State) (g : Fin 8),
    (∀ src, mayWrite s src (Pg.jg g) F.JG_TLCMD_GO.off = true →
      ((s.group g).tload = none → setInUse s g (fget s (Pg.jg g) F.JG_TLCMD_TSET) = false →
        Answers (.tableLoad src g) s fun t =>
        let s := wakeFor src (Pg.jg g) s
        Within [.accs, .nextId, .groups] s t ∧
        t.group g = { (s.group g) with
          tload := some (fget s (Pg.jg g) F.JG_TLCMD_TSET, fget s (Pg.jg g) F.JG_TLSRC_BLOCK * 4096,
            (imageRegion s src (fget s (Pg.jg g) F.JG_TLSRC_BLOCK * 4096)).isSome)
          tvalid := (s.group g).tvalid &&& ~~~(BitVec.ofNat 8 (2 ^ fget s (Pg.jg g) F.JG_TLCMD_TSET)) } ∧
        (∀ j, j ≠ g.val → t.group j = s.group j) ∧
        (imageRegion s src (fget s (Pg.jg g) F.JG_TLSRC_BLOCK * 4096) = none → t.accs = s.accs) ∧
        ∀ rn, imageRegion s src (fget s (Pg.jg g) F.JG_TLSRC_BLOCK * 4096) = some rn → ∀ i < 12, ∃ a ∈ t.accs,
          a.src = .table g ∧ a.write = false ∧ a.region = rn ∧ a.lines = 32 ∧
          a.addr = fget s (Pg.jg g) F.JG_TLSRC_BLOCK * 4096 + 2048 * i) ∧
      ((s.group g).tload.isSome = true ∨ setInUse s g (fget s (Pg.jg g) F.JG_TLCMD_TSET) = true →
        Answers (.tableLoad src g) s fun t =>
          let s := wakeFor src (Pg.jg g) s
          Within [.hdrs, .vecs] s t ∧ EventSet t (Pg.jg g) E.JG_CFGERR)) ∧
    (∀ set addr ok errs, (s.group g).tload = some (set, addr, ok) → inSafe s = false →
      ((readsOf s (.table g)).all (unitBack s) = false → Answers (.tableLoadDone g errs) s fun t => t = s) ∧
      (∀ u, (readsOf s (.table g)).all (unitBack s) = true → takeReads errs (readsOf s (.table g)) s = some u →
        Answers (.tableLoadDone g errs) s fun t =>
        Within [.hdrs, .flds, .links, .accs, .nextId, .commits, .chans, .recs, .regions, .queues, .bells, .jobs, .vecs, .groups, .pll,
          .ring, .safe] s t ∧
        (t.group g).tload = none ∧ EventSet t (Pg.jg g) E.JG_TLOAD_DONE ∧ (∀ j, j ≠ g.val → t.group j = u.group j) ∧
        (∀ img, ok = true → loadImage s errs (readsOf s (.table g)) = some img →
          t.group g = { (storeImage set img { (u.group g) with tload := none }) with
            tvalid := (u.group g).tvalid ||| BitVec.ofNat 8 (2 ^ set) }) ∧
        (ok = false ∨ loadImage s errs (readsOf s (.table g)) = none →
          t.group g = { (u.group g) with tload := none } ∧ EventSet t (Pg.jg g) E.JG_CFGERR)))) ∧
  (∀ (s : State) (g : Fin 8), inSafe s = false →
    ((s.group g).state = .returning → (s.group g).bayTest = false → s.boot.bayWait.contains g.val = false →
      ((s.group g).fence ≠ 0xFF → Answers (.groupReturn g) s fun t => Within [.groups] s t ∧
        t.group g = { (s.group g) with state := .inService } ∧ ∀ j, j ≠ g.val → t.group j = s.group j) ∧
      ((s.group g).fence = 0xFF → Answers (.groupReturn g) s fun t => Within [.hdrs, .vecs, .groups] s t ∧
        t.group g = { (s.group g) with state := .out } ∧ EventSet t (Pg.jg g) E.JG_OUTSVC)) ∧
    (∀ src (pair : Fin 8), mayWrite s src (Pg.jg g) F.JG_JCMD_UNFENCE.off = true → ckJoin s = true →
      ((s.group g).fence.getLsbD pair = true → (s.group g).tests.contains pair.val = false → Answers (.unfence src g pair) s fun t =>
        let s := wakeFor src (Pg.jg g) s
        Within [.groups] s t ∧ t.group g = { (s.group g) with tests := (s.group g).tests ++ [pair.val] } ∧
        ∀ j, j ≠ g.val → t.group j = s.group j) ∧
      ((s.group g).fence.getLsbD pair = false → Answers (.unfence src g pair) s fun t => t = wakeFor src (Pg.jg g) s)) ∧
    (∀ (pair : Fin 8), (s.group g).tests.contains pair.val = true → (s.group g).bayTest = false → s.boot.bayWait.contains g.val = false →
      Answers (.unfenceTestDone g pair true) s (fun t => Within [.groups] s t ∧ (t.group g).fence.getLsbD pair = false ∧
        (t.group g).tests = (s.group g).tests.filter (· != pair.val) ∧ ((t.group g).state = (s.group g).state ∨
          (s.group g).state = .out ∧ (t.group g).state = .inService)) ∧
      Answers (.unfenceTestDone g pair false) s (fun t => Within [.hdrs, .vecs, .groups] s t ∧
        (t.group g).fence.getLsbD pair = true ∧ EventSet t (Pg.jg g) E.JG_UNFENCE_FAIL)) ∧
    (∀ src, mayWrite s src (Pg.jg g) F.JG_JCMD_CINVAL.off = true → Answers (.cinval src g) s fun t =>
      let s := wakeFor src (Pg.jg g) s
      Within [.groups] s t ∧
      (∀ j, j ≠ g.val → t.group j = s.group j) ∧ t.group g = { (s.group g) with
        cache := (s.group g).cache.filter fun e => (s.jobs.filterMap fun j => if j.group = g.val then j.cacheKey else none).contains e.key }))

/-- Dealing and ending chunks (R185, R187, R188, R193): the earliest king-post chunk goes to a free pair, and with none waiting the earliest other chunk
that the joiner may run to it; a chunk waits until its lines are back, and then leaves its results in its job; a lockstep mismatch fences the pair,
and it, a table error and a local-store error send the group back to service. (The model's choices and readings here: log 42, 43, 96, 97.) -/
def Obligations.ChunksAreDealt : Prop :=
  ∀ (s : State) (g : Fin 8) (u : Fin 16), inSafe s = false → ckJoin s = true →
    ((s.group g).state = .inService → (s.group g).fence.getLsbD (u.val / 2) = false →
      (s.group g).tests.contains (u.val / 2) = false → unitBusy (s.group g) u = false →
      (∀ j, earliest (chunkJobs s g true) = some j → unitBusy (s.group g) (2 * (u.val / 2)) = false →
        unitBusy (s.group g) (2 * (u.val / 2) + 1) = false →
        Answers (.chunkTake g u) s fun t => Within [.accs, .nextId, .jobs, .groups] s t ∧
          t.group g = { (s.group g) with work := (s.group g).work ++
            [{ queue := j.queue, idx := j.idx, chunk := j.nextChunk, unit := 2 * (u.val / 2), pair := true, seq := s.nextId }] } ∧
          t.jobs = s.jobs.map fun i => if i.is j.queue j.idx.toNat then { i with nextChunk := i.nextChunk + 1 } else i) ∧
      (∀ j, earliest (chunkJobs s g true) = some j → unitBusy (s.group g) (2 * (u.val / 2)) = true ∨
        unitBusy (s.group g) (2 * (u.val / 2) + 1) = true → Answers (.chunkTake g u) s fun t => t = s) ∧
      (∀ j, earliest (chunkJobs s g true) = none → earliest ((chunkJobs s g false).filter (mayRun s u)) = some j →
        Answers (.chunkTake g u) s fun t => Within [.accs, .nextId, .jobs, .groups] s t ∧
          t.group g = { (s.group g) with work := (s.group g).work ++
            [{ queue := j.queue, idx := j.idx, chunk := j.nextChunk, unit := u, pair := false, seq := s.nextId }] } ∧
          t.jobs = s.jobs.map fun i => if i.is j.queue j.idx.toNat then { i with nextChunk := i.nextChunk + 1 } else i)) ∧
    (∀ (f : ChunkIn) (w : Work) (j : Job), (s.group g).work.find? (fun w => w.unit == u.val || (w.pair && w.unit + 1 == u.val)) = some w →
      s.jobs.find? (fun j => j.is w.queue w.idx.toNat) = some j →
      (w.pair = false ∨ f.mismatch = false → f.tpar = none → f.recipePar = false → f.lsunc = false →
        (chunkBack (askChunk g w.unit f.errs j w.chunk (storeErrors g f j s)) g w.unit = false → Answers (.chunkComplete g u f) s fun t =>
          Within [.flds, .accs, .nextId, .groups] s t ∧ t.jobs = s.jobs ∧ (t.group g).work = (s.group g).work) ∧
        (∀ v, chunkBack (askChunk g w.unit f.errs j w.chunk (storeErrors g f j s)) g w.unit = true →
          takeReads f.errs (chunkReads (askChunk g w.unit f.errs j w.chunk (storeErrors g f j s)) g w.unit)
            (askChunk g w.unit f.errs j w.chunk (storeErrors g f j s)) = some v →
          let x := runChunk (feedOf (askChunk g w.unit f.errs j w.chunk (storeErrors g f j s)) g w.unit f.errs j)
            ((storeErrors g f j s).group g) w.chunk
          Answers (.chunkComplete g u f) s fun t =>
            Within [.hdrs, .flds, .links, .accs, .nextId, .commits, .chans, .recs, .regions, .queues, .bells, .jobs, .vecs, .groups, .pll,
              .ring, .safe] s t ∧
            (∀ e ∈ (t.group g).work, e ≠ w) ∧ ∃ i ∈ t.jobs, i.queue = j.queue ∧ i.idx = j.idx ∧
              tget { bytes := [], lamps := 0, missing := [], sums := [], peaks := [], stale := 0 } i.results w.chunk = chunkRes j w.chunk x ∧
              i.done = j.done + x.outs.length)) ∧
      (w.pair = true → f.mismatch = true → w.unit < 16 → Answers (.chunkComplete g u f) s fun t =>
        Within [.hdrs, .flds, .links, .accs, .nextId, .commits, .chans, .recs, .regions, .queues, .bells, .jobs, .vecs, .groups, .pll,
          .ring, .safe] s t ∧ EventSet t (Pg.jg g) E.JG_LSMISM ∧ EventSet t (Pg.jg g) E.JG_FENCED ∧
        (t.group g).fence.getLsbD (w.unit / 2) = true ∧ (t.group g).state = .returning ∧ (t.group g).work = []) ∧
      (w.pair = false ∨ f.mismatch = false → f.tpar.isSome = true ∨ f.recipePar = true → Answers (.chunkComplete g u f) s fun t =>
        Within [.hdrs, .flds, .links, .accs, .nextId, .commits, .chans, .recs, .regions, .queues, .bells, .jobs, .vecs, .groups, .pll,
          .ring, .safe] s t ∧ EventSet t (Pg.jg g) E.JG_TPAR ∧ (t.group g).tvalid.getLsbD (rTset j.rcfg) = false ∧
        (t.group g).state = .returning) ∧
      (w.pair = false ∨ f.mismatch = false → f.tpar = none → f.recipePar = false → f.lsunc = true →
        Answers (.chunkComplete g u f) s fun t =>
        Within [.hdrs, .flds, .links, .accs, .nextId, .commits, .chans, .recs, .regions, .queues, .bells, .jobs, .vecs, .groups, .pll,
          .ring, .safe] s t ∧ EventSet t (Pg.jg g) E.JG_LSUNC ∧ (t.group g).state = .returning))

/-! ### Ports and lanes -/

/-- Sending flits (R88, R116, R117, R120, R121): an ACTIVE port with nothing to send sends a NULL flit; a waiting message leaves in a new TX flit, which
is kept for replay, and the tag of a completion is free again; a port in standby with a message wakes instead; the acknowledge timer makes an
acknowledgement due; a replay timeout sends every kept flit again, or gives up; and a due marker group restarts the count. (The model's choices and
readings here: log 2, 18, 21, 23, 71.) -/
def Obligations.PortsSendFlits : Prop :=
  ∀ (s : State) (l : Fin 20), linkActive s l = true →
    ((∀ w ∈ s.boot.later, w.1 ≠ l.val) →
      ((s.link l).standby = .none → markerDue (s.link l) = false → (s.link l).resend = [] → (s.link l).txPartKind = none →
        ((s.link l).txq = [] → creditClass s l (s.link l) = 0 → Answers (.flitSend l) s fun t => Within [.links] s t ∧ OtherLinks [l] s t ∧
          (t.link l).replay = (s.link l).replay ∧ (t.link l).nextSeq = (s.link l).nextSeq ∧ (t.link l).cwTx = (s.link l).cwTx + 1) ∧
        (∀ m, (s.link l).txq = [m] → m.data = [] → msgReady s (s.link l) m = true → (s.link l).replay.length < 1024 →
          Answers (.flitSend l) s fun t => Within [.links, .jobs, .vecs] s t ∧ OtherLinks [l] s t ∧ (t.link l).txq = [] ∧
            (∀ v : Fin 512, ∀ kp, m.kind = .irq v kp → (t.vec v).lastSent = some s.now ∧ (t.vec v).latched = s.time.dev) ∧
            (t.link l).nextSeq = ((s.link l).nextSeq + 1) % 4096 ∧ (t.link l).lastSeq = (s.link l).nextSeq ∧
            (∀ tag h, m.kind = .cpl tag h → (t.link l).tags = (s.link l).tags.filter (· != tag)) ∧
            ∃ f, (t.link l).replay = (s.link l).replay ++ [f] ∧ f.seq = (s.link l).nextSeq ∧ f.first = 0 ∧ f.sentAt = s.now ∧
              f.msgs = [m.kind] ∧ f.payload = padTo 240 (leBytes 16 m.hdr.toNat))) ∧
      (∀ dark, (s.link l).standby = .entered dark → (s.link l).txq ≠ [] → Answers (.flitSend l) s fun t =>
        Within [.freeCtr, .hdrs, .flds, .links, .chans, .vecs, .power] s t ∧ (t.link l).standby = .waking dark s.now)) ∧
    (∀ a, (s.link l).ackSince = some a → Answers (.ackTimer l) s fun t => Within [.now, .links, .time] s t ∧ OtherLinks [l] s t ∧
      t.link l = { (s.link l) with ackDue := true } ∧ a + ns (10 * fget s (Pg.link l) F.HP_XCFG_ACKDLY) ≤ t.now) ∧
    (∀ f rest, (s.link l).replay = f :: rest →
      ((s.link l).replays < fget s (Pg.link l) F.HP_XCFG_RPLMAX → Answers (.replayTimeout l) s fun t =>
        Within [.now, .hdrs, .flds, .links, .vecs, .time] s t ∧ OtherLinks [l] s t ∧
        t.link l = { (s.link l) with
          replays := (s.link l).replays + 1, resend := (s.link l).replay.map TxFlit.seq
          replay := (s.link l).replay.map fun f => { f with sentAt := t.now } } ∧
        EventSet t (Pg.link l) E.HP_REPLAY ∧ f.sentAt + us (fget s (Pg.link l) F.HP_XCFG_RPLTO) ≤ t.now) ∧
      (fget s (Pg.link l) F.HP_XCFG_RPLMAX ≤ (s.link l).replays → Answers (.replayTimeout l) s fun t =>
        Within [.now, .hdrs, .flds, .links, .accs, .commits, .regions, .jobs, .bells, .vecs, .groups, .time, .ring] s t ∧
        (t.link l).state = .detect ∧ EventSet t (Pg.link l) E.HP_REPLAY_FAIL ∧ ∀ a ∈ t.accs, a.src.port ≠ l.val)) ∧
    (markerDue (s.link l) = true → asleep (s.link l) = false → Answers (.markerGroupDue l) s fun t => Within [.freeCtr, .links] s t ∧ OtherLinks [l] s t ∧
      (t.link l).cwTx = 0 ∧ (t.link l).groupOut = some (0, (s.link l).active) ∧
      (t.link l).gseqTx = ((s.link l).gseqTx + 1) % 65536)

/-- Receiving a codeword on a port that receives (R114, R117, R119, R120, R123): one that cannot be corrected, a bad CRC and a TX flit out of order are
refused and counted; a TX flit in order is accepted, and then its slots are taken in order; an acknowledgement frees the kept flits up to its number;
one out of range is a protocol error, and the port trains again. (The model's choices and readings here: log 13, 14, 15, 16, 20.) -/
def Obligations.PortsReceiveFlits : Prop :=
  ∀ (s : State) (l : Fin 20) (words : List (Fin 4 × BitVec 128)), receives s l = true →
    (fecDecode (padTo 272 ((words.take 17).foldl takeWord (s.link l, [])).2) = none → Answers (.flitReceive l words false) s fun t =>
      Within [.flds, .links] s t ∧ OtherLinks [l] s t ∧ (t.link l).nakEpisode = true ∧ (t.link l).expSeq = (s.link l).expSeq ∧
      (t.link l).rxPart = (s.link l).rxPart ∧ fget t (Pg.link l) F.HP_XFECU_COUNT = min (fget s (Pg.link l) F.HP_XFECU_COUNT + 1)
        (2 ^ F.HP_XFECU_COUNT.w - 1)) ∧
    ∀ flit n hdr, fecDecode (padTo 272 ((words.take 17).foldl takeWord (s.link l, [])).2) = some (flit, n) → hdr = leAt flit 0 8 →
      (crcGood flit = false → Answers (.flitReceive l words false) s fun t =>
        Within [.flds, .links] s t ∧ OtherLinks [l] s t ∧ (t.link l).nakEpisode = true ∧ (t.link l).expSeq = (s.link l).expSeq ∧
        (t.link l).rxPart = (s.link l).rxPart ∧ fget t (Pg.link l) F.HP_XCRCE_COUNT = min (fget s (Pg.link l) F.HP_XCRCE_COUNT + 1)
          (2 ^ F.HP_XCRCE_COUNT.w - 1)) ∧
      (crcGood flit = true → ext hdr 60 4 = 1 → ackInRange (s.link l) (ext hdr 36 12) = true → ext hdr 34 2 = 0 →
        (ext hdr 48 12 ≠ (s.link l).expSeq → Answers (.flitReceive l words false) s fun t =>
          Within [.flds, .links] s t ∧ OtherLinks [l] s t ∧ (t.link l).nakEpisode = true ∧
          (t.link l).expSeq = (s.link l).expSeq ∧ (t.link l).rxPart = (s.link l).rxPart) ∧
        (ext hdr 48 12 = (s.link l).expSeq → ext hdr 8 4 = firstSlot (s.link l).rxNeed (pieces 16 (slice flit 8 240)) →
          Answers (.flitReceive l words false) s fun t => ∃ u, Within [.flds, .links] s u ∧ OtherLinks [l] s u ∧
            t = forAll (pieces 16 (slice flit 8 240)) (takeSlot l) u ∧ (u.link l).expSeq = ((s.link l).expSeq + 1) % 4096 ∧
            (u.link l).nakEpisode = false ∧ (u.link l).rxPart = (s.link l).rxPart ∧ (u.link l).rxNeed = (s.link l).rxNeed ∧
            (ext hdr 32 2 = 1 → (u.link l).credHdr.getD 1 0 = (s.link l).credHdr.getD 1 0 + ext hdr 24 8 ∧
              (u.link l).credDat.getD 1 0 = (s.link l).credDat.getD 1 0 + ext hdr 12 12))) ∧
      (crcGood flit = true → ext hdr 60 4 = 2 → ext hdr 34 2 = 1 → (s.link l).replay.any (fun f => f.seq == ext hdr 36 12) = true →
        Answers (.flitReceive l words false) s fun t => Within [.flds, .links, .vecs, .ring] s t ∧ OtherLinks [l] s t ∧
          (t.link l).replay = (s.link l).replay.drop ((s.link l).replay.findIdx (fun f => f.seq == ext hdr 36 12) + 1) ∧
          (t.link l).replays = 0 ∧ (t.link l).expSeq = (s.link l).expSeq) ∧
      (crcGood flit = true → ext hdr 60 4 = 1 ∨ ext hdr 60 4 = 2 → ackInRange (s.link l) (ext hdr 36 12) = false →
        Answers (.flitReceive l words false) s fun t =>
          Within [.hdrs, .flds, .links, .accs, .commits, .regions, .jobs, .bells, .vecs, .groups, .ring] s t ∧
          (t.link l).state = .detect ∧ EventSet t (Pg.link l) E.HP_PROTO)

/-- Training of a port (R89 to R97, R104, R143): ENABLE begins attempt 1 in DETECT, DISABLE and RETRAIN end what the port carries; a lane passes DETECT
with signal, LOCK with lock and ALIGN with enough blocks in place, and when every lane has passed the port goes on; a phase that runs out drops the
lanes that have not passed; a listening port tries again; SLIP and DROP act on lanes in ALIGN and training. A write to the page of a port that sleeps
wakes the device first (wakeFor, R349). (The model's choices and readings here: log 2, 50, 69, 73, 99.) -/
def Obligations.PortsTrain : Prop :=
  ∀ (s : State) (l : Fin 20),
    (∀ src, mayWrite s src (Pg.link l) F.HP_LCFG_ENABLE.off = true →
      (fget s (Pg.link l) F.HP_LCFG_ENABLE = 0 → s.boot.isSealed = true → serdesOn s = true → Answers (.portEnable src l) s fun t =>
        let s := wakeFor src (Pg.link l) s
        Within [.flds, .links, .boot] s t ∧ OtherLinks (pageLinks s l) s t ∧ fget t (Pg.link l) F.HP_LCFG_ENABLE = 1 ∧
        ∀ i ∈ pageLinks s l, (t.link i).state = .detect ∧ (t.link i).attempt = 1 ∧ (t.link i).active = 0) ∧
      (fget s (Pg.link l) F.HP_LCFG_ENABLE = 0 → s.boot.isSealed = false ∨ serdesOn s = false → Answers (.portEnable src l) s fun t =>
        let s := wakeFor src (Pg.link l) s
        Within [.hdrs, .vecs] s t ∧ EventSet t (Pg.link l) E.HP_CFG_ERR) ∧
      (fget s (Pg.link l) F.HP_LCFG_ENABLE = 1 → Answers (.portDisable src l) s fun t =>
        let s := wakeFor src (Pg.link l) s
        Within [.hdrs, .flds, .links, .accs, .commits, .regions, .jobs, .bells, .vecs, .groups, .ring] s t ∧
        fget t (Pg.link l) F.HP_LCFG_ENABLE = 0 ∧ ∀ i ∈ pageLinks s l, (t.link i).state = .off ∧ ∀ a ∈ t.accs, a.src.port ≠ i)) ∧
    (∀ src, mayWrite s src (Pg.link l) F.HP_LCMD_RETRAIN.off = true → Answers (.retrain src l) s fun t =>
      let s := wakeFor src (Pg.link l) s
      Within [.hdrs, .flds, .links, .accs, .commits, .regions, .jobs, .bells, .vecs, .groups, .ring] s t ∧
      ∀ i ∈ pageLinks s l, (s.link i).state ≠ .off → (s.link i).state ≠ .test → (t.link i).state = .detect ∧
        (inService s i = true → ∀ a ∈ t.accs, a.src.port ≠ i)) ∧
    (∀ y : Fin 8, ((s.link l).lane y).inTrain = true →
      ((s.link l).state = .detect → clocksOff s = false → Answers (.signalDetect l y) s fun t => Within [.links] s t ∧ OtherLinks [l] s t ∧
        ((t.link l).lane y).sigdet = true ∧ (t.link l).state =
          (if phasePassed { (s.link l) with lanes := tset (s.link l).lanes y { ((s.link l).lane y) with sigdet := true, passed := true } }
          then .lock else .detect)) ∧
      ((s.link l).state = .lock → lanesTrain s = true → Answers (.cdrLock l y) s fun t => Within [.links] s t ∧ OtherLinks [l] s t ∧
        ((t.link l).lane y).lock = true ∧ (t.link l).state =
          (if phasePassed { (s.link l) with lanes := tset (s.link l).lanes y { ((s.link l).lane y) with lock := true, passed := true } }
          then .align else .lock)) ∧
      (∀ b : TrainIn, (s.link l).state = .align → lanesTrain s = true → b.tsm = true → crc16Ok b.word1 = true → Answers (.trainingBlock l y b) s fun t =>
        Within [.links] s t ∧ OtherLinks [l] s t ∧
        ((t.link l).lane y).aligned = decide (fget s (Pg.link l) F.HP_ALGN_WIN ≤ ((s.link l).lane y).matched + 1)) ∧
      (∀ b : TrainIn, (s.link l).state.training = true → lanesTrain s = true → Answers (.trainingBlock l y b) s fun t =>
        ((t.link l).lane y).sent.take 2 = [tsmWord, trainWord s l y (blockDone (s.link l) ((s.link l).lane y))] ∨
          (s.link l).state = .config ∧ b.tsm = true) ∧
      (∀ b : TrainIn, (s.link l).state.training = true → lanesTrain s = true → b.tsm = true → crc16Ok b.word1 = false →
        Answers (.trainingBlock l y b) s fun t => Within [.hdrs, .links, .vecs] s t ∧ EventSet t (Pg.link l) E.HP_CTRL_ERR)) ∧
    ((s.link l).state.training = true → clocksOff s = false → (s.link l).inListen = false → (s.link l).attempt < 3 →
      popCount 8 (trainMask { (s.link l) with lanes := (s.link l).lanes.map fun e =>
        (e.1, if (unpassed (s.link l)).testBit e.1 then { e.2 with inTrain := false, passed := false } else e.2) }) < minWidth s l →
      Answers (.phaseTimeout l) s fun t => Within [.now, .hdrs, .links, .vecs, .time] s t ∧ (t.link l).state = .detect ∧
        (t.link l).attempt = (s.link l).attempt + 1 ∧ (t.link l).failPh = (s.link l).state.code ∧
        EventSet t (Pg.link l) E.HP_TRAIN_FAIL ∧ (s.link l).phaseSince + ms 2 ≤ t.now) ∧
    (∀ k : Link, k = { (s.link l) with lanes := (s.link l).lanes.map fun e =>
        (e.1, if (unpassed (s.link l)).testBit e.1 then { e.2 with inTrain := false, passed := false } else e.2) } →
      (s.link l).state.training = true → clocksOff s = false → (s.link l).state ≠ .config → minWidth s l ≤ popCount 8 (trainMask k) → phasePassed k = true →
      Answers (.phaseTimeout l) s fun t => Within [.now, .links, .time] s t ∧ OtherLinks [l] s t ∧
        (t.link l).state.code = (s.link l).state.code + 1 ∧ (s.link l).phaseSince + ms 2 ≤ t.now ∧
        ∀ y, ((t.link l).lane y).inTrain = (((s.link l).lane y).inTrain && !(unpassed (s.link l)).testBit y)) ∧
    ((s.link l).state = .listen → clocksOff s = false → Answers (.listenPeriod l) s fun t => Within [.now, .links, .time] s t ∧ OtherLinks [l] s t ∧
      (t.link l).state = .detect ∧ (t.link l).listenSince = t.now ∧
      (s.link l).listenSince + ms (fget s (Pg.link l) F.HP_LLISTEN_PERIOD) ≤ t.now) ∧
    (∀ src (mask : BitVec 8), mayWrite s src (Pg.link l) F.HP_ALGN_SLIP.off = true → Answers (.algnSlip src l mask) s fun t =>
      let s := wakeFor src (Pg.link l) s
      Within [.links] s t ∧ OtherLinks (pageLinks s l) s t ∧ ∀ i ∈ pageLinks s l, ∀ y, (t.link i).state = (s.link i).state ∧
        (mask.getLsbD y = true → aligning (s.link i) y = true →
          ((t.link i).lane y).slips = min 63 (((s.link i).lane y).slips + 1) ∧ ((t.link i).lane y).aligned = false) ∧
        (mask.getLsbD y = false ∨ aligning (s.link i) y = false → (t.link i).lane y = (s.link i).lane y)) ∧
    (∀ src (mask : BitVec 8), mayWrite s src (Pg.link l) F.HP_ALGN_DROP.off = true → Answers (.algnDrop src l mask) s fun t =>
      let s := wakeFor src (Pg.link l) s
      Within [.hdrs, .flds, .links, .vecs] s t ∧ OtherLinks (pageLinks s l) s t ∧ ∀ i ∈ pageLinks s l, (s.link i).state.training = true →
        minWidth s i ≤ popCount 8 (trainMask { (s.link i) with lanes := (s.link i).lanes.map fun e =>
          (e.1, if mask.toNat.testBit e.1 then { e.2 with inTrain := false, passed := false } else e.2) }) →
        ∀ y, ((t.link i).lane y).inTrain = (((s.link i).lane y).inTrain && !mask.getLsbD y))

/-- Lane faults and retirement (R88, R98 to R103): a good marker group restarts the receiver, a control group acts by its TYPE (TYPE 7 is STBY_ACK, R347),
and a group whose CRCs fail is ignored; the exchange begins with the lanes still good (locked, no marker word missing or out of place), or the port
retrains when they are too few, and its requests end either way; a request is answered and the new set taken; so is an acknowledgement; the request
goes out again every 1 µs, and 16 µs after the first one the port retrains. (The model's choices and readings here: log 2, 47, 48, 85, 98, 99, 100.) -/
def Obligations.LanesRetire : Prop :=
  ∀ (s : State) (l : Fin 20),
    (∀ words : List (Option (Fin 4 × BitVec 128)), inService s l = true → (s.link l).state = .active → sleeping (s.link l) = false → 0 < widthOf (s.link l).active.toNat →
      ((∀ n < widthOf (s.link l).active.toNat, ∃ w, ext w.toNat 64 64 = patMarker ∧
          groupIn ((s.link l).lane (physLane (s.link l).active.toNat n)) (words.getD n none) = .good w) →
        Answers (.markerGroup l words) s fun t => Within [.links] s t ∧ OtherLinks [l] s t ∧ (t.link l).wordRx = 0 ∧
          (t.link l).cwRx = 0 ∧ (t.link l).state = .active ∧
          (∀ w, groupIn ((s.link l).lane (physLane (s.link l).active.toNat 0)) (words.getD 0 none) = .good w →
            (t.link l).gseqRx = ext w.toNat 24 16) ∧
          ∀ dark since, (s.link l).standby = .waking dark since → (t.link l).standby = .none) ∧
      ((∀ n < widthOf (s.link l).active.toNat,
          groupIn ((s.link l).lane (physLane (s.link l).active.toNat n)) (words.getD n none) = .badCrc) →
        Answers (.markerGroup l words) s fun t => Within [.hdrs, .vecs] s t ∧ EventSet t (Pg.link l) E.HP_CTRL_ERR) ∧
      (∀ w, (∀ n < widthOf (s.link l).active.toNat,
          groupIn ((s.link l).lane (physLane (s.link l).active.toNat n)) (words.getD n none) = .good w) → ext w.toNat 64 64 = patControl →
        Answers (.markerGroup l words) s fun t =>
          (ext w.toNat 56 8 = 1 → exec (.retireReq l (BitVec.ofNat 8 (ext w.toNat 48 8))) s = .next t) ∧
          (ext w.toNat 56 8 = 2 → exec (.retireAck l (BitVec.ofNat 8 (ext w.toNat 48 8))) s = .next t) ∧
          (ext w.toNat 56 8 = 3 → exec (.widenReq l (BitVec.ofNat 8 (ext w.toNat 48 8))) s = .next t) ∧
          (ext w.toNat 56 8 = 4 → exec (.widenAck l (BitVec.ofNat 8 (ext w.toNat 48 8))) s = .next t) ∧
          (ext w.toNat 56 8 = 7 → exec (.stbyAck l) s = .next t) ∧
          (ext w.toNat 56 8 = 0 ∨ 4 < ext w.toNat 56 8 ∧ ext w.toNat 56 8 ≠ 7 → t = s))) ∧
    (∀ (y : Fin 8) (good : Nat), inService s l = true → (s.link l).active.getLsbD y = true →
      (s.link l).standby = .none → good = ((bitsSet 8 (s.link l).active.toNat).filter (fun z => ((s.link l).lane z).lock && !((s.link l).lane z).misplaced && z != y.val)).foldl
        (fun a z => a + 2 ^ z) 0 →
      (minWidth s l ≤ widthOf (widest good) → Answers (.laneFault l y) s fun t =>
        Within [.freeCtr, .hdrs, .flds, .links, .accs, .commits, .regions, .jobs, .bells, .vecs, .groups, .ring] s t ∧
        (t.link l).state = .retire ∧
        (t.link l).retire = some { mask := BitVec.ofNat 8 good, since := s.now, lastReq := s.now, mine := true } ∧
        (t.link l).groupOut = some (1, BitVec.ofNat 8 good) ∧
        ((s.link l).state = .active → ∀ a ∈ t.accs, a.src.port ≠ l.val)) ∧
      (widthOf (widest good) < minWidth s l → Answers (.laneFault l y) s fun t =>
        Within [.freeCtr, .hdrs, .flds, .links, .accs, .commits, .regions, .jobs, .bells, .vecs, .groups, .ring] s t ∧
        (t.link l).state = .detect ∧ (∀ a ∈ t.accs, a.src.port ≠ l.val) ∧
        fget t (Pg.link l) F.HP_LCNT_RETRAINS = min (fget s (Pg.link l) F.HP_LCNT_RETRAINS + 1) (2 ^ F.HP_LCNT_RETRAINS.w - 1))) ∧
    (∀ mask : BitVec 8, inService s l = true → sleeping (s.link l) = false → (∀ r, (s.link l).retire = some r → r.mine = true → isLeader s l = false) →
      Answers (.retireReq l mask) s fun t =>
        Within [.freeCtr, .hdrs, .flds, .links, .accs, .commits, .regions, .jobs, .bells, .vecs, .groups, .ring] s t ∧
        (minWidth s l ≤ widthOf (widest (mask.toNat.land (goodLanes (s.link l)))) → (t.link l).state = .active ∧
          (t.link l).active = BitVec.ofNat 8 (widest (mask.toNat.land (goodLanes (s.link l)))) ∧ (t.link l).retire = none ∧
          (t.link l).expSeq = 0 ∧ (t.link l).nextSeq = 0 ∧ (t.link l).replay = []) ∧
        (widthOf (widest (mask.toNat.land (goodLanes (s.link l)))) < minWidth s l → (t.link l).state = .detect)) ∧
    (∀ (mask : BitVec 8) r, (s.link l).state = .retire → clocksOff s = false → (s.link l).retire = some r → Answers (.retireAck l mask) s fun t =>
      Within [.freeCtr, .hdrs, .flds, .links, .accs, .commits, .regions, .jobs, .bells, .vecs, .groups, .ring] s t ∧
      (minWidth s l ≤ widthOf (widest (mask.toNat.land r.mask.toNat)) → (t.link l).state = .active ∧ (t.link l).retire = none ∧
        (t.link l).active = BitVec.ofNat 8 (widest (mask.toNat.land r.mask.toNat)) ∧ (t.link l).expSeq = 0 ∧ (t.link l).nextSeq = 0) ∧
      (widthOf (widest (mask.toNat.land r.mask.toNat)) < minWidth s l → (t.link l).state = .detect)) ∧
    (∀ r, (s.link l).retire = some r → clocksOff s = false →
      Answers (.retireReqRepeat l) s (fun t => Within [.now, .freeCtr, .links, .time] s t ∧ OtherLinks [l] s t ∧
        (t.link l).retire = some { r with lastReq := t.now } ∧ (t.link l).groupOut = some (1, r.mask) ∧ r.lastReq + us 1 ≤ t.now) ∧
      Answers (.retireTo l) s (fun t =>
        Within [.now, .hdrs, .flds, .links, .accs, .commits, .regions, .jobs, .bells, .vecs, .groups, .time, .ring] s t ∧
        (t.link l).state = .detect ∧ EventSet t (Pg.link l) E.HP_RETIRE_TO ∧ r.since + us 16 ≤ t.now))

/-- Background retry and widening (R106 to R108), while the management core runs: the retry period begins the retry of every retired lane, or its soak
where it has trained, and ends one that has got nowhere as failed; a soak whose checker counted no error, in symbols shown or not, makes the lane
good, one with errors counts and in the end fails the lane; a request or an acknowledgement widens the set with a marker group and discards nothing;
without an answer the set stays. (The model's choices and readings here: log 2, 50, 69, 98, 101.) -/
def Obligations.LanesWiden : Prop :=
  ∀ (s : State) (l : Fin 20),
    (linkActive s l = true → coreRuns s = true → inSafe s = false → Answers (.retryPeriod l) s fun t =>
      Within [.now, .freeCtr, .hdrs, .links, .vecs, .time] s t ∧ OtherLinks [l] s t ∧ (t.link l).retryAt = t.now ∧
      (s.link l).retryAt + ms (10 * fget s (Pg.link l) F.HP_LRET_RETRYPER) ≤ t.now ∧
      ∀ y < 8, (s.link l).retired.getLsbD y = true → (s.link l).good.getLsbD y = false →
        (((s.link l).lane y).retry = .none →
          ((t.link l).lane y).retry = if ((s.link l).lane y).trained then .soaking else .training) ∧
        (((s.link l).lane y).retry = .training → ((t.link l).lane y).fails = ((s.link l).lane y).fails + 1)) ∧
    (∀ (y : Fin 8) (errs : Nat) (far : Bool), linkActive s l = true → ((s.link l).lane y).retry = .soaking → coreRuns s = true →
      inSafe s = false →
      (((s.link l).lane y).soakErrs + errs = 0 → far = true → Answers (.soakEnd l y errs far) s fun t => Within [.now, .freeCtr, .links, .time] s t ∧ OtherLinks [l] s t ∧
        (t.link l).good.getLsbD y = true ∧ ((t.link l).lane y).retry = .none ∧ ((t.link l).lane y).fails = 0) ∧
      (((s.link l).lane y).soakErrs + errs ≠ 0 ∨ far = false → Answers (.soakEnd l y errs far) s fun t =>
        Within [.now, .freeCtr, .hdrs, .flds, .links, .vecs, .time] s t ∧
        OtherLinks [l] s t ∧ ((t.link l).lane y).retry = .none ∧ ((t.link l).lane y).fails = ((s.link l).lane y).fails + 1 ∧
        (fget s (Pg.link l) F.HP_LRET_RETRYMAX ≤ ((s.link l).lane y).fails + 1 → EventSet t (Pg.link l) E.HP_LANE_FAILED ∧
          (t.link l).failed.getLsbD y = true ∧ (t.link l).retired.getLsbD y = false))) ∧
    (∀ (mask : BitVec 8) (set : Nat), set = widest (mask.toNat.land ((s.link l).active.toNat.lor (s.link l).good.toNat)) →
      linkActive s l = true → asleep (s.link l) = false → fget s (Pg.link l) F.HP_LCFG_AUTOWIDEN = 1 → coreRuns s = true →
      widthOf (s.link l).active.toNat < widthOf set →
      Answers (.widenReq l mask) s fun t => Within [.freeCtr, .hdrs, .flds, .links, .vecs, .ring] s t ∧ OtherLinks [l] s t ∧
        (t.link l).active = BitVec.ofNat 8 set ∧ (t.link l).state = .active ∧ (t.link l).expSeq = (s.link l).expSeq ∧
        (t.link l).tags = (s.link l).tags ∧ (t.link l).replay = (s.link l).replay ∧ EventSet t (Pg.link l) E.HP_WIDEN) ∧
    (∀ (mask : BitVec 8) (set : Nat) m at1, (s.link l).widen = some (m, at1) → set = widest (mask.toNat.land m.toNat) →
      linkActive s l = true → asleep (s.link l) = false → coreRuns s = true → widthOf (s.link l).active.toNat < widthOf set →
      Answers (.widenAck l mask) s fun t => Within [.freeCtr, .hdrs, .flds, .links, .vecs, .ring] s t ∧ OtherLinks [l] s t ∧
        (t.link l).active = BitVec.ofNat 8 set ∧ (t.link l).state = .active ∧ (t.link l).widen = none ∧
        (t.link l).tags = (s.link l).tags ∧ (t.link l).replay = (s.link l).replay ∧ EventSet t (Pg.link l) E.HP_WIDEN) ∧
    (∀ m at1, (s.link l).widen = some (m, at1) → Answers (.widenAckTimeout l) s fun t => Within [.now, .links, .time] s t ∧
      t.link l = { (s.link l) with widen := none } ∧ at1 + us 10 ≤ t.now ∧ OtherLinks [l] s t)

/-- PRBS tests (R109, R110): a lane of a disabled port starts a pattern and its checker from a write of LyCTL, and the port goes to TEST; a port in
service refuses it with CFG_ERR and stops the pattern; INJECT inverts the next bit; the generator sends two bits a symbol; a checker locks after 64
good symbols and loses lock after 256 bit errors within 1,024 bits. Symbols are taken one after the other. A write to a port that sleeps wakes the
device first (R349). (The model's choices and readings here: log 51, 69, 102.) -/
def Obligations.LanesAreTested : Prop :=
  ∀ (s : State) (l : Fin 20) (y : Fin 8),
    (∀ src (val : Word), mayWrite s src (Pg.link l) (laneFld y F.HP_LyCTL_TXPAT).off = true →
      ext val.toNat 26 2 ≠ 0 ∨ ext val.toNat 24 2 ≠ 0 →
      (serdesOn s = true → fget s (Pg.link l) F.HP_LCFG_ENABLE = 0 → Answers (.laneTest src l y val) s fun t =>
        let s := wakeFor src (Pg.link l) s
        Within [.flds, .links] s t ∧ (t.link (laneLink s l y)).state = .test ∧
        fget t (Pg.link l) (laneFld y F.HP_LyCTL_TXPAT) = ext val.toNat 26 2 ∧
        fget t (Pg.link l) (laneFld y F.HP_LyCTL_RXCHK) = ext val.toNat 24 2 ∧
        fget t (Pg.link l) (laneFld y F.HP_LyBERR_COUNT) = 0 ∧ fget t (Pg.link l) (laneFld y F.HP_LySERR_COUNT) = 0 ∧
        (ext val.toNat 26 2 ≠ 0 → ((t.link (laneLink s l y)).lane y).gen = 2 ^ prbsWidth (ext val.toNat 26 2) - 1) ∧
        ((t.link (laneLink s l y)).lane y).chkLock = false ∧ OtherLinks [laneLink s l y] s t) ∧
      (serdesOn s = false ∨ fget s (Pg.link l) F.HP_LCFG_ENABLE ≠ 0 ∧ (s.link (laneLink s l y)).retired.getLsbD y = false →
        Answers (.laneTest src l y val) s fun t => let s := wakeFor src (Pg.link l) s
          Within [.hdrs, .flds, .links, .vecs] s t ∧ EventSet t (Pg.link l) E.HP_CFG_ERR ∧
          fget t (Pg.link l) (laneFld y F.HP_LyCTL_TXPAT) = 0 ∧ fget t (Pg.link l) (laneFld y F.HP_LyCTL_RXCHK) = 0)) ∧
    (∀ src, mayWrite s src (Pg.link l) (laneFld y F.HP_LyCTL_INJECT).off = true →
      genPat s l y ≠ 0 → Answers (.prbsInject src l y) s fun t => let s := wakeFor src (Pg.link l) s
        Within [.links] s t ∧
        OtherLinks [laneLink s l y] s t ∧ ((t.link (laneLink s l y)).lane y).inject = true) ∧
    (∀ syms : List (Fin 4),
      Answers (.checkerLock l y syms) s (fun t => Within [.hdrs, .flds, .links, .vecs] s t ∧ t = checkSyms l y syms s) ∧
      Answers (.chkLoss l y syms) s (fun t => Within [.hdrs, .flds, .links, .vecs] s t ∧ t = checkSyms l y syms s)) ∧
    (∀ (sym : Fin 4) (a : Lane), a = (s.link (laneLink s l y)).lane y → genPat s l y ≠ 0 →
      Answers (.checkerLock l y [sym]) s fun t => ((t.link (laneLink s l y)).lane y).inject = false ∧
        ((t.link (laneLink s l y)).lane y).gen = (genBit (genPat s l y) (genBit (genPat s l y) a.gen).2).2) ∧
    (∀ (sym : Fin 4) (a : Lane) (pat g : Nat), a = (s.link (laneLink s l y)).lane y →
      pat = fget s (Pg.link l) (laneFld y F.HP_LyCTL_RXCHK) → pat = 1 ∨ pat = 2 →
      g = (if fget s (Pg.link l) (laneFld y F.HP_LyCTL_TESTPC) = 1 then (sym.val + a.lastRx) % 4 else sym.val) →
      (a.chkLock = false → a.chkGood = 63 → prbsBit pat a.chk = pairOf g % 2 →
        prbsBit pat ((2 * a.chk + pairOf g % 2) % 2 ^ prbsWidth pat) = pairOf g / 2 →
        Answers (.checkerLock l y [sym]) s fun t => OtherLinks [laneLink s l y] s t ∧
          ((t.link (laneLink s l y)).lane y).chkLock = true ∧
          (a.chkLost = true → fget t (Pg.link l) (laneFld y F.HP_LyLOSS_RELOCK) =
            min (fget s (Pg.link l) (laneFld y F.HP_LyLOSS_RELOCK) + 1) (2 ^ F.HP_LyLOSS_RELOCK.w - 1))) ∧
      (a.chkLock = true → 256 ≤ (((prbsBit pat ((2 * a.chk + prbsBit pat a.chk) % 2 ^ prbsWidth pat) != pairOf g / 2) ::
          (prbsBit pat a.chk != pairOf g % 2) :: a.chkErrs).take 1024 |>.filter id).length →
        Answers (.chkLoss l y [sym]) s fun t => OtherLinks [laneLink s l y] s t ∧ ((t.link (laneLink s l y)).lane y).chkLock = false ∧
          EventSet t (Pg.link (laneLink s l y)) E.HP_CHK_LOSS))

/-! ### Power -/

/-- Standby of a host port (R346 to R348): an idle port asks its partner once PCFG.IDLE has passed, the answer puts it in standby, 10 µs without one end
the request; fill words wake it, its lanes lock, and the device sends its marker group with GSEQ 0 when all have; a lane that does not lock within
twice the wake time is retired like a faulty one. DIM and DARK and their wake (R345, R346, R349): with no work in progress and every ACTIVE host port
in standby, the device enters the state that its ports allow, a further IDLE after the last wake, with every idle channel in power-down; a wake event,
or an access of the sideband or the core to a unit that sleeps, brings it back to ACTIVE, with the channels out of power-down, and says what woke it.
(The model's choices and readings here: log 2, 21, 35, 52.) -/
def Obligations.PortsAndDeviceStandBy : Prop :=
  (∀ (s : State) (l : Fin 20),
    (l.val < 16 → linkActive s l = true → (s.link l).standby = .none → 2 ≤ targetState s → s.power.state ≠ .entering →
      portQuiet s l = true → Answers (.portStandbyStart l) s fun t => Within [.now, .freeCtr, .links, .time] s t ∧ OtherLinks [l] s t ∧
        (t.link l).standby = .asked (targetState s == 3) t.now ∧
        (t.link l).groupOut = some (if targetState s = 3 then 6 else 5, (s.link l).active) ∧
        (s.link l).lastBusy + us (fget s Pg.pwr F.PWR_PCFG_IDLE) ≤ t.now) ∧
    (∀ dark since, (s.link l).standby = .asked dark since →
      (Answers (.stbyAck l) s fun t => Within [.freeCtr, .flds, .links] s t ∧ OtherLinks [l] s t ∧
        OtherFields (Pg.link l) [F.HP_PSBY_ENTRIES] s t ∧ Counted (Pg.link l) F.HP_PSBY_ENTRIES s t ∧
        (t.link l).standby = .entered dark ∧ (t.link l).wordRx = 0) ∧
      (Answers (.stbyTimeout l) s fun t => Within [.now, .flds, .links, .time] s t ∧ OtherLinks [l] s t ∧
        OtherFields (Pg.link l) [F.HP_PSBY_REFUSED] s t ∧ Counted (Pg.link l) F.HP_PSBY_REFUSED s t ∧
        t.link l = { (s.link l) with standby := .none, lastBusy := t.now } ∧ since + us 10 ≤ t.now)) ∧
    (∀ (locked : BitVec 8) (dark : Bool) (since : Nat) (k : Link), linkActive s l = true → s.power.state ≠ .waking →
      (s.link l).standby = .waking dark since →
      k = { (s.link l) with lanes := (s.link l).lanes.map fun e =>
        (e.1, if (s.link l).active.getLsbD e.1 && locked.getLsbD e.1 then { e.2 with lock := true } else e.2) } →
      (goodLanes k = (s.link l).active.toNat → Answers (.portWake l locked) s fun t => Within [.freeCtr, .links] s t ∧ OtherLinks [l] s t ∧
        (t.link l).groupOut = some (0, (s.link l).active) ∧ (t.link l).gseqTx = 1 ∧ (t.link l).standby = .waking dark since) ∧
      (goodLanes k ≠ (s.link l).active.toNat → Answers (.portWake l locked) s fun t => Within [.links] s t ∧ OtherLinks [l] s t ∧
        t.link l = k)) ∧
    (∀ dark, linkActive s l = true → (s.link l).standby = .entered dark → s.power.state = .active → (s.link l).active ≠ 0 →
      Answers (.portWake l 0) s fun t => Within [.freeCtr, .links] s t ∧ OtherLinks [l] s t ∧ (t.link l).standby = .waking dark s.now ∧
        ∀ y, (s.link l).active.getLsbD y = true → ((t.link l).lane y).lock = false) ∧
    (∀ (y : Fin 8) (dark : Bool) (since : Nat), linkActive s l = true → (s.link l).standby = .waking dark since →
      (s.link l).active.getLsbD y = true → ((s.link l).lane y).lock = false → Answers (.wakeLockTimeout l y) s fun t =>
        Within [.now, .freeCtr, .hdrs, .flds, .links, .accs, .commits, .regions, .jobs, .bells, .vecs, .groups, .time, .ring] s t ∧
        since + us (if dark then 80 else 4) ≤ t.now ∧ (t.link l).standby = .none ∧ ((t.link l).state = .retire ∨ (t.link l).state = .detect) ∧
        ∀ a ∈ t.accs, a.src.port ≠ l.val)) ∧
  (∀ s : State,
    (deviceQuiet s = true → min (targetState s) (standbyLevel s) = 3 → s.power.state = .active ∨ s.power.state = .dim →
      Answers .powerStateEntry s fun t => Within [.now, .chans, .time, .power] s t ∧ t.power = { s.power with state := .dark } ∧
        s.power.idleFrom + us (fget s Pg.pwr F.PWR_PCFG_IDLE) ≤ t.now ∧
        ∀ ch ∈ s.chans.map (·.1), (s.chan ch).state = .ready → chIdle (s.chan ch) = true → (t.chan ch).state = .powerdown) ∧
    (deviceQuiet s = true → min (targetState s) (standbyLevel s) = 2 → s.power.state = .active →
      Answers .powerStateEntry s fun t => Within [.now, .chans, .time, .power] s t ∧ t.power = { s.power with state := .dim } ∧
        s.power.idleFrom + us (fget s Pg.pwr F.PWR_PCFG_IDLE) ≤ t.now ∧
        ∀ ch ∈ s.chans.map (·.1), (s.chan ch).state = .ready → chIdle (s.chan ch) = true → (t.chan ch).state = .powerdown) ∧
    (deviceQuiet s = false → Answers .powerStateEntry s fun t => t = s) ∧
    (s.power.state = .dim ∨ s.power.state = .dark → ∀ (c : WakeCause) (kind port : Nat),
      (∃ p : Fin 16, c = .laneSignal p ∧ kind = 1 ∧ port = p.val) ∨ (∃ p : Fin 16, c = .message p ∧ kind = 2 ∧ port = p.val) ∨
        (c = .sideband ∧ kind = 3 ∧ port = 0) ∨ (c = .core ∧ kind = 4 ∧ port = 0) →
      Answers (.deviceWake c) s fun t => Within [.freeCtr, .hdrs, .flds, .links, .chans, .vecs, .power] s t ∧ t.power.state = .active ∧
        t.power.idleFrom = s.now ∧
        fget t Pg.pwr F.PWR_WAKESRC_KIND = kind ∧ fget t Pg.pwr F.PWR_WAKESRC_PORT = port ∧ Counted Pg.pwr F.PWR_PCNT_WAKES s t ∧
        OtherFields Pg.pwr [F.PWR_WAKESRC_KIND, F.PWR_WAKESRC_PORT, F.PWR_PCNT_WAKES] s t ∧ EventSet t Pg.pwr E.PWR_WAKE ∧
        (∀ l dark, l < 16 → (s.link l).standby = .entered dark → (t.link l).standby = .waking dark s.now) ∧
        (∀ l, 16 ≤ l → t.link l = s.link l) ∧
        ∀ ch, (t.chan ch).state ≠ .powerdown ∧ ((s.chan ch).state ≠ .powerdown → t.chan ch = s.chan ch)) ∧
    (s.power.state = .dim ∨ s.power.state = .dark → ∀ (src : Src) (page : Fin 256) (kind : Nat), sleeps page = true →
      (src = .core ∧ kind = 4 ∨ src = .sideband ∧ kind = 3 ∧ mayWrite s src page 0x10 = true) →
      Answers (.registerWrite src (BitVec.ofNat 20 (page * 4096 + 0x10)) 0 false) s fun t => t.power.state = .active ∧
        fget t Pg.pwr F.PWR_WAKESRC_KIND = kind ∧ EventSet t Pg.pwr E.PWR_WAKE) ∧
    (s.power.state ≠ .dim → s.power.state ≠ .dark → ∀ c, Answers (.deviceWake c) s fun t => t = s))

/-- RETENTION (R350 to R352): RETAIN begins the entry when the six conditions of R350 hold, and is refused with RET_REFUSED and the code of the first that
does not; the entry ends with the PLL off, the time unit in FREE and the tables of the joiner groups lost; a suspended erase is resumed first; a
transaction still open after 1 ms ends it with code 7; an address match begins the exit, at the end of which, once the clocks are locked and the
channels serve again, the ports that were ACTIVE are in service and STATE is the target; one whose partner stays silent for 40 µs after the fill words
of step 6 trains. A RETAIN on the way in, in RETENTION or on the way out is ignored with CFGERR. (The model's choices and readings here: log 2, 52,
108, 109.) -/
def Obligations.RetentionIsEnteredAndLeft : Prop :=
  ∀ s : State,
    (∀ src, mayWrite s src Pg.pwr F.PWR_PCMD_RETAIN.off = true → s.power.state = .active ∨ s.power.state = .dim ∨ s.power.state = .dark →
      (retainRefusal s = 0 → Answers (.retain src) s fun t =>
        t.power = { s.power with state := .entering, refuse := 0, since := s.now, addrMatch := false } ∧
        t = resumeErases { s with power := t.power }) ∧
      (retainRefusal s ≠ 0 → Answers (.retain src) s fun t => Within [.hdrs, .vecs, .power] s t ∧
        t.power = { s.power with refuse := retainRefusal s } ∧ EventSet t Pg.pwr E.PWR_RET_REFUSED)) ∧
    (∀ src, mayWrite s src Pg.pwr F.PWR_PCMD_RETAIN.off = true →
      s.power.state = .entering ∨ s.power.state = .retention ∨ s.power.state = .waking → Answers (.retain src) s fun t =>
        Within [.hdrs, .vecs] s t ∧ EventSet t Pg.pwr E.PWR_CFGERR) ∧
    (s.power.state = .entering →
      (entryWaits s = false → s.power.addrMatch = false → Answers .retentionEntered s fun t =>
        Within [.flds, .links, .accs, .chans, .mem, .groups, .merid, .pll, .time, .ring, .power] s t ∧
        t.power.state = .retention ∧ t.pll.state = .off ∧ t.pll.refpres = false ∧ fget t Pg.clk (F.CLK_OUTk_EN.shift 8) = 0 ∧ t.time.state = .free ∧ t.time.running = false ∧
        t.time.dev = s.time.dev ∧ Counted Pg.pwr F.PWR_PCNT_RETS s t ∧
        (∀ g, (t.group g).tvalid = 0) ∧
        t.power.wasActive = (List.range 20).filter (linkActive s) ∧
        (∀ l < 20, linkActive s l = true → (t.link l).standby = .entered true) ∧
        ∀ ch ∈ s.chans.map (·.1), chServes s ch = true → (t.chan ch).state = .selfref) ∧
      (entryWaits s = false → s.power.addrMatch = true → Answers .retentionEntered s fun t =>
        t.power.state = .waking ∧ t.pll.state = .waitref ∧ t.power.addrMatch = false) ∧
      (entryWaits s = true → Answers .retentionEntered s fun t => t = resumeErases s) ∧
      (anyOpen s = true → Answers .retainAbandon s fun t => Within [.now, .hdrs, .vecs, .time, .power] s t ∧ t.power.state = .active ∧
        t.power.refuse = 7 ∧ EventSet t Pg.pwr E.PWR_RET_REFUSED ∧ s.power.since + ms 1 ≤ t.now) ∧
      Answers .retentionWake s fun t => Within [.sb, .power] s t ∧ t.power = { s.power with addrMatch := true } ∧ t.sb.state = .ignoring ∧
        t.sb.nak = 1) ∧
    (s.power.state = .retention → Answers .retentionWake s fun t => Within [.links, .pll, .sb, .power] s t ∧ t.power.state = .waking ∧
      t.power.since = s.now ∧ t.pll = { s.pll with state := .waitref, since := s.now } ∧ t.sb.state = .ignoring ∧ t.sb.nak = 1) ∧
    (s.power.state = .waking →
      (s.pll.state ≠ .locked ∨ s.chans.any (fun e => e.2.state == .selfref) = true → Answers .retentionExitDone s fun t => t = s) ∧
      (s.pll.state = .locked → s.chans.any (fun e => e.2.state == .selfref) = false → Answers .retentionExitDone s fun t =>
        Within [.now, .freeCtr, .hdrs, .flds, .links, .chans, .vecs, .merid, .time, .power] s t ∧
        t.power.state = (if targetState s = 3 then .dark else if targetState s = 2 then .dim else .active) ∧
        t.power.wasActive = [] ∧ Counted Pg.pwr F.PWR_PCNT_WAKES s t ∧ fget t Pg.pwr F.PWR_WAKESRC_KIND = 3 ∧
        EventSet t Pg.pwr E.PWR_RET_WOKE ∧
        (∀ l ∈ s.power.wasActive, linkActive s l = true → sbyLevel (s.link l) ≠ 0 → (t.link l).standby = .none ∧
          (t.link l).gseqTx = 1 ∧ (t.link l).groupOut = some (0, (s.link l).active))) ∧
      (∀ l : Fin 20, s.power.wasActive.contains l.val = true →
        s.power.filledAt.isSome = true ∨ clocksOff s = false ∧ s.chans.any (fun e => e.2.state == .selfref) = false →
        Answers (.partnerNoAnswer l) s fun t =>
          Within [.now, .freeCtr, .hdrs, .flds, .links, .accs, .commits, .regions, .jobs, .bells, .vecs, .groups, .time, .ring, .power] s t ∧
          s.power.filledAt.getD s.now + us 40 ≤ t.now ∧
          (t.link l).state = .detect ∧ Counted (Pg.link l) F.HP_LCNT_RETRAINS s t ∧ l.val ∉ t.power.wasActive) ∧
      (∀ l : Fin 20, s.power.filledAt = none → clocksOff s = true ∨ s.chans.any (fun e => e.2.state == .selfref) = true →
        Answers (.partnerNoAnswer l) s fun t => t = s))

/-! ### Training and set points -/

/-- Campaigns (R234 to R239, R249, R254, R441): a campaign starts on a channel that may train, with its path and first step and the bay's DRAM reset pin
driven high; one that passes brings the channel to READY, one that fails leaves it ABSENT at start-up or FAILED in service, and a fast one that fails,
or whose entry does not fit, goes on as a full or set-point one; parts outside R199 make the channel ABSENT with cause IDMISM, and one that does not
answer within 10 ms of step 1 or F1 with cause NORESP. A short retraining moves the common delays and takes a new baseline, and fails the channel on
its second failure. (The model's choices and readings here: log 2, 9, 12, 55, 81.) -/
def Obligations.ChannelsTrain : Prop :=
  ∀ (s : State) (ch : Fin 64), coreRuns s = true → inSafe s = false →
    ((s.chan ch).camp = none →
      ((s.chan ch).state = .tracking → Answers (.trainingCampaign ch .short) s fun t => Within [.flds, .chans] s t ∧
        (t.chan ch).state = .tracking ∧ (t.chan ch).camp = some { kind := .short, since := s.now, ready := true } ∧
        fget t (Pg.ch ch) F.CH_TRSTAT_PATH = 3 ∧ ∀ c, c ≠ ch.val → t.chan c = s.chan c) ∧
      (∀ kind, kind = .fast ∨ kind = .full → ((s.chan ch).inReset = true ∨ startupMay s ch = true) →
        Answers (.trainingCampaign ch kind) s fun t => Within [.flds, .chans, .boot] s t ∧
          OtherFields (Pg.ch ch) [F.CH_TRSTAT_CAUSE, F.CH_TRSTAT_STEP, F.CH_TRSTAT_PATH] s t ∧ (t.chan ch).state = .training ∧
          (t.chan ch).camp = some { kind := pathFor s ch kind, startup := !(s.chan ch).inReset, since := s.now } ∧
          fget t (Pg.ch ch) F.CH_TRSTAT_STEP = (if pathFor s ch kind = .fast then 11 else 1) ∧ fget t (Pg.ch ch) F.CH_TRSTAT_CAUSE = 0 ∧
          t.boot = { s.boot with drst := s.boot.drst ||| BitVec.ofNat 8 (2 ^ (ch.val / 8)) } ∧ ∀ c, c ≠ ch.val → t.chan c = s.chan c)) ∧
    (∀ (m : Camp), (s.chan ch).camp = some m →
      (m.stopped = true → Answers (.trainingCampaign ch m.kind) s fun t => Within [.flds, .chans, .boot] s t ∧
        ∃ m', (t.chan ch).camp = some m' ∧ m'.kind = m.kind ∧ m'.stopped = false ∧ m'.since = s.now ∧ m'.tries = 0) ∧
      (m.stopped = false → m.kind ≠ .short → campWaits s m = false → ∀ r : CampaignResult,
        (m.fromStart = true → partsOk r.parts = true) →
        (m.kind ≠ .fast → r.fail = none → Answers (.campaignEnd ch r) s fun t =>
          Within [.flds, .chans, .boot] s t ∧ (t.chan ch).camp = none ∧ (t.chan ch).rate = s.pll.wck ∧
          Counted (Pg.ch ch) F.CH_TRCNT_FULL s t ∧ (t.chan ch).state = (if (s.chan ch).inReset then (s.chan ch).state else .ready) ∧
          fget t (Pg.ch ch) F.CH_TRSTAT_STEP = (if m.kind = .full then 10 else 9) ∧ fget t (Pg.ch ch) F.CH_TRSTAT_CAUSE = 0 ∧
          t.boot.almWant = true ∧
          (m.fromStart = true → (t.chan ch).ranks = (if r.parts.ranks2 then 2 else 1) ∧ (t.chan ch).density = r.parts.density0.val ∧
            (t.chan ch).id = rankIds (if r.parts.ranks2 then 2 else 1) r.parts.id) ∧
          (m.setPoint = false → ∀ c, c ≠ ch.val → t.chan c = s.chan c)) ∧
        (∀ k, m.kind = .fast → k = (onlyIf m.fromStart (reports ch r.parts) s).chan ch →
          ((almEntry s ch s.pll.wck).any (fun e => entryMatches e k.ranks k.density k.id) = true → fastFails s ch m r.check = none →
            Answers (.campaignEnd ch r) s fun t => Within [.flds, .chans] s t ∧ Counted (Pg.ch ch) F.CH_TRCNT_FAST s t ∧
              (t.chan ch).camp = none ∧ fget t (Pg.ch ch) F.CH_TRSTAT_STEP = (if m.fromStart then 15 else 14) ∧
              (t.chan ch).state = (if (s.chan ch).inReset then (s.chan ch).state else .ready) ∧
              (m.setPoint = false → ∀ c, c ≠ ch.val → t.chan c = s.chan c)) ∧
          ((almEntry s ch s.pll.wck).any (fun e => entryMatches e k.ranks k.density k.id) = false ∨
              (fastFails s ch m r.check).isSome = true →
            Answers (.campaignEnd ch r) s fun t => Within [.flds, .chans, .boot] s t ∧ (t.chan ch).state = .training ∧
              (t.chan ch).camp = some { m with
                kind := if m.fromStart then .full else .setPoint, since := s.now, ready := !m.fromStart, past := !m.fromStart, stopped := false } ∧
              ((almEntry s ch s.pll.wck).any (fun e => entryMatches e k.ranks k.density k.id) = true →
                fget t (Pg.ch ch) F.CH_TRSTAT_CAUSE = 7) ∧
              Counted (Pg.ch ch) F.CH_TRCNT_FAST s t)) ∧
        (∀ f, m.kind = .full → m.startup = true → r.fail = some f → Answers (.campaignEnd ch r) s fun t =>
          Within [.flds, .chans] s t ∧ (t.chan ch).state = .absent ∧ (t.chan ch).camp = none ∧
          fget t (Pg.ch ch) F.CH_TRSTAT_CAUSE = failCause f ∧ fget t (Pg.ch ch) F.CH_TRSTAT_STEP = failStep m f) ∧
        (∀ f, m.kind ≠ .fast → m.startup = false → (s.chan ch).inReset = false → r.fail = some f →
          Answers (.campaignEnd ch r) s fun t =>
            Within [.hdrs, .flds, .links, .accs, .commits, .chans, .regions, .queues, .bells, .jobs, .vecs, .groups, .pll, .ring, .safe] s t ∧
            (t.chan ch).state = .failed ∧ (t.chan ch).camp = none ∧ EventSet t (Pg.ch ch) E.CH_FAIL ∧
            fget t (Pg.ch ch) F.CH_TRSTAT_CAUSE = failCause f ∧ (m.setPoint = true → EventSet t Pg.clk E.CLK_DSP_FAIL))) ∧
      (m.stopped = false → m.kind = .full ∨ m.kind = .fast → m.startup = true → campWaits s m = false →
        (∀ r : CampaignResult, partsOk r.parts = false → Answers (.campaignEnd ch r) s fun t => Within [.flds, .chans] s t ∧
          (t.chan ch).state = .absent ∧ (t.chan ch).camp = none ∧ fget t (Pg.ch ch) F.CH_TRSTAT_CAUSE = 2 ∧
          fget t (Pg.ch ch) F.CH_TRSTAT_STEP = (if m.kind = .fast then 11 else 1)) ∧
        (m.past = false → Answers (.channelNoresp ch) s fun t =>
          Within [.now, .flds, .chans, .time] s t ∧ (t.chan ch).state = .absent ∧ (t.chan ch).camp = none ∧
          fget t (Pg.ch ch) F.CH_TRSTAT_CAUSE = 1 ∧ fget t (Pg.ch ch) F.CH_TRSTAT_STEP = (if m.kind = .fast then 11 else 1) ∧
          m.since + ms 10 ≤ t.now)) ∧
      (∀ found : Recentred, m.kind = .short → m.stopped = false →
        (Answers (.shortRetrainDone ch true found) s fun t => Within [.flds, .chans, .regions, .boot] s t ∧ (t.chan ch).state = .ready ∧
          (t.chan ch).camp = none ∧ (t.chan ch).delays = ((moveCommon ch found.moves s).chan ch).delays ∧
          (t.chan ch).osc = padTo 8 found.osc ∧ Counted (Pg.ch ch) F.CH_TRCNT_SHORT s t) ∧
        (m.tries = 0 → Answers (.shortRetrainDone ch false found) s fun t => Within [.chans] s t ∧
          t.chan ch = { (s.chan ch) with camp := some { m with tries := 1, since := s.now } } ∧ ∀ c, c ≠ ch.val → t.chan c = s.chan c) ∧
        (m.tries ≠ 0 → Answers (.shortRetrainDone ch false found) s fun t =>
          Within [.hdrs, .flds, .links, .accs, .commits, .chans, .regions, .queues, .bells, .jobs, .vecs, .groups, .pll, .ring, .safe] s t ∧
          (t.chan ch).state = .failed ∧ Counted (Pg.ch ch) F.CH_TRCNT_SHORT s t)))

/-- The training registers (R241 to R244): the management core writes them in TRAINING and TRACKING only; GO begins a sweep with its counters at 0 and the
selected delay at START, a sweep ends by itself, by ABORT or after 1 ms with the delay it began with back in place and its points counted, TRUNC where
it did not come to the last in time; an access of URDATA moves INDEX on by one. The core's access to a channel that sleeps wakes the device first
(R349). (The model's choices and readings here: log 2, 55.) -/
def Obligations.SweepsAndPatterns : Prop :=
  ∀ (s : State) (ch : Fin 64),
    ((s.chan ch).state = .training ∨ (s.chan ch).state = .tracking →
      (∀ n, sweepPoints s ch = some n → (s.chan ch).sweep = none → Answers (.sweepGo .core ch) s fun t =>
        let s := wakeFor .core (Pg.ch ch) s
        Within [.flds, .chans] s t ∧
        OtherFields (Pg.ch ch) [F.CH_SWSTAT_TRUNC, F.CH_SWSTAT_NPTS] s t ∧ fget t (Pg.ch ch) F.CH_SWSTAT_TRUNC = 0 ∧
        fget t (Pg.ch ch) F.CH_SWSTAT_NPTS = 0 ∧ (t.chan ch).berr = List.replicate 18 0 ∧ (t.chan ch).results = [] ∧
        (fget s (Pg.ch ch) F.CH_SWCTL_OP = 0 → (t.chan ch).rdc = (List.range 4).map (tget 0 (s.chan ch).userRam)) ∧
        ∃ w, (t.chan ch).sweep = some w ∧ w.points = n ∧ w.since = s.now ∧ w.saved = tget 0 (s.chan ch).delays w.key ∧
          tget 0 (t.chan ch).delays w.key = fget s (Pg.ch ch) F.CH_SWRANGE_START) ∧
      (sweepPoints s ch = none ∨ (s.chan ch).sweep.isSome = true → Answers (.sweepGo .core ch) s fun t =>
        let s := wakeFor .core (Pg.ch ch) s
        Within [.hdrs, .vecs] s t ∧
        EventSet t (Pg.ch ch) E.CH_CFGERR) ∧
      (∀ v : Word, Answers (.urdataAccess .core ch (some v)) s fun t =>
        let s := wakeFor .core (Pg.ch ch) s
        Within [.flds, .chans] s t ∧
        OtherFields (Pg.ch ch) [F.CH_URSEL_INDEX] s t ∧ (t.chan ch).userRam =
          tset (s.chan ch).userRam (fget s (Pg.ch ch) F.CH_URSEL_INDEX) (ext v.toNat 0 18) ∧
        fget t (Pg.ch ch) F.CH_URSEL_INDEX = (fget s (Pg.ch ch) F.CH_URSEL_INDEX + 1) % 64)) ∧
    ((s.chan ch).state ≠ .training → (s.chan ch).state ≠ .tracking → ∀ c : Instr, c = .sweepGo .core ch ∨ (∃ b, c = .sweepAbort .core ch b) ∨
      (∃ v, c = .urdataAccess .core ch (some v)) → Answers c s fun t => let s := wakeFor .core (Pg.ch ch) s
        Within [.hdrs, .vecs] s t ∧ EventSet t (Pg.ch ch) E.CH_CFGERR) ∧
    (∀ (w : Sweep) (beats : List (List (BitVec 18))) (c : Instr) (trunc : Nat) (u : State), (s.chan ch).sweep = some w →
      (c = .sweepDone ch beats ∧ u = s ∧ trunc = (if s.now ≤ w.since + ms 1 ∧ w.points ≤ beats.length then 0 else 1)) ∨
        (c = .sweepTruncate ch beats ∧ u = s ∧ trunc = 1) ∨
        (c = .sweepAbort .core ch beats ∧ u = wakeFor .core (Pg.ch ch) s ∧ trunc = 1 ∧ ((s.chan ch).state = .training ∨ (s.chan ch).state = .tracking)) →
      Answers c s fun t => Within [.now, .flds, .chans, .time] u t ∧
        OtherFields (Pg.ch ch) [F.CH_SWSTAT_TRUNC, F.CH_SWSTAT_NPTS] u t ∧ (t.chan ch).sweep = none ∧
        (t.chan ch).delays = tset (s.chan ch).delays w.key w.saved ∧ (t.chan ch).results.length = (beats.take w.points).length ∧
        fget t (Pg.ch ch) F.CH_SWSTAT_TRUNC = trunc ∧ fget t (Pg.ch ch) F.CH_SWSTAT_NPTS = (beats.take w.points).length % 256 ∧
        (c = .sweepTruncate ch beats → w.since + ms 1 ≤ t.now) ∧ ∀ d, d ≠ ch.val → t.chan d = u.chan d) ∧
    (∀ src, mayRead s src (Pg.ch ch) = true → Answers (.urdataAccess src ch none) s fun t =>
      let s := wakeFor src (Pg.ch ch) s
      Within [.busResult, .flds] s t ∧
      t.busResult = some (BitVec.ofNat 32 (tget 0 (s.chan ch).userRam (fget s (Pg.ch ch) F.CH_URSEL_INDEX))) ∧
      fget t (Pg.ch ch) F.CH_URSEL_INDEX = (fget s (Pg.ch ch) F.CH_URSEL_INDEX + 1) % 64 ∧
      OtherFields (Pg.ch ch) [F.CH_URSEL_INDEX] s t)

/-- Set-point changes (R249 to R253): a request for the set point in use is done at once; one with king-post regions, or during a change, is refused; one
during campaigns waits and starts once no sweep of theirs runs, and they are abandoned; else it starts: WCK changes and every channel in service
trains for the new set point. When none is left training the change is done. In SAFE none runs. An almanac write goes on operation by operation, two
erases and then the pages of the copy, and frees the entries that the copy holds at its end; a worn area refuses it. (The model's choices and readings
here: log 3, 55, 94, 105, 106.) -/
def Obligations.SetPointsChange : Prop :=
  ∀ (s : State) (target : BitVec 2),
    (∀ src, mayWrite s src Pg.clk F.CLK_DSPREQ_GO.off = true →
      (inSafe s = true → Answers (.dspreq src target) s fun t => Within [.flds] s t ∧ OtherFields Pg.clk [F.CLK_DSPREQ_TARGET] s t) ∧
      (inSafe s = false →
      (target.toNat = fget s Pg.clk F.CLK_DSPSTAT_CURRENT → Answers (.dspreq src target) s fun t => Within [.hdrs, .flds, .vecs] s t ∧
        OtherFields Pg.clk [F.CLK_DSPREQ_TARGET] s t ∧ EventSet t Pg.clk E.CLK_DSP_DONE) ∧
      (target.toNat ≠ fget s Pg.clk F.CLK_DSPSTAT_CURRENT →
        (∀ cause, (kpSum s ≠ 0 ∧ cause = 1) ∨ (kpSum s = 0 ∧ 2 ≤ dspState s ∧ cause = 2) → Answers (.dspreq src target) s fun t =>
          Within [.hdrs, .flds, .vecs] s t ∧ OtherFields Pg.clk [F.CLK_DSPREQ_TARGET, F.CLK_DSPSTAT_REFUSED] s t ∧
          fget t Pg.clk F.CLK_DSPSTAT_REFUSED = cause ∧ EventSet t Pg.clk E.CLK_DSP_REFUSED) ∧
        (kpSum s = 0 → dspState s = 1 → Answers (.dspreq src target) s fun t => Within [.flds] s t ∧
          OtherFields Pg.clk [F.CLK_DSPREQ_TARGET, F.CLK_DSPSTAT_TARGET] s t ∧ fget t Pg.clk F.CLK_DSPSTAT_TARGET = target.toNat) ∧
        (kpSum s = 0 → dspState s = 0 → (s.chans.any fun e => e.2.camp.isSome) = true → Answers (.dspreq src target) s fun t =>
          Within [.hdrs, .flds, .vecs] s t ∧ dspState t = 1 ∧ fget t Pg.clk F.CLK_DSPSTAT_TARGET = target.toNat ∧
          EventSet t Pg.clk E.CLK_DSP_DEFER) ∧
        (kpSum s = 0 → dspState s = 0 → (s.chans.any fun e => e.2.camp.isSome) = false → Answers (.dspreq src target) s fun t =>
          Within [.flds, .accs, .chans, .mem, .pll] s t ∧ t.pll = { s.pll with wck := target.toNat, dspFail := none } ∧
          fget t Pg.clk F.CLK_DSPSTAT_TARGET = target.toNat ∧ 2 ≤ dspState t ∧
          ∀ ch : Fin 64, (dspTrains s ch = true → (t.chan ch).state = .training ∧ (t.chan ch).rate = target.toNat ∧
            ∃ m, (t.chan ch).camp = some m ∧ m.setPoint = true) ∧ (dspTrains s ch = false → t.chan ch = s.chan ch))))) ∧
    (dspState s = 1 → gathering s = true ∨ inSafe s = true → Answers .setPointChangeStart s fun t => t = s) ∧
    (dspState s = 1 → gathering s = false → inSafe s = false → Answers .setPointChangeStart s fun t =>
      Within [.flds, .accs, .chans, .mem, .pll, .boot] s t ∧ 2 ≤ dspState t ∧
      t.pll.wck = fget s Pg.clk F.CLK_DSPSTAT_TARGET ∧
      ∀ ch : Fin 64, (s.chan ch).camp.isSome = true → Counted (Pg.ch ch) F.CH_TRCNT_ABANDON s t ∧
        fget t (Pg.ch ch) F.CH_TRSTAT_CAUSE = 8 ∧ (chFailed s ch = false → ∃ m, (t.chan ch).camp = some m ∧ m.setPoint = true)) ∧
    (2 ≤ dspState s → dspCamp s (fun _ => true) = false →
      (s.boot.waiting = [] → Answers .setPointChangeEnd s fun t => Within [.hdrs, .flds, .vecs, .boot] s t ∧
        t.boot = { s.boot with almWant := true } ∧
        OtherFields Pg.clk [F.CLK_DSPSTAT_CURRENT, F.CLK_DSPSTAT_STATE] s t ∧ dspState t = 0 ∧
        fget t Pg.clk F.CLK_DSPSTAT_CURRENT = fget s Pg.clk F.CLK_DSPSTAT_TARGET % 4 ∧ EventSet t Pg.clk E.CLK_DSP_DONE) ∧
      (∀ (ch : Fin 64) (bad : List Nat), s.boot.waiting = [(ch.val, bad)] → Answers .setPointChangeEnd s fun t =>
        dspState t = 0 ∧ t.boot = { s.boot with waiting := [], almWant := true } ∧ (t.chan ch).state = .reset ∧ (t.chan ch).inReset = true)) ∧
    (s.flash.almJob = none → s.boot.almWant = false → Answers .almanacWrite s fun t => t = s) ∧
    (coreRuns s = true → inSafe s = false → s.flash.almJob = none → s.boot.almWant = true → ∀ d, d = almTarget s →
      (bankFree s d = false → Answers .almanacWrite s fun t => Within [.boot, .flash] s t ∧ t.boot = { s.boot with almWant := false } ∧
        t.flash = { s.flash with almJob := some { area := d, copy := almNext s } }) ∧
      (∀ p, bankFree s d = true → areaWorn s d = false → (s.fbank d).susp = none → nextSector s d = some p →
        Answers .almanacWrite s fun t => Within [.boot, .flash] s t ∧ t.boot.almWant = false ∧ t.flash.bytes = s.flash.bytes ∧
          t.flash.almJob = some { area := d, copy := almNext s } ∧
          ∃ o, (t.fbank d).op = some o ∧ o.work = .erase (areaSector d p) 1 (some 0) 0 ∧ o.owner = .almanac ∧ o.since = s.now) ∧
      (bankFree s d = true → areaWorn s d = true → Answers .almanacWrite s fun t => Within [.hdrs, .vecs, .boot, .flash] s t ∧
        t.boot.almWant = true ∧ t.flash.almJob = none ∧ EventSet t Pg.flsh E.FLSH_AREA_FULL)) ∧
    (∀ j, s.flash.almJob = some j → coreRuns s = true → inSafe s = false → bankFree s j.area = true → 2 ≤ j.next →
      (nextPage j.copy (j.next - 2) = none → Answers .almanacWrite s fun t => Within [.chans, .flash] s t ∧
        t.flash = { s.flash with almJob := none } ∧
        ∀ ch, (t.chan ch).entry = (s.chan ch).entry.filter fun e => e.2 != entryBytes j.copy ch e.1) ∧
      (∀ p q, nextPage j.copy (j.next - 2) = some p → holder s j.area (p / 256) = some q → Answers .almanacWrite s fun t =>
        Within [.boot, .flash] s t ∧ t.flash.bytes = s.flash.bytes ∧ t.flash.almJob = some { j with next := p + 2 } ∧
        ∃ o, (t.fbank j.area).op = some o ∧ o.owner = .almanac ∧
          o.work = .program (areaSector j.area q * 65536 + p % 256 * 256) (almPage j.copy p)))

/-! ### The root PLL and the outputs -/

/-- The PLL follows its reference (R264, R265, R269 to R275): it acquires a qualified REFCLK and locks, or runs free 10 ms after the start; a lost,
stepped or unlocked reference makes it coast; one within 200 ppm of nominal that has qualified without a missing edge then makes it relock along a
ramp of at most 2 ppm in 10 µs; a measured offset up to 1 ns is slewed out, a larger one waits for the policy of PJCFG.AUTO. (The model's choices and
readings here: log 2, 9, 54, 87.) -/
def Obligations.ThePllFollowsItsReference : Prop :=
  ∀ s : State,
    (∀ ferr : Int,
      (s.pll.state = .waitref ∨ s.pll.state = .freerun → Answers (.refclkQualified ferr) s fun t => Within [.pll] s t ∧
        t.pll = { s.pll with state := .acquire, refpres := true, freq := ferr }) ∧
      (s.pll.state = .coast → Answers (.refclkQualified ferr) s fun t => Within [.now, .pll, .time] s t ∧
        s.pll.since + ms (fget s Pg.clk F.CLK_CSTCFG_QUALT) ≤ t.now ∧
        (200000 < (s.pll.freq + ferr).natAbs → t.pll = { s.pll with refpres := true, ferr := max (-32767) (min 32767 ferr) }) ∧
        ((s.pll.freq + ferr).natAbs ≤ 200000 →
          t.pll = { s.pll with
            state := .relock, refpres := true, ramp := ferr, rampAt := t.now, freq := s.pll.freq + ferr
            ferr := max (-32767) (min 32767 ferr) }))) ∧
    (s.pll.state = .waitref → Answers .freerun s fun t => Within [.now, .hdrs, .flds, .vecs, .pll, .time, .boot, .power, .safe] s t ∧
      t.pll = { s.pll with state := .freerun } ∧ EventSet t Pg.clk E.CLK_FREERUN ∧ s.pll.since + ms 10 ≤ t.now ∧
      (s.boot.state = .pll → s.boot.held = false → t.boot.state = .flashchk ∧ t.boot.coreUp = true)) ∧
    (s.pll.state = .acquire → Answers .pllLock s fun t => Within [.hdrs, .flds, .chans, .vecs, .pll, .boot, .power, .safe] s t ∧
      (s.power.state ≠ .waking → t.chans = s.chans ∧ t.flds = s.flds ∧ t.power = s.power) ∧
      (s.power.state = .waking → (∀ ch, (s.chan ch).state = .selfref → (t.chan ch).exiting = true) ∧
        fget t Pg.clk (F.CLK_OUTk_EN.shift 8) = 1 ∧ t.power = { s.power with since := s.now }) ∧
      t.pll = { s.pll with state := .locked, offset := 0 } ∧ EventSet t Pg.clk E.CLK_LOCK ∧
      (s.boot.state = .pll → s.boot.held = false → t.boot.state = .flashchk ∧ t.boot.coreUp = true) ∧
      (s.boot.state ≠ .pll → t.boot = s.boot)) ∧
    (s.pll.state = .locked ∨ s.pll.state = .slew → ∀ (c : Instr) (p : Nat → Prop),
      (c = .refclkLoss ∧ p = (fun _ => False)) ∨ (c = .refStep ∧ p = (· = E.CLK_REF_STEP)) ∨ (c = .unlock ∧ p = (· = E.CLK_UNLOCK)) →
      Answers c s fun t => Within [.hdrs, .flds, .vecs, .pll] s t ∧ t.pll.state = .coast ∧
        t.pll.coastSince = some (s.pll.coastSince.getD s.now) ∧ t.pll.offset = s.pll.offset ∧ t.pll.hostSlew = false ∧
        Counted Pg.clk F.CLK_CSTCNT_COASTS s t ∧ OtherFields Pg.clk [F.CLK_CSTCNT_COASTS] s t ∧ EventSet t Pg.clk E.CLK_COAST ∧
        ∀ e, p e → EventSet t Pg.clk e) ∧
    (s.pll.state = .relock ∨ s.pll.state = .pjwait → Answers .refclkLoss s fun t => Within [.hdrs, .flds, .vecs, .pll] s t ∧
      t.pll.state = .coast ∧ t.pll.refpres = false ∧ EventSet t Pg.clk E.CLK_COAST) ∧
    (s.pll.state = .acquire → Answers .refclkLoss s fun t => Within [.pll] s t ∧
      t.pll = { s.pll with state := .waitref, refpres := false }) ∧
    (s.pll.state = .step → Answers .refclkLoss s fun t => Within [.pll] s t ∧
      t.pll = { s.pll with refpres := false, stepLost := true }) ∧
    (s.pll.state = .coast → Answers .refclkLoss s fun t => Within [.pll] s t ∧
      t.pll = { s.pll with refpres := false, since := s.now }) ∧
    (∀ (c : Instr) (e : Nat), (s.pll.state = .pjwait ∧ c = .refStep ∧ e = E.CLK_REF_STEP) ∨
        (s.pll.state = .step ∧ s.pll.stepLost = false ∧ c = .unlock ∧ e = E.CLK_UNLOCK) →
      Answers c s fun t => Within [.hdrs, .flds, .vecs, .pll] s t ∧ t.pll.state = .coast ∧ t.pll.offset = offsetNow s ∧
        EventSet t Pg.clk E.CLK_COAST ∧ EventSet t Pg.clk e) ∧
    (s.pll.state = .relock → Answers .relockRampStep s fun t => Within [.now, .pll, .time] s t ∧ s.pll.rampAt + us 10 ≤ t.now ∧
      ∃ r : Int, t.pll = { s.pll with ramp := r, rampAt := t.now } ∧
      (2000 < s.pll.ramp → r = s.pll.ramp - 2000) ∧ (s.pll.ramp < -2000 → r = s.pll.ramp + 2000) ∧
      (s.pll.ramp.natAbs ≤ 2000 → r = 0)) ∧
    (∀ d : Int, s.pll.state = .relock → s.pll.ramp = 0 → -5000 ≤ d → d < 5000 →
      (d = 0 → Answers (.phaseMeasured d) s fun t => Within [.hdrs, .flds, .vecs, .pll] s t ∧ t.pll.state = .locked ∧
        t.pll.coastSince = none ∧ EventSet t Pg.clk E.CLK_RELOCK ∧ EventSet t Pg.clk E.CLK_SLEW_DONE) ∧
      (d ≠ 0 → d.natAbs ≤ 1000 → Answers (.phaseMeasured d) s fun t => Within [.flds, .pll] s t ∧ t.pll.state = .slew ∧
        t.pll.offset = d ∧ t.pll.hostSlew = false ∧ t.pll.coastSince = none) ∧
      (1000 < d.natAbs → Answers (.phaseMeasured d) s fun t => Within [.hdrs, .flds, .vecs, .pll] s t ∧ t.pll.offset = d ∧
        t.pll.jump = d ∧ EventSet t Pg.clk E.CLK_PHASE_JUMP ∧ Counted Pg.clk F.CLK_CSTCNT_JUMPS s t ∧
        (fget s Pg.clk F.CLK_PJCFG_AUTO = 0 → t.pll.state = .pjwait) ∧
        (fget s Pg.clk F.CLK_PJCFG_AUTO = 1 → t.pll.state = .slew ∧ t.pll.hostSlew = true) ∧
        (fget s Pg.clk F.CLK_PJCFG_AUTO = 2 → t.pll.state = .pjwait ∨ t.pll.state = .step)))

/-- Phase jumps, clock monitors and outputs (R260, R262, R268, R270, R276, R277): in PJWAIT a command starts a slew or a step, and elsewhere it is refused
with CFGERR; an epoch of a slew moves at most SLEWRATE ps; a step ends with the offset gone; a failed monitor is a fault of device scope; only CK_JOIN
and the SerDes reference can be switched, and only while nothing uses them; FDLY moves the edge of its output, those of CK_CORE and CK_JOIN together;
DSEED loads the dither register. (The model's choices and readings here: log 2, 54, 88.) -/
def Obligations.PhaseJumpsAndOutputs : Prop :=
  ∀ s : State,
    (∀ src, mayWrite s src Pg.clk F.CLK_PJCMD_SLEW.off = true →
      (s.pll.state = .pjwait → s.pll.offset ≠ 0 → Answers (.pjcmdSlew src) s fun t => Within [.flds, .pll] s t ∧ t.pll.state = .slew ∧
        t.pll.hostSlew = true ∧ t.pll.offset = s.pll.offset ∧ t.pll.coastSince = none) ∧
      (s.pll.state = .pjwait → pjWindow s = true → stepFits s = true → Answers (.pjcmdStep src) s fun t => Within [.flds, .pll] s t ∧
        t.pll.state = .step ∧ t.pll.stepAt = s.now ∧ t.pll.offset = s.pll.offset) ∧
      (s.pll.state = .pjwait → pjWindow s = true → stepFits s = false → Answers (.pjcmdStep src) s fun t => Within [.pll] s t ∧
        t.pll = { s.pll with stepWait := true }) ∧
      (s.pll.state = .pjwait → pjWindow s = false → Answers (.pjcmdStep src) s fun t => Within [.hdrs, .vecs] s t ∧
        EventSet t Pg.clk E.CLK_CFGERR) ∧
      (s.pll.state ≠ .pjwait → ∀ c, c = .pjcmdSlew src ∨ c = .pjcmdStep src → Answers c s fun t => Within [.hdrs, .vecs] s t ∧
        EventSet t Pg.clk E.CLK_CFGERR)) ∧
    (∀ r : Int, s.pll.state = .slew →
      r = (if s.pll.hostSlew then (fget s Pg.clk F.CLK_PJCFG_SLEWRATE : Int) else min (fget s Pg.clk F.CLK_PJCFG_SLEWRATE : Int) 10) →
      (r < s.pll.offset → Answers .slewEpochWithoutPulse s fun t => Within [.now, .pll, .time] s t ∧ t.pll.state = .slew ∧
        t.pll.offset = s.pll.offset - r ∧ s.pll.slewAt + ms 10 ≤ t.now ∧ ∀ p, s.merid.lastPulse = some p → p + ms 100 ≤ t.now) ∧
      (s.pll.offset.natAbs ≤ r → Answers .slewEpochWithoutPulse s fun t => Within [.now, .hdrs, .vecs, .pll, .time] s t ∧
        t.pll.state = .locked ∧ t.pll.offset = 0 ∧ EventSet t Pg.clk E.CLK_SLEW_DONE ∧ EventSet t Pg.clk E.CLK_RELOCK)) ∧
    (s.pll.state = .step →
      (s.pll.stepLost = false → Answers .stepDone s fun t => Within [.now, .hdrs, .vecs, .pll, .time] s t ∧
        t.pll = { s.pll with state := .locked, offset := 0, stepLost := false } ∧ EventSet t Pg.clk E.CLK_STEP_DONE ∧
        EventSet t Pg.clk E.CLK_RELOCK ∧ s.pll.stepAt + stepUnits s.pll.offset ≤ t.now) ∧
      (s.pll.stepLost = true → Answers .stepDone s fun t => Within [.now, .hdrs, .flds, .vecs, .pll, .time] s t ∧
        t.pll.state = .coast ∧ t.pll.offset = 0 ∧ EventSet t Pg.clk E.CLK_STEP_DONE ∧ EventSet t Pg.clk E.CLK_COAST)) ∧
    (inSafe s = false → inWarm s = false → ∀ mon : Fin 8, mon.val = 6 ∨ (mon.val = 7 ∧ s.pll.state = .locked) ∨
        (mon.val < 6 ∧ fget s Pg.clk (F.CLK_OUTk_EN.shift (4 * mon)) ≠ 0) →
      Answers (.clockMonitorFail mon) s fun t =>
        Within [.hdrs, .flds, .links, .accs, .commits, .regions, .queues, .bells, .jobs, .vecs, .ring, .safe] s t ∧ t.safe.state = .entering ∧
        t.safe.fnDrv = true ∧ EventSet t Pg.clk (if mon.val = 6 then E.CLK_SYNC_ERR else E.CLK_MON_FAIL) ∧
        (mon.val < 6 → (fget t Pg.clk F.CLK_MONSTAT_OUTFAIL).testBit mon = true)) ∧
    (∀ src (out : Fin 6), mayWrite s src Pg.clk (F.CLK_OUTk_EN.off + 4 * out) = true →
      (∀ en : Bool, out.val = 1 ∨ out.val = 4 → (en = false → if out.val = 1 then s.jobs.any (·.slot) = false else
          (s.links.any fun l => l.2.state != .off) = false) → Answers (.clkOutputEnable src out en) s fun t => Within [.flds] s t ∧
        fget t Pg.clk (F.CLK_OUTk_EN.shift (4 * out)) = b2n en ∧ OtherFields Pg.clk [F.CLK_OUTk_EN.shift (4 * out)] s t) ∧
      (∀ en : Bool, out.val ≠ 1 → out.val ≠ 4 → Answers (.clkOutputEnable src out en) s fun t =>
        Within [.hdrs, .vecs] s t ∧ EventSet t Pg.clk E.CLK_CFGERR) ∧
      (∀ v : BitVec 8, (out.val = 0 → Answers (.fdlyWrite src out v) s fun t => Within [.flds, .pll] s t ∧
          (∀ k, k = 0 ∨ k = 1 → fget t Pg.clk (F.CLK_OUTk_FDLY.shift (4 * k)) = min 128 v.toNat ∧ fineNow t k = fineNow s k) ∧
          OtherFields Pg.clk [F.CLK_OUTk_FDLY, F.CLK_OUTk_FDLY.shift 4] s t) ∧
        (out.val = 1 → Answers (.fdlyWrite src out v) s fun t => t = s) ∧
        (3 ≤ out.val → Answers (.fdlyWrite src out v) s fun t => Within [.flds, .pll] s t ∧
          fget t Pg.clk (F.CLK_OUTk_FDLY.shift (4 * out)) = min 128 v.toNat ∧ fineNow t out = fineNow s out ∧
          OtherFields Pg.clk [F.CLK_OUTk_FDLY.shift (4 * out)] s t))) ∧
    (∀ src (seed : Word), mayWrite s src Pg.clk F.CLK_DSEED_SEED.off = true → Answers (.dseedWrite src seed) s fun t =>
      Within [.flds, .pll] s t ∧ OtherFields Pg.clk [F.CLK_DSEED_SEED] s t ∧ fget t Pg.clk F.CLK_DSEED_SEED = seed.toNat ∧
      t.pll = { s.pll with lfsr := if seed = 0 then 0xFFFFFFFF else seed, lfsrAt := s.now })

/-! ### Time -/

/-- Time groups (R287 to R293, R298): an LDLY goes out with the next number and the echo of the last one; a received LDLY gives the echo, the neighbour
and, with an echo, a round trip; the entry of a ring sends a SYNC out of its ports, each no sooner than SYNCINT after the last; a member on whose ring
a SYNC comes forwards it with one hop more and takes its direction's offset and the schedule; a group with a bad word changes no time; without SYNC
the unit holds. (The model's choices and readings here: log 2, 56, 58.) -/
def Obligations.TimeGroupsTravel : Prop :=
  ∀ (s : State) (p : Fin 4),
    (linkActive s (16 + p) = true → timeSilent s = false → Answers (.ldlySend p) s fun t =>
      Within [.now, .freeCtr, .links, .time, .ring] s t ∧
      OtherLinks [16 + p] s t ∧ (t.rlink p).ldlySeq = ((s.rlink p).ldlySeq + 1) % 65536 ∧ (t.rlink p).echo = (s.rlink p).echo ∧
      (t.rlink p).sent = ldlyWords (fget s Pg.time F.TIME_TCFG_DOMAIN) (s.rlink p).ldlySeq t.time.dev (s.rlink p).echo s.fuses.devId ∧
      (t.rlink p).ldlyAt = some t.now ∧ (∀ a, (s.rlink p).ldlyAt = some a → a + syncInt s ≤ t.now) ∧
      ∀ q, q ≠ p.val → t.rlink q = s.rlink q) ∧
    (timeSilent s = false →
      (originPorts s = [] → Answers .syncSend s fun t => t = s) ∧
      (originPorts s ≠ [] → Answers .syncSend s fun t => Within [.now, .freeCtr, .links, .time, .ring] s t ∧
        t.time.syncSeq = (s.time.syncSeq + 1) % 65536 ∧ t.time.syncAt = some t.now ∧
        (∀ a, s.time.syncAt = some a → a + syncInt s ≤ t.now) ∧ (∀ q, q ∉ originPorts s → t.rlink q = s.rlink q) ∧
        ∀ q ∈ originPorts s, (t.rlink q).sent = syncWords (fget s Pg.time F.TIME_TCFG_DOMAIN) (if isMaster s then 0 else s.time.hops) false
          s.time.syncSeq t.time.dev 0 (ownSchedule t))) ∧
    (∀ g : TimeGroup, linkActive s (16 + p) = true →
      (groupGood g.words = false → ∀ c, c = .ldly p g ∨ c = .sync p g → Answers c s fun t =>
        Within [.now, .hdrs, .links, .vecs, .time] s t ∧ EventSet t (Pg.link (16 + p)) E.HP_CTRL_ERR) ∧
      (groupGood g.words = true → groupIs 0x20 g.words = true → Answers (.ldly p g) s fun t =>
        Within [.now, .hdrs, .flds, .links, .vecs, .time, .ring] s t ∧ OtherLinks [16 + p] s t ∧
        (t.rlink p).echo = some (BitVec.ofNat 64 (groupFld g.words 1 64 64), g.rx, groupFld g.words 0 16 16) ∧
        (t.rlink (p % 2)).nbr = BitVec.ofNat 64 (groupFld g.words 3 64 64) ∧
        (t.rlink p).peer = BitVec.ofNat 64 (groupFld g.words 3 64 64) ∧ (t.rlink p).dom = groupFld g.words 0 48 8 ∧ (t.rlink p).ldlySeq = (s.rlink p).ldlySeq ∧
        ∀ went : BitVec 64, went = g.rx - BitVec.ofNat 64 (groupFld g.words 2 64 64) →
          (groupFld g.words 2 47 1 = 1 → went.toNat < ms 1 →
            (t.rlink p).rt = (went.toNat : Int) - (groupFld g.words 1 16 48 : Int)) ∧
          (groupFld g.words 2 47 1 = 0 → (t.rlink p).rt = (s.rlink p).rt ∧ t.flds = s.flds ∧ t.hdrs = s.hdrs)) ∧
      (groupGood g.words = true → groupIs 0x21 g.words = true → groupFld g.words 0 48 8 = fget s Pg.time F.TIME_TCFG_DOMAIN →
        ringEntry s (ringOf p) = false →
        (16 ≤ groupFld g.words 0 40 8 → Answers (.sync p g) s fun t => Within [.now, .hdrs, .links, .vecs, .time] s t ∧
          EventSet t Pg.time E.TIME_HOPS) ∧
        (groupFld g.words 0 40 8 < 16 → (s.rlink p).fresh = 0 → ringOf p = timeRing s → Answers (.sync p g) s fun t =>
          Within [.now, .freeCtr, .hdrs, .flds, .links, .vecs, .merid, .time, .ring] s t ∧ t.time.sched = syncSchedule g.words ∧
          t.time.hops = groupFld g.words 0 40 8 + 1 ∧ (dirOf t (p.val % 2 == 1)).theta = thetaOf s p g.words g.rx ∧
          (dirOf t (p.val % 2 == 1)).seen = some t.now ∧ (dirOf t (p.val % 2 == 1)).seq = groupFld g.words 0 16 16 ∧
          (linkActive s (16 + otherPort p) = true → timeSilent s = false → ∃ corr step, (t.rlink (otherPort p)).sent =
            syncWords (groupFld g.words 0 48 8) (groupFld g.words 0 40 8 + 1) step (groupFld g.words 0 16 16)
              (BitVec.ofNat 64 (groupFld g.words 1 64 64)) corr (syncSchedule g.words))))) ∧
    (holdable s = true ∨ s.time.state = .asym ∨ (s.time.state = .hold ∧ s.time.holdStep = true) → Answers .syncLoss s fun t => Within [.now, .hdrs, .flds, .vecs, .time] s t ∧
      t.time.state = .hold ∧ t.time.corr = 0 ∧ t.time.holdStep = false ∧ Counted Pg.time F.TIME_TCNT_LOSSES s t ∧
      EventSet t Pg.time E.TIME_SYNC_LOSS ∧ (∀ a, s.time.dirE.seen = some a → a + 3 * syncInt s < t.now) ∧
      ∀ a, s.time.dirW.seen = some a → a + 3 * syncInt s < t.now)

/-- The time registers (R285, R286, R292, R296, R297, R299, R465): SET, PERL and PERH are the master's, and elsewhere refused with CFGERR; STEP and SLEW
act in BIGWAIT, RESUME in HOLD and ASYM; ROLE begins and ends mastership; FSYNC moves the phase of the pulses by at most 1 µs; a read of NOWL latches
NOWH. (The model's choices and readings here: log 57.) -/
def Obligations.TheTimeUnitObeys : Prop :=
  ∀ s : State,
    (∀ (src : Src) (v : BitVec 64), mayWrite s src Pg.time F.TIME_TCMD_SET.off = true →
      (isMaster s = true → v = BitVec.ofNat 64 (fget s Pg.time F.TIME_SETH_TIME * 2 ^ 32 + fget s Pg.time F.TIME_SETL_TIME) →
        Answers (.timeSet src) s fun t => Within [.time, .ring] s t ∧ t.time = { s.time with
          dev := v, lastPtime := s.time.lastPtime + (v - s.time.dev),
          sched := { s.time.sched with ptime := s.time.sched.ptime + (v - s.time.dev) } } ∧
        t.ring.ho.pulse = s.ring.ho.pulse.map (· + (v - s.time.dev))) ∧
      Answers (.epadopt src) s (fun t => t = { s with time := { s.time with adopt := true } }) ∧
      (s.time.state = .bigwait →
        (pjWindow s = true → timeFits s = true → Answers (.timeStep src) s fun t => Within [.hdrs, .vecs, .time] s t ∧
          t.time.dev = s.time.dev - BitVec.ofInt 64 (inUnits s.time.theta) ∧ t.time = s.time.step s.time.theta ∧
          EventSet t Pg.time E.TIME_STEP_DONE) ∧
        (pjWindow s = true → timeFits s = false → Answers (.timeStep src) s fun t => t = { s with time := { s.time with state := .step } }) ∧
        (pjWindow s = false → Answers (.timeStep src) s fun t => Within [.hdrs, .vecs] s t ∧ EventSet t Pg.time E.TIME_CFGERR) ∧
        Answers (.timeSlew src) s fun t => t = { s with time := { s.time with
          state := .slew, corr := s.time.theta * 1000000000 / 512 } }) ∧
      (s.time.state = .hold ∨ s.time.state = .asym → Answers (.resume src) s fun t =>
        t = { s with time := { s.time with resume := true } }) ∧
      (∀ c : Instr, (c = .timeSet src ∧ isMaster s = false) ∨
        ((c = .timeStep src ∨ c = .timeSlew src) ∧ s.time.state ≠ .bigwait) ∨
        (c = .resume src ∧ s.time.state ≠ .hold ∧ s.time.state ≠ .asym) →
        Answers c s fun t => Within [.hdrs, .vecs] s t ∧ EventSet t Pg.time E.TIME_CFGERR)) ∧
    (s.time.state = .slew → Answers .timeSlewEnd s fun t => Within [.now, .hdrs, .vecs, .time] s t ∧ t.time.state = .locked ∧
      t.time.corr = 0 ∧ EventSet t Pg.time E.TIME_SLEW_DONE) ∧
    (∀ (src : Src) (master : Bool), mayWrite s src Pg.time F.TIME_TCFG_ROLE.off = true → Answers (.roleChange src master) s fun t =>
      Within [.flds, .merid, .time] s t ∧ fget t Pg.time F.TIME_TCFG_ROLE = b2n master ∧
      OtherFields Pg.time [F.TIME_TCFG_ROLE] s t ∧ (isMaster s = master → t.time = s.time) ∧
      (isMaster s = false → master = true → t.time.state = .master ∧ t.time.dev = s.time.dev ∧
        t.time.perSet = (if s.time.state = .free then 0 else s.time.sched.period) ∧ t.time.sched.period = t.time.perSet ∧
        t.time.running = (t.time.perSet != 0) ∧ t.time.hops = 0) ∧
      (isMaster s = true → master = false → t.time.state = .free ∧ t.time.dev = s.time.dev ∧ t.time.running = false ∧
        t.time.sched = {} ∧ t.time.hops = 31)) ∧
    (∀ (src : Src) (v : Word), mayWrite s src Pg.time F.TIME_PERL_PERIOD.off = true → mayWrite s src Pg.time F.TIME_PERH_PERIOD.off = true →
      (isMaster s = true →
        Answers (.perlWrite src v) s (fun t => t = { s with time := { s.time with perlHeld := some v } }) ∧
        ∀ lo per : Nat, lo = (s.time.perlHeld.map (·.toNat)).getD (s.time.perSet % 2 ^ 32) →
          per = v.toNat % 2 ^ 16 * 2 ^ 32 + lo →
          (s.time.running = true → Answers (.perhWrite src v) s fun t =>
            t = { s with time := { s.time with perSet := per, perlHeld := none, perNext := some per } }) ∧
          (s.time.running = false → per ≠ 0 → Answers (.perhWrite src v) s fun t => Within [.time] s t ∧ t.time.running = true ∧
            t.time.perSet = per ∧ t.time.lastPtime = s.time.dev ∧
            t.time.sched = { s.time.sched with ptime := s.time.dev, epoch := s.merid.epoch, period := per }) ∧
          (s.time.running = false → per = 0 → Answers (.perhWrite src v) s fun t => Within [.time] s t ∧ t.time.running = false ∧
            t.time.sched = { s.time.sched with period := 0 })) ∧
      (isMaster s = false → ∀ c, c = .perlWrite src v ∨ c = .perhWrite src v → Answers c s fun t => Within [.hdrs, .vecs] s t ∧
        EventSet t Pg.time E.TIME_CFGERR)) ∧
    (∀ (want : BitVec 64) (near e : Int), isMaster s = true → fget s Pg.time F.TIME_TCFG_FSYNC ≠ 0 → pulsing s = true →
      want = s.time.dev + BitVec.ofNat 64 (fget s Pg.time F.TIME_FSDLY_DELAY) →
      near = (fromP s want * 65536 + s.time.sched.period / 2) / s.time.sched.period → e = (want - ptOf s.time.sched near).toInt →
      (us 1 < e.natAbs → Answers .fsyncEdge s fun t => Within [.hdrs, .vecs] s t ∧ EventSet t Pg.time E.TIME_FSYNC_ERR) ∧
      (e.natAbs ≤ us 1 → Answers .fsyncEdge s fun t => t = { s with time := { s.time with fsMove := e * 1000000000 } })) ∧
    (∀ src, mayRead s src Pg.time = true → Answers (.nowlRead src) s fun t => Within [.busResult, .time] s t ∧
      t.busResult = some (BitVec.ofNat 32 s.time.dev.toNat) ∧
      t.time = { s.time with nowh := BitVec.ofNat 32 (s.time.dev.toNat / 2 ^ 32) })

/-! ### Mirroring and handover -/

/-- Mirroring (R301 to R303): a KPW for a destination entry waits at its ordering point, and as it passes it stores its tag and is acknowledged; one
admitted before is only acknowledged again, one with no entry is answered with DENIED and its number settled, one whose turn has not come waits; a
KPACK frees its KPW and completes the host write that waited; an entry detaches with no named port ACTIVE, or 20 µs after a KPW that stays without
KPACK; MCFG.EN starts RESYNC, whose copy goes as far as its blocks can be read and attaches the entry with the last of them. (The model's choices and
readings here: log 2, 59, 89, 90.) -/
def Obligations.RegionsAreMirrored : Prop :=
  ∀ s : State,
    (∀ (p : Fin 4) (m : RingMsg) (seq rn lines addr : Nat), linkActive s (16 + p) = true → seq = hdrFld m 111 9 → rn = hdrFld m 88 8 →
      lines = hdrFld m 105 6 + 1 → addr = (s.region rn).base * 2 ^ 21 + hdrFld m 40 40 →
      (inSafe s = true → Answers (.kpw p m) s fun t => t = s) ∧
      (inSafe s = false → kpwWaits s seq = true → Answers (.kpw p m) s fun t => t = s) ∧
      (inSafe s = false → kpwWaits s seq = false → kpwSeen s seq = true → Answers (.kpw p m) s fun t => Within [.links] s t ∧
        OtherLinks [16 + p] s t ∧ Queued (16 + p) (.ring (kpackHdr seq .ok)) (kpackHdr seq .ok) [] s t) ∧
      (inSafe s = false → kpwWaits s seq = false → kpwSeen s seq = false → destEntry s rn = none → Answers (.kpw p m) s fun t =>
        Within [.links, .ring] s t ∧ t.ring = (kpwSettle seq s).ring ∧ OtherLinks [16 + p] s t ∧
        Queued (16 + p) (.ring (kpackHdr seq .denied)) (kpackHdr seq .denied) [] s t) ∧
      (inSafe s = false → kpwWaits s seq = false → kpwSeen s seq = false → (destEntry s rn).isSome = true → (s.region rn).en = true →
        addr % 64 = 0 → addr % 4096 / 64 + lines ≤ 64 → hdrFld m 40 40 < (s.region rn).size * 2 ^ 21 →
        Answers (.kpw p m) s fun t => Within [.accs, .nextId] s t ∧ ∃ a, t.accs = s.accs ++ [a] ∧
          a.src = .kpw p seq (BitVec.ofNat 32 (hdrFld m 8 32)) ∧ a.write = true ∧ a.cls = .kp ∧ a.region = rn ∧ a.addr = addr ∧
          a.chosen = true ∧ a.copy = 0 ∧ a.data = pieces 64 (padTo (64 * lines) m.data) ∧ a.poison = m.poison)) ∧
    (∀ (a : Acc) (p seq : Nat) (tag : Word), s.accs.find? (fun b => b.id == a.id && b.phase == .waiting) = some a →
      a.src = .kpw p seq tag → seq ≠ kpwNextIn s → inSafe s = false → (s.region a.region).en = true →
      Answers (.orderingPointPass a.id) s fun t => t = s) ∧
    (∀ (a : Acc) (p seq : Nat) (tag : Word), s.accs.find? (fun b => b.id == a.id && b.phase == .waiting) = some a →
      a.src = .kpw p seq tag → a.write = true → a.chosen = true → a.copy = 0 → inSafe s = false → waitsBehind s a = false →
      outranked s a = false → (s.region a.region).en = true → (s.region a.region).init = false → linkActive s (16 + p) = true →
      (∃ f ∈ footLines s (s.region a.region) (s.region a.region).writeFeet 0 a.addr, chFailed s f.2.1 = false) →
      writeAdmits s (footLines s (s.region a.region) (s.region a.region).writeFeet 0 a.addr) a.lines a.cls = true →
      Answers (.orderingPointPass a.id) s fun t => Within [.links, .accs, .nextId, .chans, .recs, .groups, .ring] s t ∧
        OtherLinks [16 + p] s t ∧ Queued (16 + p) (.ring (kpackHdr seq .ok)) (kpackHdr seq .ok) [] s t ∧
        t.ring.kpwLast = (kpwSettle seq s).ring.kpwLast ∧ (s.ring.kpwDone = [] → t.ring.kpwLast = some seq) ∧
        ∀ f ∈ (s.region a.region).writeFeet, ∀ l, l = regionLoc s (s.region a.region) f 0 (regionBlk (s.region a.region) a.addr) →
          (t.brec l.1 l.2).tag = tag) ∧
    (∀ (p : Fin 4) (m : RingMsg), linkActive s (16 + p) = true →
      (hdrFld m 99 4 ≠ 0 ∨ (s.ring.kpwOut.find? fun k => k.seq == hdrFld m 111 9) = none → Answers (.kpack p m) s fun t => t = s) ∧
      (∀ k, hdrFld m 99 4 = 0 → (s.ring.kpwOut.find? fun k => k.seq == hdrFld m 111 9) = some k →
        (k.acc = none → Answers (.kpack p m) s fun t => t = { s with ring := { s.ring with kpwOut := s.ring.kpwOut.erase k } }) ∧
        (∀ id a port tag, k.acc = some id → (s.accs.find? fun a => a.id = id) = some a → a.src = .hostNP port tag →
          linkActive s port = true → Answers (.kpack p m) s fun t => Within [.flds, .links, .accs, .ring] s t ∧
            t.ring = { s.ring with kpwOut := s.ring.kpwOut.erase k } ∧ t.accs = s.accs.filter (fun a => a.id != id) ∧
            Completes port tag (a.lines - 1) a.cls .ok 0 (some a.region) s t))) ∧
    (∀ e : Fin 16, mirrorLive s e = true →
      (namedLinks s = [] → Answers (.mirrorDetach e) s fun t => Within [.hdrs, .flds, .links, .accs, .vecs, .ring] s t ∧
        t.mirror e = { (s.mirror e) with state := .detached, left := none, detaches := min 65535 ((s.mirror e).detaches + 1) } ∧
        t.ring.kpwOut = s.ring.kpwOut.filter (fun k => k.entry != e.val) ∧ EventSet t (Pg.link 16) E.RING_M_DETACH ∧
        ∀ i, i ≠ e.val → t.mirror i = s.mirror i) ∧
      (∀ k, namedLinks s ≠ [] → (s.ring.kpwOut.find? fun k => k.entry == e.val) = some k → Answers (.mirrorDetach e) s fun t =>
        Within [.now, .hdrs, .flds, .links, .accs, .vecs, .time, .ring] s t ∧ (t.mirror e).state = .detached ∧
        t.ring.kpwOut = s.ring.kpwOut.filter (fun k => k.entry != e.val) ∧ EventSet t (Pg.link 16) E.RING_M_DETACH ∧
        k.since + us 20 ≤ t.now)) ∧
    (∀ (src : Src) (e : Nat), mayWrite s src (Pg.link 16) F.RING_MCFG_EN.off = true → e = fget s (Pg.link 16) F.RING_MSEL_ENTRY →
      ((s.mirror e).en = true → Answers (.mirrorEnable src) s fun t => t = s) ∧
      ((s.mirror e).en = false → mirrorOk s (s.mirror e).lreg = true → Answers (.mirrorEnable src) s fun t => Within [.ring] s t ∧
        t.mirror e = { (s.mirror e) with en := true, state := .resync, left := none } ∧
        (∀ i, i ≠ e → t.mirror i = s.mirror i) ∧
        t.ring.kpwLast = (if (s.mirror e).dest && !roleLive s e true then none else s.ring.kpwLast) ∧
        t.ring.kpwNext = (if !(s.mirror e).dest && !roleLive s e false then 0 else s.ring.kpwNext)) ∧
      ((s.mirror e).en = false → mirrorOk s (s.mirror e).lreg = false → Answers (.mirrorEnable src) s fun t =>
        Within [.hdrs, .vecs] s t ∧ EventSet t (Pg.link 16) E.HP_CFG_ERR)) ∧
    (∀ e : Fin 16, (s.mirror e).state = .resync → inSafe s = false → namedLinks s ≠ [] →
      ((s.mirror e).dest = true → (s.mirror e).left.getD [] = [] → Answers (.mirrorResyncDone e) s fun t => Within [.hdrs, .vecs, .ring] s t ∧
        t.mirror e = { (s.mirror e) with state := .attached, left := none } ∧ EventSet t (Pg.link 16) E.RING_M_ATTACH ∧
        t.ring.kpwOut = s.ring.kpwOut ∧ ∀ i, i ≠ e.val → t.mirror i = s.mirror i) ∧
      ((s.mirror e).dest = false →
        (((sendRegion e s).mirror e).left.getD [] = [] → Answers (.mirrorResyncDone e) s fun t => t.links = (sendRegion e s).links ∧
          t.chans = (sendRegion e s).chans ∧ Within (touches (.mirrorResyncDone e)) s t ∧ (t.mirror e).state = .attached ∧ (t.mirror e).left = none ∧
          EventSet t (Pg.link 16) E.RING_M_ATTACH) ∧
        (((sendRegion e s).mirror e).left.getD [] ≠ [] → Answers (.mirrorResyncDone e) s fun t => t = sendRegion e s) ∧
        ∀ (b : Nat) (x : BlockRead), (s.mirror e).left = some [b] → x = { region := (s.mirror e).lreg, copy := 0, block := b } →
          (x.can s = false → Answers (.mirrorResyncDone e) s fun t => Within [.flds, .chans, .ring] s t ∧ t.chans = (x.promote s).chans ∧
            t.mirror e = s.mirror e ∧ t.ring.kpwOut = s.ring.kpwOut) ∧
          (∀ u l rest h, x.can s = true → u = x.count s → namedLinks u = l :: rest → h = kpwHdr u.ring.kpwNext ((x.bytes s).length / 64)
              (s.mirror e).preg (b * 4096) (tagAfter s (s.region (s.mirror e).lreg) 0 ((s.region (s.mirror e).lreg).base * 2 ^ 21 + b * 4096)) .bulk →
            Answers (.mirrorResyncDone e) s fun t => (t.link l).txq = (u.link l).txq ++
              [{ kind := .ring h, hdr := h, data := x.bytes s, poison := x.unreadable s }])))

/-- The first half of a handover (R304, R305, R307): ARM makes a free device a receiver and START a sender, with every granule of its regions dirty, its
source entries detached and the partner told; an armed partner in time answers ARMED, one that is not armed ABORT with cause REFUSED; ARMED begins the
first pass, which sends the blocks of the dirty granules as far as they can be read; a region that the receiver does not hold in the same way ends the
handover with cause MISMATCH; ABORT ends it with its cause. (The model's choices and readings here: log 60.) -/
def Obligations.HandoversBegin : Prop :=
  ∀ s : State,
    (∀ src, mayWrite s src (Pg.link 16) F.RING_HOCMD_ARM.off = true →
      (hoFree s = true → Answers (.hocmdArm src) s fun t => Within [.ring] s t ∧ t.ring.ho = { ({} : Handover) with
        state := .armed, linkDown := if namedLinks s = [] then some s.now else none }) ∧
      (hoFree s = false → ∀ c, c = .hocmdArm src ∨ c = .hocmdStart src → Answers c s fun t => Within [.hdrs, .vecs] s t ∧
        EventSet t (Pg.link 16) E.HP_CFG_ERR) ∧
      (hoFree s = true → inTime s = true → Answers (.hocmdStart src) s fun t =>
        t.ring.ho.state = .check ∧ t.ring.ho.sender = true ∧ t.ring.ho.dirty = allGranules s ∧ t.ring.ho.pass = 0 ∧
        (∀ e < 16, mirrorLive s e = true → (s.mirror e).dest = false → (t.mirror e).state = .detached) ∧
        ∀ l rest, namedLinks s = l :: rest → (∀ e < 16, mirrorLive s e = true → (s.mirror e).dest = true) →
          (t.link l).txq = (s.link l).txq ++ { kind := .ring (hoctlHdr 1 0 0), hdr := hoctlHdr 1 0 0, data := [] } ::
            (enabledRegions s).map fun rn => { kind := .ring (hoHdr 0x45 0 rn 0), hdr := hoHdr 0x45 0 rn 0, data := horegData (s.region rn) }) ∧
      (hoFree s = true → inTime s = false → Answers (.hocmdStart src) s fun t => t.ring.ho.state = .aborted ∧ t.ring.ho.cause = 4 ∧
        EventSet t (Pg.link 16) E.RING_HO_ABORT) ∧
      (hoBusy s = true → Answers (.hocmdAbort src) s fun t =>
        Within [.hdrs, .flds, .links, .accs, .commits, .regions, .queues, .bells, .jobs, .vecs, .ring] s t ∧ t.ring.ho.state = .aborted ∧
        t.ring.ho.cause = 6 ∧ t.ring.ho.dirty = [] ∧ EventSet t (Pg.link 16) E.RING_HO_ABORT ∧ ∀ l rest, namedLinks s = l :: rest →
          s.ring.ho.state ≠ .receiving → Queued l (.ring (hoctlHdr 5 0 6)) (hoctlHdr 5 0 6) [] s t) ∧
      (hoBusy s = false → Answers (.hocmdAbort src) s fun t => t = s)) ∧
    (∀ (p : Fin 4) (m : RingMsg), linkActive s (16 + p) = true →
      (s.ring.ho.state = .armed →
        (inTime s = true → Answers (.hoctlStart p m) s fun t => Within [.links, .ring] s t ∧
          t.ring.ho = { s.ring.ho with state := .check, regsSeen := [] } ∧ ∀ l rest, namedLinks s = l :: rest →
            Queued l (.ring (hoctlHdr 2 0 0)) (hoctlHdr 2 0 0) [] s t) ∧
        (inTime s = false → Answers (.hoctlStart p m) s fun t => t.ring.ho.state = .aborted ∧ t.ring.ho.cause = 4)) ∧
      (hoBusy s = false → Answers (.hoctlStart p m) s fun t => Within [.links] s t ∧ ∀ l rest, namedLinks s = l :: rest →
        Queued l (.ring (hoctlHdr 5 0 3)) (hoctlHdr 5 0 3) [] s t) ∧
      (∀ u, s.ring.ho.sender = true → s.ring.ho.state = .check →
        u = { s with ring := { s.ring with ho := { s.ring.ho with state := .copy, pass := min 255 (s.ring.ho.pass + 1) } } } →
        (namedLinks s = [] → Answers (.hoctlArmed p m) s fun t => t = u) ∧
        (namedLinks s ≠ [] → Answers (.hoctlArmed p m) s fun t => t = forAll (startDirty u).ring.ho.left sendHoBlock (startDirty u))) ∧
      (s.ring.ho.sender = false → s.ring.ho.state = .check →
        ((s.region (hdrFld m 88 8)).en = true → padTo 16 m.data = horegData (s.region (hdrFld m 88 8)) → Answers (.horeg p m) s fun t =>
          Within [.ring] s t ∧ t.ring.ho = { s.ring.ho with regsSeen := hdrFld m 88 8 :: s.ring.ho.regsSeen }) ∧
        ((s.region (hdrFld m 88 8)).en = false ∨ padTo 16 m.data ≠ horegData (s.region (hdrFld m 88 8)) → Answers (.horeg p m) s fun t =>
          t.ring.ho.state = .aborted ∧ t.ring.ho.cause = 3)) ∧
      (hoBusy s = true → Answers (.hoctlAbort p m) s fun t =>
        Within [.hdrs, .flds, .links, .accs, .commits, .regions, .queues, .bells, .jobs, .vecs, .ring] s t ∧ t.ring.ho.state = .aborted ∧
        t.ring.ho.cause = hdrFld m 28 4 ∧ EventSet t (Pg.link 16) E.RING_HO_ABORT)) ∧
    (∀ a, s.ring.ho.linkDown = some a → hoBusy s = true → namedLinks s = [] → Answers .handoverLinkTimeout s fun t =>
      t.ring.ho.state = .aborted ∧ t.ring.ho.cause = 2 ∧ a + ms (fget s (Pg.link 16) F.RING_HOCFG_LINKTO) ≤ t.now)

/-- The second half of a handover (R305, R306): the receiver takes blocks, records and states once it has found every region, and a record is stored with
its block as that passes; a pass that leaves few dirty granules chooses pulse P, else another pass begins; from P less the guard time the sender
freezes; at P − 2 µs SWITCH goes out when nothing is left; a receiver that can still switch answers READY; DONE ends the handover at the other side.
(The model's choices and readings here: log 2, 60, 74, 92.) -/
def Obligations.HandoversSwitch : Prop :=
  ∀ s : State,
    (∀ (p : Fin 4) (m : RingMsg), linkActive s (16 + p) = true → s.ring.ho.sender = false → s.ring.ho.state = .receiving →
      (∀ rn r cp blk, regionOf s (hdrFld m 40 40 / 4096 * 4096) = some (rn, r) →
        cp = regionBlk r (hdrFld m 40 40 / 4096 * 4096) / r.blocks → blk = regionBlk r (hdrFld m 40 40 / 4096 * 4096) % r.blocks →
        Answers (.hodata p m) s (fun t => Within [.accs, .nextId] s t ∧ ∃ a, t.accs = s.accs ++ [a] ∧ a.src = .hodata ∧ a.write = true ∧
          a.region = rn ∧ a.chosen = true ∧ a.copy = cp ∧ a.addr = (r.base * 512 + blk) * 4096 ∧
          a.data = pieces 64 (padTo 4096 m.data) ∧ a.poison = m.poison ∧ (s.region rn).kp = a.kp) ∧
        ((s.accs.any fun a => a.isBlock rn cp ((r.base * 512 + blk) * 4096)) = false → Answers (.horec p m) s fun t =>
          Within [.recs] s t ∧ ∀ f ∈ (s.region rn).writeFeet, ∀ l, l = regionLoc s (s.region rn) f cp
            (regionBlk (s.region rn) ((r.base * 512 + blk) * 4096)) → t.brec l.1 l.2 = recOfBytes (padTo 16 m.data)) ∧
        ((s.accs.any fun a => a.isBlock rn cp ((r.base * 512 + blk) * 4096)) = true → Answers (.horec p m) s fun t =>
          Within [.accs] s t ∧ t.accs = s.accs.map fun a =>
            if a.isBlock rn cp ((r.base * 512 + blk) * 4096) then { a with recIn := some (padTo 16 m.data) } else a)) ∧
      (Answers (.hostate p m) s fun t => Within [.ring] s t ∧ ∃ x : HoRegion, x.region = hdrFld m 88 8 ∧ x.rstat = leAt m.data 0 4 ∧
        x.frame = BitVec.ofNat 16 (leAt m.data 4 2) ∧ x.rlate = leAt m.data 8 4 ∧ x.rskip = leAt m.data 12 4 ∧
        t.ring.ho = { s.ring.ho with states := (s.ring.ho.states.filter fun y => y.region != hdrFld m 88 8) ++ [x] }) ∧
      (∀ (e : Word) (pt : BitVec 64), e = BitVec.ofNat 32 (hdrFld m 32 32) → pt = ptOf s.time.sched (e - s.time.sched.epoch).toInt →
        timeHeld s = true → pulsing s = true →
        ((us 1 : Int) ≤ (pt - s.time.dev).toInt → Answers (.hoctlSwitch p m) s fun t => Within [.links, .ring] s t ∧
          t.ring.ho = { s.ring.ho with pulse := some pt, epoch := e, ready := true, acked := none } ∧ ∀ l rest, namedLinks s = l :: rest →
            Queued l (.ring (hoctlHdr 4 e 0)) (hoctlHdr 4 e 0) [] s t) ∧
        ((pt - s.time.dev).toInt < (us 1 : Int) → Answers (.hoctlSwitch p m) s fun t => t = s))) ∧
    (∀ (a : Acc) (bs : List Byte), s.accs.find? (fun b => b.id == a.id && b.phase == .waiting) = some a → a.src = .hodata →
      a.recIn = some bs → a.write = true → a.chosen = true → inSafe s = false → waitsBehind s a = false → outranked s a = false →
      (s.region a.region).en = true → (s.region a.region).init = false →
      (∃ f ∈ footLines s (s.region a.region) (s.region a.region).writeFeet a.copy a.addr, chFailed s f.2.1 = false) →
      writeAdmits s (footLines s (s.region a.region) (s.region a.region).writeFeet a.copy a.addr) a.lines a.cls = true →
      Answers (.orderingPointPass a.id) s fun t => Within [.accs, .nextId, .chans, .recs, .groups, .ring] s t ∧
        (∀ b ∈ t.accs, b.id ≠ a.id) ∧ ∀ f ∈ (s.region a.region).writeFeet, ∀ l,
          l = regionLoc s (s.region a.region) f a.copy (regionBlk (s.region a.region) a.addr) → t.brec l.1 l.2 = recOfBytes bs) ∧
    (∀ (p : Fin 4) (m : RingMsg), linkActive s (16 + p) = true → s.ring.ho.sender = false → s.ring.ho.state = .check →
      ((enabledRegions s).all fun rn => s.ring.ho.regsSeen.contains rn) = false → ∀ c : Instr, c = .hodata p m ∨ c = .horec p m ∨
        c = .hostate p m ∨ c = .hoctlSwitch p m → Answers c s fun t => t.ring.ho.state = .aborted ∧ t.ring.ho.cause = 3) ∧
    (∀ (p : Fin 4) (m : RingMsg), linkActive s (16 + p) = true →
      (∀ pt, s.ring.ho.sender = true → s.ring.ho.state = .freeze → s.ring.ho.sent = true → s.ring.ho.pulse = some pt →
        BitVec.ofNat 32 (hdrFld m 32 32) = s.ring.ho.epoch → (us 1 : Int) ≤ (pt - s.time.dev).toInt →
        Answers (.hoctlReady p m) s fun t => Within [.ring] s t ∧ t.ring.ho = { s.ring.ho with ready := true }) ∧
      (hoBusy s = true → s.ring.ho.sender = true ∨ s.ring.ho.ready = true → Answers (.hoctlDone p m) s fun t =>
        Within [.hdrs, .flds, .links, .accs, .commits, .regions, .queues, .bells, .jobs, .vecs, .ring] s t ∧ t.ring.ho.state = .done ∧
        t.ring.ho.dirty = [] ∧ EventSet t (Pg.link 16) E.RING_HO_DONE)) ∧
    (s.ring.ho.sender = true →
      (s.ring.ho.state = .freeze →
        (namedLinks s = [] → Answers .handoverPassEnd s fun t => t = s) ∧
        (namedLinks s ≠ [] → Answers .handoverPassEnd s fun t => t = forAll (startDirty s).ring.ho.left sendHoBlock (startDirty s))) ∧
      (s.ring.ho.state = .copy → s.ring.ho.pulse = none →
        (s.ring.ho.left ≠ [] → namedLinks s ≠ [] →
          Answers .handoverPassEnd s (fun t => t = forAll s.ring.ho.left sendHoBlock s) ∧
          ∀ addr rn r x, s.ring.ho.left = [addr] → regionOf s addr = some (rn, r) →
            x = ({ region := rn, copy := regionBlk r addr / r.blocks, block := regionBlk r addr % r.blocks } : BlockRead) →
            (x.can s = false → Answers .handoverPassEnd s fun t => t = x.promote s) ∧
            (∀ u l rest h1 h2, x.can s = true → u = x.count s → namedLinks u = l :: rest → h1 = hoHdr 0x42 63 0 addr → h2 = hoHdr 0x43 0 0 addr →
              Answers .handoverPassEnd s fun t => t.ring.ho.left = u.ring.ho.left.erase addr ∧ (t.link l).txq = (u.link l).txq ++
                [{ kind := .ring h1, hdr := h1, data := x.bytes s, poison := x.unreadable s }
               , { kind := .ring h2, hdr := h2, data := recBytes r.aged (s.brec
                    (regionLoc s r (r.readFeet.headD false) (regionBlk r addr / r.blocks) (regionBlk r addr % r.blocks)).1
                    (regionLoc s r (r.readFeet.headD false) (regionBlk r addr / r.blocks) (regionBlk r addr % r.blocks)).2) }])) ∧
        (s.ring.ho.left = [] →
          (∀ q, s.ring.ho.dirty.length ≤ 4 * fget s (Pg.link 16) F.RING_HOCFG_FINAL → switchPulse s = some q →
            Answers .handoverPassEnd s fun t => Within [.ring] s t ∧ t.ring.ho = { s.ring.ho with pulse := some q.1, epoch := q.2 }) ∧
          (∀ u, 4 * fget s (Pg.link 16) F.RING_HOCFG_FINAL < s.ring.ho.dirty.length →
            u = { s with ring := { s.ring with ho := { s.ring.ho with pass := min 255 (s.ring.ho.pass + 1) } } } →
            (namedLinks s = [] → Answers .handoverPassEnd s fun t => t = u) ∧
            (namedLinks s ≠ [] → Answers .handoverPassEnd s fun t =>
              t = forAll (startDirty u).ring.ho.left sendHoBlock (startDirty u))))) ∧
      (∀ pt u v, s.ring.ho.state = .copy → s.ring.ho.pulse = some pt → u = reach (pt - BitVec.ofNat 64 (us s.merid.guardNow)) s →
        v = { u with ring := { u.ring with ho := { s.ring.ho with state := .freeze, frozen := true } } } →
        (namedLinks s = [] → Answers .handoverFreeze s fun t => t = v) ∧
        (namedLinks s ≠ [] → Answers .handoverFreeze s fun t => t = forAll (startDirty v).ring.ho.left sendHoBlock (startDirty v))) ∧
      (∀ pt u, s.ring.ho.state = .freeze → s.ring.ho.pulse = some pt → u = reach (pt - BitVec.ofNat 64 (us 2)) s →
        (u.ring.ho.dirty = [] → u.ring.ho.left = [] → u.commits.any (·.accepted) = false → timeHeld u = true → namedLinks u ≠ [] →
          Answers .handoverFinalCheck s fun t => t.ring.ho = { s.ring.ho with sent := true }) ∧
        (u.ring.ho.dirty ≠ [] ∨ u.ring.ho.left ≠ [] ∨ u.commits.any (·.accepted) = true ∨ timeHeld u = false ∨ namedLinks u = [] →
          Answers .handoverFinalCheck s fun t => t = u)))

/-! ### Resets and boot -/

/-- Resets of the device (R313, R314, R326, R328 to R330, R453, R456): PWROK, RESET_N, a rail outside its range for more than 2 µs and RSTCMD.COLD are
cold resets; the release samples the straps and starts the PLL; a warm reset ends all work and keeps the clocks, the time, PROT, the regions and EPCH,
and a second one does nothing while it lasts; a core reset starts the ROM again and leaves the work of the device alone; outside test mode the TAP
takes only BYPASS and IDCODE. (The model's choices and readings here: log 3, 38, 41.) -/
def Obligations.TheDeviceIsReset : Prop :=
  ∀ s : State,
    (Answers (.coldReset .pwrok) s (ColdReset F.BOOT_RCAUSE_PWRON s) ∧ Answers (.coldReset .resetN) s (ColdReset F.BOOT_RCAUSE_RESETN s) ∧
      Answers (.coldReset .rail) s (ColdReset F.BOOT_RCAUSE_RESETN s)) ∧
    (∀ n, (2000 < n → Answers (.railTrip n) s (ColdReset F.BOOT_RCAUSE_RESETN s)) ∧
      (n ≤ 2000 → Answers (.railTrip n) s fun t => t = s)) ∧
    (∀ straps : BitVec 5, (s.boot.held = true → Answers (.coldResetRelease straps) s fun t => Within [.flds, .pll, .boot] s t ∧
        t.boot = { s.boot with held := false, mode := BitVec.ofNat 2 straps.toNat, sa := BitVec.ofNat 3 (straps.toNat / 4) } ∧
        t.pll = { s.pll with state := .waitref, since := s.now } ∧ OtherFields Pg.boot [F.BOOT_RCAUSE_PWRON] s t) ∧
      (s.boot.held = false → Answers (.coldResetRelease straps) s fun t => t = s)) ∧
    (∀ src, mayWrite s src Pg.boot F.BOOT_RSTCMD_KEY.off = true →
      Answers (.rstcmdCold src) s (ColdReset F.BOOT_RCAUSE_SWCOLD s) ∧
      (inWarm s = true → Answers (.rstcmdWarm src) s fun t => t = s) ∧
      (inWarm s = false → s.boot.state ≠ .pll → Answers (.rstcmdWarm src) s fun t =>
        t.boot.state = .warm ∧ t.boot.since = s.now ∧ t.boot.warm = true ∧ t.boot.coreUp = true ∧ t.boot.isSealed = s.boot.isSealed ∧
        fget t Pg.boot F.BOOT_RCAUSE_WARM = 1 ∧ Counted Pg.boot F.BOOT_RCNT_WARMS s t ∧
        t.links = [] ∧ t.accs = [] ∧ t.commits = [] ∧ t.jobs = [] ∧ t.bells = [] ∧ t.queues = [] ∧ t.groups = [] ∧ t.ring = {} ∧
        t.safe.state = .normal ∧ t.safe.fnDrv = true ∧ t.pll = s.pll ∧ t.time = s.time ∧ t.merid = s.merid ∧ t.now = s.now ∧
        (∀ f : Fld, f.off < 4096 → f.lo < 32 → fget t Pg.prot f = fget s Pg.prot f) ∧ (∀ v, (t.vec v).pending = false) ∧
        (∀ ch ∈ s.chans.map (·.1), chServes s ch = true ∨ (s.chan ch).state = .reset → (t.chan ch).wq = [] ∧
          (chServes s ch = true → (t.chan ch).state = .selfref)) ∧
        (∀ ch ∈ s.chans.map (·.1), (s.chan ch).state = .failed → (t.chan ch).lost = true)) ∧
      (s.boot.state ≠ .pll → s.boot.state ≠ .warm → Answers (.rstcmdCore src) s fun t =>
        Within [.freeCtr, .hdrs, .flds, .chans, .vecs, .boot, .flash] s t ∧ t.boot.state = .flashchk ∧ t.boot.coreUp = true ∧
        t.boot.run = false ∧ t.boot.path = 0 ∧ t.boot.isSealed = s.boot.isSealed ∧ fget t Pg.boot F.BOOT_RCAUSE_CORE = 1 ∧
        Counted Pg.boot F.BOOT_RCNT_CORES s t ∧ (s.boot.state = .ready → t.boot.back = some .ready) ∧
        (s.boot.state = .config → t.boot.back = none))) ∧
    (∀ i : TapInst, Answers (.tapInstruction i) s fun t => Within [.tap] s t ∧ t.tap =
      (if i = .other then .bypass else if i = .idcode ∨ s.boot.mode = 2 then i else .bypass))

/-- Resets of parts (R331 to R333): a port reset ends what the port carries, resets its header and trains it when it is enabled; a channel reset takes the
channel out of service with its queued writes kept, waits while a set-point change runs, and is refused with CFGERR by an absent channel; a handover
that the device receives aborts; it ends in READY or FAILED, and not in SAFE, after the poison walk where the contents have decayed; a bay reset
resets the joiner group and every channel of the bay that is not absent. (The model's choices and readings here: log 40, 84.) -/
def Obligations.PartsAreReset : Prop :=
  ∀ (s : State) (src : Src),
    (∀ l : Fin 20, mayWrite s src Pg.boot F.BOOT_RSTPORT_HOST.off = true → Answers (.portReset src l) s fun t =>
      Within [.hdrs, .flds, .links, .accs, .commits, .regions, .jobs, .bells, .vecs, .groups, .ring] s t ∧
      Counted Pg.boot F.BOOT_RCNT_PARTS s t ∧ EventSet t Pg.boot E.BOOT_RST_DONE ∧ t.hdr (Pg.link l) = {} ∧
      fget t (Pg.link l) F.HP_LCFG_ENABLE = fget s (Pg.link l) F.HP_LCFG_ENABLE ∧ ∀ i ∈ pageLinks s l,
        (t.link i).state = (if fget s (Pg.link l) F.HP_LCFG_ENABLE = 1 then .detect else .off) ∧ (t.link i).txq = [] ∧
        ∀ a ∈ t.accs, a.src.port ≠ i) ∧
    (∀ (ch : Fin 64) (bad : List Nat), mayWrite s src Pg.boot F.BOOT_RSTCH_GO.off = true →
      ((s.chan ch).state = .absent → Answers (.channelReset src ch bad) s fun t => Within [.hdrs, .vecs] s t ∧
        EventSet t Pg.boot E.BOOT_CFGERR) ∧
      ((s.chan ch).state ≠ .absent → 2 ≤ dspState s → Answers (.channelReset src ch bad) s fun t => Within [.flds, .boot] s t ∧
        t.boot = { s.boot with waiting := s.boot.waiting ++ [(ch.val, bad)] } ∧ Counted Pg.boot F.BOOT_RCNT_PARTS s t) ∧
      ((s.chan ch).state ≠ .absent → dspState s < 2 → Answers (.channelReset src ch bad) s fun t =>
        Within [.hdrs, .flds, .links, .accs, .commits, .chans, .mem, .recs, .regions, .queues, .bells, .jobs, .vecs, .groups, .ring] s t ∧
        (hoBusy s = true → s.ring.ho.sender = false → t.ring.ho.state = .aborted ∧ t.ring.ho.cause = 8) ∧ (t.chan ch).state = .reset ∧ (t.chan ch).inReset = true ∧
        (t.chan ch).rq = [] ∧ (t.chan ch).wq.length = (s.chan ch).wq.length ∧ Counted Pg.boot F.BOOT_RCNT_PARTS s t ∧
        ∀ c, c ≠ ch.val → t.chan c = s.chan c)) ∧
    (∀ ch : Fin 64, inSafe s = true → ∀ pass, Answers (.channelResetDone ch pass) s fun t => t = s) ∧
    (∀ ch : Fin 64, inSafe s = false → (s.chan ch).inReset = true → (s.chan ch).camp = none →
      (resetPassed s ch = true → Answers (.channelResetDone ch true) s fun t => Within [.hdrs, .accs, .chans, .mem, .regions, .recs, .vecs, .boot] s t ∧
        (t.chan ch).state = .ready ∧ (t.chan ch).inReset = false ∧ (t.chan ch).wq = [] ∧ EventSet t Pg.boot E.BOOT_RST_DONE ∧
        (∀ c, c ≠ ch.val → t.chan c = s.chan c) ∧
        ((s.chan ch).decayed = true → (∀ u < 2 ^ 21, t.brec ch u = {}) ∧
          ((s.chan ch).rq = [] → (s.chan ch).wq = [] → t.mem = (poisonWalk ch s).mem)) ∧
        ((s.chan ch).decayed = false → t.recs = s.recs)) ∧
      (resetPassed s ch = false → (s.chan ch).state ≠ .reset → (s.chan ch).state ≠ .absent →
        Answers (.channelResetDone ch false) s fun t => Within [.hdrs, .chans, .vecs, .boot] s t ∧ (t.chan ch).state = .failed ∧
        (t.chan ch).inReset = false ∧ EventSet t Pg.boot E.BOOT_RST_DONE ∧ ∀ c, c ≠ ch.val → t.chan c = s.chan c)) ∧
    (∀ (b : Fin 8) (bad : List (Fin 64 × Nat)), mayWrite s src Pg.boot F.BOOT_RSTBAY_BAYS.off = true → Answers (.bayReset src b bad) s fun t =>
      Within [.hdrs, .flds, .links, .accs, .commits, .chans, .mem, .recs, .regions, .queues, .bells, .jobs, .vecs, .groups, .ring, .boot] s t ∧
      Counted (Pg.bay b) F.BAY_BCNT_RESETS s t ∧ Counted Pg.boot F.BOOT_RCNT_PARTS s t ∧ b.val ∈ t.boot.bayWait ∧
      (t.group b).state = .returning ∧ (t.group b).tvalid = 0 ∧ (dspState s < 2 → ∀ i < 8, (s.chan (8 * b + i)).state ≠ .absent →
        (t.chan (8 * b + i)).state = .reset ∧ (t.chan (8 * b + i)).inReset = true))

/-- Boot (R316 to R319, R322, R324, R335 to R338, R416): the ROM notes what the flash holds, takes the valid slot with the higher SEQ, and none in
recovery mode or when both fail; the management core alone seals, sets RUN and kicks the watchdog, whose expiry resets the core; the start-up tests
fence and fail what they found, and READY comes when all its conditions hold, or SAFE in its place when a protected store is still corrupt. (The
model's choices and readings here: log 2, 38, 39, 105.) -/
def Obligations.TheDeviceBoots : Prop :=
  ∀ s : State,
    (∀ bad : List (Nat × FlashIn), s.boot.state = .flashchk ∨ s.boot.state = .warm → Answers (.flashCheckDone bad) s fun t =>
      Within [.now, .hdrs, .flds, .vecs, .time, .boot, .flash] s t ∧ t.boot = { s.boot with state := .image } ∧ t.flash.bytes = s.flash.bytes ∧
      (s.boot.state = .warm → s.boot.since + us 200 ≤ t.now) ∧ (s.boot.state = .flashchk → t.now = s.now ∧ t.time = s.time) ∧
      (∀ i < 2, fget t Pg.boot (if i = 0 then F.BOOT_SEQA_SEQ else F.BOOT_SEQB_SEQ) =
        (if !readUncor t (i * 2 ^ 25 + 0xFFFF00) ⟨0, false, []⟩ && recordOk (slotRecord s i) then leAt (slotRecord s i) 8 4 else 0) % 2 ^ 32) ∧
      ∀ addr rd, bad = [(addr, rd)] → checkPage addr = true → rd.uncor = true → s.boot.state = .flashchk →
        EventSet t Pg.flsh E.FLSH_UNCOR ∧ Counted Pg.flsh F.FLSH_FCNT_UNCORS s t) ∧
    (∀ (bad : List (Nat × FlashIn)) (first : Nat), s.boot.state = .image →
      first = (if fget s Pg.boot F.BOOT_SEQA_SEQ < fget s Pg.boot F.BOOT_SEQB_SEQ then 1 else 0) →
      (s.boot.mode = 1 ∨ s.boot.mode = 3 → Answers (.imageSelect bad) s fun t => Within [.hdrs, .flds, .vecs, .boot] s t ∧
        t.boot = { s.boot with state := .recovery, isSealed := true } ∧
        (s.boot.isSealed = true → t.flds = s.flds) ∧
        (s.boot.isSealed = false → EventSet t Pg.boot E.BOOT_SEALED ∧ ∀ f : Fld, fget t Pg.prot f = fget {} Pg.prot f)) ∧
      (s.boot.mode ≠ 1 → s.boot.mode ≠ 3 → Answers (.imageSelect bad) s fun t => Within [.hdrs, .flds, .vecs, .boot, .flash] s t ∧
        (∀ u, u = readImage first bad s → slotFailure u first (imageUnread u first) = 0 → t.boot = { s.boot with
            state := s.boot.back.getD (if s.boot.isSealed then .dram else .config), back := none, slotB := first == 1 } ∧
          fget t Pg.boot (if first = 0 then F.BOOT_IMGSTAT_AVALID else F.BOOT_IMGSTAT_BVALID) = 1) ∧
        (∀ u v n, u = readImage first bad s → n = slotFailure u first (imageUnread u first) →
          v = readImage (1 - first) bad (noteSlot first n u) → n ≠ 0 → slotFailure v (1 - first) (imageUnread v (1 - first)) ≠ 0 → s.boot.asideA = false → s.boot.asideB = false →
          t.boot = { s.boot with state := .noimage, isSealed := true } ∧ EventSet t Pg.boot E.BOOT_IMG_FAIL))) ∧
    (Answers (.bcmdSeal .core) s fun t => Within [.hdrs, .vecs, .boot] s t ∧ EventSet t Pg.boot E.BOOT_SEALED ∧
      t.boot = { s.boot with isSealed := true, state := if s.boot.state = .config then .dram else s.boot.state }) ∧
    Answers (.bcmdRun .core) s (fun t => t = { s with boot := { s.boot with run := true, consec := 0 } }) ∧
    (∀ val : Word, val.toNat % 256 = (if s.boot.wdWantA5 then 0xA5 else 0x5A) → Answers (.wdkick .core val) s fun t => Within [.boot] s t ∧
      t.boot = { s.boot with wdWantA5 := !s.boot.wdWantA5, wdSince := s.now, wdPeriod := fget s Pg.boot F.BOOT_WDCFG_PERIOD }) ∧
    (∀ (c : Instr) (p : Fin 16), (c = .bcmdSeal (.host p) ∧ mayWrite s (.host p) Pg.boot F.BOOT_BCMD_SEAL.off = true) ∨
      (c = .bcmdRun (.host p) ∧ mayWrite s (.host p) Pg.boot F.BOOT_BCMD_RUN.off = true) ∨
      (∃ val, c = .wdkick (.host p) val ∧ mayWrite s (.host p) Pg.boot F.BOOT_WDKICK_CODE.off = true) →
      Answers c s fun t => Within [.hdrs, .vecs] s t ∧ EventSet t Pg.boot E.BOOT_CFGERR) ∧
    (∀ c : Instr, wdEnabled s = true → s.boot.state ≠ .pll → s.boot.state ≠ .warm → c = .watchdogExpire ∨ (∃ val : Word, c = .wdkick .core val ∧
        val.toNat % 256 ≠ (if s.boot.wdWantA5 then 0xA5 else 0x5A)) →
      Answers c s fun t => Within [.now, .freeCtr, .hdrs, .flds, .chans, .vecs, .time, .boot, .flash, .safe] s t ∧
        t.boot.state = .flashchk ∧ t.boot.consec = min 7 (s.boot.consec + 1) ∧ fget t Pg.boot F.BOOT_RCAUSE_WD = 1 ∧
        Counted Pg.boot F.BOOT_RCNT_WDEXP s t ∧ EventSet t Pg.boot E.BOOT_WD_EXPIRE ∧
        (c = .watchdogExpire → s.boot.wdSince + wdUnits s ≤ t.now)) ∧
    (readyMet s = true → s.safe.corrupt ≠ [] → Answers .ready s fun t => t.safe.state = .entering ∧ t.safe.fnDrv = true ∧ t.boot = s.boot) ∧
    (readyMet s = true → s.safe.corrupt = [] → Answers .ready s fun t => Within [.hdrs, .flds, .vecs, .boot, .safe] s t ∧
      t.boot = { s.boot with state := .ready, warm := false } ∧ EventSet t Pg.boot E.BOOT_READY ∧
      (s.boot.mode = 0 → s.safe.testFail = false → t.safe.fnDrv = false) ∧
      (s.boot.mode ≠ 0 ∨ s.safe.testFail = true → t.safe = s.safe)) ∧
    (∀ (device : BitVec 5) (pairs chans : List (Fin 64)), s.boot.held = false → s.boot.state ≠ .pll → s.boot.testsDone = false →
      inSafe s = false → Answers (.startupTestsDone device pairs chans) s fun t =>
        Within [.hdrs, .flds, .links, .accs, .commits, .chans, .regions, .queues, .jobs, .bells, .vecs, .groups, .pll, .ring, .boot, .safe] s t ∧
        t.boot = { s.boot with testsDone := true } ∧ t.safe.testFail = (device != 0 || !pairs.isEmpty || !chans.isEmpty) ∧
        (∀ p ∈ pairs, (t.group (p.val / 8)).fence.getLsbD (p.val % 8) = true) ∧ (∀ c ∈ chans, (t.chan c).state = .failed) ∧
        (t.safe.state = .entering ↔ device ≠ 0))

/-! ### Flash -/

/-- The mailbox (R361 to R363, R366, R371, R372): a command starts while none is in progress, and another is refused with CFGERR, save that the management
core suspends and resumes an erase itself (R363); a program of an erased page and an erase that the requester may make start in their bank; SUSPEND
and RESUME act on the erase of the bank; a read puts its page into MBUF; when a command ends its result stands in MSTAT with MBOX_DONE. (The model's
choices and readings here: log 53, 86, 104, 105.) -/
def Obligations.TheMailboxServes : Prop :=
  ∀ s : State,
    (∀ (src : Src) (addr : Nat), mayWrite s src Pg.flsh F.FLSH_MCMD_OP.off = true → addr = fget s Pg.flsh F.FLSH_MADDR_ADDR →
      (s.flash.mbox.isSome = true → ∀ c : Instr, c = .mboxRead src ∨ c = .mboxProgram src ∨ c = .mboxErase src ∨ (src ≠ .core ∧ c = .mboxSuspend src) ∨
        (src ≠ .core ∧ c = .mboxResume src) → Answers c s fun t => Within [.hdrs, .vecs] s t ∧ EventSet t Pg.flsh E.FLSH_CFGERR) ∧
      (s.flash.mbox.isSome = true → src = .core →
        (∀ n map tries o a, (s.fbank (flashBankOf addr)).op = some ⟨.erase n 2 map tries, o, a⟩ → (s.fbank (flashBankOf addr)).suspends < 16 →
          Answers (.mboxSuspend src) s fun t => Within [.flash] s t ∧ t.flash.bytes = s.flash.bytes ∧ t.flash.mbox = s.flash.mbox ∧
            (t.fbank (flashBankOf addr)).op = none ∧ (t.fbank (flashBankOf addr)).susp = some ⟨.erase n 2 map tries, o, a⟩) ∧
        (∀ o, (s.fbank (flashBankOf addr)).susp = some o → (s.fbank (flashBankOf addr)).op = none → Answers (.mboxResume src) s fun t =>
          Within [.flash] s t ∧ t.flash.bytes = s.flash.bytes ∧ t.flash.mbox = s.flash.mbox ∧
            (t.fbank (flashBankOf addr)).op = some { o with since := s.now } ∧ (t.fbank (flashBankOf addr)).susp = none)) ∧
      (s.flash.mbox = none →
        (Answers (.mboxRead src) s fun t => Within [.flash] s t ∧
          t.flash = { s.flash with mbOp := 1, mbox := some { op := 1, addr := addr, byCore := src == .core } }) ∧
        (mboxServed s = true →
          (∀ n, addr % 256 = 0 → mboxMay s (src == .core) addr = true → bankFree s (flashBankOf addr) = true → addrSector s addr = some n →
            suspSector s (flashBankOf addr) ≠ some n → (s.cell n).isOpen = false → (s.cell n).isRetired = false →
            pageBlank s (n * 65536 + addr % 65536) = true → Answers (.mboxProgram src) s fun t => Within [.boot, .flash] s t ∧ t.flash.bytes = s.flash.bytes ∧ t.flash.cells = s.flash.cells ∧
              (t.fbank (flashBankOf addr)).op = some ⟨.program (n * 65536 + addr % 65536) (mbufBytes s), .mailbox, s.now⟩ ∧
              t.flash.mbox.map (·.result) = some none) ∧
          (∀ n map, addr % 65536 = 0 → mboxMay s (src == .core) addr = true → (s.fbank (flashBankOf addr)).susp = none →
            bankFree s (flashBankOf addr) = true → (flashLoc addr = .slot n ∧ (s.cell n).isRetired = false ∧ map = none) ∨
              (∃ d l p, flashLoc addr = .data d l ∧ areaWorn s d = false ∧ nextSector s d = some p ∧ n = areaSector d p ∧ map = some l) →
            Answers (.mboxErase src) s fun t => Within [.boot, .flash] s t ∧ t.flash.bytes = s.flash.bytes ∧ t.flash.cells = s.flash.cells ∧
              (t.fbank (flashBankOf addr)).op = some ⟨.erase n 1 map 0, .mailbox, s.now⟩) ∧
          (∀ n map tries o a, (s.fbank (flashBankOf addr)).op = some ⟨.erase n 2 map tries, o, a⟩ →
            (s.fbank (flashBankOf addr)).suspends < 16 → Answers (.mboxSuspend src) s fun t => Within [.flash] s t ∧
              t.flash.bytes = s.flash.bytes ∧ (t.fbank (flashBankOf addr)).op = none ∧
              (t.fbank (flashBankOf addr)).susp = some ⟨.erase n 2 map tries, o, a⟩ ∧
              (t.fbank (flashBankOf addr)).suspends = (s.fbank (flashBankOf addr)).suspends + 1 ∧
              t.flash.mbox.map (·.result) = some (some 0)) ∧
          (∀ o, (s.fbank (flashBankOf addr)).susp = some o → (s.fbank (flashBankOf addr)).op = none → Answers (.mboxResume src) s fun t =>
            Within [.flash] s t ∧ t.flash.bytes = s.flash.bytes ∧ (t.fbank (flashBankOf addr)).op = some { o with since := s.now } ∧
            (t.fbank (flashBankOf addr)).susp = none ∧ t.flash.mbox.map (·.result) = some (some 0))))) ∧
    (∀ (rd : FlashIn) (m : Mbox),
      (∀ r, s.flash.mbox = some m → m.result = some r → mboxServed s = true → Answers (.mboxDone rd) s fun t => Within [.hdrs, .vecs, .flash] s t ∧
        t.flash = { s.flash with mbox := none, mbResult := r, mbCbits := if m.op = 1 then m.cbits else s.flash.mbCbits } ∧
        EventSet t Pg.flsh E.FLSH_MBOX_DONE) ∧
      (s.flash.mbox = some m → m.op = 1 → m.result = none → mboxServed s = true → m.addr % 256 = 0 → flashLoc m.addr ≠ .reserved →
        bankBusy s (flashBankOf m.addr) = false → readUncor s m.addr rd = false → Answers (.mboxDone rd) s fun t =>
          Within [.hdrs, .flds, .vecs, .flash] s t ∧ t.flash.mbox = none ∧ t.flash.mbResult = (if isWeak s rd then 1 else 0) ∧
          t.flash.mbCbits = rd.cbits ∧ EventSet t Pg.flsh E.FLSH_MBOX_DONE ∧ t.flash.bytes = s.flash.bytes ∧
          ∀ k < 64, fget t Pg.flsh (F.FLSH_MBUFk_DATA.shift (4 * k)) = leAt (flashBytes s m.addr 256) (4 * k) 4))

/-- The banks (R356, R358, R361, R362, R366 to R368, R414): a program that verifies stores its page, the three steps of an erase open its cell with the
count raised, empty the sector and close the cell, and an erase that fails twice retires the sector by a cell write; a rotation copies its sector raw
and maps it; a bank whose operation has ended serves the writes of the almanac and the fault log that wait for it; the window reads a word and moves
on, and a busy bank refuses it by source; rotation, the erase of an OPEN sector and the reads of R368 run when the core and the bank are free; the
oldest fault entry is programmed into both logs, area 0 first, and then freed. (The model's choices and readings here: log 6, 8, 53, 105, 106.) -/
def Obligations.FlashOperationsRun : Prop :=
  ∀ s : State,
    (∀ (b : Fin 2) (o : FlashOp), (s.fbank b).op = some o →
      (∀ key data, o.work = .program key data →
        (Answers (.flashOperationDone b true) s fun t => Within (touches (.flashOperationDone b true)) s t ∧
          (∀ a, a < key ∨ key + data.length ≤ a → tget 0xFF t.flash.bytes a = tget 0xFF s.flash.bytes a) ∧
          (∀ i < data.length, tget 0xFF t.flash.bytes (key + i) = data.getD i 0) ∧
          (s.flash.almJob = none → s.flash.logJob = none → Within [.flash] s t ∧ (t.fbank b).op = none)) ∧
        (Answers (.flashOperationDone b false) s fun t => Within (touches (.flashOperationDone b false)) s t ∧
          (∀ a, a < key ∨ key + 256 ≤ a → tget 0xFF t.flash.bytes a = tget 0xFF s.flash.bytes a) ∧
          (s.flash.almJob = none → s.flash.logJob = none → Within [.freeCtr, .flash] s t ∧ (t.fbank b).op = none)) ∧
        (∀ c rest, o.owner = .faultLog → s.flash.logJob = some ⟨1, 2⟩ → s.flash.almJob = none → s.safe.capture = c :: rest → coreRuns s = true →
          Answers (.flashOperationDone b true) s fun t => Within [.flds, .flash, .safe] s t ∧ t.safe = { s.safe with capture := rest } ∧
            t.flash.logJob = none ∧ t.flash.logNext = s.flash.logNext + 1 ∧ t.flash.logSeq = c.seq ∧
            fget t Pg.safe F.SAFE_LOGSTAT_LASTSEQ = c.seq % 2 ^ F.SAFE_LOGSTAT_LASTSEQ.w)) ∧
      (∀ n map tries, o.work = .erase n 1 map tries → ∀ verify, Answers (.flashOperationDone b verify) s fun t =>
        Within (touches (.flashOperationDone b verify)) s t ∧ t.cell n = mkCell 1 ((s.cell n).cycles + 1) none ∧
        (t.fbank b).op = some { o with work := .erase n 2 map 0, since := s.now } ∧
        (∀ a, a / 65536 ≠ n → tget 0xFF t.flash.bytes a = tget 0xFF s.flash.bytes a) ∧
        (s.flash.almJob = none → s.flash.logJob = none → Within [.freeCtr, .flash] s t)) ∧
      (∀ n map tries, o.work = .erase n 2 map tries →
        (Answers (.flashOperationDone b true) s fun t => Within (touches (.flashOperationDone b true)) s t ∧ t.flash.cells = s.flash.cells ∧
          (t.fbank b).op = some { o with work := .erase n 3 map tries, since := s.now } ∧
          (∀ a, tget 0xFF t.flash.bytes a = if a / 65536 = n then 0xFF else tget 0xFF s.flash.bytes a) ∧
          (s.flash.almJob = none → s.flash.logJob = none → Within [.flash] s t)) ∧
        (Answers (.flashOperationDone b false) s fun t => Within (touches (.flashOperationDone b false)) s t ∧
          t.flash.bytes = s.flash.bytes ∧ t.flash.cells = s.flash.cells ∧
          (t.fbank b).op = some { o with work := (if tries = 0 then .erase n 2 map 1 else .erase n 6 map tries), since := s.now } ∧
          (s.flash.almJob = none → s.flash.logJob = none → Within [.flash] s t))) ∧
      (∀ n map tries verify, o.work = .erase n 6 map tries → Answers (.flashOperationDone b verify) s fun t =>
        Within (touches (.flashOperationDone b verify)) s t ∧ t.flash.bytes = s.flash.bytes ∧ t.cell n = mkCell 2 (s.cell n).cycles none ∧
        Counted Pg.flsh F.FLSH_FCNT_RETIRES s t ∧ EventSet t Pg.flsh E.FLSH_RETIRE ∧
        (s.flash.almJob = none → s.flash.logJob = none → Within [.hdrs, .flds, .vecs, .flash] s t ∧ (t.fbank b).op = none)) ∧
      (∀ n map tries verify, o.work = .erase n 3 map tries → Answers (.flashOperationDone b verify) s fun t =>
        Within (touches (.flashOperationDone b verify)) s t ∧ t.flash.bytes = s.flash.bytes ∧
        (∀ src l, o.owner = .rotation src l → t.cell n = mkCell 0 (s.cell n).cycles none ∧
          (t.fbank b).op = some { o with work := .erase n 4 none tries, since := s.now }) ∧
        ((∀ src l, o.owner ≠ .rotation src l) →
          t.cell n = mkCell 0 (s.cell n).cycles (map.map fun l => (l, s.flash.gen.getD (sectorBank n) 1)) ∧
          (s.flash.almJob = none → s.flash.logJob = none → Within [.flash] s t ∧ (t.fbank b).op = none))) ∧
      (∀ n map tries verify src l, o.owner = .rotation src l →
        (o.work = .erase n 4 map tries → n ≠ src → Answers (.flashOperationDone b verify) s fun t =>
          Within (touches (.flashOperationDone b verify)) s t ∧ t.flash.cells = s.flash.cells ∧
          (t.fbank b).op = some { o with work := .erase n 5 none tries, since := s.now } ∧
          (∀ i < 65536, tget 0xFF t.flash.bytes (n * 65536 + i) = tget 0xFF s.flash.bytes (src * 65536 + i)) ∧
          ∀ a, a / 65536 ≠ n → tget 0xFF t.flash.bytes a = tget 0xFF s.flash.bytes a) ∧
        (o.work = .erase n 5 map tries → Answers (.flashOperationDone b verify) s fun t =>
          Within (touches (.flashOperationDone b verify)) s t ∧ t.flash.bytes = s.flash.bytes ∧
          t.cell n = mkCell 0 (s.cell n).cycles (some (l, s.flash.gen.getD (sectorBank n) 1))))) ∧
    (∀ (rd : FlashIn) (a : Nat), a = 4 * fget s Pg.flsh F.FLSH_RWADDR_ADDR →
      (∀ src, mayRead s src Pg.flsh = true → windowBusy s = false → flashLoc a ≠ .reserved → readUncor s a rd = false →
        Answers (.rwdataRead src rd) s fun t => Within [.busResult, .hdrs, .flds, .vecs, .flash] s t ∧ t.flash.bytes = s.flash.bytes ∧
          t.busResult = some (BitVec.ofNat 32 (leNat (slice (flashBytes s (a / 256 * 256) 256) (a % 256) 4))) ∧
          fget t Pg.flsh F.FLSH_RWADDR_ADDR = (fget s Pg.flsh F.FLSH_RWADDR_ADDR + 1) % 2 ^ F.FLSH_RWADDR_ADDR.w ∧
          fget t Pg.flsh F.FLSH_RWSTAT_UNCOR = 0 ∧ fget t Pg.flsh F.FLSH_RWSTAT_WEAK = b2n (isWeak s rd)) ∧
      (windowBusy s = true →
        (∀ p : Fin 16, linkActive s p = true → inSafe s = false → regRight s p Pg.flsh false = true → Answers (.rwdataRead (.host p) rd) s
          fun t => Within [.flds] s t ∧ OtherFields (Pg.link p) [F.HP_XSTS2_BUSY] s t ∧ Counted (Pg.link p) F.HP_XSTS2_BUSY s t) ∧
        (Answers (.rwdataRead .sideband rd) s fun t => Within [.hdrs, .flds, .vecs, .sb] s t ∧ t.sb = { s.sb with nak := 2 } ∧
          Counted Pg.sbnd F.SBND_ERRCNT_BUSY s t ∧ EventSet t Pg.sbnd E.SBND_BUSY_NAK) ∧
        exec (.rwdataRead .core rd) s = .fault (.busFault 0x504C))) ∧
    (∀ (d : Fin 2) (u : State), u = moveTail d 256 s → coreRuns s = true → rotationDue s d = true → rotationYields s d = false → bankBusy s d = false →
      (s.fbank d).susp = none → s.flash.toMove = [] → ∀ src p, rotationSource u d = some src → nextSector u d = some p →
      Answers (.rotationStep d) s fun t => Within [.boot, .flash] s t ∧ t.flash.bytes = s.flash.bytes ∧ t.flash.cells = s.flash.cells ∧
        (t.fbank d).op = some ⟨.erase (areaSector d p) 1 none 0, .rotation src (s.cell src).log, s.now⟩) ∧
    (∀ n : Fin 1024, coreRuns s = true → (s.cell n).isOpen = true → bankBusy s (sectorBank n) = false →
      (s.fbank (sectorBank n)).susp = none → Answers (.openSectorErase n) s fun t => Within [.boot, .flash] s t ∧
        t.flash.bytes = s.flash.bytes ∧ t.flash.cells = s.flash.cells ∧
        (t.fbank (sectorBank n)).op = some ⟨.erase n 1 none 0, .firmware, s.now⟩) ∧
    (∀ d : Fin 2, coreRuns s = true → bankBusy s d = false →
      (Answers (.flashRefreshRead d []) s fun t => Within [.flash] s t ∧
        t.flash = { s.flash with refreshed := lset 0 s.flash.refreshed d s.now }) ∧
      (∀ a rd, flashBankOf a = d.val → (addrSector s a).isSome = true → rd.uncor = true → Answers (.flashRefreshRead d [(a, rd)]) s fun t =>
        Within [.hdrs, .flds, .vecs, .flash] s t ∧ t.flash.bytes = s.flash.bytes ∧ Counted Pg.flsh F.FLSH_FCNT_UNCORS s t ∧
        EventSet t Pg.flsh E.FLSH_UNCOR)) ∧
    (∀ c rest n, s.safe.capture = c :: rest → coreRuns s = true → n = s.flash.logNext →
      (s.flash.logJob = none → bankFree s 0 = false → Answers .faultLogWrite s fun t =>
        t = { s with flash := { s.flash with logJob := some ⟨0, 0⟩ } }) ∧
      (∀ p, s.flash.logJob = none → bankFree s 0 = true → n % 255 ≠ 0 → holder s 0 (logPlace n).1 = some p →
        pageBlank s (areaSector 0 p * 65536 + (logPlace n).2 * 256) = true → Answers .faultLogWrite s fun t => Within [.boot, .flash] s t ∧
          t.flash.bytes = s.flash.bytes ∧ t.flash.logJob = some ⟨0, 2⟩ ∧ (t.fbank 0).op =
            some ⟨.program (areaSector 0 p * 65536 + (logPlace n).2 * 256) (crcPage (captureBytes s c)), .faultLog, s.now⟩) ∧
      (∀ p, s.flash.logJob = none → bankFree s 0 = true → n % 255 = 0 ∨ holder s 0 (logPlace n).1 = none → areaWorn s 0 = false →
        (s.fbank 0).susp = none → nextSector s 0 = some p → Answers .faultLogWrite s fun t => Within [.boot, .flash] s t ∧
          t.flash.bytes = s.flash.bytes ∧ t.flash.logJob = some ⟨0, 0⟩ ∧
          (t.fbank 0).op = some ⟨.erase (areaSector 0 p) 1 (some (logPlace n).1) 0, .faultLog, s.now⟩) ∧
      (∀ p d, s.flash.logJob = some ⟨d, 1⟩ → d < 2 → bankFree s d = true → holder s d (logPlace n).1 = some p →
        Answers .faultLogWrite s fun t => Within [.boot, .flash] s t ∧ t.flash.bytes = s.flash.bytes ∧
          (t.fbank d).op = some ⟨.program (areaSector d p * 65536) (logHeader s c.seq), .faultLog, s.now⟩) ∧
      (∀ j, s.flash.logJob = some j → 2 ≤ j.area → Answers .faultLogWrite s fun t => Within [.flds, .flash, .safe] s t ∧
        t.safe = { s.safe with capture := rest } ∧ t.flash.logNext = n + 1 ∧ t.flash.logSeq = c.seq ∧
        fget t Pg.safe F.SAFE_LOGSTAT_LASTSEQ = c.seq % 2 ^ F.SAFE_LOGSTAT_LASTSEQ.w))

/-! ### The sideband -/

/-- The sideband target (R376 to R390): a START begins a transaction, a STOP ends it, and one after 1 to 3 bytes of a write word is an error; an address
of another device is ignored; three address bytes that R381 admits begin a write; the last byte of a word commits it, and a bad check byte or a full
buffer ends in a NACK; a read word goes out and the next one is read when its third byte is acknowledged; a line that has not moved for its limit
resets the target; a device that sleeps answers no address. (The model's choices and readings here: log 34, 35, 108.) -/
def Obligations.TheSidebandTalks : Prop :=
  ∀ s : State, s.boot.held = false →
    (∀ pos : BusPos, pos = .boundary ∨ sbTakesPart s.sb = false →
      (Answers (.sbStart pos) s fun t => Within [.sb] s t ∧ t.sb.state = .address ∧ t.sb.expectAddr = true ∧ t.sb.got = [] ∧
        t.sb.addr = [] ∧ t.sb.thold = fget s Pg.sbnd F.SBND_STIM_THOLD ∧
        t.sb.afterSr = (pos == .boundary && s.sb.state == .write && s.sb.fresh)) ∧
      ((∀ n, s.sb.got.length = n → pos = .boundary → s.sb.state = .write → n = 0 ∨ 3 < n) → Answers (.sbStop pos) s fun t =>
        Within [.sb] s t ∧ t.sb.state = .idle ∧ t.sb.got = [] ∧ t.sb.word = none ∧ t.sb.held = false)) ∧
    (∀ pos : BusPos, pos ≠ .boundary → sbTakesPart s.sb = true →
      (Answers (.sbStart pos) s fun t => Within [.hdrs, .flds, .vecs, .sb] s t ∧ t.sb.state = .address ∧ t.sb.expectAddr = true ∧
        Counted Pg.sbnd F.SBND_ERRCNT_PROTO s t ∧ EventSet t Pg.sbnd E.SBND_PROTO) ∧
      (Answers (.sbStop pos) s fun t => Within [.hdrs, .flds, .vecs, .sb] s t ∧ t.sb.state = .idle ∧
        Counted Pg.sbnd F.SBND_ERRCNT_PROTO s t ∧ EventSet t Pg.sbnd E.SBND_PROTO)) ∧
    (s.sb.state = .write → 1 ≤ s.sb.got.length → s.sb.got.length ≤ 3 → Answers (.sbStop .boundary) s fun t =>
      Within [.hdrs, .flds, .vecs, .sb] s t ∧ t.sb.state = .idle ∧ t.sb.got = [] ∧ Counted Pg.sbnd F.SBND_ERRCNT_PROTO s t ∧
      EventSet t Pg.sbnd E.SBND_PROTO) ∧
    (∀ (byte : Byte) (rd : FlashIn), s.sb.state = .address →
      (s.sb.expectAddr = true → byte.toNat / 2 ≠ 0x58 + s.boot.sa.toNat → Answers (.sbAddress byte rd) s fun t => Within [.sb] s t ∧
        t.sb.state = .ignoring) ∧
      (s.sb.expectAddr = true → byte.toNat / 2 = 0x58 + s.boot.sa.toNat → sbDeaf s = true → Answers (.sbAddress byte rd) s fun t =>
        Within [.links, .pll, .power, .sb] s t ∧ t.sb.state = .ignoring ∧ t.sb.nak = 1) ∧
      (s.sb.expectAddr = true → byte.toNat = 2 * (0x58 + s.boot.sa.toNat) → sbDeaf s = false → s.sb.afterSr = false →
        Answers (.sbAddress byte rd) s fun t => Within [.sb] s t ∧ t.sb.state = .address ∧ t.sb.expectAddr = false ∧
          t.sb.crc = pecByte 0 byte) ∧
      (s.sb.expectAddr = true → byte.toNat = 2 * (0x58 + s.boot.sa.toNat) + 1 → sbDeaf s = false → s.sb.afterSr = true →
        busyWord s s.sb.raddr = false → ∀ u, u = { s with sb := { s.sb with lastAt := s.now } } →
        Answers (.sbAddress byte rd) s fun t => t.sb.state = .read ∧ t.sb.expectAddr = false ∧ t.sb.out = 0 ∧
          t.sb.word = some (regRead (s.sb.raddr / 4096) (s.sb.raddr % 4096) rd (wakeFor .sideband (s.sb.raddr / 4096) u)).1) ∧
      (s.sb.expectAddr = false → s.sb.addr.length < 2 → Answers (.sbAddress byte rd) s fun t => Within [.sb] s t ∧
        t.sb = { s.sb with addr := s.sb.addr ++ [byte], crc := pecByte s.sb.crc byte, lastAt := s.now }) ∧
      (∀ raddr, s.sb.expectAddr = false → s.sb.addr.length = 2 → raddr = leNat (s.sb.addr ++ [byte]) % 2 ^ 20 →
        (sbThird byte raddr s = true → Answers (.sbAddress byte rd) s fun t => Within [.sb] s t ∧ t.sb.state = .write ∧
          t.sb.raddr = raddr ∧ t.sb.fresh = true ∧ t.sb.p = byte.getLsbD 7 ∧ t.sb.got = []) ∧
        (sbThird byte raddr s = false → Answers (.sbAddress byte rd) s fun t => Within [.hdrs, .flds, .vecs, .sb] s t ∧
          t.sb.state = .ignoring ∧ t.sb.nak = 3 ∧ Counted Pg.sbnd F.SBND_ERRCNT_PROTO s t ∧ EventSet t Pg.sbnd E.SBND_PROTO))) ∧
    (∀ bytes : List Byte, s.sb.state = .write → bytes ≠ [] →
      (s.sb.got.length + bytes.length < (if s.sb.p then 5 else 4) → Answers (.sbWriteWord bytes false) s fun t => Within [.sb] s t ∧
        t.sb = { s.sb with got := s.sb.got ++ bytes, fresh := false, crc := pecRun s.sb.crc bytes, lastAt := s.now }) ∧
      (∀ more u, exec (.sbWriteWord bytes false) s = .next u → u.boot.held = false → u.sb.lastAt = u.now →
        exec (.sbWriteWord (bytes ++ more) false) s = exec (.sbWriteWord more false) u) ∧
      (∀ (page : Fin 256) (val : Word) (c : Nat), s.sb.got = [] → val = BitVec.ofNat 32 (leNat (slice bytes 0 4)) →
        s.sb.raddr = page * 4096 + 0x14 → pageAssigned page = true → page.val ≠ Pg.prot → sbReach s page 0x14 = true →
        c = pecRun s.sb.crc (slice bytes 0 4) →
        (s.sb.p = false ∧ bytes.length = 4 ∨ s.sb.p = true ∧ bytes.length = 5 ∧ leAt bytes 4 1 = c →
          Answers (.sbWriteWord bytes false) s fun t => (sleeps page = false → Within [.hdrs, .flds, .sb] s t) ∧
            Within [.freeCtr, .hdrs, .flds, .links, .chans, .vecs, .power, .sb] s t ∧
            t.hdr page = { ((wakeFor .sideband page s).hdr page) with evtEn := val &&& evtMask page } ∧
            (∀ p, p ≠ page.val → t.hdr p = (wakeFor .sideband page s).hdr p) ∧ Counted Pg.sbnd F.SBND_XCNT_WR s t ∧
            t.sb = { s.sb with got := [], fresh := false, crc := if s.sb.p then 0 else c, raddr := page * 4096 + 0x18, lastAt := s.now }) ∧
        (s.sb.p = true → bytes.length = 5 → leAt bytes 4 1 ≠ c → Answers (.sbWriteWord bytes false) s fun t =>
          Within [.hdrs, .flds, .vecs, .sb] s t ∧ t.sb.state = .ignoring ∧ t.sb.nak = 5 ∧ Counted Pg.sbnd F.SBND_ERRCNT_PEC s t ∧
          EventSet t Pg.sbnd E.SBND_PEC_ERR)) ∧
      (s.sb.got = [] → Answers (.sbWriteWord bytes true) s fun t => Within [.hdrs, .flds, .vecs, .sb] s t ∧ t.sb.state = .ignoring ∧
        t.sb.nak = 4 ∧ Counted Pg.sbnd F.SBND_ERRCNT_BUSY s t ∧ EventSet t Pg.sbnd E.SBND_BUSY_NAK)) ∧
    (∀ (acked : ReadEnd) (rd : FlashIn), s.sb.state = .read → s.sb.out = 0 →
      (acked.acked.val < 3 → Answers (.sbReadWord acked rd) s fun t => Within [.busResult, .sb] s t ∧ t.busResult = some (sentWord s.sb) ∧
        (acked.cut = false → t.sb.state = .ignoring) ∧ (acked.cut = true → t.sb.state = .read ∧ t.sb.out = acked.acked)) ∧
      (3 ≤ acked.acked.val → acked.acked.val < (if s.sb.p then 5 else 4) → Answers (.sbReadWord acked rd) s fun t =>
        t.busResult = some (sentWord s.sb) ∧ (acked.cut = false → t.sb.state = .ignoring) ∧
        (acked.cut = true → t.sb.state = .read ∧ t.sb.out = acked.acked)) ∧
      ((if s.sb.p then 5 else 4) ≤ acked.acked.val → s.sb.aborted = false → busyWord s (nextRaddr s.sb.raddr) = true →
        Answers (.sbReadWord acked rd) s fun t => Within [.busResult, .hdrs, .vecs, .sb] s t ∧ t.busResult = some (sentWord s.sb) ∧
          t.sb.state = .read ∧ t.sb.aborted = true ∧ t.sb.raddr = nextRaddr s.sb.raddr ∧ EventSet t Pg.sbnd E.SBND_RD_ABORT) ∧
      ((if s.sb.p then 5 else 4) ≤ acked.acked.val → s.sb.aborted = false → busyWord s (nextRaddr s.sb.raddr) = false →
        Answers (.sbReadWord acked rd) s fun t => t.busResult = some (sentWord s.sb) ∧ t.sb.state = .read ∧
          t.sb.raddr = nextRaddr s.sb.raddr ∧ t.sb.word.isSome = true)) ∧
    (sbDrives s.sb = false → Answers .sdaTo s fun t => t = s) ∧
    (∀ (c : Instr) (e limit : Nat), (c = .sdaTo ∧ sbDrives s.sb = true ∧ e = E.SBND_SDA_TO ∧ limit = s.sb.sdato) ∨
        (c = .sclTo ∧ e = E.SBND_SCL_TO ∧ limit = s.sb.sclto) ∨ (c = .busHeld ∧ e = E.SBND_BUS_HELD ∧ limit = s.sb.sdato) →
      Answers c s fun t => Within [.now, .hdrs, .flds, .vecs, .time, .sb] s t ∧ s.sb.lastAt + ms limit ≤ t.now ∧ t.sb.state = .idle ∧ t.sb.got = [] ∧
        (c = .busHeld → t.sb.held = true) ∧ Counted Pg.sbnd F.SBND_ERRCNT_PROTO s t ∧ OtherFields Pg.sbnd [F.SBND_ERRCNT_PROTO] s t ∧
        EventSet t Pg.sbnd e)

/-! ### The safety monitor -/

/-- Faults of device scope (R399 to R401, R405, R406, R409, R410): outside ENTERING and SAFE each of them enters ENTERING with FAULT_N driven and its
mechanism in FCAUSE when it is the first; inside them it is only logged; the entry ends with no request and no commit open, the descriptors listed but
at rest, every serving channel, and one under a reset, in self-refresh and the state SAFE. During a warm reset a fault is only logged, save one of the
scanner and the command. (The model's choices and readings here: log 61, 103.) -/
def Obligations.FaultsLeadToSafe : Prop :=
  ∀ s : State,
    (inSafe s = false →
      (∀ (c : Instr) (mech page : Nat),
        (∃ src, c = .safeEnter (.command src 0xA5C3) ∧ mayWrite s src Pg.safe F.SAFE_SCMD_ENTER.off = true ∧ mech = 0xFF ∧ page = Pg.safe) ∨
        (∃ p : Fin 256, inWarm s = false ∧ c = .safeEnter (.parity p) ∧ pageType p ∉ [0x10, 0xC0, 0x40, 0x80, 0x20] ∧ mech = 0x0A ∧
          page = p.val) ∨
        (∃ p : Fin 16, inWarm s = false ∧ c = .safeEnter (.bounds p) ∧ mech = 0x0A ∧ page = Pg.link p) ∨
        (inWarm s = false ∧ c = .safeEnter .dataPath ∧ mech = 0x0B ∧ page = Pg.dev) ∨
        (inWarm s = false ∧ c = .monitorSelfCompare ∧ mech = 0x0D ∧ page = Pg.safe) ∨
        (inWarm s = false ∧ c = .fnMismatch true ∧ fnDriven s = true ∧ mech = 0x0D ∧ page = Pg.safe) ∨
        (∃ p, c = .scanPass [p] ∧ mech = 9 ∧ page = p) →
        Answers c s fun t =>
          Within [.hdrs, .flds, .links, .accs, .commits, .regions, .queues, .jobs, .bells, .vecs, .ring, .safe] s t ∧ t.safe.state = .entering ∧
          t.safe.fnDrv = true ∧ t.safe.since = s.now ∧ t.safe.caused = true ∧
          (s.safe.caused = false → fget t Pg.safe F.SAFE_FCAUSE_MECH = mech ∧
            fget t Pg.safe F.SAFE_FCAUSE_PAGE = page % 2 ^ F.SAFE_FCAUSE_PAGE.w) ∧
          (s.safe.capture.length < 15 → ∃ a ∈ t.safe.capture, a.mech = mech ∧ a.scope = 5 ∧ a.action = 3)) ∧
      (inWarm s = true → s.safe.capture.length < 15 → ∀ c : Instr, c = .safeEnter .dataPath ∨ c = .monitorSelfCompare →
        Answers c s fun t => Within [.hdrs, .vecs, .safe] s t ∧ t.safe.state = s.safe.state ∧ t.safe.fnDrv = s.safe.fnDrv ∧
          ∃ a ∈ t.safe.capture, a.scope = 5 ∧ a.action = 0) ∧
      (∀ p, Answers (.scanPass [p]) s fun t => p ∈ t.safe.corrupt) ∧
      (∀ p : Fin 256, 0x10 ≤ p.val → p.val < 0x20 → s.safe.capture.length < 16 → Answers (.safeEnter (.parity p)) s fun t =>
        t.safe.state = s.safe.state ∧ Counted Pg.safe F.SAFE_FCNT_PORT s t ∧
        ∃ a ∈ t.safe.capture, a.mech = 0x0A ∧ a.scope = 1 ∧ a.unit = p.val - 0x10 ∧ a.action = 1) ∧
      (∀ src key, mayWrite s src Pg.safe F.SAFE_SCMD_ENTER.off = true → key ≠ 0xA5C3 → Answers (.safeEnter (.command src key)) s fun t =>
        Within [.hdrs, .vecs] s t ∧ EventSet t Pg.safe E.SAFE_CFGERR) ∧
      (∀ p : Fin 256, 0x40 ≤ p.val → p.val < 0x80 → Answers (.safeEnter (.parity p)) s fun t => (t.chan (p.val - 0x40)).state = .failed) ∧
      (fnDriven s = false → Answers (.fnMismatch false) s fun t => Within [.hdrs, .vecs, .safe] s t ∧ t.safe.state = s.safe.state ∧
        t.safe.fnRb = true ∧ EventSet t Pg.safe E.SAFE_FN_MISMATCH)) ∧
    (inSafe s = true → s.safe.capture.length < 15 → ∀ c : Instr, c = .safeEnter .dataPath ∨ c = .monitorSelfCompare ∨
        c = .safeEnter (.command .core 0xA5C3) → Answers c s fun t => Within [.safe] s t ∧ t.safe.state = s.safe.state ∧
      ∃ a, t.safe.capture = s.safe.capture ++ [a] ∧ a.scope = 5 ∧ a.action = 3) ∧
    (s.safe.state = .entering → Answers .safeEntryDone s fun t =>
      Within [.hdrs, .flds, .links, .accs, .commits, .chans, .mem, .regions, .vecs, .bells, .groups, .safe] s t ∧
      t.safe.state = .safe ∧ t.accs = [] ∧ t.commits = [] ∧ t.jobs = s.jobs ∧ t.bells = [] ∧ (∀ g, (t.group g).work = []) ∧ (∀ rn, (t.region rn).pendings = []) ∧
      Counted Pg.safe F.SAFE_FCNT_SAFE s t ∧ EventSet t Pg.safe E.SAFE_SAFE_ENTRY ∧
      ∀ ch ∈ s.chans.map (·.1), chServes s ch = true ∨ (s.chan ch).state = .reset → (t.chan ch).state = .selfref)

/-- The checks of the monitor (R400, R401, R417 to R419): a scanner pass is counted; a sample of the temperatures warns once above TWARN and, twice above
115 °C, is a fault; a round of latent tests marks its classes as passed, a failed class has its reaction, which in ENTERING and SAFE is an entry in
the log alone; LTRUN asks for a round; a class too old is OVERDUE; a halted core is DIAG_LOST. (The model's choices and readings here: log 2, 61, 83,
103.) -/
def Obligations.TheMonitorChecks : Prop :=
  ∀ s : State,
    (Answers (.scanPass []) s fun t => Within [.flds, .safe] s t ∧ t.safe = { s.safe with scanAt := s.now } ∧
      fget t Pg.safe F.SAFE_SCAN_PASSES = (fget s Pg.safe F.SAFE_SCAN_PASSES + 1) % 2 ^ F.SAFE_SCAN_PASSES.w ∧
      OtherFields Pg.safe [F.SAFE_SCAN_PASSES, F.SAFE_SCAN_LASTUS] s t) ∧
    (∀ (temps : List Int) (top warn : Int), temps.length = 9 → top = tempMax { s with safe := { s.safe with temps := temps } } →
      warn = 16 * fget s Pg.safe F.SAFE_SCFG_TWARN → (∀ x ∈ temps, (x - median temps).natAbs ≤ 160) →
      (top ≤ 1840 → Answers (.tempSample temps) s fun t => Within [.hdrs, .vecs, .safe] s t ∧ t.safe.temps = temps ∧ t.safe.hotRun = 0 ∧
        t.safe.state = s.safe.state ∧ (warn < top → t.safe.armed = false ∧ (s.safe.armed = true → EventSet t Pg.safe E.SAFE_TEMP_WARN)) ∧
        (top ≤ warn - 32 → t.safe.armed = true)) ∧
      (1840 < top → s.safe.hotRun = 0 → Answers (.tempSample temps) s fun t => Within [.hdrs, .vecs, .safe] s t ∧ t.safe.hotRun = 1 ∧
        t.safe.state = s.safe.state) ∧
      (1840 < top → s.safe.hotRun = 1 → inSafe s = false → inWarm s = false → Answers (.tempSample temps) s fun t =>
        Within [.hdrs, .flds, .links, .accs, .commits, .regions, .queues, .jobs, .bells, .vecs, .ring, .safe] s t ∧ t.safe.state = .entering)) ∧
    (coreRuns s = true →
      (∀ (k : Fin 8) (u : Fin 64), k.val < 3 → s.safe.ltRun = true → inSafe s = true → s.safe.capture.length < 16 →
        Answers (.latentTestRound [(k, u)]) s fun t => Within [.safe] s t ∧ t.safe.state = s.safe.state ∧
          t.safe.ltFail.getLsbD k = true ∧ t.safe.capture.length = s.safe.capture.length + 1) ∧
      (s.safe.ltRun = true → s.safe.ltPass.length = 8 → Answers (.latentTestRound []) s fun t => Within [.safe] s t ∧
        t.safe = { s.safe with ltRun := false, ltAt := s.now, ltPass := List.replicate 8 s.now, ltOverdue := 0 }) ∧
      (s.safe.ltRun = false → Answers (.latentTestRound []) s fun t => Within [.now, .time, .safe] s t ∧
        s.safe.ltAt + ltPeriod s ≤ t.now ∧ t.safe.ltAt = t.now ∧ t.safe.ltOverdue = 0) ∧
      (∀ u : Fin 64, s.safe.ltRun = true → inSafe s = false →
        (chServes s u = true → Answers (.latentTestRound [(0, u)]) s fun t => (t.chan u).state = .failed ∧ t.safe.ltFail.getLsbD 0 = true) ∧
        (Answers (.latentTestRound [(2, u)]) s fun t => (t.group (u.val / 8)).fence.getLsbD (u.val % 8) = true ∧
          t.safe.ltFail.getLsbD 2 = true) ∧
        (∀ k : Fin 8, 3 ≤ k.val → k.val ≤ 5 → inWarm s = false → Answers (.latentTestRound [(k, u)]) s fun t => t.safe.state = .entering ∧
          t.safe.ltFail.getLsbD k = true) ∧
        (Answers (.latentTestRound [(6, u)]) s fun t => Within [.hdrs, .vecs, .safe] s t ∧ t.safe.ltFail.getLsbD 6 = true ∧
          EventSet t Pg.safe E.SAFE_LT_FAIL))) ∧
    (∀ src, mayWrite s src Pg.safe F.SAFE_SCMD_LTRUN.off = true → Answers (.ltrun src) s fun t =>
      t = { s with safe := { s.safe with ltRun := true } }) ∧
    (∀ c, c < 8 → s.safe.ltOverdue.getLsbD c = false →
      (∀ d, d < 8 → s.safe.ltOverdue.getLsbD d = false → s.safe.ltPass.getD c 0 ≤ s.safe.ltPass.getD d 0) → Answers .ltOverdue s fun t =>
        Within [.now, .hdrs, .vecs, .time, .safe] s t ∧ t.safe.ltOverdue.getLsbD c = true ∧ EventSet t Pg.safe E.SAFE_LT_OVERDUE ∧
        s.safe.ltPass.getD c 0 + 2 * ltPeriod s < t.now ∧
        ∀ d, s.safe.ltOverdue.getLsbD d = true → t.safe.ltOverdue.getLsbD d = true) ∧
    (s.boot.state = .halted → Answers .diagLost s fun t => Within [.hdrs, .vecs, .safe] s t ∧ EventSet t Pg.safe E.SAFE_DIAG_LOST) ∧
    (s.boot.state ≠ .halted → s.boot.coreUp = false → s.boot.held = false → Answers .diagLost s fun t =>
      Within [.now, .hdrs, .vecs, .time, .safe] s t ∧ EventSet t Pg.safe E.SAFE_DIAG_LOST ∧ s.boot.since + ltPeriod s < t.now)
end

