-- ==== Sys2Proof/Laws/Tab.lean ====
section
/-!
SUPPORT. Sparse tables and stored bytes: reading what was written, and the canonical form.
-/

namespace Sys2Proof.Machine

/-! ### Reading a table after a write -/

theorem tget_tset {α : Type} (d v : α) (t : Tab α) (k j : Nat) : tget d (tset t k v) j = if j = k then v else tget d t j := by
  induction t with
  | nil =>
    by_cases h : j = k
    · simp [tset, tget, h]
    · simp [tset, tget, h, Ne.symm h]
  | cons e t ih =>
    obtain ⟨a, w⟩ := e
    by_cases h1 : k < a
    · by_cases h : j = k
      · simp [tset, tget, h1, h]
      · simp [tset, tget, h1, h, Ne.symm h]
    · by_cases h2 : k = a
      · subst h2
        by_cases h : j = k
        · simp [tset, tget, h]
        · simp [tset, tget, h, Ne.symm h]
      · simp only [tset, h1, h2, if_false, tget]
        by_cases h3 : a = j
        · subst h3
          have : a ≠ k := Ne.symm h2
          simp [this]
        · simp [h3, ih]

@[simp] theorem tget_tset_same {α : Type} (d v : α) (t : Tab α) (k : Nat) : tget d (tset t k v) k = v := by
  simp [tget_tset]

theorem tget_tset_ne {α : Type} (d v : α) (t : Tab α) {k j : Nat} (h : j ≠ k) : tget d (tset t k v) j = tget d t j := by
  simp [tget_tset, h]

theorem tget_tdel {α : Type} (d : α) (t : Tab α) (k j : Nat) : tget d (tdel t k) j = if j = k then d else tget d t j := by
  induction t with
  | nil => simp [tdel, tget]
  | cons e t ih =>
    obtain ⟨a, w⟩ := e
    by_cases h1 : a = k
    · subst h1
      by_cases h : j = a
      · simpa [tdel, h] using ih
      · simp [tdel, tget, h, Ne.symm h, ih]
    · by_cases h : a = j
      · subst h
        simp [tdel, tget, h1]
      · simp [tdel, tget, h1, h, ih]

theorem tget_cset {α : Type} [DecidableEq α] (d v : α) (t : Tab α) (k j : Nat) :
    tget d (cset t k d v) j = if j = k then v else tget d t j := by
  unfold cset
  by_cases h : v = d
  · subst h
    simp [tget_tdel]
  · rw [if_neg h, tget_tset, tget_tdel]
    by_cases hj : j = k <;> simp [hj]

@[simp] theorem tget_cset_same {α : Type} [DecidableEq α] (d v : α) (t : Tab α) (k : Nat) : tget d (cset t k d v) k = v := by
  simp [tget_cset]

theorem tget_cset_ne {α : Type} [DecidableEq α] {d e : α} (v : α) (t : Tab α) {k j : Nat} (h : j ≠ k) :
    tget e (cset t k d v) j = tget e t j := by
  unfold cset
  by_cases hv : v = d
  · simp [hv, tget_tdel, h]
  · simp [hv, tget_tset, tget_tdel, h]

/-! ### The canonical form -/

/-- Addresses strictly rising, as a statement over pairs. -/
theorem keysRising_iff (m : List Host.Cell) : keysRising m = true ↔ m.Pairwise fun a b => a.1 < b.1 := by
  induction m with
  | nil => simp [keysRising]
  | cons e m ih =>
    obtain ⟨a, x⟩ := e
    cases m with
    | nil => simp [keysRising]
    | cons f m =>
      obtain ⟨b, y⟩ := f
      simp only [keysRising, Bool.and_eq_true, decide_eq_true_eq, ih]
      constructor
      · rintro ⟨hab, hp⟩
        refine List.pairwise_cons.mpr ⟨?_, hp⟩
        intro z hz
        rcases List.mem_cons.mp hz with rfl | hz
        · exact hab
        · exact Nat.lt_trans hab ((List.pairwise_cons.mp hp).1 z hz)
      · intro hp
        have h := List.pairwise_cons.mp hp
        exact ⟨h.1 _ (List.mem_cons_self ..), h.2⟩

theorem mem_tdel {α : Type} {t : Tab α} {k : Nat} {e : Nat × α} (h : e ∈ tdel t k) : e ∈ t := by
  induction t with
  | nil => exact h
  | cons f t ih =>
    obtain ⟨a, w⟩ := f
    by_cases h1 : a = k
    · simp only [tdel, h1, if_true] at h
      exact List.mem_cons_of_mem _ (ih h)
    · simp only [tdel, h1, if_false] at h
      rcases List.mem_cons.mp h with rfl | h
      · exact List.mem_cons_self ..
      · exact List.mem_cons_of_mem _ (ih h)

theorem mem_tset {α : Type} {t : Tab α} {k : Nat} {v : α} {e : Nat × α} (h : e ∈ tset t k v) : e = (k, v) ∨ e ∈ t := by
  induction t with
  | nil => exact .inl (List.mem_singleton.mp h)
  | cons f t ih =>
    obtain ⟨a, w⟩ := f
    by_cases h1 : k < a
    · simp only [tset, h1, if_true] at h
      exact List.mem_cons.mp h
    · by_cases h2 : k = a
      · simp only [tset, h2, if_true, Nat.lt_irrefl, if_false] at h
        rcases List.mem_cons.mp h with h | h
        · exact .inl (h2 ▸ h)
        · exact .inr (List.mem_cons_of_mem _ h)
      · simp only [tset, h1, h2, if_false] at h
        rcases List.mem_cons.mp h with rfl | h
        · exact .inr (List.mem_cons_self ..)
        · exact (ih h).imp_right (List.mem_cons_of_mem _)

theorem tdel_rising {t : List Host.Cell} {k : Nat} (h : t.Pairwise fun a b => a.1 < b.1) :
    (tdel t k).Pairwise fun a b => a.1 < b.1 := by
  induction t with
  | nil => exact h
  | cons f t ih =>
    obtain ⟨a, w⟩ := f
    have hh := List.pairwise_cons.mp h
    by_cases h1 : a = k
    · simpa only [tdel, h1, if_true] using ih hh.2
    · simp only [tdel, h1, if_false]
      exact List.pairwise_cons.mpr ⟨fun z hz => hh.1 z (mem_tdel hz), ih hh.2⟩

theorem tset_rising {t : List Host.Cell} {k : Nat} {v : Byte} (h : t.Pairwise fun a b => a.1 < b.1) :
    (tset t k v).Pairwise fun a b => a.1 < b.1 := by
  induction t with
  | nil => exact List.pairwise_singleton ..
  | cons f t ih =>
    obtain ⟨a, w⟩ := f
    have hh := List.pairwise_cons.mp h
    by_cases h1 : k < a
    · simp only [tset, h1, if_true]
      refine List.pairwise_cons.mpr ⟨fun z hz => ?_, h⟩
      rcases List.mem_cons.mp hz with rfl | hz
      · exact h1
      · exact Nat.lt_trans h1 (hh.1 z hz)
    · by_cases h2 : k = a
      · subst h2
        simp only [tset, Nat.lt_irrefl, if_false, if_true]
        exact List.pairwise_cons.mpr ⟨hh.1, hh.2⟩
      · simp only [tset, h1, h2, if_false]
        refine List.pairwise_cons.mpr ⟨fun z hz => ?_, ih hh.2⟩
        rcases mem_tset hz with rfl | hz
        · exact Nat.lt_of_le_of_ne (Nat.le_of_not_lt h1) (Ne.symm h2)
        · exact hh.1 z hz

/-- Canonical form with respect to what unlisted addresses read as. -/
def Canon (d : Nat → Byte) (m : List Host.Cell) : Prop := (m.Pairwise fun a b => a.1 < b.1) ∧ ∀ e ∈ m, e.2 ≠ d e.1

theorem memory_wf_iff (m : List Host.Cell) : Memory.wf m = true ↔ Canon memDefault m := by
  simp [Memory.wf, Canon, keysRising_iff]

theorem flash_wf_iff (f : Flash) : f.wf = true ↔ Canon (fun _ => 0xFF) f.bytes := by
  simp [Flash.wf, Canon, keysRising_iff]

theorem Canon.cset {d : Nat → Byte} {m : List Host.Cell} (h : Canon d m) (k : Nat) (v : Byte) : Canon d (cset m k (d k) v) := by
  unfold Sys2Proof.Machine.cset
  by_cases hv : v = d k
  · rw [if_pos hv]
    exact ⟨tdel_rising h.1, fun e he => h.2 e (mem_tdel he)⟩
  · rw [if_neg hv]
    refine ⟨tset_rising (tdel_rising h.1), fun e he => ?_⟩
    rcases mem_tset he with rfl | he
    · exact hv
    · exact h.2 e (mem_tdel he)

theorem Canon.filter {d : Nat → Byte} {m : List Host.Cell} (h : Canon d m) (p : Host.Cell → Bool) : Canon d (m.filter p) :=
  ⟨h.1.sublist List.filter_sublist, fun e he => h.2 e (List.mem_filter.mp he).1⟩

theorem Canon.append {d : Nat → Byte} {m n : List Host.Cell} (h : Canon d m) (k : Canon d n) (hk : ∀ a ∈ m, ∀ b ∈ n, a.1 < b.1) :
    Canon d (m ++ n) :=
  ⟨List.pairwise_append.mpr ⟨h.1, k.1, hk⟩, fun e he => (List.mem_append.mp he).elim (h.2 e) (k.2 e)⟩

theorem Canon.nil (d : Nat → Byte) : Canon d [] := ⟨List.Pairwise.nil, fun _ h => nomatch h⟩

/-! ### Bytes of the flash -/

/-- The new content of a sector: offsets strictly rising and below 65,536, and no erased byte listed. -/
def SectorOk (new : List Host.Cell) : Prop := Canon (fun _ => 0xFF) new ∧ ∀ e ∈ new, e.1 < 65536

theorem sectorOk_nil : SectorOk [] := ⟨Canon.nil _, fun _ h => nomatch h⟩

theorem flashSector_wf {f : Flash} {n : Nat} {new : List Host.Cell} (h : f.wf = true) (hn : SectorOk new) :
    Flash.wf { f with bytes := (f.bytes.filter fun e => e.1 / 65536 < n) ++ new.map (fun e => (n * 65536 + e.1, e.2)) ++
      (f.bytes.filter fun e => n < e.1 / 65536) } = true := by
  have hc := (flash_wf_iff _).mp h
  have hm : Canon (fun _ => 0xFF) (new.map fun e => (n * 65536 + e.1, e.2)) := by
    refine ⟨List.pairwise_map.mpr (hn.1.1.imp fun h => Nat.add_lt_add_left h _), fun e he => ?_⟩
    obtain ⟨x, hx, rfl⟩ := List.mem_map.mp he
    exact hn.1.2 x hx
  refine (flash_wf_iff _).mpr (((hc.filter _).append hm ?_).append (hc.filter _) ?_)
  · intro a ha b hb
    obtain ⟨x, hx, rfl⟩ := List.mem_map.mp hb
    have := of_decide_eq_true (List.mem_filter.mp ha).2
    simp only
    omega
  · intro a ha b hb
    have h2 := of_decide_eq_true (List.mem_filter.mp hb).2
    rcases List.mem_append.mp ha with ha | ha
    · have := of_decide_eq_true (List.mem_filter.mp ha).2
      omega
    · obtain ⟨x, hx, rfl⟩ := List.mem_map.mp ha
      have := hn.2 x hx
      simp only
      omega

theorem range_sectorOk (g : Nat → Byte) : SectorOk (((List.range 65536).map fun i => (i, g i)).filter fun e => e.2 != 0xFF) := by
  refine ⟨⟨List.Pairwise.sublist List.filter_sublist (List.pairwise_map.mpr List.pairwise_lt_range), fun e he => ?_⟩, fun e he => ?_⟩
  · have := (List.mem_filter.mp he).2
    simpa using this
  · obtain ⟨i, hi, rfl⟩ := List.mem_map.mp (List.mem_filter.mp he).1
    exact List.mem_range.mp hi

theorem copied_sectorOk {f : Flash} (h : f.wf = true) (n : Nat) :
    SectorOk ((f.bytes.filter fun e => e.1 / 65536 = n).map fun e => (e.1 % 65536, e.2)) := by
  have hc := (flash_wf_iff _).mp h
  have hf := hc.filter fun e => decide (e.1 / 65536 = n)
  refine ⟨⟨List.pairwise_map.mpr (hf.1.imp_of_mem ?_), fun e he => ?_⟩, fun e he => ?_⟩
  · intro a b ha hb hab
    have h1 := of_decide_eq_true (List.mem_filter.mp ha).2
    have h2 := of_decide_eq_true (List.mem_filter.mp hb).2
    simp only
    omega
  · obtain ⟨x, hx, rfl⟩ := List.mem_map.mp he
    exact hf.2 x hx
  · obtain ⟨x, hx, rfl⟩ := List.mem_map.mp he
    exact Nat.mod_lt _ (by decide)

theorem flash_foldl_wf {f : Flash} (h : f.wf = true) (k : Nat) (bs : List (Byte × Nat)) :
    Flash.wf { f with bytes := bs.foldl (fun m e => cset m (k + e.2) 0xFF e.1) f.bytes } = true := by
  refine (flash_wf_iff _).mpr ?_
  have hc := (flash_wf_iff _).mp h
  simp only
  generalize f.bytes = m at hc
  induction bs generalizing m with
  | nil => exact hc
  | cons b bs ih => exact ih _ (hc.cset _ _)

/-! ### Bytes of the DRAM -/

theorem memRead_memWrite (m : List Host.Cell) (k j : Nat) (b : Byte) :
    memRead (memWrite m k b) j = if j = k then b else memRead m j := by
  by_cases h : j = k
  · subst h
    simp [memRead, memWrite]
  · simp [memRead, memWrite, tget_cset_ne, h]

theorem memWrite_wf {m : List Host.Cell} {k : Nat} {b : Byte} (h : Memory.wf m = true) : Memory.wf (memWrite m k b) = true :=
  (memory_wf_iff _).mpr (((memory_wf_iff _).mp h).cset k b)

theorem memWriteList_wf {bs : List Byte} {m : List Host.Cell} {k : Nat} (h : Memory.wf m = true) :
    Memory.wf (memWriteList m k bs) = true := by
  induction bs generalizing m k with
  | nil => exact h
  | cons b bs ih => exact ih (memWrite_wf h)

/-- A run of bytes written at `k` changes the bytes at `k` to `k + n − 1` and no others. -/
theorem memRead_memWriteList (bs : List Byte) (m : List Host.Cell) (k j : Nat) :
    memRead (memWriteList m k bs) j = if k ≤ j ∧ j < k + bs.length then bs.getD (j - k) 0 else memRead m j := by
  induction bs generalizing m k with
  | nil =>
    have h : ¬(k ≤ j ∧ j < k + ([] : List Byte).length) := by simp only [List.length_nil]; omega
    rw [if_neg h]
    rfl
  | cons b bs ih =>
    rw [memWriteList, ih, memRead_memWrite]
    by_cases h1 : j = k
    · subst h1
      have h2 : ¬(j + 1 ≤ j ∧ j < j + 1 + bs.length) := by omega
      have h3 : j ≤ j ∧ j < j + (b :: bs).length := by simp
      simp [h2]
    · by_cases h2 : k + 1 ≤ j ∧ j < k + 1 + bs.length
      · have h3 : k ≤ j ∧ j < k + (b :: bs).length := by simp; omega
        have h4 : j - k = (j - (k + 1)) + 1 := by omega
        rw [if_pos h2, if_pos h3, h4]
        rfl
      · have h3 : ¬(k ≤ j ∧ j < k + (b :: bs).length) := by simp; omega
        rw [if_neg h2, if_neg h3, if_neg h1]

/-! ### Check bytes -/

/-- A code word has at most its number of check symbols. -/
theorem rsCheck_length_le (n : Nat) (h : 0 < n) (msg : List Nat) : (rsCheck n msg).length ≤ n := by
  have key : ∀ (r : List Nat), r.length ≤ n → (msg.foldl (fun r m =>
      List.zipWith Nat.xor (r.drop 1 ++ [0]) ((rsGen n).map (gfMul ((r.headD 0).xor m)))) r).length ≤ n := by
    induction msg with
    | nil => exact fun r hr => hr
    | cons m ms ih =>
      intro r hr
      refine ih _ ?_
      simp only [List.length_zipWith, List.length_append, List.length_drop, List.length_singleton, List.length_map]
      omega
  exact key _ (by simp)

/-- Check bytes stand in the key range of their channel. -/
theorem chkKey_range {c n i : Nat} (hn : n < 2 ^ 27) (hi : i < 4) : c * 2 ^ 34 ≤ chkKey c n i ∧ chkKey c n i < (c + 1) * 2 ^ 34 := by
  unfold chkKey
  omega

/-- An unwritten check byte reads as that of a line of zeros. -/
theorem memDefault_chkKey {c n i : Nat} (hn : n < 2 ^ 27) (hi : i < 4) : memDefault (chkKey c n i) = (lineCheck n []).getD i 0 := by
  have h1 : ¬chkKey c n i % 2 ^ 34 < 2 ^ 33 := by unfold chkKey; omega
  have h2 : chkKey c n i % 2 ^ 33 / 4 = n := by unfold chkKey; omega
  have h3 : chkKey c n i % 4 = i := by unfold chkKey; omega
  rw [memDefault, if_neg h1, h2, h3]

/-- Leaving entries out keeps the canonical form. -/
theorem filter_wf {m : List Host.Cell} (hm : Memory.wf m = true) (p : Host.Cell → Bool) : Memory.wf (m.filter p) = true :=
  (memory_wf_iff _).mpr (((memory_wf_iff _).mp hm).filter p)

end Sys2Proof.Machine
end

