-- ==== Sys2Proof/Laws/State.lean ====
section
/-!
SUPPORT. What each update of the state leaves as it was, and what a reader finds after it: one lemma per field per update.
-/

namespace Sys2Proof.Machine

variable {s : State} {page n m v : Nat} {f : Fld} {h : PageHdr} {kl : Link} {kc : Chan} {kr : Region} {kq : Queue} {kg : Group}
  {kv : Vec} {krl : RingLink} {km : Mirror} {r : Rec} {tu : TimeUnit} {pl : Pll} {ho : Handover} {bo : Boot} {pw : Power}
  {sa : SafeUnit} {sbd : Sideband} {fb : FlashBank} {fh : PageHdr → PageHdr} {fl : Link → Link} {fc : Chan → Chan}
  {fr : Region → Region} {fq : Queue → Queue} {fg : Group → Group} {fv : Vec → Vec}

/-! ### fset -/

@[simp] theorem fset_pending : (fset page f v s).pending = s.pending := rfl
@[simp] theorem fset_now : (fset page f v s).now = s.now := rfl
@[simp] theorem fset_freeCtr : (fset page f v s).freeCtr = s.freeCtr := rfl
@[simp] theorem fset_busResult : (fset page f v s).busResult = s.busResult := rfl
@[simp] theorem fset_fuses : (fset page f v s).fuses = s.fuses := rfl
@[simp] theorem fset_hdrs : (fset page f v s).hdrs = s.hdrs := rfl
@[simp] theorem fset_links : (fset page f v s).links = s.links := rfl
@[simp] theorem fset_accs : (fset page f v s).accs = s.accs := rfl
@[simp] theorem fset_nextId : (fset page f v s).nextId = s.nextId := rfl
@[simp] theorem fset_commits : (fset page f v s).commits = s.commits := rfl
@[simp] theorem fset_chans : (fset page f v s).chans = s.chans := rfl
@[simp] theorem fset_mem : (fset page f v s).mem = s.mem := rfl
@[simp] theorem fset_recs : (fset page f v s).recs = s.recs := rfl
@[simp] theorem fset_regions : (fset page f v s).regions = s.regions := rfl
@[simp] theorem fset_slots : (fset page f v s).slots = s.slots := rfl
@[simp] theorem fset_built : (fset page f v s).built = s.built := rfl
@[simp] theorem fset_queues : (fset page f v s).queues = s.queues := rfl
@[simp] theorem fset_jobs : (fset page f v s).jobs = s.jobs := rfl
@[simp] theorem fset_bells : (fset page f v s).bells = s.bells := rfl
@[simp] theorem fset_vecs : (fset page f v s).vecs = s.vecs := rfl
@[simp] theorem fset_groups : (fset page f v s).groups = s.groups := rfl
@[simp] theorem fset_merid : (fset page f v s).merid = s.merid := rfl
@[simp] theorem fset_pll : (fset page f v s).pll = s.pll := rfl
@[simp] theorem fset_time : (fset page f v s).time = s.time := rfl
@[simp] theorem fset_ring : (fset page f v s).ring = s.ring := rfl
@[simp] theorem fset_sb : (fset page f v s).sb = s.sb := rfl
@[simp] theorem fset_boot : (fset page f v s).boot = s.boot := rfl
@[simp] theorem fset_power : (fset page f v s).power = s.power := rfl
@[simp] theorem fset_flash : (fset page f v s).flash = s.flash := rfl
@[simp] theorem fset_safe : (fset page f v s).safe = s.safe := rfl
@[simp] theorem fset_tap : (fset page f v s).tap = s.tap := rfl
@[simp] theorem fset_hdr (j : Nat) : (fset page f v s).hdr j = s.hdr j := rfl
@[simp] theorem fset_link (j : Nat) : (fset page f v s).link j = s.link j := rfl
@[simp] theorem fset_chan (j : Nat) : (fset page f v s).chan j = s.chan j := rfl
@[simp] theorem fset_region (j : Nat) : (fset page f v s).region j = s.region j := rfl
@[simp] theorem fset_queue (j : Nat) : (fset page f v s).queue j = s.queue j := rfl
@[simp] theorem fset_group (j : Nat) : (fset page f v s).group j = s.group j := rfl
@[simp] theorem fset_vec (j : Nat) : (fset page f v s).vec j = s.vec j := rfl
@[simp] theorem fset_rlink (j : Nat) : (fset page f v s).rlink j = s.rlink j := rfl
@[simp] theorem fset_mirror (j : Nat) : (fset page f v s).mirror j = s.mirror j := rfl

/-! ### setHdr -/

@[simp] theorem setHdr_pending : (setHdr n h s).pending = s.pending := rfl
@[simp] theorem setHdr_now : (setHdr n h s).now = s.now := rfl
@[simp] theorem setHdr_freeCtr : (setHdr n h s).freeCtr = s.freeCtr := rfl
@[simp] theorem setHdr_busResult : (setHdr n h s).busResult = s.busResult := rfl
@[simp] theorem setHdr_fuses : (setHdr n h s).fuses = s.fuses := rfl
@[simp] theorem setHdr_flds : (setHdr n h s).flds = s.flds := rfl
@[simp] theorem setHdr_links : (setHdr n h s).links = s.links := rfl
@[simp] theorem setHdr_accs : (setHdr n h s).accs = s.accs := rfl
@[simp] theorem setHdr_nextId : (setHdr n h s).nextId = s.nextId := rfl
@[simp] theorem setHdr_commits : (setHdr n h s).commits = s.commits := rfl
@[simp] theorem setHdr_chans : (setHdr n h s).chans = s.chans := rfl
@[simp] theorem setHdr_mem : (setHdr n h s).mem = s.mem := rfl
@[simp] theorem setHdr_recs : (setHdr n h s).recs = s.recs := rfl
@[simp] theorem setHdr_regions : (setHdr n h s).regions = s.regions := rfl
@[simp] theorem setHdr_slots : (setHdr n h s).slots = s.slots := rfl
@[simp] theorem setHdr_built : (setHdr n h s).built = s.built := rfl
@[simp] theorem setHdr_queues : (setHdr n h s).queues = s.queues := rfl
@[simp] theorem setHdr_jobs : (setHdr n h s).jobs = s.jobs := rfl
@[simp] theorem setHdr_bells : (setHdr n h s).bells = s.bells := rfl
@[simp] theorem setHdr_vecs : (setHdr n h s).vecs = s.vecs := rfl
@[simp] theorem setHdr_groups : (setHdr n h s).groups = s.groups := rfl
@[simp] theorem setHdr_merid : (setHdr n h s).merid = s.merid := rfl
@[simp] theorem setHdr_pll : (setHdr n h s).pll = s.pll := rfl
@[simp] theorem setHdr_time : (setHdr n h s).time = s.time := rfl
@[simp] theorem setHdr_ring : (setHdr n h s).ring = s.ring := rfl
@[simp] theorem setHdr_sb : (setHdr n h s).sb = s.sb := rfl
@[simp] theorem setHdr_boot : (setHdr n h s).boot = s.boot := rfl
@[simp] theorem setHdr_power : (setHdr n h s).power = s.power := rfl
@[simp] theorem setHdr_flash : (setHdr n h s).flash = s.flash := rfl
@[simp] theorem setHdr_safe : (setHdr n h s).safe = s.safe := rfl
@[simp] theorem setHdr_tap : (setHdr n h s).tap = s.tap := rfl
@[simp] theorem setHdr_link (j : Nat) : (setHdr n h s).link j = s.link j := rfl
@[simp] theorem setHdr_chan (j : Nat) : (setHdr n h s).chan j = s.chan j := rfl
@[simp] theorem setHdr_region (j : Nat) : (setHdr n h s).region j = s.region j := rfl
@[simp] theorem setHdr_queue (j : Nat) : (setHdr n h s).queue j = s.queue j := rfl
@[simp] theorem setHdr_group (j : Nat) : (setHdr n h s).group j = s.group j := rfl
@[simp] theorem setHdr_vec (j : Nat) : (setHdr n h s).vec j = s.vec j := rfl
@[simp] theorem setHdr_rlink (j : Nat) : (setHdr n h s).rlink j = s.rlink j := rfl
@[simp] theorem setHdr_mirror (j : Nat) : (setHdr n h s).mirror j = s.mirror j := rfl
@[simp] theorem setHdr_fget (p : Nat) (e : Fld) : fget (setHdr n h s) p e = fget s p e := rfl

/-! ### setLink -/

@[simp] theorem setLink_pending : (setLink n kl s).pending = s.pending := rfl
@[simp] theorem setLink_now : (setLink n kl s).now = s.now := rfl
@[simp] theorem setLink_freeCtr : (setLink n kl s).freeCtr = s.freeCtr := rfl
@[simp] theorem setLink_busResult : (setLink n kl s).busResult = s.busResult := rfl
@[simp] theorem setLink_fuses : (setLink n kl s).fuses = s.fuses := rfl
@[simp] theorem setLink_hdrs : (setLink n kl s).hdrs = s.hdrs := rfl
@[simp] theorem setLink_flds : (setLink n kl s).flds = s.flds := rfl
@[simp] theorem setLink_accs : (setLink n kl s).accs = s.accs := rfl
@[simp] theorem setLink_nextId : (setLink n kl s).nextId = s.nextId := rfl
@[simp] theorem setLink_commits : (setLink n kl s).commits = s.commits := rfl
@[simp] theorem setLink_chans : (setLink n kl s).chans = s.chans := rfl
@[simp] theorem setLink_mem : (setLink n kl s).mem = s.mem := rfl
@[simp] theorem setLink_recs : (setLink n kl s).recs = s.recs := rfl
@[simp] theorem setLink_regions : (setLink n kl s).regions = s.regions := rfl
@[simp] theorem setLink_slots : (setLink n kl s).slots = s.slots := rfl
@[simp] theorem setLink_built : (setLink n kl s).built = s.built := rfl
@[simp] theorem setLink_queues : (setLink n kl s).queues = s.queues := rfl
@[simp] theorem setLink_jobs : (setLink n kl s).jobs = s.jobs := rfl
@[simp] theorem setLink_bells : (setLink n kl s).bells = s.bells := rfl
@[simp] theorem setLink_vecs : (setLink n kl s).vecs = s.vecs := rfl
@[simp] theorem setLink_groups : (setLink n kl s).groups = s.groups := rfl
@[simp] theorem setLink_merid : (setLink n kl s).merid = s.merid := rfl
@[simp] theorem setLink_pll : (setLink n kl s).pll = s.pll := rfl
@[simp] theorem setLink_time : (setLink n kl s).time = s.time := rfl
@[simp] theorem setLink_ring : (setLink n kl s).ring = s.ring := rfl
@[simp] theorem setLink_sb : (setLink n kl s).sb = s.sb := rfl
@[simp] theorem setLink_boot : (setLink n kl s).boot = s.boot := rfl
@[simp] theorem setLink_power : (setLink n kl s).power = s.power := rfl
@[simp] theorem setLink_flash : (setLink n kl s).flash = s.flash := rfl
@[simp] theorem setLink_safe : (setLink n kl s).safe = s.safe := rfl
@[simp] theorem setLink_tap : (setLink n kl s).tap = s.tap := rfl
@[simp] theorem setLink_hdr (j : Nat) : (setLink n kl s).hdr j = s.hdr j := rfl
@[simp] theorem setLink_chan (j : Nat) : (setLink n kl s).chan j = s.chan j := rfl
@[simp] theorem setLink_region (j : Nat) : (setLink n kl s).region j = s.region j := rfl
@[simp] theorem setLink_queue (j : Nat) : (setLink n kl s).queue j = s.queue j := rfl
@[simp] theorem setLink_group (j : Nat) : (setLink n kl s).group j = s.group j := rfl
@[simp] theorem setLink_vec (j : Nat) : (setLink n kl s).vec j = s.vec j := rfl
@[simp] theorem setLink_rlink (j : Nat) : (setLink n kl s).rlink j = s.rlink j := rfl
@[simp] theorem setLink_mirror (j : Nat) : (setLink n kl s).mirror j = s.mirror j := rfl
@[simp] theorem setLink_fget (p : Nat) (e : Fld) : fget (setLink n kl s) p e = fget s p e := rfl

/-! ### setChan -/

@[simp] theorem setChan_pending : (setChan n kc s).pending = s.pending := rfl
@[simp] theorem setChan_now : (setChan n kc s).now = s.now := rfl
@[simp] theorem setChan_freeCtr : (setChan n kc s).freeCtr = s.freeCtr := rfl
@[simp] theorem setChan_busResult : (setChan n kc s).busResult = s.busResult := rfl
@[simp] theorem setChan_fuses : (setChan n kc s).fuses = s.fuses := rfl
@[simp] theorem setChan_hdrs : (setChan n kc s).hdrs = s.hdrs := rfl
@[simp] theorem setChan_flds : (setChan n kc s).flds = s.flds := rfl
@[simp] theorem setChan_links : (setChan n kc s).links = s.links := rfl
@[simp] theorem setChan_accs : (setChan n kc s).accs = s.accs := rfl
@[simp] theorem setChan_nextId : (setChan n kc s).nextId = s.nextId := rfl
@[simp] theorem setChan_commits : (setChan n kc s).commits = s.commits := rfl
@[simp] theorem setChan_mem : (setChan n kc s).mem = s.mem := rfl
@[simp] theorem setChan_recs : (setChan n kc s).recs = s.recs := rfl
@[simp] theorem setChan_regions : (setChan n kc s).regions = s.regions := rfl
@[simp] theorem setChan_slots : (setChan n kc s).slots = s.slots := rfl
@[simp] theorem setChan_built : (setChan n kc s).built = s.built := rfl
@[simp] theorem setChan_queues : (setChan n kc s).queues = s.queues := rfl
@[simp] theorem setChan_jobs : (setChan n kc s).jobs = s.jobs := rfl
@[simp] theorem setChan_bells : (setChan n kc s).bells = s.bells := rfl
@[simp] theorem setChan_vecs : (setChan n kc s).vecs = s.vecs := rfl
@[simp] theorem setChan_groups : (setChan n kc s).groups = s.groups := rfl
@[simp] theorem setChan_merid : (setChan n kc s).merid = s.merid := rfl
@[simp] theorem setChan_pll : (setChan n kc s).pll = s.pll := rfl
@[simp] theorem setChan_time : (setChan n kc s).time = s.time := rfl
@[simp] theorem setChan_ring : (setChan n kc s).ring = s.ring := rfl
@[simp] theorem setChan_sb : (setChan n kc s).sb = s.sb := rfl
@[simp] theorem setChan_boot : (setChan n kc s).boot = s.boot := rfl
@[simp] theorem setChan_power : (setChan n kc s).power = s.power := rfl
@[simp] theorem setChan_flash : (setChan n kc s).flash = s.flash := rfl
@[simp] theorem setChan_safe : (setChan n kc s).safe = s.safe := rfl
@[simp] theorem setChan_tap : (setChan n kc s).tap = s.tap := rfl
@[simp] theorem setChan_hdr (j : Nat) : (setChan n kc s).hdr j = s.hdr j := rfl
@[simp] theorem setChan_link (j : Nat) : (setChan n kc s).link j = s.link j := rfl
@[simp] theorem setChan_region (j : Nat) : (setChan n kc s).region j = s.region j := rfl
@[simp] theorem setChan_queue (j : Nat) : (setChan n kc s).queue j = s.queue j := rfl
@[simp] theorem setChan_group (j : Nat) : (setChan n kc s).group j = s.group j := rfl
@[simp] theorem setChan_vec (j : Nat) : (setChan n kc s).vec j = s.vec j := rfl
@[simp] theorem setChan_rlink (j : Nat) : (setChan n kc s).rlink j = s.rlink j := rfl
@[simp] theorem setChan_mirror (j : Nat) : (setChan n kc s).mirror j = s.mirror j := rfl
@[simp] theorem setChan_fget (p : Nat) (e : Fld) : fget (setChan n kc s) p e = fget s p e := rfl

/-! ### setRegion -/

@[simp] theorem setRegion_pending : (setRegion n kr s).pending = s.pending := rfl
@[simp] theorem setRegion_now : (setRegion n kr s).now = s.now := rfl
@[simp] theorem setRegion_freeCtr : (setRegion n kr s).freeCtr = s.freeCtr := rfl
@[simp] theorem setRegion_busResult : (setRegion n kr s).busResult = s.busResult := rfl
@[simp] theorem setRegion_fuses : (setRegion n kr s).fuses = s.fuses := rfl
@[simp] theorem setRegion_hdrs : (setRegion n kr s).hdrs = s.hdrs := rfl
@[simp] theorem setRegion_flds : (setRegion n kr s).flds = s.flds := rfl
@[simp] theorem setRegion_links : (setRegion n kr s).links = s.links := rfl
@[simp] theorem setRegion_accs : (setRegion n kr s).accs = s.accs := rfl
@[simp] theorem setRegion_nextId : (setRegion n kr s).nextId = s.nextId := rfl
@[simp] theorem setRegion_commits : (setRegion n kr s).commits = s.commits := rfl
@[simp] theorem setRegion_chans : (setRegion n kr s).chans = s.chans := rfl
@[simp] theorem setRegion_mem : (setRegion n kr s).mem = s.mem := rfl
@[simp] theorem setRegion_recs : (setRegion n kr s).recs = s.recs := rfl
@[simp] theorem setRegion_slots : (setRegion n kr s).slots = s.slots := rfl
@[simp] theorem setRegion_built : (setRegion n kr s).built = s.built := rfl
@[simp] theorem setRegion_queues : (setRegion n kr s).queues = s.queues := rfl
@[simp] theorem setRegion_jobs : (setRegion n kr s).jobs = s.jobs := rfl
@[simp] theorem setRegion_bells : (setRegion n kr s).bells = s.bells := rfl
@[simp] theorem setRegion_vecs : (setRegion n kr s).vecs = s.vecs := rfl
@[simp] theorem setRegion_groups : (setRegion n kr s).groups = s.groups := rfl
@[simp] theorem setRegion_merid : (setRegion n kr s).merid = s.merid := rfl
@[simp] theorem setRegion_pll : (setRegion n kr s).pll = s.pll := rfl
@[simp] theorem setRegion_time : (setRegion n kr s).time = s.time := rfl
@[simp] theorem setRegion_ring : (setRegion n kr s).ring = s.ring := rfl
@[simp] theorem setRegion_sb : (setRegion n kr s).sb = s.sb := rfl
@[simp] theorem setRegion_boot : (setRegion n kr s).boot = s.boot := rfl
@[simp] theorem setRegion_power : (setRegion n kr s).power = s.power := rfl
@[simp] theorem setRegion_flash : (setRegion n kr s).flash = s.flash := rfl
@[simp] theorem setRegion_safe : (setRegion n kr s).safe = s.safe := rfl
@[simp] theorem setRegion_tap : (setRegion n kr s).tap = s.tap := rfl
@[simp] theorem setRegion_hdr (j : Nat) : (setRegion n kr s).hdr j = s.hdr j := rfl
@[simp] theorem setRegion_link (j : Nat) : (setRegion n kr s).link j = s.link j := rfl
@[simp] theorem setRegion_chan (j : Nat) : (setRegion n kr s).chan j = s.chan j := rfl
@[simp] theorem setRegion_queue (j : Nat) : (setRegion n kr s).queue j = s.queue j := rfl
@[simp] theorem setRegion_group (j : Nat) : (setRegion n kr s).group j = s.group j := rfl
@[simp] theorem setRegion_vec (j : Nat) : (setRegion n kr s).vec j = s.vec j := rfl
@[simp] theorem setRegion_rlink (j : Nat) : (setRegion n kr s).rlink j = s.rlink j := rfl
@[simp] theorem setRegion_mirror (j : Nat) : (setRegion n kr s).mirror j = s.mirror j := rfl
@[simp] theorem setRegion_fget (p : Nat) (e : Fld) : fget (setRegion n kr s) p e = fget s p e := rfl

/-! ### setQueue -/

@[simp] theorem setQueue_pending : (setQueue n kq s).pending = s.pending := rfl
@[simp] theorem setQueue_now : (setQueue n kq s).now = s.now := rfl
@[simp] theorem setQueue_freeCtr : (setQueue n kq s).freeCtr = s.freeCtr := rfl
@[simp] theorem setQueue_busResult : (setQueue n kq s).busResult = s.busResult := rfl
@[simp] theorem setQueue_fuses : (setQueue n kq s).fuses = s.fuses := rfl
@[simp] theorem setQueue_hdrs : (setQueue n kq s).hdrs = s.hdrs := rfl
@[simp] theorem setQueue_flds : (setQueue n kq s).flds = s.flds := rfl
@[simp] theorem setQueue_links : (setQueue n kq s).links = s.links := rfl
@[simp] theorem setQueue_accs : (setQueue n kq s).accs = s.accs := rfl
@[simp] theorem setQueue_nextId : (setQueue n kq s).nextId = s.nextId := rfl
@[simp] theorem setQueue_commits : (setQueue n kq s).commits = s.commits := rfl
@[simp] theorem setQueue_chans : (setQueue n kq s).chans = s.chans := rfl
@[simp] theorem setQueue_mem : (setQueue n kq s).mem = s.mem := rfl
@[simp] theorem setQueue_recs : (setQueue n kq s).recs = s.recs := rfl
@[simp] theorem setQueue_regions : (setQueue n kq s).regions = s.regions := rfl
@[simp] theorem setQueue_slots : (setQueue n kq s).slots = s.slots := rfl
@[simp] theorem setQueue_built : (setQueue n kq s).built = s.built := rfl
@[simp] theorem setQueue_jobs : (setQueue n kq s).jobs = s.jobs := rfl
@[simp] theorem setQueue_bells : (setQueue n kq s).bells = s.bells := rfl
@[simp] theorem setQueue_vecs : (setQueue n kq s).vecs = s.vecs := rfl
@[simp] theorem setQueue_groups : (setQueue n kq s).groups = s.groups := rfl
@[simp] theorem setQueue_merid : (setQueue n kq s).merid = s.merid := rfl
@[simp] theorem setQueue_pll : (setQueue n kq s).pll = s.pll := rfl
@[simp] theorem setQueue_time : (setQueue n kq s).time = s.time := rfl
@[simp] theorem setQueue_ring : (setQueue n kq s).ring = s.ring := rfl
@[simp] theorem setQueue_sb : (setQueue n kq s).sb = s.sb := rfl
@[simp] theorem setQueue_boot : (setQueue n kq s).boot = s.boot := rfl
@[simp] theorem setQueue_power : (setQueue n kq s).power = s.power := rfl
@[simp] theorem setQueue_flash : (setQueue n kq s).flash = s.flash := rfl
@[simp] theorem setQueue_safe : (setQueue n kq s).safe = s.safe := rfl
@[simp] theorem setQueue_tap : (setQueue n kq s).tap = s.tap := rfl
@[simp] theorem setQueue_hdr (j : Nat) : (setQueue n kq s).hdr j = s.hdr j := rfl
@[simp] theorem setQueue_link (j : Nat) : (setQueue n kq s).link j = s.link j := rfl
@[simp] theorem setQueue_chan (j : Nat) : (setQueue n kq s).chan j = s.chan j := rfl
@[simp] theorem setQueue_region (j : Nat) : (setQueue n kq s).region j = s.region j := rfl
@[simp] theorem setQueue_group (j : Nat) : (setQueue n kq s).group j = s.group j := rfl
@[simp] theorem setQueue_vec (j : Nat) : (setQueue n kq s).vec j = s.vec j := rfl
@[simp] theorem setQueue_rlink (j : Nat) : (setQueue n kq s).rlink j = s.rlink j := rfl
@[simp] theorem setQueue_mirror (j : Nat) : (setQueue n kq s).mirror j = s.mirror j := rfl
@[simp] theorem setQueue_fget (p : Nat) (e : Fld) : fget (setQueue n kq s) p e = fget s p e := rfl

/-! ### setGroup -/

@[simp] theorem setGroup_pending : (setGroup n kg s).pending = s.pending := rfl
@[simp] theorem setGroup_now : (setGroup n kg s).now = s.now := rfl
@[simp] theorem setGroup_freeCtr : (setGroup n kg s).freeCtr = s.freeCtr := rfl
@[simp] theorem setGroup_busResult : (setGroup n kg s).busResult = s.busResult := rfl
@[simp] theorem setGroup_fuses : (setGroup n kg s).fuses = s.fuses := rfl
@[simp] theorem setGroup_hdrs : (setGroup n kg s).hdrs = s.hdrs := rfl
@[simp] theorem setGroup_flds : (setGroup n kg s).flds = s.flds := rfl
@[simp] theorem setGroup_links : (setGroup n kg s).links = s.links := rfl
@[simp] theorem setGroup_accs : (setGroup n kg s).accs = s.accs := rfl
@[simp] theorem setGroup_nextId : (setGroup n kg s).nextId = s.nextId := rfl
@[simp] theorem setGroup_commits : (setGroup n kg s).commits = s.commits := rfl
@[simp] theorem setGroup_chans : (setGroup n kg s).chans = s.chans := rfl
@[simp] theorem setGroup_mem : (setGroup n kg s).mem = s.mem := rfl
@[simp] theorem setGroup_recs : (setGroup n kg s).recs = s.recs := rfl
@[simp] theorem setGroup_regions : (setGroup n kg s).regions = s.regions := rfl
@[simp] theorem setGroup_slots : (setGroup n kg s).slots = s.slots := rfl
@[simp] theorem setGroup_built : (setGroup n kg s).built = s.built := rfl
@[simp] theorem setGroup_queues : (setGroup n kg s).queues = s.queues := rfl
@[simp] theorem setGroup_jobs : (setGroup n kg s).jobs = s.jobs := rfl
@[simp] theorem setGroup_bells : (setGroup n kg s).bells = s.bells := rfl
@[simp] theorem setGroup_vecs : (setGroup n kg s).vecs = s.vecs := rfl
@[simp] theorem setGroup_merid : (setGroup n kg s).merid = s.merid := rfl
@[simp] theorem setGroup_pll : (setGroup n kg s).pll = s.pll := rfl
@[simp] theorem setGroup_time : (setGroup n kg s).time = s.time := rfl
@[simp] theorem setGroup_ring : (setGroup n kg s).ring = s.ring := rfl
@[simp] theorem setGroup_sb : (setGroup n kg s).sb = s.sb := rfl
@[simp] theorem setGroup_boot : (setGroup n kg s).boot = s.boot := rfl
@[simp] theorem setGroup_power : (setGroup n kg s).power = s.power := rfl
@[simp] theorem setGroup_flash : (setGroup n kg s).flash = s.flash := rfl
@[simp] theorem setGroup_safe : (setGroup n kg s).safe = s.safe := rfl
@[simp] theorem setGroup_tap : (setGroup n kg s).tap = s.tap := rfl
@[simp] theorem setGroup_hdr (j : Nat) : (setGroup n kg s).hdr j = s.hdr j := rfl
@[simp] theorem setGroup_link (j : Nat) : (setGroup n kg s).link j = s.link j := rfl
@[simp] theorem setGroup_chan (j : Nat) : (setGroup n kg s).chan j = s.chan j := rfl
@[simp] theorem setGroup_region (j : Nat) : (setGroup n kg s).region j = s.region j := rfl
@[simp] theorem setGroup_queue (j : Nat) : (setGroup n kg s).queue j = s.queue j := rfl
@[simp] theorem setGroup_vec (j : Nat) : (setGroup n kg s).vec j = s.vec j := rfl
@[simp] theorem setGroup_rlink (j : Nat) : (setGroup n kg s).rlink j = s.rlink j := rfl
@[simp] theorem setGroup_mirror (j : Nat) : (setGroup n kg s).mirror j = s.mirror j := rfl
@[simp] theorem setGroup_fget (p : Nat) (e : Fld) : fget (setGroup n kg s) p e = fget s p e := rfl

/-! ### setVec -/

@[simp] theorem setVec_pending : (setVec n kv s).pending = s.pending := rfl
@[simp] theorem setVec_now : (setVec n kv s).now = s.now := rfl
@[simp] theorem setVec_freeCtr : (setVec n kv s).freeCtr = s.freeCtr := rfl
@[simp] theorem setVec_busResult : (setVec n kv s).busResult = s.busResult := rfl
@[simp] theorem setVec_fuses : (setVec n kv s).fuses = s.fuses := rfl
@[simp] theorem setVec_hdrs : (setVec n kv s).hdrs = s.hdrs := rfl
@[simp] theorem setVec_flds : (setVec n kv s).flds = s.flds := rfl
@[simp] theorem setVec_links : (setVec n kv s).links = s.links := rfl
@[simp] theorem setVec_accs : (setVec n kv s).accs = s.accs := rfl
@[simp] theorem setVec_nextId : (setVec n kv s).nextId = s.nextId := rfl
@[simp] theorem setVec_commits : (setVec n kv s).commits = s.commits := rfl
@[simp] theorem setVec_chans : (setVec n kv s).chans = s.chans := rfl
@[simp] theorem setVec_mem : (setVec n kv s).mem = s.mem := rfl
@[simp] theorem setVec_recs : (setVec n kv s).recs = s.recs := rfl
@[simp] theorem setVec_regions : (setVec n kv s).regions = s.regions := rfl
@[simp] theorem setVec_slots : (setVec n kv s).slots = s.slots := rfl
@[simp] theorem setVec_built : (setVec n kv s).built = s.built := rfl
@[simp] theorem setVec_queues : (setVec n kv s).queues = s.queues := rfl
@[simp] theorem setVec_jobs : (setVec n kv s).jobs = s.jobs := rfl
@[simp] theorem setVec_bells : (setVec n kv s).bells = s.bells := rfl
@[simp] theorem setVec_groups : (setVec n kv s).groups = s.groups := rfl
@[simp] theorem setVec_merid : (setVec n kv s).merid = s.merid := rfl
@[simp] theorem setVec_pll : (setVec n kv s).pll = s.pll := rfl
@[simp] theorem setVec_time : (setVec n kv s).time = s.time := rfl
@[simp] theorem setVec_ring : (setVec n kv s).ring = s.ring := rfl
@[simp] theorem setVec_sb : (setVec n kv s).sb = s.sb := rfl
@[simp] theorem setVec_boot : (setVec n kv s).boot = s.boot := rfl
@[simp] theorem setVec_power : (setVec n kv s).power = s.power := rfl
@[simp] theorem setVec_flash : (setVec n kv s).flash = s.flash := rfl
@[simp] theorem setVec_safe : (setVec n kv s).safe = s.safe := rfl
@[simp] theorem setVec_tap : (setVec n kv s).tap = s.tap := rfl
@[simp] theorem setVec_hdr (j : Nat) : (setVec n kv s).hdr j = s.hdr j := rfl
@[simp] theorem setVec_link (j : Nat) : (setVec n kv s).link j = s.link j := rfl
@[simp] theorem setVec_chan (j : Nat) : (setVec n kv s).chan j = s.chan j := rfl
@[simp] theorem setVec_region (j : Nat) : (setVec n kv s).region j = s.region j := rfl
@[simp] theorem setVec_queue (j : Nat) : (setVec n kv s).queue j = s.queue j := rfl
@[simp] theorem setVec_group (j : Nat) : (setVec n kv s).group j = s.group j := rfl
@[simp] theorem setVec_rlink (j : Nat) : (setVec n kv s).rlink j = s.rlink j := rfl
@[simp] theorem setVec_mirror (j : Nat) : (setVec n kv s).mirror j = s.mirror j := rfl
@[simp] theorem setVec_fget (p : Nat) (e : Fld) : fget (setVec n kv s) p e = fget s p e := rfl

/-! ### setRlink -/

@[simp] theorem setRlink_pending : (setRlink n krl s).pending = s.pending := rfl
@[simp] theorem setRlink_now : (setRlink n krl s).now = s.now := rfl
@[simp] theorem setRlink_freeCtr : (setRlink n krl s).freeCtr = s.freeCtr := rfl
@[simp] theorem setRlink_busResult : (setRlink n krl s).busResult = s.busResult := rfl
@[simp] theorem setRlink_fuses : (setRlink n krl s).fuses = s.fuses := rfl
@[simp] theorem setRlink_hdrs : (setRlink n krl s).hdrs = s.hdrs := rfl
@[simp] theorem setRlink_flds : (setRlink n krl s).flds = s.flds := rfl
@[simp] theorem setRlink_links : (setRlink n krl s).links = s.links := rfl
@[simp] theorem setRlink_accs : (setRlink n krl s).accs = s.accs := rfl
@[simp] theorem setRlink_nextId : (setRlink n krl s).nextId = s.nextId := rfl
@[simp] theorem setRlink_commits : (setRlink n krl s).commits = s.commits := rfl
@[simp] theorem setRlink_chans : (setRlink n krl s).chans = s.chans := rfl
@[simp] theorem setRlink_mem : (setRlink n krl s).mem = s.mem := rfl
@[simp] theorem setRlink_recs : (setRlink n krl s).recs = s.recs := rfl
@[simp] theorem setRlink_regions : (setRlink n krl s).regions = s.regions := rfl
@[simp] theorem setRlink_slots : (setRlink n krl s).slots = s.slots := rfl
@[simp] theorem setRlink_built : (setRlink n krl s).built = s.built := rfl
@[simp] theorem setRlink_queues : (setRlink n krl s).queues = s.queues := rfl
@[simp] theorem setRlink_jobs : (setRlink n krl s).jobs = s.jobs := rfl
@[simp] theorem setRlink_bells : (setRlink n krl s).bells = s.bells := rfl
@[simp] theorem setRlink_vecs : (setRlink n krl s).vecs = s.vecs := rfl
@[simp] theorem setRlink_groups : (setRlink n krl s).groups = s.groups := rfl
@[simp] theorem setRlink_merid : (setRlink n krl s).merid = s.merid := rfl
@[simp] theorem setRlink_pll : (setRlink n krl s).pll = s.pll := rfl
@[simp] theorem setRlink_time : (setRlink n krl s).time = s.time := rfl
@[simp] theorem setRlink_sb : (setRlink n krl s).sb = s.sb := rfl
@[simp] theorem setRlink_boot : (setRlink n krl s).boot = s.boot := rfl
@[simp] theorem setRlink_power : (setRlink n krl s).power = s.power := rfl
@[simp] theorem setRlink_flash : (setRlink n krl s).flash = s.flash := rfl
@[simp] theorem setRlink_safe : (setRlink n krl s).safe = s.safe := rfl
@[simp] theorem setRlink_tap : (setRlink n krl s).tap = s.tap := rfl
@[simp] theorem setRlink_hdr (j : Nat) : (setRlink n krl s).hdr j = s.hdr j := rfl
@[simp] theorem setRlink_link (j : Nat) : (setRlink n krl s).link j = s.link j := rfl
@[simp] theorem setRlink_chan (j : Nat) : (setRlink n krl s).chan j = s.chan j := rfl
@[simp] theorem setRlink_region (j : Nat) : (setRlink n krl s).region j = s.region j := rfl
@[simp] theorem setRlink_queue (j : Nat) : (setRlink n krl s).queue j = s.queue j := rfl
@[simp] theorem setRlink_group (j : Nat) : (setRlink n krl s).group j = s.group j := rfl
@[simp] theorem setRlink_vec (j : Nat) : (setRlink n krl s).vec j = s.vec j := rfl
@[simp] theorem setRlink_fget (p : Nat) (e : Fld) : fget (setRlink n krl s) p e = fget s p e := rfl

/-! ### setMirror -/

@[simp] theorem setMirror_pending : (setMirror n km s).pending = s.pending := rfl
@[simp] theorem setMirror_now : (setMirror n km s).now = s.now := rfl
@[simp] theorem setMirror_freeCtr : (setMirror n km s).freeCtr = s.freeCtr := rfl
@[simp] theorem setMirror_busResult : (setMirror n km s).busResult = s.busResult := rfl
@[simp] theorem setMirror_fuses : (setMirror n km s).fuses = s.fuses := rfl
@[simp] theorem setMirror_hdrs : (setMirror n km s).hdrs = s.hdrs := rfl
@[simp] theorem setMirror_flds : (setMirror n km s).flds = s.flds := rfl
@[simp] theorem setMirror_links : (setMirror n km s).links = s.links := rfl
@[simp] theorem setMirror_accs : (setMirror n km s).accs = s.accs := rfl
@[simp] theorem setMirror_nextId : (setMirror n km s).nextId = s.nextId := rfl
@[simp] theorem setMirror_commits : (setMirror n km s).commits = s.commits := rfl
@[simp] theorem setMirror_chans : (setMirror n km s).chans = s.chans := rfl
@[simp] theorem setMirror_mem : (setMirror n km s).mem = s.mem := rfl
@[simp] theorem setMirror_recs : (setMirror n km s).recs = s.recs := rfl
@[simp] theorem setMirror_regions : (setMirror n km s).regions = s.regions := rfl
@[simp] theorem setMirror_slots : (setMirror n km s).slots = s.slots := rfl
@[simp] theorem setMirror_built : (setMirror n km s).built = s.built := rfl
@[simp] theorem setMirror_queues : (setMirror n km s).queues = s.queues := rfl
@[simp] theorem setMirror_jobs : (setMirror n km s).jobs = s.jobs := rfl
@[simp] theorem setMirror_bells : (setMirror n km s).bells = s.bells := rfl
@[simp] theorem setMirror_vecs : (setMirror n km s).vecs = s.vecs := rfl
@[simp] theorem setMirror_groups : (setMirror n km s).groups = s.groups := rfl
@[simp] theorem setMirror_merid : (setMirror n km s).merid = s.merid := rfl
@[simp] theorem setMirror_pll : (setMirror n km s).pll = s.pll := rfl
@[simp] theorem setMirror_time : (setMirror n km s).time = s.time := rfl
@[simp] theorem setMirror_sb : (setMirror n km s).sb = s.sb := rfl
@[simp] theorem setMirror_boot : (setMirror n km s).boot = s.boot := rfl
@[simp] theorem setMirror_power : (setMirror n km s).power = s.power := rfl
@[simp] theorem setMirror_flash : (setMirror n km s).flash = s.flash := rfl
@[simp] theorem setMirror_safe : (setMirror n km s).safe = s.safe := rfl
@[simp] theorem setMirror_tap : (setMirror n km s).tap = s.tap := rfl
@[simp] theorem setMirror_hdr (j : Nat) : (setMirror n km s).hdr j = s.hdr j := rfl
@[simp] theorem setMirror_link (j : Nat) : (setMirror n km s).link j = s.link j := rfl
@[simp] theorem setMirror_chan (j : Nat) : (setMirror n km s).chan j = s.chan j := rfl
@[simp] theorem setMirror_region (j : Nat) : (setMirror n km s).region j = s.region j := rfl
@[simp] theorem setMirror_queue (j : Nat) : (setMirror n km s).queue j = s.queue j := rfl
@[simp] theorem setMirror_group (j : Nat) : (setMirror n km s).group j = s.group j := rfl
@[simp] theorem setMirror_vec (j : Nat) : (setMirror n km s).vec j = s.vec j := rfl
@[simp] theorem setMirror_fget (p : Nat) (e : Fld) : fget (setMirror n km s) p e = fget s p e := rfl

/-! ### setRec -/

@[simp] theorem setRec_pending : (setRec n m r s).pending = s.pending := rfl
@[simp] theorem setRec_now : (setRec n m r s).now = s.now := rfl
@[simp] theorem setRec_freeCtr : (setRec n m r s).freeCtr = s.freeCtr := rfl
@[simp] theorem setRec_busResult : (setRec n m r s).busResult = s.busResult := rfl
@[simp] theorem setRec_fuses : (setRec n m r s).fuses = s.fuses := rfl
@[simp] theorem setRec_hdrs : (setRec n m r s).hdrs = s.hdrs := rfl
@[simp] theorem setRec_flds : (setRec n m r s).flds = s.flds := rfl
@[simp] theorem setRec_links : (setRec n m r s).links = s.links := rfl
@[simp] theorem setRec_accs : (setRec n m r s).accs = s.accs := rfl
@[simp] theorem setRec_nextId : (setRec n m r s).nextId = s.nextId := rfl
@[simp] theorem setRec_commits : (setRec n m r s).commits = s.commits := rfl
@[simp] theorem setRec_chans : (setRec n m r s).chans = s.chans := rfl
@[simp] theorem setRec_mem : (setRec n m r s).mem = s.mem := rfl
@[simp] theorem setRec_regions : (setRec n m r s).regions = s.regions := rfl
@[simp] theorem setRec_slots : (setRec n m r s).slots = s.slots := rfl
@[simp] theorem setRec_built : (setRec n m r s).built = s.built := rfl
@[simp] theorem setRec_queues : (setRec n m r s).queues = s.queues := rfl
@[simp] theorem setRec_jobs : (setRec n m r s).jobs = s.jobs := rfl
@[simp] theorem setRec_bells : (setRec n m r s).bells = s.bells := rfl
@[simp] theorem setRec_vecs : (setRec n m r s).vecs = s.vecs := rfl
@[simp] theorem setRec_groups : (setRec n m r s).groups = s.groups := rfl
@[simp] theorem setRec_merid : (setRec n m r s).merid = s.merid := rfl
@[simp] theorem setRec_pll : (setRec n m r s).pll = s.pll := rfl
@[simp] theorem setRec_time : (setRec n m r s).time = s.time := rfl
@[simp] theorem setRec_ring : (setRec n m r s).ring = s.ring := rfl
@[simp] theorem setRec_sb : (setRec n m r s).sb = s.sb := rfl
@[simp] theorem setRec_boot : (setRec n m r s).boot = s.boot := rfl
@[simp] theorem setRec_power : (setRec n m r s).power = s.power := rfl
@[simp] theorem setRec_flash : (setRec n m r s).flash = s.flash := rfl
@[simp] theorem setRec_safe : (setRec n m r s).safe = s.safe := rfl
@[simp] theorem setRec_tap : (setRec n m r s).tap = s.tap := rfl
@[simp] theorem setRec_hdr (j : Nat) : (setRec n m r s).hdr j = s.hdr j := rfl
@[simp] theorem setRec_link (j : Nat) : (setRec n m r s).link j = s.link j := rfl
@[simp] theorem setRec_chan (j : Nat) : (setRec n m r s).chan j = s.chan j := rfl
@[simp] theorem setRec_region (j : Nat) : (setRec n m r s).region j = s.region j := rfl
@[simp] theorem setRec_queue (j : Nat) : (setRec n m r s).queue j = s.queue j := rfl
@[simp] theorem setRec_group (j : Nat) : (setRec n m r s).group j = s.group j := rfl
@[simp] theorem setRec_vec (j : Nat) : (setRec n m r s).vec j = s.vec j := rfl
@[simp] theorem setRec_rlink (j : Nat) : (setRec n m r s).rlink j = s.rlink j := rfl
@[simp] theorem setRec_mirror (j : Nat) : (setRec n m r s).mirror j = s.mirror j := rfl
@[simp] theorem setRec_fget (p : Nat) (e : Fld) : fget (setRec n m r s) p e = fget s p e := rfl

/-! ### nextFree -/

@[simp] theorem nextFree_pending : (nextFree s).pending = s.pending := rfl
@[simp] theorem nextFree_now : (nextFree s).now = s.now := rfl
@[simp] theorem nextFree_busResult : (nextFree s).busResult = s.busResult := rfl
@[simp] theorem nextFree_fuses : (nextFree s).fuses = s.fuses := rfl
@[simp] theorem nextFree_hdrs : (nextFree s).hdrs = s.hdrs := rfl
@[simp] theorem nextFree_flds : (nextFree s).flds = s.flds := rfl
@[simp] theorem nextFree_links : (nextFree s).links = s.links := rfl
@[simp] theorem nextFree_accs : (nextFree s).accs = s.accs := rfl
@[simp] theorem nextFree_nextId : (nextFree s).nextId = s.nextId := rfl
@[simp] theorem nextFree_commits : (nextFree s).commits = s.commits := rfl
@[simp] theorem nextFree_chans : (nextFree s).chans = s.chans := rfl
@[simp] theorem nextFree_mem : (nextFree s).mem = s.mem := rfl
@[simp] theorem nextFree_recs : (nextFree s).recs = s.recs := rfl
@[simp] theorem nextFree_regions : (nextFree s).regions = s.regions := rfl
@[simp] theorem nextFree_slots : (nextFree s).slots = s.slots := rfl
@[simp] theorem nextFree_built : (nextFree s).built = s.built := rfl
@[simp] theorem nextFree_queues : (nextFree s).queues = s.queues := rfl
@[simp] theorem nextFree_jobs : (nextFree s).jobs = s.jobs := rfl
@[simp] theorem nextFree_bells : (nextFree s).bells = s.bells := rfl
@[simp] theorem nextFree_vecs : (nextFree s).vecs = s.vecs := rfl
@[simp] theorem nextFree_groups : (nextFree s).groups = s.groups := rfl
@[simp] theorem nextFree_merid : (nextFree s).merid = s.merid := rfl
@[simp] theorem nextFree_pll : (nextFree s).pll = s.pll := rfl
@[simp] theorem nextFree_time : (nextFree s).time = s.time := rfl
@[simp] theorem nextFree_ring : (nextFree s).ring = s.ring := rfl
@[simp] theorem nextFree_sb : (nextFree s).sb = s.sb := rfl
@[simp] theorem nextFree_boot : (nextFree s).boot = s.boot := rfl
@[simp] theorem nextFree_power : (nextFree s).power = s.power := rfl
@[simp] theorem nextFree_flash : (nextFree s).flash = s.flash := rfl
@[simp] theorem nextFree_safe : (nextFree s).safe = s.safe := rfl
@[simp] theorem nextFree_tap : (nextFree s).tap = s.tap := rfl
@[simp] theorem nextFree_hdr (j : Nat) : (nextFree s).hdr j = s.hdr j := rfl
@[simp] theorem nextFree_link (j : Nat) : (nextFree s).link j = s.link j := rfl
@[simp] theorem nextFree_chan (j : Nat) : (nextFree s).chan j = s.chan j := rfl
@[simp] theorem nextFree_region (j : Nat) : (nextFree s).region j = s.region j := rfl
@[simp] theorem nextFree_queue (j : Nat) : (nextFree s).queue j = s.queue j := rfl
@[simp] theorem nextFree_group (j : Nat) : (nextFree s).group j = s.group j := rfl
@[simp] theorem nextFree_vec (j : Nat) : (nextFree s).vec j = s.vec j := rfl
@[simp] theorem nextFree_rlink (j : Nat) : (nextFree s).rlink j = s.rlink j := rfl
@[simp] theorem nextFree_mirror (j : Nat) : (nextFree s).mirror j = s.mirror j := rfl
@[simp] theorem nextFree_fget (p : Nat) (e : Fld) : fget (nextFree s) p e = fget s p e := rfl

/-! ### setTime -/

@[simp] theorem setTime_pending : (setTime tu s).pending = s.pending := rfl
@[simp] theorem setTime_now : (setTime tu s).now = s.now := rfl
@[simp] theorem setTime_freeCtr : (setTime tu s).freeCtr = s.freeCtr := rfl
@[simp] theorem setTime_busResult : (setTime tu s).busResult = s.busResult := rfl
@[simp] theorem setTime_fuses : (setTime tu s).fuses = s.fuses := rfl
@[simp] theorem setTime_hdrs : (setTime tu s).hdrs = s.hdrs := rfl
@[simp] theorem setTime_flds : (setTime tu s).flds = s.flds := rfl
@[simp] theorem setTime_links : (setTime tu s).links = s.links := rfl
@[simp] theorem setTime_accs : (setTime tu s).accs = s.accs := rfl
@[simp] theorem setTime_nextId : (setTime tu s).nextId = s.nextId := rfl
@[simp] theorem setTime_commits : (setTime tu s).commits = s.commits := rfl
@[simp] theorem setTime_chans : (setTime tu s).chans = s.chans := rfl
@[simp] theorem setTime_mem : (setTime tu s).mem = s.mem := rfl
@[simp] theorem setTime_recs : (setTime tu s).recs = s.recs := rfl
@[simp] theorem setTime_regions : (setTime tu s).regions = s.regions := rfl
@[simp] theorem setTime_slots : (setTime tu s).slots = s.slots := rfl
@[simp] theorem setTime_built : (setTime tu s).built = s.built := rfl
@[simp] theorem setTime_queues : (setTime tu s).queues = s.queues := rfl
@[simp] theorem setTime_jobs : (setTime tu s).jobs = s.jobs := rfl
@[simp] theorem setTime_bells : (setTime tu s).bells = s.bells := rfl
@[simp] theorem setTime_vecs : (setTime tu s).vecs = s.vecs := rfl
@[simp] theorem setTime_groups : (setTime tu s).groups = s.groups := rfl
@[simp] theorem setTime_merid : (setTime tu s).merid = s.merid := rfl
@[simp] theorem setTime_pll : (setTime tu s).pll = s.pll := rfl
@[simp] theorem setTime_ring : (setTime tu s).ring = s.ring := rfl
@[simp] theorem setTime_sb : (setTime tu s).sb = s.sb := rfl
@[simp] theorem setTime_boot : (setTime tu s).boot = s.boot := rfl
@[simp] theorem setTime_power : (setTime tu s).power = s.power := rfl
@[simp] theorem setTime_flash : (setTime tu s).flash = s.flash := rfl
@[simp] theorem setTime_safe : (setTime tu s).safe = s.safe := rfl
@[simp] theorem setTime_tap : (setTime tu s).tap = s.tap := rfl
@[simp] theorem setTime_hdr (j : Nat) : (setTime tu s).hdr j = s.hdr j := rfl
@[simp] theorem setTime_link (j : Nat) : (setTime tu s).link j = s.link j := rfl
@[simp] theorem setTime_chan (j : Nat) : (setTime tu s).chan j = s.chan j := rfl
@[simp] theorem setTime_region (j : Nat) : (setTime tu s).region j = s.region j := rfl
@[simp] theorem setTime_queue (j : Nat) : (setTime tu s).queue j = s.queue j := rfl
@[simp] theorem setTime_group (j : Nat) : (setTime tu s).group j = s.group j := rfl
@[simp] theorem setTime_vec (j : Nat) : (setTime tu s).vec j = s.vec j := rfl
@[simp] theorem setTime_rlink (j : Nat) : (setTime tu s).rlink j = s.rlink j := rfl
@[simp] theorem setTime_mirror (j : Nat) : (setTime tu s).mirror j = s.mirror j := rfl
@[simp] theorem setTime_fget (p : Nat) (e : Fld) : fget (setTime tu s) p e = fget s p e := rfl

/-! ### setPll -/

@[simp] theorem setPll_pending : (setPll pl s).pending = s.pending := rfl
@[simp] theorem setPll_now : (setPll pl s).now = s.now := rfl
@[simp] theorem setPll_freeCtr : (setPll pl s).freeCtr = s.freeCtr := rfl
@[simp] theorem setPll_busResult : (setPll pl s).busResult = s.busResult := rfl
@[simp] theorem setPll_fuses : (setPll pl s).fuses = s.fuses := rfl
@[simp] theorem setPll_hdrs : (setPll pl s).hdrs = s.hdrs := rfl
@[simp] theorem setPll_flds : (setPll pl s).flds = s.flds := rfl
@[simp] theorem setPll_links : (setPll pl s).links = s.links := rfl
@[simp] theorem setPll_accs : (setPll pl s).accs = s.accs := rfl
@[simp] theorem setPll_nextId : (setPll pl s).nextId = s.nextId := rfl
@[simp] theorem setPll_commits : (setPll pl s).commits = s.commits := rfl
@[simp] theorem setPll_chans : (setPll pl s).chans = s.chans := rfl
@[simp] theorem setPll_mem : (setPll pl s).mem = s.mem := rfl
@[simp] theorem setPll_recs : (setPll pl s).recs = s.recs := rfl
@[simp] theorem setPll_regions : (setPll pl s).regions = s.regions := rfl
@[simp] theorem setPll_slots : (setPll pl s).slots = s.slots := rfl
@[simp] theorem setPll_built : (setPll pl s).built = s.built := rfl
@[simp] theorem setPll_queues : (setPll pl s).queues = s.queues := rfl
@[simp] theorem setPll_jobs : (setPll pl s).jobs = s.jobs := rfl
@[simp] theorem setPll_bells : (setPll pl s).bells = s.bells := rfl
@[simp] theorem setPll_vecs : (setPll pl s).vecs = s.vecs := rfl
@[simp] theorem setPll_groups : (setPll pl s).groups = s.groups := rfl
@[simp] theorem setPll_merid : (setPll pl s).merid = s.merid := rfl
@[simp] theorem setPll_time : (setPll pl s).time = s.time := rfl
@[simp] theorem setPll_ring : (setPll pl s).ring = s.ring := rfl
@[simp] theorem setPll_sb : (setPll pl s).sb = s.sb := rfl
@[simp] theorem setPll_boot : (setPll pl s).boot = s.boot := rfl
@[simp] theorem setPll_power : (setPll pl s).power = s.power := rfl
@[simp] theorem setPll_flash : (setPll pl s).flash = s.flash := rfl
@[simp] theorem setPll_safe : (setPll pl s).safe = s.safe := rfl
@[simp] theorem setPll_tap : (setPll pl s).tap = s.tap := rfl
@[simp] theorem setPll_hdr (j : Nat) : (setPll pl s).hdr j = s.hdr j := rfl
@[simp] theorem setPll_link (j : Nat) : (setPll pl s).link j = s.link j := rfl
@[simp] theorem setPll_chan (j : Nat) : (setPll pl s).chan j = s.chan j := rfl
@[simp] theorem setPll_region (j : Nat) : (setPll pl s).region j = s.region j := rfl
@[simp] theorem setPll_queue (j : Nat) : (setPll pl s).queue j = s.queue j := rfl
@[simp] theorem setPll_group (j : Nat) : (setPll pl s).group j = s.group j := rfl
@[simp] theorem setPll_vec (j : Nat) : (setPll pl s).vec j = s.vec j := rfl
@[simp] theorem setPll_rlink (j : Nat) : (setPll pl s).rlink j = s.rlink j := rfl
@[simp] theorem setPll_mirror (j : Nat) : (setPll pl s).mirror j = s.mirror j := rfl
@[simp] theorem setPll_fget (p : Nat) (e : Fld) : fget (setPll pl s) p e = fget s p e := rfl

/-! ### setHo -/

@[simp] theorem setHo_pending : (setHo ho s).pending = s.pending := rfl
@[simp] theorem setHo_now : (setHo ho s).now = s.now := rfl
@[simp] theorem setHo_freeCtr : (setHo ho s).freeCtr = s.freeCtr := rfl
@[simp] theorem setHo_busResult : (setHo ho s).busResult = s.busResult := rfl
@[simp] theorem setHo_fuses : (setHo ho s).fuses = s.fuses := rfl
@[simp] theorem setHo_hdrs : (setHo ho s).hdrs = s.hdrs := rfl
@[simp] theorem setHo_flds : (setHo ho s).flds = s.flds := rfl
@[simp] theorem setHo_links : (setHo ho s).links = s.links := rfl
@[simp] theorem setHo_accs : (setHo ho s).accs = s.accs := rfl
@[simp] theorem setHo_nextId : (setHo ho s).nextId = s.nextId := rfl
@[simp] theorem setHo_commits : (setHo ho s).commits = s.commits := rfl
@[simp] theorem setHo_chans : (setHo ho s).chans = s.chans := rfl
@[simp] theorem setHo_mem : (setHo ho s).mem = s.mem := rfl
@[simp] theorem setHo_recs : (setHo ho s).recs = s.recs := rfl
@[simp] theorem setHo_regions : (setHo ho s).regions = s.regions := rfl
@[simp] theorem setHo_slots : (setHo ho s).slots = s.slots := rfl
@[simp] theorem setHo_built : (setHo ho s).built = s.built := rfl
@[simp] theorem setHo_queues : (setHo ho s).queues = s.queues := rfl
@[simp] theorem setHo_jobs : (setHo ho s).jobs = s.jobs := rfl
@[simp] theorem setHo_bells : (setHo ho s).bells = s.bells := rfl
@[simp] theorem setHo_vecs : (setHo ho s).vecs = s.vecs := rfl
@[simp] theorem setHo_groups : (setHo ho s).groups = s.groups := rfl
@[simp] theorem setHo_merid : (setHo ho s).merid = s.merid := rfl
@[simp] theorem setHo_pll : (setHo ho s).pll = s.pll := rfl
@[simp] theorem setHo_time : (setHo ho s).time = s.time := rfl
@[simp] theorem setHo_sb : (setHo ho s).sb = s.sb := rfl
@[simp] theorem setHo_boot : (setHo ho s).boot = s.boot := rfl
@[simp] theorem setHo_power : (setHo ho s).power = s.power := rfl
@[simp] theorem setHo_flash : (setHo ho s).flash = s.flash := rfl
@[simp] theorem setHo_safe : (setHo ho s).safe = s.safe := rfl
@[simp] theorem setHo_tap : (setHo ho s).tap = s.tap := rfl
@[simp] theorem setHo_hdr (j : Nat) : (setHo ho s).hdr j = s.hdr j := rfl
@[simp] theorem setHo_link (j : Nat) : (setHo ho s).link j = s.link j := rfl
@[simp] theorem setHo_chan (j : Nat) : (setHo ho s).chan j = s.chan j := rfl
@[simp] theorem setHo_region (j : Nat) : (setHo ho s).region j = s.region j := rfl
@[simp] theorem setHo_queue (j : Nat) : (setHo ho s).queue j = s.queue j := rfl
@[simp] theorem setHo_group (j : Nat) : (setHo ho s).group j = s.group j := rfl
@[simp] theorem setHo_vec (j : Nat) : (setHo ho s).vec j = s.vec j := rfl
@[simp] theorem setHo_fget (p : Nat) (e : Fld) : fget (setHo ho s) p e = fget s p e := rfl

/-! ### setBoot -/

@[simp] theorem setBoot_pending : (setBoot bo s).pending = s.pending := rfl
@[simp] theorem setBoot_now : (setBoot bo s).now = s.now := rfl
@[simp] theorem setBoot_freeCtr : (setBoot bo s).freeCtr = s.freeCtr := rfl
@[simp] theorem setBoot_busResult : (setBoot bo s).busResult = s.busResult := rfl
@[simp] theorem setBoot_fuses : (setBoot bo s).fuses = s.fuses := rfl
@[simp] theorem setBoot_hdrs : (setBoot bo s).hdrs = s.hdrs := rfl
@[simp] theorem setBoot_flds : (setBoot bo s).flds = s.flds := rfl
@[simp] theorem setBoot_links : (setBoot bo s).links = s.links := rfl
@[simp] theorem setBoot_accs : (setBoot bo s).accs = s.accs := rfl
@[simp] theorem setBoot_nextId : (setBoot bo s).nextId = s.nextId := rfl
@[simp] theorem setBoot_commits : (setBoot bo s).commits = s.commits := rfl
@[simp] theorem setBoot_chans : (setBoot bo s).chans = s.chans := rfl
@[simp] theorem setBoot_mem : (setBoot bo s).mem = s.mem := rfl
@[simp] theorem setBoot_recs : (setBoot bo s).recs = s.recs := rfl
@[simp] theorem setBoot_regions : (setBoot bo s).regions = s.regions := rfl
@[simp] theorem setBoot_slots : (setBoot bo s).slots = s.slots := rfl
@[simp] theorem setBoot_built : (setBoot bo s).built = s.built := rfl
@[simp] theorem setBoot_queues : (setBoot bo s).queues = s.queues := rfl
@[simp] theorem setBoot_jobs : (setBoot bo s).jobs = s.jobs := rfl
@[simp] theorem setBoot_bells : (setBoot bo s).bells = s.bells := rfl
@[simp] theorem setBoot_vecs : (setBoot bo s).vecs = s.vecs := rfl
@[simp] theorem setBoot_groups : (setBoot bo s).groups = s.groups := rfl
@[simp] theorem setBoot_merid : (setBoot bo s).merid = s.merid := rfl
@[simp] theorem setBoot_pll : (setBoot bo s).pll = s.pll := rfl
@[simp] theorem setBoot_time : (setBoot bo s).time = s.time := rfl
@[simp] theorem setBoot_ring : (setBoot bo s).ring = s.ring := rfl
@[simp] theorem setBoot_sb : (setBoot bo s).sb = s.sb := rfl
@[simp] theorem setBoot_power : (setBoot bo s).power = s.power := rfl
@[simp] theorem setBoot_flash : (setBoot bo s).flash = s.flash := rfl
@[simp] theorem setBoot_safe : (setBoot bo s).safe = s.safe := rfl
@[simp] theorem setBoot_tap : (setBoot bo s).tap = s.tap := rfl
@[simp] theorem setBoot_hdr (j : Nat) : (setBoot bo s).hdr j = s.hdr j := rfl
@[simp] theorem setBoot_link (j : Nat) : (setBoot bo s).link j = s.link j := rfl
@[simp] theorem setBoot_chan (j : Nat) : (setBoot bo s).chan j = s.chan j := rfl
@[simp] theorem setBoot_region (j : Nat) : (setBoot bo s).region j = s.region j := rfl
@[simp] theorem setBoot_queue (j : Nat) : (setBoot bo s).queue j = s.queue j := rfl
@[simp] theorem setBoot_group (j : Nat) : (setBoot bo s).group j = s.group j := rfl
@[simp] theorem setBoot_vec (j : Nat) : (setBoot bo s).vec j = s.vec j := rfl
@[simp] theorem setBoot_rlink (j : Nat) : (setBoot bo s).rlink j = s.rlink j := rfl
@[simp] theorem setBoot_mirror (j : Nat) : (setBoot bo s).mirror j = s.mirror j := rfl
@[simp] theorem setBoot_fget (p : Nat) (e : Fld) : fget (setBoot bo s) p e = fget s p e := rfl

/-! ### setPower -/

@[simp] theorem setPower_pending : (setPower pw s).pending = s.pending := rfl
@[simp] theorem setPower_now : (setPower pw s).now = s.now := rfl
@[simp] theorem setPower_freeCtr : (setPower pw s).freeCtr = s.freeCtr := rfl
@[simp] theorem setPower_busResult : (setPower pw s).busResult = s.busResult := rfl
@[simp] theorem setPower_fuses : (setPower pw s).fuses = s.fuses := rfl
@[simp] theorem setPower_hdrs : (setPower pw s).hdrs = s.hdrs := rfl
@[simp] theorem setPower_flds : (setPower pw s).flds = s.flds := rfl
@[simp] theorem setPower_links : (setPower pw s).links = s.links := rfl
@[simp] theorem setPower_accs : (setPower pw s).accs = s.accs := rfl
@[simp] theorem setPower_nextId : (setPower pw s).nextId = s.nextId := rfl
@[simp] theorem setPower_commits : (setPower pw s).commits = s.commits := rfl
@[simp] theorem setPower_chans : (setPower pw s).chans = s.chans := rfl
@[simp] theorem setPower_mem : (setPower pw s).mem = s.mem := rfl
@[simp] theorem setPower_recs : (setPower pw s).recs = s.recs := rfl
@[simp] theorem setPower_regions : (setPower pw s).regions = s.regions := rfl
@[simp] theorem setPower_slots : (setPower pw s).slots = s.slots := rfl
@[simp] theorem setPower_built : (setPower pw s).built = s.built := rfl
@[simp] theorem setPower_queues : (setPower pw s).queues = s.queues := rfl
@[simp] theorem setPower_jobs : (setPower pw s).jobs = s.jobs := rfl
@[simp] theorem setPower_bells : (setPower pw s).bells = s.bells := rfl
@[simp] theorem setPower_vecs : (setPower pw s).vecs = s.vecs := rfl
@[simp] theorem setPower_groups : (setPower pw s).groups = s.groups := rfl
@[simp] theorem setPower_merid : (setPower pw s).merid = s.merid := rfl
@[simp] theorem setPower_pll : (setPower pw s).pll = s.pll := rfl
@[simp] theorem setPower_time : (setPower pw s).time = s.time := rfl
@[simp] theorem setPower_ring : (setPower pw s).ring = s.ring := rfl
@[simp] theorem setPower_sb : (setPower pw s).sb = s.sb := rfl
@[simp] theorem setPower_boot : (setPower pw s).boot = s.boot := rfl
@[simp] theorem setPower_flash : (setPower pw s).flash = s.flash := rfl
@[simp] theorem setPower_safe : (setPower pw s).safe = s.safe := rfl
@[simp] theorem setPower_tap : (setPower pw s).tap = s.tap := rfl
@[simp] theorem setPower_hdr (j : Nat) : (setPower pw s).hdr j = s.hdr j := rfl
@[simp] theorem setPower_link (j : Nat) : (setPower pw s).link j = s.link j := rfl
@[simp] theorem setPower_chan (j : Nat) : (setPower pw s).chan j = s.chan j := rfl
@[simp] theorem setPower_region (j : Nat) : (setPower pw s).region j = s.region j := rfl
@[simp] theorem setPower_queue (j : Nat) : (setPower pw s).queue j = s.queue j := rfl
@[simp] theorem setPower_group (j : Nat) : (setPower pw s).group j = s.group j := rfl
@[simp] theorem setPower_vec (j : Nat) : (setPower pw s).vec j = s.vec j := rfl
@[simp] theorem setPower_rlink (j : Nat) : (setPower pw s).rlink j = s.rlink j := rfl
@[simp] theorem setPower_mirror (j : Nat) : (setPower pw s).mirror j = s.mirror j := rfl
@[simp] theorem setPower_fget (p : Nat) (e : Fld) : fget (setPower pw s) p e = fget s p e := rfl

/-! ### setSafe -/

@[simp] theorem setSafe_pending : (setSafe sa s).pending = s.pending := rfl
@[simp] theorem setSafe_now : (setSafe sa s).now = s.now := rfl
@[simp] theorem setSafe_freeCtr : (setSafe sa s).freeCtr = s.freeCtr := rfl
@[simp] theorem setSafe_busResult : (setSafe sa s).busResult = s.busResult := rfl
@[simp] theorem setSafe_fuses : (setSafe sa s).fuses = s.fuses := rfl
@[simp] theorem setSafe_hdrs : (setSafe sa s).hdrs = s.hdrs := rfl
@[simp] theorem setSafe_flds : (setSafe sa s).flds = s.flds := rfl
@[simp] theorem setSafe_links : (setSafe sa s).links = s.links := rfl
@[simp] theorem setSafe_accs : (setSafe sa s).accs = s.accs := rfl
@[simp] theorem setSafe_nextId : (setSafe sa s).nextId = s.nextId := rfl
@[simp] theorem setSafe_commits : (setSafe sa s).commits = s.commits := rfl
@[simp] theorem setSafe_chans : (setSafe sa s).chans = s.chans := rfl
@[simp] theorem setSafe_mem : (setSafe sa s).mem = s.mem := rfl
@[simp] theorem setSafe_recs : (setSafe sa s).recs = s.recs := rfl
@[simp] theorem setSafe_regions : (setSafe sa s).regions = s.regions := rfl
@[simp] theorem setSafe_slots : (setSafe sa s).slots = s.slots := rfl
@[simp] theorem setSafe_built : (setSafe sa s).built = s.built := rfl
@[simp] theorem setSafe_queues : (setSafe sa s).queues = s.queues := rfl
@[simp] theorem setSafe_jobs : (setSafe sa s).jobs = s.jobs := rfl
@[simp] theorem setSafe_bells : (setSafe sa s).bells = s.bells := rfl
@[simp] theorem setSafe_vecs : (setSafe sa s).vecs = s.vecs := rfl
@[simp] theorem setSafe_groups : (setSafe sa s).groups = s.groups := rfl
@[simp] theorem setSafe_merid : (setSafe sa s).merid = s.merid := rfl
@[simp] theorem setSafe_pll : (setSafe sa s).pll = s.pll := rfl
@[simp] theorem setSafe_time : (setSafe sa s).time = s.time := rfl
@[simp] theorem setSafe_ring : (setSafe sa s).ring = s.ring := rfl
@[simp] theorem setSafe_sb : (setSafe sa s).sb = s.sb := rfl
@[simp] theorem setSafe_boot : (setSafe sa s).boot = s.boot := rfl
@[simp] theorem setSafe_power : (setSafe sa s).power = s.power := rfl
@[simp] theorem setSafe_flash : (setSafe sa s).flash = s.flash := rfl
@[simp] theorem setSafe_tap : (setSafe sa s).tap = s.tap := rfl
@[simp] theorem setSafe_hdr (j : Nat) : (setSafe sa s).hdr j = s.hdr j := rfl
@[simp] theorem setSafe_link (j : Nat) : (setSafe sa s).link j = s.link j := rfl
@[simp] theorem setSafe_chan (j : Nat) : (setSafe sa s).chan j = s.chan j := rfl
@[simp] theorem setSafe_region (j : Nat) : (setSafe sa s).region j = s.region j := rfl
@[simp] theorem setSafe_queue (j : Nat) : (setSafe sa s).queue j = s.queue j := rfl
@[simp] theorem setSafe_group (j : Nat) : (setSafe sa s).group j = s.group j := rfl
@[simp] theorem setSafe_vec (j : Nat) : (setSafe sa s).vec j = s.vec j := rfl
@[simp] theorem setSafe_rlink (j : Nat) : (setSafe sa s).rlink j = s.rlink j := rfl
@[simp] theorem setSafe_mirror (j : Nat) : (setSafe sa s).mirror j = s.mirror j := rfl
@[simp] theorem setSafe_fget (p : Nat) (e : Fld) : fget (setSafe sa s) p e = fget s p e := rfl

/-! ### setSb -/

@[simp] theorem setSb_pending : (setSb sbd s).pending = s.pending := rfl
@[simp] theorem setSb_now : (setSb sbd s).now = s.now := rfl
@[simp] theorem setSb_freeCtr : (setSb sbd s).freeCtr = s.freeCtr := rfl
@[simp] theorem setSb_busResult : (setSb sbd s).busResult = s.busResult := rfl
@[simp] theorem setSb_fuses : (setSb sbd s).fuses = s.fuses := rfl
@[simp] theorem setSb_hdrs : (setSb sbd s).hdrs = s.hdrs := rfl
@[simp] theorem setSb_flds : (setSb sbd s).flds = s.flds := rfl
@[simp] theorem setSb_links : (setSb sbd s).links = s.links := rfl
@[simp] theorem setSb_accs : (setSb sbd s).accs = s.accs := rfl
@[simp] theorem setSb_nextId : (setSb sbd s).nextId = s.nextId := rfl
@[simp] theorem setSb_commits : (setSb sbd s).commits = s.commits := rfl
@[simp] theorem setSb_chans : (setSb sbd s).chans = s.chans := rfl
@[simp] theorem setSb_mem : (setSb sbd s).mem = s.mem := rfl
@[simp] theorem setSb_recs : (setSb sbd s).recs = s.recs := rfl
@[simp] theorem setSb_regions : (setSb sbd s).regions = s.regions := rfl
@[simp] theorem setSb_slots : (setSb sbd s).slots = s.slots := rfl
@[simp] theorem setSb_built : (setSb sbd s).built = s.built := rfl
@[simp] theorem setSb_queues : (setSb sbd s).queues = s.queues := rfl
@[simp] theorem setSb_jobs : (setSb sbd s).jobs = s.jobs := rfl
@[simp] theorem setSb_bells : (setSb sbd s).bells = s.bells := rfl
@[simp] theorem setSb_vecs : (setSb sbd s).vecs = s.vecs := rfl
@[simp] theorem setSb_groups : (setSb sbd s).groups = s.groups := rfl
@[simp] theorem setSb_merid : (setSb sbd s).merid = s.merid := rfl
@[simp] theorem setSb_pll : (setSb sbd s).pll = s.pll := rfl
@[simp] theorem setSb_time : (setSb sbd s).time = s.time := rfl
@[simp] theorem setSb_ring : (setSb sbd s).ring = s.ring := rfl
@[simp] theorem setSb_boot : (setSb sbd s).boot = s.boot := rfl
@[simp] theorem setSb_power : (setSb sbd s).power = s.power := rfl
@[simp] theorem setSb_flash : (setSb sbd s).flash = s.flash := rfl
@[simp] theorem setSb_safe : (setSb sbd s).safe = s.safe := rfl
@[simp] theorem setSb_tap : (setSb sbd s).tap = s.tap := rfl
@[simp] theorem setSb_hdr (j : Nat) : (setSb sbd s).hdr j = s.hdr j := rfl
@[simp] theorem setSb_link (j : Nat) : (setSb sbd s).link j = s.link j := rfl
@[simp] theorem setSb_chan (j : Nat) : (setSb sbd s).chan j = s.chan j := rfl
@[simp] theorem setSb_region (j : Nat) : (setSb sbd s).region j = s.region j := rfl
@[simp] theorem setSb_queue (j : Nat) : (setSb sbd s).queue j = s.queue j := rfl
@[simp] theorem setSb_group (j : Nat) : (setSb sbd s).group j = s.group j := rfl
@[simp] theorem setSb_vec (j : Nat) : (setSb sbd s).vec j = s.vec j := rfl
@[simp] theorem setSb_rlink (j : Nat) : (setSb sbd s).rlink j = s.rlink j := rfl
@[simp] theorem setSb_mirror (j : Nat) : (setSb sbd s).mirror j = s.mirror j := rfl
@[simp] theorem setSb_fget (p : Nat) (e : Fld) : fget (setSb sbd s) p e = fget s p e := rfl

/-! ### setFbank -/

@[simp] theorem setFbank_pending : (setFbank n fb s).pending = s.pending := rfl
@[simp] theorem setFbank_now : (setFbank n fb s).now = s.now := rfl
@[simp] theorem setFbank_freeCtr : (setFbank n fb s).freeCtr = s.freeCtr := rfl
@[simp] theorem setFbank_busResult : (setFbank n fb s).busResult = s.busResult := rfl
@[simp] theorem setFbank_fuses : (setFbank n fb s).fuses = s.fuses := rfl
@[simp] theorem setFbank_hdrs : (setFbank n fb s).hdrs = s.hdrs := rfl
@[simp] theorem setFbank_flds : (setFbank n fb s).flds = s.flds := rfl
@[simp] theorem setFbank_links : (setFbank n fb s).links = s.links := rfl
@[simp] theorem setFbank_accs : (setFbank n fb s).accs = s.accs := rfl
@[simp] theorem setFbank_nextId : (setFbank n fb s).nextId = s.nextId := rfl
@[simp] theorem setFbank_commits : (setFbank n fb s).commits = s.commits := rfl
@[simp] theorem setFbank_chans : (setFbank n fb s).chans = s.chans := rfl
@[simp] theorem setFbank_mem : (setFbank n fb s).mem = s.mem := rfl
@[simp] theorem setFbank_recs : (setFbank n fb s).recs = s.recs := rfl
@[simp] theorem setFbank_regions : (setFbank n fb s).regions = s.regions := rfl
@[simp] theorem setFbank_slots : (setFbank n fb s).slots = s.slots := rfl
@[simp] theorem setFbank_built : (setFbank n fb s).built = s.built := rfl
@[simp] theorem setFbank_queues : (setFbank n fb s).queues = s.queues := rfl
@[simp] theorem setFbank_jobs : (setFbank n fb s).jobs = s.jobs := rfl
@[simp] theorem setFbank_bells : (setFbank n fb s).bells = s.bells := rfl
@[simp] theorem setFbank_vecs : (setFbank n fb s).vecs = s.vecs := rfl
@[simp] theorem setFbank_groups : (setFbank n fb s).groups = s.groups := rfl
@[simp] theorem setFbank_merid : (setFbank n fb s).merid = s.merid := rfl
@[simp] theorem setFbank_pll : (setFbank n fb s).pll = s.pll := rfl
@[simp] theorem setFbank_time : (setFbank n fb s).time = s.time := rfl
@[simp] theorem setFbank_ring : (setFbank n fb s).ring = s.ring := rfl
@[simp] theorem setFbank_sb : (setFbank n fb s).sb = s.sb := rfl
@[simp] theorem setFbank_boot : (setFbank n fb s).boot = s.boot := rfl
@[simp] theorem setFbank_power : (setFbank n fb s).power = s.power := rfl
@[simp] theorem setFbank_safe : (setFbank n fb s).safe = s.safe := rfl
@[simp] theorem setFbank_tap : (setFbank n fb s).tap = s.tap := rfl
@[simp] theorem setFbank_hdr (j : Nat) : (setFbank n fb s).hdr j = s.hdr j := rfl
@[simp] theorem setFbank_link (j : Nat) : (setFbank n fb s).link j = s.link j := rfl
@[simp] theorem setFbank_chan (j : Nat) : (setFbank n fb s).chan j = s.chan j := rfl
@[simp] theorem setFbank_region (j : Nat) : (setFbank n fb s).region j = s.region j := rfl
@[simp] theorem setFbank_queue (j : Nat) : (setFbank n fb s).queue j = s.queue j := rfl
@[simp] theorem setFbank_group (j : Nat) : (setFbank n fb s).group j = s.group j := rfl
@[simp] theorem setFbank_vec (j : Nat) : (setFbank n fb s).vec j = s.vec j := rfl
@[simp] theorem setFbank_rlink (j : Nat) : (setFbank n fb s).rlink j = s.rlink j := rfl
@[simp] theorem setFbank_mirror (j : Nat) : (setFbank n fb s).mirror j = s.mirror j := rfl
@[simp] theorem setFbank_fget (p : Nat) (e : Fld) : fget (setFbank n fb s) p e = fget s p e := rfl

/-! ### modHdr -/

@[simp] theorem modHdr_pending : (modHdr n fh s).pending = s.pending := rfl
@[simp] theorem modHdr_now : (modHdr n fh s).now = s.now := rfl
@[simp] theorem modHdr_freeCtr : (modHdr n fh s).freeCtr = s.freeCtr := rfl
@[simp] theorem modHdr_busResult : (modHdr n fh s).busResult = s.busResult := rfl
@[simp] theorem modHdr_fuses : (modHdr n fh s).fuses = s.fuses := rfl
@[simp] theorem modHdr_flds : (modHdr n fh s).flds = s.flds := rfl
@[simp] theorem modHdr_links : (modHdr n fh s).links = s.links := rfl
@[simp] theorem modHdr_accs : (modHdr n fh s).accs = s.accs := rfl
@[simp] theorem modHdr_nextId : (modHdr n fh s).nextId = s.nextId := rfl
@[simp] theorem modHdr_commits : (modHdr n fh s).commits = s.commits := rfl
@[simp] theorem modHdr_chans : (modHdr n fh s).chans = s.chans := rfl
@[simp] theorem modHdr_mem : (modHdr n fh s).mem = s.mem := rfl
@[simp] theorem modHdr_recs : (modHdr n fh s).recs = s.recs := rfl
@[simp] theorem modHdr_regions : (modHdr n fh s).regions = s.regions := rfl
@[simp] theorem modHdr_slots : (modHdr n fh s).slots = s.slots := rfl
@[simp] theorem modHdr_built : (modHdr n fh s).built = s.built := rfl
@[simp] theorem modHdr_queues : (modHdr n fh s).queues = s.queues := rfl
@[simp] theorem modHdr_jobs : (modHdr n fh s).jobs = s.jobs := rfl
@[simp] theorem modHdr_bells : (modHdr n fh s).bells = s.bells := rfl
@[simp] theorem modHdr_vecs : (modHdr n fh s).vecs = s.vecs := rfl
@[simp] theorem modHdr_groups : (modHdr n fh s).groups = s.groups := rfl
@[simp] theorem modHdr_merid : (modHdr n fh s).merid = s.merid := rfl
@[simp] theorem modHdr_pll : (modHdr n fh s).pll = s.pll := rfl
@[simp] theorem modHdr_time : (modHdr n fh s).time = s.time := rfl
@[simp] theorem modHdr_ring : (modHdr n fh s).ring = s.ring := rfl
@[simp] theorem modHdr_sb : (modHdr n fh s).sb = s.sb := rfl
@[simp] theorem modHdr_boot : (modHdr n fh s).boot = s.boot := rfl
@[simp] theorem modHdr_power : (modHdr n fh s).power = s.power := rfl
@[simp] theorem modHdr_flash : (modHdr n fh s).flash = s.flash := rfl
@[simp] theorem modHdr_safe : (modHdr n fh s).safe = s.safe := rfl
@[simp] theorem modHdr_tap : (modHdr n fh s).tap = s.tap := rfl
@[simp] theorem modHdr_link (j : Nat) : (modHdr n fh s).link j = s.link j := rfl
@[simp] theorem modHdr_chan (j : Nat) : (modHdr n fh s).chan j = s.chan j := rfl
@[simp] theorem modHdr_region (j : Nat) : (modHdr n fh s).region j = s.region j := rfl
@[simp] theorem modHdr_queue (j : Nat) : (modHdr n fh s).queue j = s.queue j := rfl
@[simp] theorem modHdr_group (j : Nat) : (modHdr n fh s).group j = s.group j := rfl
@[simp] theorem modHdr_vec (j : Nat) : (modHdr n fh s).vec j = s.vec j := rfl
@[simp] theorem modHdr_rlink (j : Nat) : (modHdr n fh s).rlink j = s.rlink j := rfl
@[simp] theorem modHdr_mirror (j : Nat) : (modHdr n fh s).mirror j = s.mirror j := rfl
@[simp] theorem modHdr_fget (p : Nat) (e : Fld) : fget (modHdr n fh s) p e = fget s p e := rfl

/-! ### modLink -/

@[simp] theorem modLink_pending : (modLink n fl s).pending = s.pending := rfl
@[simp] theorem modLink_now : (modLink n fl s).now = s.now := rfl
@[simp] theorem modLink_freeCtr : (modLink n fl s).freeCtr = s.freeCtr := rfl
@[simp] theorem modLink_busResult : (modLink n fl s).busResult = s.busResult := rfl
@[simp] theorem modLink_fuses : (modLink n fl s).fuses = s.fuses := rfl
@[simp] theorem modLink_hdrs : (modLink n fl s).hdrs = s.hdrs := rfl
@[simp] theorem modLink_flds : (modLink n fl s).flds = s.flds := rfl
@[simp] theorem modLink_accs : (modLink n fl s).accs = s.accs := rfl
@[simp] theorem modLink_nextId : (modLink n fl s).nextId = s.nextId := rfl
@[simp] theorem modLink_commits : (modLink n fl s).commits = s.commits := rfl
@[simp] theorem modLink_chans : (modLink n fl s).chans = s.chans := rfl
@[simp] theorem modLink_mem : (modLink n fl s).mem = s.mem := rfl
@[simp] theorem modLink_recs : (modLink n fl s).recs = s.recs := rfl
@[simp] theorem modLink_regions : (modLink n fl s).regions = s.regions := rfl
@[simp] theorem modLink_slots : (modLink n fl s).slots = s.slots := rfl
@[simp] theorem modLink_built : (modLink n fl s).built = s.built := rfl
@[simp] theorem modLink_queues : (modLink n fl s).queues = s.queues := rfl
@[simp] theorem modLink_jobs : (modLink n fl s).jobs = s.jobs := rfl
@[simp] theorem modLink_bells : (modLink n fl s).bells = s.bells := rfl
@[simp] theorem modLink_vecs : (modLink n fl s).vecs = s.vecs := rfl
@[simp] theorem modLink_groups : (modLink n fl s).groups = s.groups := rfl
@[simp] theorem modLink_merid : (modLink n fl s).merid = s.merid := rfl
@[simp] theorem modLink_pll : (modLink n fl s).pll = s.pll := rfl
@[simp] theorem modLink_time : (modLink n fl s).time = s.time := rfl
@[simp] theorem modLink_ring : (modLink n fl s).ring = s.ring := rfl
@[simp] theorem modLink_sb : (modLink n fl s).sb = s.sb := rfl
@[simp] theorem modLink_boot : (modLink n fl s).boot = s.boot := rfl
@[simp] theorem modLink_power : (modLink n fl s).power = s.power := rfl
@[simp] theorem modLink_flash : (modLink n fl s).flash = s.flash := rfl
@[simp] theorem modLink_safe : (modLink n fl s).safe = s.safe := rfl
@[simp] theorem modLink_tap : (modLink n fl s).tap = s.tap := rfl
@[simp] theorem modLink_hdr (j : Nat) : (modLink n fl s).hdr j = s.hdr j := rfl
@[simp] theorem modLink_chan (j : Nat) : (modLink n fl s).chan j = s.chan j := rfl
@[simp] theorem modLink_region (j : Nat) : (modLink n fl s).region j = s.region j := rfl
@[simp] theorem modLink_queue (j : Nat) : (modLink n fl s).queue j = s.queue j := rfl
@[simp] theorem modLink_group (j : Nat) : (modLink n fl s).group j = s.group j := rfl
@[simp] theorem modLink_vec (j : Nat) : (modLink n fl s).vec j = s.vec j := rfl
@[simp] theorem modLink_rlink (j : Nat) : (modLink n fl s).rlink j = s.rlink j := rfl
@[simp] theorem modLink_mirror (j : Nat) : (modLink n fl s).mirror j = s.mirror j := rfl
@[simp] theorem modLink_fget (p : Nat) (e : Fld) : fget (modLink n fl s) p e = fget s p e := rfl

/-! ### modChan -/

@[simp] theorem modChan_pending : (modChan n fc s).pending = s.pending := rfl
@[simp] theorem modChan_now : (modChan n fc s).now = s.now := rfl
@[simp] theorem modChan_freeCtr : (modChan n fc s).freeCtr = s.freeCtr := rfl
@[simp] theorem modChan_busResult : (modChan n fc s).busResult = s.busResult := rfl
@[simp] theorem modChan_fuses : (modChan n fc s).fuses = s.fuses := rfl
@[simp] theorem modChan_hdrs : (modChan n fc s).hdrs = s.hdrs := rfl
@[simp] theorem modChan_flds : (modChan n fc s).flds = s.flds := rfl
@[simp] theorem modChan_links : (modChan n fc s).links = s.links := rfl
@[simp] theorem modChan_accs : (modChan n fc s).accs = s.accs := rfl
@[simp] theorem modChan_nextId : (modChan n fc s).nextId = s.nextId := rfl
@[simp] theorem modChan_commits : (modChan n fc s).commits = s.commits := rfl
@[simp] theorem modChan_mem : (modChan n fc s).mem = s.mem := rfl
@[simp] theorem modChan_recs : (modChan n fc s).recs = s.recs := rfl
@[simp] theorem modChan_regions : (modChan n fc s).regions = s.regions := rfl
@[simp] theorem modChan_slots : (modChan n fc s).slots = s.slots := rfl
@[simp] theorem modChan_built : (modChan n fc s).built = s.built := rfl
@[simp] theorem modChan_queues : (modChan n fc s).queues = s.queues := rfl
@[simp] theorem modChan_jobs : (modChan n fc s).jobs = s.jobs := rfl
@[simp] theorem modChan_bells : (modChan n fc s).bells = s.bells := rfl
@[simp] theorem modChan_vecs : (modChan n fc s).vecs = s.vecs := rfl
@[simp] theorem modChan_groups : (modChan n fc s).groups = s.groups := rfl
@[simp] theorem modChan_merid : (modChan n fc s).merid = s.merid := rfl
@[simp] theorem modChan_pll : (modChan n fc s).pll = s.pll := rfl
@[simp] theorem modChan_time : (modChan n fc s).time = s.time := rfl
@[simp] theorem modChan_ring : (modChan n fc s).ring = s.ring := rfl
@[simp] theorem modChan_sb : (modChan n fc s).sb = s.sb := rfl
@[simp] theorem modChan_boot : (modChan n fc s).boot = s.boot := rfl
@[simp] theorem modChan_power : (modChan n fc s).power = s.power := rfl
@[simp] theorem modChan_flash : (modChan n fc s).flash = s.flash := rfl
@[simp] theorem modChan_safe : (modChan n fc s).safe = s.safe := rfl
@[simp] theorem modChan_tap : (modChan n fc s).tap = s.tap := rfl
@[simp] theorem modChan_hdr (j : Nat) : (modChan n fc s).hdr j = s.hdr j := rfl
@[simp] theorem modChan_link (j : Nat) : (modChan n fc s).link j = s.link j := rfl
@[simp] theorem modChan_region (j : Nat) : (modChan n fc s).region j = s.region j := rfl
@[simp] theorem modChan_queue (j : Nat) : (modChan n fc s).queue j = s.queue j := rfl
@[simp] theorem modChan_group (j : Nat) : (modChan n fc s).group j = s.group j := rfl
@[simp] theorem modChan_vec (j : Nat) : (modChan n fc s).vec j = s.vec j := rfl
@[simp] theorem modChan_rlink (j : Nat) : (modChan n fc s).rlink j = s.rlink j := rfl
@[simp] theorem modChan_mirror (j : Nat) : (modChan n fc s).mirror j = s.mirror j := rfl
@[simp] theorem modChan_fget (p : Nat) (e : Fld) : fget (modChan n fc s) p e = fget s p e := rfl

/-! ### modRegion -/

@[simp] theorem modRegion_pending : (modRegion n fr s).pending = s.pending := rfl
@[simp] theorem modRegion_now : (modRegion n fr s).now = s.now := rfl
@[simp] theorem modRegion_freeCtr : (modRegion n fr s).freeCtr = s.freeCtr := rfl
@[simp] theorem modRegion_busResult : (modRegion n fr s).busResult = s.busResult := rfl
@[simp] theorem modRegion_fuses : (modRegion n fr s).fuses = s.fuses := rfl
@[simp] theorem modRegion_hdrs : (modRegion n fr s).hdrs = s.hdrs := rfl
@[simp] theorem modRegion_flds : (modRegion n fr s).flds = s.flds := rfl
@[simp] theorem modRegion_links : (modRegion n fr s).links = s.links := rfl
@[simp] theorem modRegion_accs : (modRegion n fr s).accs = s.accs := rfl
@[simp] theorem modRegion_nextId : (modRegion n fr s).nextId = s.nextId := rfl
@[simp] theorem modRegion_commits : (modRegion n fr s).commits = s.commits := rfl
@[simp] theorem modRegion_chans : (modRegion n fr s).chans = s.chans := rfl
@[simp] theorem modRegion_mem : (modRegion n fr s).mem = s.mem := rfl
@[simp] theorem modRegion_recs : (modRegion n fr s).recs = s.recs := rfl
@[simp] theorem modRegion_slots : (modRegion n fr s).slots = s.slots := rfl
@[simp] theorem modRegion_built : (modRegion n fr s).built = s.built := rfl
@[simp] theorem modRegion_queues : (modRegion n fr s).queues = s.queues := rfl
@[simp] theorem modRegion_jobs : (modRegion n fr s).jobs = s.jobs := rfl
@[simp] theorem modRegion_bells : (modRegion n fr s).bells = s.bells := rfl
@[simp] theorem modRegion_vecs : (modRegion n fr s).vecs = s.vecs := rfl
@[simp] theorem modRegion_groups : (modRegion n fr s).groups = s.groups := rfl
@[simp] theorem modRegion_merid : (modRegion n fr s).merid = s.merid := rfl
@[simp] theorem modRegion_pll : (modRegion n fr s).pll = s.pll := rfl
@[simp] theorem modRegion_time : (modRegion n fr s).time = s.time := rfl
@[simp] theorem modRegion_ring : (modRegion n fr s).ring = s.ring := rfl
@[simp] theorem modRegion_sb : (modRegion n fr s).sb = s.sb := rfl
@[simp] theorem modRegion_boot : (modRegion n fr s).boot = s.boot := rfl
@[simp] theorem modRegion_power : (modRegion n fr s).power = s.power := rfl
@[simp] theorem modRegion_flash : (modRegion n fr s).flash = s.flash := rfl
@[simp] theorem modRegion_safe : (modRegion n fr s).safe = s.safe := rfl
@[simp] theorem modRegion_tap : (modRegion n fr s).tap = s.tap := rfl
@[simp] theorem modRegion_hdr (j : Nat) : (modRegion n fr s).hdr j = s.hdr j := rfl
@[simp] theorem modRegion_link (j : Nat) : (modRegion n fr s).link j = s.link j := rfl
@[simp] theorem modRegion_chan (j : Nat) : (modRegion n fr s).chan j = s.chan j := rfl
@[simp] theorem modRegion_queue (j : Nat) : (modRegion n fr s).queue j = s.queue j := rfl
@[simp] theorem modRegion_group (j : Nat) : (modRegion n fr s).group j = s.group j := rfl
@[simp] theorem modRegion_vec (j : Nat) : (modRegion n fr s).vec j = s.vec j := rfl
@[simp] theorem modRegion_rlink (j : Nat) : (modRegion n fr s).rlink j = s.rlink j := rfl
@[simp] theorem modRegion_mirror (j : Nat) : (modRegion n fr s).mirror j = s.mirror j := rfl
@[simp] theorem modRegion_fget (p : Nat) (e : Fld) : fget (modRegion n fr s) p e = fget s p e := rfl

/-! ### modQueue -/

@[simp] theorem modQueue_pending : (modQueue n fq s).pending = s.pending := rfl
@[simp] theorem modQueue_now : (modQueue n fq s).now = s.now := rfl
@[simp] theorem modQueue_freeCtr : (modQueue n fq s).freeCtr = s.freeCtr := rfl
@[simp] theorem modQueue_busResult : (modQueue n fq s).busResult = s.busResult := rfl
@[simp] theorem modQueue_fuses : (modQueue n fq s).fuses = s.fuses := rfl
@[simp] theorem modQueue_hdrs : (modQueue n fq s).hdrs = s.hdrs := rfl
@[simp] theorem modQueue_flds : (modQueue n fq s).flds = s.flds := rfl
@[simp] theorem modQueue_links : (modQueue n fq s).links = s.links := rfl
@[simp] theorem modQueue_accs : (modQueue n fq s).accs = s.accs := rfl
@[simp] theorem modQueue_nextId : (modQueue n fq s).nextId = s.nextId := rfl
@[simp] theorem modQueue_commits : (modQueue n fq s).commits = s.commits := rfl
@[simp] theorem modQueue_chans : (modQueue n fq s).chans = s.chans := rfl
@[simp] theorem modQueue_mem : (modQueue n fq s).mem = s.mem := rfl
@[simp] theorem modQueue_recs : (modQueue n fq s).recs = s.recs := rfl
@[simp] theorem modQueue_regions : (modQueue n fq s).regions = s.regions := rfl
@[simp] theorem modQueue_slots : (modQueue n fq s).slots = s.slots := rfl
@[simp] theorem modQueue_built : (modQueue n fq s).built = s.built := rfl
@[simp] theorem modQueue_jobs : (modQueue n fq s).jobs = s.jobs := rfl
@[simp] theorem modQueue_bells : (modQueue n fq s).bells = s.bells := rfl
@[simp] theorem modQueue_vecs : (modQueue n fq s).vecs = s.vecs := rfl
@[simp] theorem modQueue_groups : (modQueue n fq s).groups = s.groups := rfl
@[simp] theorem modQueue_merid : (modQueue n fq s).merid = s.merid := rfl
@[simp] theorem modQueue_pll : (modQueue n fq s).pll = s.pll := rfl
@[simp] theorem modQueue_time : (modQueue n fq s).time = s.time := rfl
@[simp] theorem modQueue_ring : (modQueue n fq s).ring = s.ring := rfl
@[simp] theorem modQueue_sb : (modQueue n fq s).sb = s.sb := rfl
@[simp] theorem modQueue_boot : (modQueue n fq s).boot = s.boot := rfl
@[simp] theorem modQueue_power : (modQueue n fq s).power = s.power := rfl
@[simp] theorem modQueue_flash : (modQueue n fq s).flash = s.flash := rfl
@[simp] theorem modQueue_safe : (modQueue n fq s).safe = s.safe := rfl
@[simp] theorem modQueue_tap : (modQueue n fq s).tap = s.tap := rfl
@[simp] theorem modQueue_hdr (j : Nat) : (modQueue n fq s).hdr j = s.hdr j := rfl
@[simp] theorem modQueue_link (j : Nat) : (modQueue n fq s).link j = s.link j := rfl
@[simp] theorem modQueue_chan (j : Nat) : (modQueue n fq s).chan j = s.chan j := rfl
@[simp] theorem modQueue_region (j : Nat) : (modQueue n fq s).region j = s.region j := rfl
@[simp] theorem modQueue_group (j : Nat) : (modQueue n fq s).group j = s.group j := rfl
@[simp] theorem modQueue_vec (j : Nat) : (modQueue n fq s).vec j = s.vec j := rfl
@[simp] theorem modQueue_rlink (j : Nat) : (modQueue n fq s).rlink j = s.rlink j := rfl
@[simp] theorem modQueue_mirror (j : Nat) : (modQueue n fq s).mirror j = s.mirror j := rfl
@[simp] theorem modQueue_fget (p : Nat) (e : Fld) : fget (modQueue n fq s) p e = fget s p e := rfl

/-! ### modGroup -/

@[simp] theorem modGroup_pending : (modGroup n fg s).pending = s.pending := rfl
@[simp] theorem modGroup_now : (modGroup n fg s).now = s.now := rfl
@[simp] theorem modGroup_freeCtr : (modGroup n fg s).freeCtr = s.freeCtr := rfl
@[simp] theorem modGroup_busResult : (modGroup n fg s).busResult = s.busResult := rfl
@[simp] theorem modGroup_fuses : (modGroup n fg s).fuses = s.fuses := rfl
@[simp] theorem modGroup_hdrs : (modGroup n fg s).hdrs = s.hdrs := rfl
@[simp] theorem modGroup_flds : (modGroup n fg s).flds = s.flds := rfl
@[simp] theorem modGroup_links : (modGroup n fg s).links = s.links := rfl
@[simp] theorem modGroup_accs : (modGroup n fg s).accs = s.accs := rfl
@[simp] theorem modGroup_nextId : (modGroup n fg s).nextId = s.nextId := rfl
@[simp] theorem modGroup_commits : (modGroup n fg s).commits = s.commits := rfl
@[simp] theorem modGroup_chans : (modGroup n fg s).chans = s.chans := rfl
@[simp] theorem modGroup_mem : (modGroup n fg s).mem = s.mem := rfl
@[simp] theorem modGroup_recs : (modGroup n fg s).recs = s.recs := rfl
@[simp] theorem modGroup_regions : (modGroup n fg s).regions = s.regions := rfl
@[simp] theorem modGroup_slots : (modGroup n fg s).slots = s.slots := rfl
@[simp] theorem modGroup_built : (modGroup n fg s).built = s.built := rfl
@[simp] theorem modGroup_queues : (modGroup n fg s).queues = s.queues := rfl
@[simp] theorem modGroup_jobs : (modGroup n fg s).jobs = s.jobs := rfl
@[simp] theorem modGroup_bells : (modGroup n fg s).bells = s.bells := rfl
@[simp] theorem modGroup_vecs : (modGroup n fg s).vecs = s.vecs := rfl
@[simp] theorem modGroup_merid : (modGroup n fg s).merid = s.merid := rfl
@[simp] theorem modGroup_pll : (modGroup n fg s).pll = s.pll := rfl
@[simp] theorem modGroup_time : (modGroup n fg s).time = s.time := rfl
@[simp] theorem modGroup_ring : (modGroup n fg s).ring = s.ring := rfl
@[simp] theorem modGroup_sb : (modGroup n fg s).sb = s.sb := rfl
@[simp] theorem modGroup_boot : (modGroup n fg s).boot = s.boot := rfl
@[simp] theorem modGroup_power : (modGroup n fg s).power = s.power := rfl
@[simp] theorem modGroup_flash : (modGroup n fg s).flash = s.flash := rfl
@[simp] theorem modGroup_safe : (modGroup n fg s).safe = s.safe := rfl
@[simp] theorem modGroup_tap : (modGroup n fg s).tap = s.tap := rfl
@[simp] theorem modGroup_hdr (j : Nat) : (modGroup n fg s).hdr j = s.hdr j := rfl
@[simp] theorem modGroup_link (j : Nat) : (modGroup n fg s).link j = s.link j := rfl
@[simp] theorem modGroup_chan (j : Nat) : (modGroup n fg s).chan j = s.chan j := rfl
@[simp] theorem modGroup_region (j : Nat) : (modGroup n fg s).region j = s.region j := rfl
@[simp] theorem modGroup_queue (j : Nat) : (modGroup n fg s).queue j = s.queue j := rfl
@[simp] theorem modGroup_vec (j : Nat) : (modGroup n fg s).vec j = s.vec j := rfl
@[simp] theorem modGroup_rlink (j : Nat) : (modGroup n fg s).rlink j = s.rlink j := rfl
@[simp] theorem modGroup_mirror (j : Nat) : (modGroup n fg s).mirror j = s.mirror j := rfl
@[simp] theorem modGroup_fget (p : Nat) (e : Fld) : fget (modGroup n fg s) p e = fget s p e := rfl

/-! ### modVec -/

@[simp] theorem modVec_pending : (modVec n fv s).pending = s.pending := rfl
@[simp] theorem modVec_now : (modVec n fv s).now = s.now := rfl
@[simp] theorem modVec_freeCtr : (modVec n fv s).freeCtr = s.freeCtr := rfl
@[simp] theorem modVec_busResult : (modVec n fv s).busResult = s.busResult := rfl
@[simp] theorem modVec_fuses : (modVec n fv s).fuses = s.fuses := rfl
@[simp] theorem modVec_hdrs : (modVec n fv s).hdrs = s.hdrs := rfl
@[simp] theorem modVec_flds : (modVec n fv s).flds = s.flds := rfl
@[simp] theorem modVec_links : (modVec n fv s).links = s.links := rfl
@[simp] theorem modVec_accs : (modVec n fv s).accs = s.accs := rfl
@[simp] theorem modVec_nextId : (modVec n fv s).nextId = s.nextId := rfl
@[simp] theorem modVec_commits : (modVec n fv s).commits = s.commits := rfl
@[simp] theorem modVec_chans : (modVec n fv s).chans = s.chans := rfl
@[simp] theorem modVec_mem : (modVec n fv s).mem = s.mem := rfl
@[simp] theorem modVec_recs : (modVec n fv s).recs = s.recs := rfl
@[simp] theorem modVec_regions : (modVec n fv s).regions = s.regions := rfl
@[simp] theorem modVec_slots : (modVec n fv s).slots = s.slots := rfl
@[simp] theorem modVec_built : (modVec n fv s).built = s.built := rfl
@[simp] theorem modVec_queues : (modVec n fv s).queues = s.queues := rfl
@[simp] theorem modVec_jobs : (modVec n fv s).jobs = s.jobs := rfl
@[simp] theorem modVec_bells : (modVec n fv s).bells = s.bells := rfl
@[simp] theorem modVec_groups : (modVec n fv s).groups = s.groups := rfl
@[simp] theorem modVec_merid : (modVec n fv s).merid = s.merid := rfl
@[simp] theorem modVec_pll : (modVec n fv s).pll = s.pll := rfl
@[simp] theorem modVec_time : (modVec n fv s).time = s.time := rfl
@[simp] theorem modVec_ring : (modVec n fv s).ring = s.ring := rfl
@[simp] theorem modVec_sb : (modVec n fv s).sb = s.sb := rfl
@[simp] theorem modVec_boot : (modVec n fv s).boot = s.boot := rfl
@[simp] theorem modVec_power : (modVec n fv s).power = s.power := rfl
@[simp] theorem modVec_flash : (modVec n fv s).flash = s.flash := rfl
@[simp] theorem modVec_safe : (modVec n fv s).safe = s.safe := rfl
@[simp] theorem modVec_tap : (modVec n fv s).tap = s.tap := rfl
@[simp] theorem modVec_hdr (j : Nat) : (modVec n fv s).hdr j = s.hdr j := rfl
@[simp] theorem modVec_link (j : Nat) : (modVec n fv s).link j = s.link j := rfl
@[simp] theorem modVec_chan (j : Nat) : (modVec n fv s).chan j = s.chan j := rfl
@[simp] theorem modVec_region (j : Nat) : (modVec n fv s).region j = s.region j := rfl
@[simp] theorem modVec_queue (j : Nat) : (modVec n fv s).queue j = s.queue j := rfl
@[simp] theorem modVec_group (j : Nat) : (modVec n fv s).group j = s.group j := rfl
@[simp] theorem modVec_rlink (j : Nat) : (modVec n fv s).rlink j = s.rlink j := rfl
@[simp] theorem modVec_mirror (j : Nat) : (modVec n fv s).mirror j = s.mirror j := rfl
@[simp] theorem modVec_fget (p : Nat) (e : Fld) : fget (modVec n fv s) p e = fget s p e := rfl

/-! ### What was written is read -/

@[simp] theorem setLink_link_same : (setLink n kl s).link n = kl := tget_tset_same _ _ _ _
theorem setLink_link_ne {j : Nat} (hj : j ≠ n) : (setLink n kl s).link j = s.link j := by
  simp [State.link, setLink, tget_tset_ne _ _ _ hj]
@[simp] theorem setChan_chan_same : (setChan n kc s).chan n = kc := tget_tset_same _ _ _ _
theorem setChan_chan_ne {j : Nat} (hj : j ≠ n) : (setChan n kc s).chan j = s.chan j := by
  simp [State.chan, setChan, tget_tset_ne _ _ _ hj]
@[simp] theorem setRegion_region_same : (setRegion n kr s).region n = kr := tget_tset_same _ _ _ _
theorem setRegion_region_ne {j : Nat} (hj : j ≠ n) : (setRegion n kr s).region j = s.region j := by
  simp [State.region, setRegion, tget_tset_ne _ _ _ hj]
@[simp] theorem setQueue_queue_same : (setQueue n kq s).queue n = kq := tget_tset_same _ _ _ _
theorem setQueue_queue_ne {j : Nat} (hj : j ≠ n) : (setQueue n kq s).queue j = s.queue j := by
  simp [State.queue, setQueue, tget_tset_ne _ _ _ hj]
@[simp] theorem setGroup_group_same : (setGroup n kg s).group n = kg := tget_tset_same _ _ _ _
theorem setGroup_group_ne {j : Nat} (hj : j ≠ n) : (setGroup n kg s).group j = s.group j := by
  simp [State.group, setGroup, tget_tset_ne _ _ _ hj]
@[simp] theorem setVec_vec_same : (setVec n kv s).vec n = kv := tget_tset_same _ _ _ _
theorem setVec_vec_ne {j : Nat} (hj : j ≠ n) : (setVec n kv s).vec j = s.vec j := by
  simp [State.vec, setVec, tget_tset_ne _ _ _ hj]
@[simp] theorem setRlink_rlink_same : (setRlink n krl s).rlink n = krl := tget_tset_same _ _ _ _
theorem setRlink_rlink_ne {j : Nat} (hj : j ≠ n) : (setRlink n krl s).rlink j = s.rlink j := by
  simp [State.rlink, setRlink, tget_tset_ne _ _ _ hj]
@[simp] theorem setMirror_mirror_same : (setMirror n km s).mirror n = km := tget_tset_same _ _ _ _
theorem setMirror_mirror_ne {j : Nat} (hj : j ≠ n) : (setMirror n km s).mirror j = s.mirror j := by
  simp [State.mirror, setMirror, tget_tset_ne _ _ _ hj]
@[simp] theorem setHdr_hdr_same : (setHdr n h s).hdr n = h := tget_cset_same _ _ _ _
theorem setHdr_hdr_ne {j : Nat} (hj : j ≠ n) : (setHdr n h s).hdr j = s.hdr j := tget_cset_ne _ _ hj

/-- A field that is written reads back as the bits that fit it. -/
@[simp] theorem fget_fset_same : fget (fset page f v s) page f = v % 2 ^ f.w := tget_cset_same _ _ _ _

/-- A field at another place reads as before. -/
theorem fget_fset_ne {p : Nat} {e : Fld} (hk : fkey p e.off e.lo ≠ fkey page f.off f.lo) : fget (fset page f v s) p e = fget s p e :=
  tget_cset_ne _ _ hk

end Sys2Proof.Machine
end

