-- ==== Sys2Proof/Laws/Events.lean ====
section
/-!
SUPPORT. What setting an event does to the page headers (R166, R427, R428).
-/

namespace Sys2Proof.Machine

/-- The header of a page after event `bit` was set with captures `c0` and `c1`. -/
def evtHdr (bit : Nat) (c0 c1 : Option Word) (h : PageHdr) : PageHdr :=
  { h with
    evt := h.evt ||| BitVec.ofNat 32 (2 ^ bit)
    evtCnt := if h.evt.getLsbD bit then h.evtCnt else min 65535 (h.evtCnt + 1)
    cap0 := c0.getD h.cap0
    cap1 := c1.getD h.cap1 }

theorem setEvt_hdr {page bit : Nat} {c0 c1 : Option Word} {s : State} : (setEvt page bit c0 c1 s).hdr page = evtHdr bit c0 c1 (s.hdr page) :=
  setHdr_hdr_same

theorem setEvt_hdr_ne {page bit p : Nat} {c0 c1 : Option Word} {s : State} (h : p ≠ page) : (setEvt page bit c0 c1 s).hdr p = s.hdr p :=
  setHdr_hdr_ne h

theorem reportWait_hdr {v p : Nat} {s : State} (h : p ≠ Pg.vec) : (reportWait v s).1.hdr p = s.hdr p := by
  unfold reportWait
  split
  · rw [setEvt_hdr_ne h]
    rfl
  · rfl

theorem trigger_hdr {v p : Nat} {kp : Bool} {s : State} (h : p ≠ Pg.vec) : (trigger v kp s).hdr p = s.hdr p := by
  unfold trigger checkWait
  split
  · rw [reportWait_hdr h]
    show (reportWait v (triggerOnly v kp s)).1.hdr p = s.hdr p
    rw [reportWait_hdr h]
    rfl
  · rw [reportWait_hdr h]
    rfl

/-- An event of a page other than VEC changes that page's header, and of the others at most that of VEC. -/
theorem raiseCaps_hdr {page bit : Nat} {c0 c1 : Option Word} {s : State} (h : page ≠ Pg.vec) :
    (raiseCaps page bit c0 c1 s).hdr page = evtHdr bit c0 c1 (s.hdr page) := by
  unfold raiseCaps
  split
  · split
    · rw [trigger_hdr h, setEvt_hdr]
    · exact setEvt_hdr
  · exact setEvt_hdr

theorem raiseCaps_hdr_ne {page bit p : Nat} {c0 c1 : Option Word} {s : State} (h : p ≠ Pg.vec) (hp : p ≠ page) :
    (raiseCaps page bit c0 c1 s).hdr p = s.hdr p := by
  unfold raiseCaps
  split
  · split
    · rw [trigger_hdr h, setEvt_hdr_ne hp]
    · exact setEvt_hdr_ne hp
  · exact setEvt_hdr_ne hp

theorem evtHdr_bit {bit : Nat} {c0 c1 : Option Word} {h : PageHdr} (hb : bit < 32) : (evtHdr bit c0 c1 h).evt.getLsbD bit = true := by
  have e : (BitVec.ofNat 32 (2 ^ bit)).getLsbD bit = true := by
    rw [BitVec.getLsbD_ofNat]
    simp [hb]
  simp only [evtHdr, BitVec.getLsbD_or, e, Bool.or_true]

theorem evtHdr_keeps {bit b : Nat} {c0 c1 : Option Word} {h : PageHdr} (hb : h.evt.getLsbD b = true) :
    (evtHdr bit c0 c1 h).evt.getLsbD b = true := by
  simp [evtHdr, hb]

end Sys2Proof.Machine
end

