-- ==== Sys2Proof/Laws/Within.lean ====
section
/-!
SUPPORT. How `Within` composes: through updates of the state, conditions and loops.
-/

namespace Sys2Proof.Machine

set_option linter.all false

variable {P Q : List Part} {r s t u : State}

theorem Same.refl (p : Part) (s : State) : Same p s s := by cases p <;> rfl

theorem Same.trans {p : Part} (h : Same p s t) (k : Same p t u) : Same p s u := by
  cases p <;> exact Eq.trans k h

theorem Within.refl (P : List Part) (s : State) : Within P s s :=
  ⟨fun p _ => Same.refl p s, Nat.le_refl _, Nat.le_refl _, id, id⟩

theorem not_contains_of_all {p : Part} (h : Q.all P.contains = true) (hp : P.contains p = false) : Q.contains p = false := by
  rw [Bool.eq_false_iff] at hp ⊢
  intro hq
  exact hp (List.all_eq_true.mp h p (List.contains_iff_mem.mp hq))

/-- An operation within `Q` keeps what happens from `s` within `P` when `Q` is part of `P`. -/
theorem Within.step (h : Within Q t u) (hq : Q.all P.contains = true) (k : Within P s t) : Within P s u :=
  ⟨fun p hp => (k.same p hp).trans (h.same p (not_contains_of_all hq hp)), Nat.le_trans k.now h.now, Nat.le_trans k.free h.free,
    fun w => h.mem (k.mem w), fun w => h.flash (k.flash w)⟩

theorem all_contains_trans {R : List Part} (h : Q.all R.contains = true) (k : R.all P.contains = true) :
    Q.all P.contains = true :=
  List.all_eq_true.mpr fun p hp => List.all_eq_true.mp k p (List.contains_iff_mem.mp (List.all_eq_true.mp h p hp))

theorem Within.mono (h : Within Q s t) (hq : Q.all P.contains = true) : Within P s t := h.step hq (Within.refl P s)

theorem Within.ite {c : Prop} [Decidable c] {a b : State} (ha : c → Within P s a) (hb : ¬c → Within P s b) :
    Within P s (if c then a else b) := by
  by_cases h : c
  · rw [if_pos h]; exact ha h
  · rw [if_neg h]; exact hb h

/-- A state written out field by field over a base `t`: each part outside `P` is the base's. -/
theorem Within.leaf {a0 a1 a2 a3 a5 a6 a7 a8 a9 a10 a11 a12 a13 a14 a15 a16 a17 a18 a19 a20 a21 a22 a23 a24 a25 a26 a27 a28 a29 a30 a31}
    (k : Within P s t)
    (h : ∀ p, P.contains p = false → Same p t (State.mk a0 a1 a2 a3 t.fuses a5 a6 a7 a8 a9 a10 a11 a12 a13 a14 a15 a16 a17 a18 a19 a20
      a21 a22 a23 a24 a25 a26 a27 a28 a29 a30 a31))
    (hn : t.now ≤ a1) (hf : t.freeCtr ≤ a2) (hm : Memory.wf t.mem = true → Memory.wf a12 = true)
    (hg : t.flash.wf = true → a29.wf = true) :
    Within P s (State.mk a0 a1 a2 a3 t.fuses a5 a6 a7 a8 a9 a10 a11 a12 a13 a14 a15 a16 a17 a18 a19 a20
      a21 a22 a23 a24 a25 a26 a27 a28 a29 a30 a31) :=
  ⟨fun p hp => (k.same p hp).trans (h p hp), Nat.le_trans k.now hn, Nat.le_trans k.free hf, fun w => hm (k.mem w), fun w => hg (k.flash w)⟩

/-- A flash with the same bytes. -/
theorem flash_wf_of {f g : Flash} (e : g.bytes = f.bytes) (h : f.wf = true) : g.wf = true := by
  rw [flash_wf_iff] at h ⊢
  rw [e]
  exact h

theorem forAll_within {α : Type} {xs : List α} {f : α → State → State} (hf : ∀ x t, Within P s t → Within P s (f x t))
    (k : Within P s t) : Within P s (forAll xs f t) := by
  unfold forAll
  induction xs generalizing t with
  | nil => exact k
  | cons x xs ih => exact ih (hf x t k)

theorem foldl_within {α : Type} {xs : List α} {f : State → α → State} (hf : ∀ t x, Within P s t → Within P s (f t x))
    (k : Within P s t) : Within P s (xs.foldl f t) := by
  induction xs generalizing t with
  | nil => exact k
  | cons x xs ih => exact ih (hf t x k)

theorem onlyIf_within {b : Bool} {f : State → State} (hf : ∀ t, Within P s t → Within P s (f t)) (k : Within P s t) :
    Within P s (onlyIf b f t) := by
  unfold onlyIf
  cases b
  · exact k
  · exact hf t k

end Sys2Proof.Machine
end

