-- ==== Sys2Proof/Laws/WithinStore.lean ====
section
/-!
SUPPORT. What each operation may change: the state, the frame store, the channels and the lanes. One lemma per operation, named after it.
-/

namespace Sys2Proof.Machine

set_option linter.all false

/-! ### Ops -/

theorem fset_within {x0 x1 x2 s} : Within [.flds] s (fset x0 x1 x2 s) := by
  unfold fset
  repeat' first
    | with_reducible exact Within.refl _ _
    | with_reducible exact id
    | with_reducible exact Nat.le_refl _
    | (refine fun (p : Part) hp => ?_; cases p <;> first | (cases hp; done) | with_reducible rfl)
    | with_reducible apply Within.leaf

theorem fadd_within {x0 x1 x2 s} : Within [.flds] s (fadd x0 x1 x2 s) :=
  fset_within.mono rfl

theorem fbump_within {x0 x1 s} : Within [.flds] s (fbump x0 x1 s) :=
  fadd_within.mono rfl

theorem fclear_within {x0 x1 s} : Within [.flds] s (fclear x0 x1 s) := by
  unfold fclear
  repeat' first
    | with_reducible assumption
    | with_reducible exact Within.refl _ _
    | with_reducible apply Within.step fset_within rfl
    | with_reducible apply foldl_within
    | intro x t h
    | intro t h

theorem freset_within {x0 x1 s} : Within [.flds] s (freset x0 x1 s) := by
  unfold freset
  repeat' first
    | with_reducible exact Within.refl _ _
    | with_reducible exact id
    | with_reducible exact Nat.le_refl _
    | (refine fun (p : Part) hp => ?_; cases p <;> first | (cases hp; done) | with_reducible rfl)
    | with_reducible apply Within.leaf

theorem setHdr_within {x0 x1 s} : Within [.hdrs] s (setHdr x0 x1 s) := by
  unfold setHdr
  repeat' first
    | with_reducible exact Within.refl _ _
    | with_reducible exact id
    | with_reducible exact Nat.le_refl _
    | (refine fun (p : Part) hp => ?_; cases p <;> first | (cases hp; done) | with_reducible rfl)
    | with_reducible apply Within.leaf

theorem setLink_within {x0 x1 s} : Within [.links] s (setLink x0 x1 s) := by
  unfold setLink
  repeat' first
    | with_reducible exact Within.refl _ _
    | with_reducible exact id
    | with_reducible exact Nat.le_refl _
    | (refine fun (p : Part) hp => ?_; cases p <;> first | (cases hp; done) | with_reducible rfl)
    | with_reducible apply Within.leaf

theorem setChan_within {x0 x1 s} : Within [.chans] s (setChan x0 x1 s) := by
  unfold setChan
  repeat' first
    | with_reducible exact Within.refl _ _
    | with_reducible exact id
    | with_reducible exact Nat.le_refl _
    | (refine fun (p : Part) hp => ?_; cases p <;> first | (cases hp; done) | with_reducible rfl)
    | with_reducible apply Within.leaf

theorem setRegion_within {x0 x1 s} : Within [.regions] s (setRegion x0 x1 s) := by
  unfold setRegion
  repeat' first
    | with_reducible exact Within.refl _ _
    | with_reducible exact id
    | with_reducible exact Nat.le_refl _
    | (refine fun (p : Part) hp => ?_; cases p <;> first | (cases hp; done) | with_reducible rfl)
    | with_reducible apply Within.leaf

theorem setQueue_within {x0 x1 s} : Within [.queues] s (setQueue x0 x1 s) := by
  unfold setQueue
  repeat' first
    | with_reducible exact Within.refl _ _
    | with_reducible exact id
    | with_reducible exact Nat.le_refl _
    | (refine fun (p : Part) hp => ?_; cases p <;> first | (cases hp; done) | with_reducible rfl)
    | with_reducible apply Within.leaf

theorem setGroup_within {x0 x1 s} : Within [.groups] s (setGroup x0 x1 s) := by
  unfold setGroup
  repeat' first
    | with_reducible exact Within.refl _ _
    | with_reducible exact id
    | with_reducible exact Nat.le_refl _
    | (refine fun (p : Part) hp => ?_; cases p <;> first | (cases hp; done) | with_reducible rfl)
    | with_reducible apply Within.leaf

theorem setVec_within {x0 x1 s} : Within [.vecs] s (setVec x0 x1 s) := by
  unfold setVec
  repeat' first
    | with_reducible exact Within.refl _ _
    | with_reducible exact id
    | with_reducible exact Nat.le_refl _
    | (refine fun (p : Part) hp => ?_; cases p <;> first | (cases hp; done) | with_reducible rfl)
    | with_reducible apply Within.leaf

theorem setRlink_within {x0 x1 s} : Within [.ring] s (setRlink x0 x1 s) := by
  unfold setRlink
  repeat' first
    | with_reducible exact Within.refl _ _
    | with_reducible exact id
    | with_reducible exact Nat.le_refl _
    | (refine fun (p : Part) hp => ?_; cases p <;> first | (cases hp; done) | with_reducible rfl)
    | with_reducible apply Within.leaf

theorem setMirror_within {x0 x1 s} : Within [.ring] s (setMirror x0 x1 s) := by
  unfold setMirror
  repeat' first
    | with_reducible exact Within.refl _ _
    | with_reducible exact id
    | with_reducible exact Nat.le_refl _
    | (refine fun (p : Part) hp => ?_; cases p <;> first | (cases hp; done) | with_reducible rfl)
    | with_reducible apply Within.leaf

theorem modHdr_within {x0 x1 s} : Within [.hdrs] s (modHdr x0 x1 s) :=
  setHdr_within.mono rfl

theorem modLink_within {x0 x1 s} : Within [.links] s (modLink x0 x1 s) :=
  setLink_within.mono rfl

theorem modChan_within {x0 x1 s} : Within [.chans] s (modChan x0 x1 s) :=
  setChan_within.mono rfl

theorem modRegion_within {x0 x1 s} : Within [.regions] s (modRegion x0 x1 s) :=
  setRegion_within.mono rfl

theorem modQueue_within {x0 x1 s} : Within [.queues] s (modQueue x0 x1 s) :=
  setQueue_within.mono rfl

theorem modGroup_within {x0 x1 s} : Within [.groups] s (modGroup x0 x1 s) :=
  setGroup_within.mono rfl

theorem modVec_within {x0 x1 s} : Within [.vecs] s (modVec x0 x1 s) :=
  setVec_within.mono rfl

theorem modRlink_within {x0 x1 s} : Within [.ring] s (modRlink x0 x1 s) :=
  setRlink_within.mono rfl

theorem modMirror_within {x0 x1 s} : Within [.ring] s (modMirror x0 x1 s) :=
  setMirror_within.mono rfl

theorem modLane_within {x0 x1 x2 s} : Within [.links] s (modLane x0 x1 x2 s) := by
  unfold modLane
  repeat' first
    | with_reducible exact Within.refl _ _
    | with_reducible apply Within.step modLink_within rfl
    | with_reducible exact id
    | with_reducible exact Nat.le_refl _
    | (refine fun (p : Part) hp => ?_; cases p <;> first | (cases hp; done) | with_reducible rfl)
    | with_reducible apply Within.leaf

theorem elapse_within {x0 s} : Within [.now, .time] s (elapse x0 s) := by
  unfold elapse
  repeat' first
    | with_reducible exact Within.refl _ _
    | with_reducible apply Within.ite <;> intro _
    | with_reducible exact id
    | with_reducible exact Nat.le_refl _
    | with_reducible exact Nat.le_add_right _ _
    | (refine fun (p : Part) hp => ?_; cases p <;> first | (cases hp; done) | with_reducible rfl)
    | with_reducible apply Within.leaf

theorem waitUntil_within {x0 s} : Within [.now, .time] s (waitUntil x0 s) :=
  elapse_within.mono rfl

theorem tick_within {s} : Within [.now, .time] s (tick s) :=
  elapse_within.mono rfl

theorem nextFree_within {s} : Within [.freeCtr] s (nextFree s) := by
  unfold nextFree
  repeat' first
    | with_reducible exact Within.refl _ _
    | with_reducible exact id
    | with_reducible exact Nat.le_refl _
    | with_reducible exact Nat.le_add_right _ _
    | (refine fun (p : Part) hp => ?_; cases p <;> first | (cases hp; done) | with_reducible rfl)
    | with_reducible apply Within.leaf

/-! ### Flags -/

theorem triggerOnly_within {x0 x1 s} : Within [.vecs] s (triggerOnly x0 x1 s) := by
  unfold triggerOnly
  repeat' first
    | with_reducible exact Within.refl _ _
    | with_reducible apply Within.step modVec_within rfl
    | with_reducible apply Within.ite <;> intro _
    | with_reducible exact id
    | with_reducible exact Nat.le_refl _
    | (refine fun (p : Part) hp => ?_; cases p <;> first | (cases hp; done) | with_reducible rfl)
    | with_reducible apply Within.leaf

theorem setEvt_within {x0 x1 x2 x3 s} : Within [.hdrs] s (setEvt x0 x1 x2 x3 s) := by
  unfold setEvt
  repeat' first
    | with_reducible exact Within.refl _ _
    | with_reducible apply Within.step modHdr_within rfl
    | with_reducible apply Within.ite <;> intro _
    | with_reducible exact id
    | with_reducible exact Nat.le_refl _
    | (refine fun (p : Part) hp => ?_; cases p <;> first | (cases hp; done) | with_reducible rfl)
    | with_reducible apply Within.leaf

theorem reportWait_within {x0 s} : Within [.hdrs, .vecs] s (reportWait x0 s).1 := by
  unfold reportWait
  repeat' first
    | with_reducible exact Within.refl _ _
    | with_reducible apply Within.step setEvt_within rfl
    | with_reducible apply Within.step modVec_within rfl
    | with_reducible apply Within.ite <;> intro _
    | with_reducible exact id
    | with_reducible exact Nat.le_refl _
    | (refine fun (p : Part) hp => ?_; cases p <;> first | (cases hp; done) | with_reducible rfl)
    | split
    | (dsimp only; split)
    | with_reducible apply Within.leaf

theorem checkWait_within {x0 s} : Within [.hdrs, .vecs] s (checkWait x0 s) := by
  unfold checkWait
  repeat' first
    | with_reducible exact Within.refl _ _
    | with_reducible apply Within.step reportWait_within rfl
    | with_reducible apply Within.step triggerOnly_within rfl
    | with_reducible apply Within.ite <;> intro _

theorem trigger_within {x0 x1 s} : Within [.hdrs, .vecs] s (trigger x0 x1 s) := by
  unfold trigger
  repeat' first
    | with_reducible exact Within.refl _ _
    | with_reducible apply Within.step checkWait_within rfl
    | with_reducible apply Within.step triggerOnly_within rfl

theorem raiseCaps_within {x0 x1 x2 x3 s} : Within [.hdrs, .vecs] s (raiseCaps x0 x1 x2 x3 s) := by
  unfold raiseCaps
  repeat' first
    | with_reducible exact Within.refl _ _
    | with_reducible apply Within.step trigger_within rfl
    | with_reducible apply Within.step setEvt_within rfl
    | with_reducible apply Within.ite <;> intro _
    | with_reducible exact id
    | with_reducible exact Nat.le_refl _
    | (refine fun (p : Part) hp => ?_; cases p <;> first | (cases hp; done) | with_reducible rfl)
    | split
    | (dsimp only; split)
    | with_reducible apply Within.leaf

theorem raise_within {x0 x1 x2 x3 s} : Within [.hdrs, .vecs] s (raise x0 x1 x2 x3 s) :=
  raiseCaps_within.mono rfl

theorem raiseN_within {x0 x1 x2 s} : Within [.hdrs, .vecs] s (raiseN x0 x1 x2 s) :=
  raise_within.mono rfl

theorem clearEvt_within {x0 x1 s} : Within [.hdrs] s (clearEvt x0 x1 s) := by
  unfold clearEvt
  repeat' first
    | with_reducible exact Within.refl _ _
    | with_reducible apply Within.step modHdr_within rfl
    | with_reducible exact id
    | with_reducible exact Nat.le_refl _
    | (refine fun (p : Part) hp => ?_; cases p <;> first | (cases hp; done) | with_reducible rfl)
    | with_reducible apply Within.leaf

theorem safeEvt_within {x0 x1 x2 x3 s} : Within [.hdrs, .vecs] s (safeEvt x0 x1 x2 x3 s) :=
  raise_within.mono rfl

theorem logEvent_within {x0 x1 x2 x3 x4 x5 s} : Within [.hdrs, .vecs, .safe] s (logEvent x0 x1 x2 x3 x4 x5 s) := by
  unfold logEvent
  repeat' first
    | with_reducible assumption
    | with_reducible exact Within.refl _ _
    | with_reducible apply Within.step safeEvt_within rfl
    | with_reducible apply onlyIf_within
    | with_reducible apply Within.ite <;> intro _
    | with_reducible exact id
    | with_reducible exact Nat.le_refl _
    | (refine fun (p : Part) hp => ?_; cases p <;> first | (cases hp; done) | with_reducible rfl)
    | intro x t h
    | intro t h
    | with_reducible apply Within.leaf

/-! ### Frame -/

theorem putRaw_within {x0 x1 x2 x3 s} : Within [.mem] s (putRaw x0 x1 x2 x3 s) := by
  unfold putRaw
  refine Within.leaf (Within.refl _ _) ?_ (Nat.le_refl _) (Nat.le_refl _) (fun h => memWriteList_wf (memWriteList_wf h)) id
  intro p hp
  cases p <;> first | (cases hp; done) | with_reducible rfl

theorem putLine_within {x0 x1 x2 s} : Within [.mem] s (putLine x0 x1 x2 s) :=
  putRaw_within.mono rfl

theorem putPoison_within {x0 x1 s} : Within [.mem] s (putPoison x0 x1 s) :=
  putRaw_within.mono rfl

theorem setRec_within {x0 x1 x2 s} : Within [.recs] s (setRec x0 x1 x2 s) := by
  unfold setRec
  repeat' first
    | with_reducible exact Within.refl _ _
    | with_reducible exact id
    | with_reducible exact Nat.le_refl _
    | (refine fun (p : Part) hp => ?_; cases p <;> first | (cases hp; done) | with_reducible rfl)
    | with_reducible apply Within.leaf

theorem dirtyRec_within {x0 x1 s} : Within [.chans] s (dirtyRec x0 x1 s) := by
  unfold dirtyRec
  repeat' first
    | with_reducible exact Within.refl _ _
    | with_reducible apply Within.step modChan_within rfl
    | with_reducible apply Within.ite <;> intro _
    | with_reducible exact id
    | with_reducible exact Nat.le_refl _
    | (refine fun (p : Part) hp => ?_; cases p <;> first | (cases hp; done) | with_reducible rfl)
    | with_reducible apply Within.leaf

theorem changeRec_within {x0 x1 x2 s} : Within [.chans, .recs] s (changeRec x0 x1 x2 s) := by
  unfold changeRec
  repeat' first
    | with_reducible exact Within.refl _ _
    | with_reducible apply Within.step dirtyRec_within rfl
    | with_reducible apply Within.step setRec_within rfl

theorem mapCopyRecs_within {x0 x1 x2 s} : Within [.chans, .recs] s (mapCopyRecs x0 x1 x2 s) := by
  unfold mapCopyRecs
  repeat' first
    | with_reducible assumption
    | with_reducible exact Within.refl _ _
    | with_reducible apply Within.step changeRec_within rfl
    | with_reducible apply forAll_within
    | with_reducible exact id
    | with_reducible exact Nat.le_refl _
    | (refine fun (p : Part) hp => ?_; cases p <;> first | (cases hp; done) | with_reducible rfl)
    | intro x t h
    | intro t h
    | split
    | (dsimp only; split)
    | with_reducible apply Within.leaf

theorem openCopy_within {x0 x1 s} : Within [.chans, .recs, .regions] s (openCopy x0 x1 s) := by
  unfold openCopy
  repeat' first
    | with_reducible exact Within.refl _ _
    | with_reducible apply Within.step setRegion_within rfl
    | with_reducible apply Within.step mapCopyRecs_within rfl
    | with_reducible exact id
    | with_reducible exact Nat.le_refl _
    | (refine fun (p : Part) hp => ?_; cases p <;> first | (cases hp; done) | with_reducible rfl)
    | with_reducible apply Within.leaf

theorem pinCopy_within {x0 x1 x2 s} : Within [.regions] s (pinCopy x0 x1 x2 s) := by
  unfold pinCopy
  repeat' first
    | with_reducible exact Within.refl _ _
    | with_reducible apply Within.step modRegion_within rfl
    | with_reducible apply Within.ite <;> intro _
    | with_reducible exact id
    | with_reducible exact Nat.le_refl _
    | (refine fun (p : Part) hp => ?_; cases p <;> first | (cases hp; done) | with_reducible rfl)
    | with_reducible apply Within.leaf

theorem rgnEvt_within {x0 x1 s} : Within [.hdrs, .vecs] s (rgnEvt x0 x1 s) :=
  raise_within.mono rfl

theorem kpSingleOne_within {x0 x1 s} : Within [.hdrs, .regions, .vecs] s (kpSingleOne x0 x1 s) := by
  unfold kpSingleOne
  repeat' first
    | with_reducible exact Within.refl _ _
    | with_reducible apply Within.step rgnEvt_within rfl
    | with_reducible apply Within.step setRegion_within rfl
    | with_reducible apply Within.ite <;> intro _
    | with_reducible exact id
    | with_reducible exact Nat.le_refl _
    | (refine fun (p : Part) hp => ?_; cases p <;> first | (cases hp; done) | with_reducible rfl)
    | with_reducible apply Within.leaf

theorem kpSingle_within {x0 s} : Within [.hdrs, .regions, .vecs] s (kpSingle x0 s) := by
  unfold kpSingle
  repeat' first
    | with_reducible assumption
    | with_reducible exact Within.refl _ _
    | with_reducible apply Within.step kpSingleOne_within rfl
    | with_reducible apply forAll_within
    | intro x t h
    | intro t h

theorem kpReturnOne_within {x0 s} : Within [.regions] s (kpReturnOne x0 s) := by
  unfold kpReturnOne
  repeat' first
    | with_reducible exact Within.refl _ _
    | with_reducible apply Within.step setRegion_within rfl
    | with_reducible apply Within.ite <;> intro _
    | with_reducible exact id
    | with_reducible exact Nat.le_refl _
    | (refine fun (p : Part) hp => ?_; cases p <;> first | (cases hp; done) | with_reducible rfl)
    | with_reducible apply Within.leaf

theorem kpReturn_within {s} : Within [.regions] s (kpReturn s) := by
  unfold kpReturn
  repeat' first
    | with_reducible assumption
    | with_reducible exact Within.refl _ _
    | with_reducible apply Within.step kpReturnOne_within rfl
    | with_reducible apply forAll_within
    | intro x t h
    | intro t h

/-! ### Egress -/

theorem notUp_within {x0 x1 s} : Within [.links] s (notUp x0 x1 s) := by
  unfold notUp
  repeat' first
    | with_reducible assumption
    | with_reducible exact Within.refl _ _
    | with_reducible apply Within.step modLink_within rfl
    | with_reducible apply onlyIf_within
    | with_reducible exact id
    | with_reducible exact Nat.le_refl _
    | (refine fun (p : Part) hp => ?_; cases p <;> first | (cases hp; done) | with_reducible rfl)
    | intro x t h
    | intro t h
    | split
    | (dsimp only; split)
    | with_reducible apply Within.leaf

theorem queueMsg_within {x0 x1 s} : Within [.links] s (queueMsg x0 x1 s) := by
  unfold queueMsg
  repeat' first
    | with_reducible exact Within.refl _ _
    | with_reducible apply Within.step modLink_within rfl
    | with_reducible apply Within.step notUp_within rfl
    | with_reducible apply Within.ite <;> intro _
    | with_reducible exact id
    | with_reducible exact Nat.le_refl _
    | (refine fun (p : Part) hp => ?_; cases p <;> first | (cases hp; done) | with_reducible rfl)
    | with_reducible apply Within.leaf

theorem sendMsg_within {x0 x1 x2 x3 s} : Within [.links] s (sendMsg x0 x1 x2 x3 s) :=
  queueMsg_within.mono rfl

theorem hpEvt_within {x0 x1 x2 x3 x4 s} : Within [.hdrs, .vecs] s (hpEvt x0 x1 x2 x3 x4 s) :=
  raiseCaps_within.mono rfl

theorem laneEvt_within {x0 x1 x2 s} : Within [.hdrs, .vecs] s (laneEvt x0 x1 x2 s) :=
  raiseCaps_within.mono rfl

theorem countRefused_within {x0 x1 s} : Within [.flds] s (countRefused x0 x1 s) := by
  unfold countRefused
  repeat' first
    | with_reducible exact Within.refl _ _
    | with_reducible apply Within.step fbump_within rfl
    | with_reducible exact id
    | with_reducible exact Nat.le_refl _
    | (refine fun (p : Part) hp => ?_; cases p <;> first | (cases hp; done) | with_reducible rfl)
    | split
    | (dsimp only; split)
    | with_reducible apply Within.leaf

theorem countSent_within {x0 x1 s} : Within [.flds] s (countSent x0 x1 s) := by
  unfold countSent
  repeat' first
    | with_reducible assumption
    | with_reducible exact Within.refl _ _
    | with_reducible apply Within.step fbump_within rfl
    | with_reducible apply onlyIf_within
    | intro x t h
    | intro t h

theorem complete_within {x0 x1 x2 x3 x4 x5 x6 s} : Within [.flds, .links] s (complete x0 x1 x2 x3 x4 x5 x6 s) := by
  unfold complete
  repeat' first
    | with_reducible assumption
    | with_reducible exact Within.refl _ _
    | with_reducible apply Within.step sendMsg_within rfl
    | with_reducible apply Within.step countSent_within rfl
    | with_reducible apply onlyIf_within
    | intro x t h
    | intro t h

theorem completeData_within {x0 x1 x2 x3 x4 x5 x6 s} : Within [.links] s (completeData x0 x1 x2 x3 x4 x5 x6 s) :=
  sendMsg_within.mono rfl

theorem completeReg_within {x0 x1 x2 s} : Within [.links] s (completeReg x0 x1 x2 s) :=
  sendMsg_within.mono rfl

theorem refuseNP_within {x0 x1 x2 x3 x4 x5 x6 s} : Within [.flds, .links] s (refuseNP x0 x1 x2 x3 x4 x5 x6 s) := by
  unfold refuseNP
  repeat' first
    | with_reducible exact Within.refl _ _
    | with_reducible apply Within.step complete_within rfl
    | with_reducible apply Within.step countRefused_within rfl

theorem dropPosted_within {x0 x1 x2 s} : Within [.hdrs, .flds, .vecs] s (dropPosted x0 x1 x2 s) := by
  unfold dropPosted
  repeat' first
    | with_reducible exact Within.refl _ _
    | with_reducible apply Within.step hpEvt_within rfl
    | with_reducible apply Within.step fbump_within rfl
    | with_reducible apply Within.step countRefused_within rfl

theorem dropDoorbell_within {x0 x1 s} : Within [.hdrs, .flds, .vecs] s (dropDoorbell x0 x1 s) := by
  unfold dropDoorbell
  repeat' first
    | with_reducible exact Within.refl _ _
    | with_reducible apply Within.step hpEvt_within rfl
    | with_reducible apply Within.step fbump_within rfl

theorem standbyRefused_within {x0 s} : Within [.flds, .links] s (standbyRefused x0 s) := by
  unfold standbyRefused
  repeat' first
    | with_reducible exact Within.refl _ _
    | with_reducible apply Within.step fbump_within rfl
    | with_reducible apply Within.step modLink_within rfl
    | with_reducible exact id
    | with_reducible exact Nat.le_refl _
    | (refine fun (p : Part) hp => ?_; cases p <;> first | (cases hp; done) | with_reducible rfl)
    | split
    | (dsimp only; split)
    | with_reducible apply Within.leaf

theorem heard_within {x0 s} : Within [.flds, .links] s (heard x0 s) := by
  unfold heard
  repeat' first
    | with_reducible exact Within.refl _ _
    | with_reducible apply Within.step modLink_within rfl
    | with_reducible apply Within.step standbyRefused_within rfl
    | with_reducible exact id
    | with_reducible exact Nat.le_refl _
    | (refine fun (p : Part) hp => ?_; cases p <;> first | (cases hp; done) | with_reducible rfl)
    | with_reducible apply Within.leaf

theorem arrives_within {P r x0 f s} (hf : ∀ t, Within P r t → Within P r (f t)) (hm : [.flds, .links].all P.contains = true)
    (k : Within P r s) : Within P r (arrives x0 f s) := by
  unfold arrives
  repeat' first
    | with_reducible assumption
    | with_reducible exact Within.refl _ _
    | with_reducible apply hf
    | with_reducible apply Within.step heard_within (all_contains_trans (R := [.flds, .links]) rfl hm)
    | with_reducible apply Within.ite <;> intro _
    | intro x t h
    | intro t h

theorem useTag_within {x0 x1 s} : Within [.links] s (useTag x0 x1 s) := by
  unfold useTag
  repeat' first
    | with_reducible exact Within.refl _ _
    | with_reducible apply Within.step modLink_within rfl
    | with_reducible exact id
    | with_reducible exact Nat.le_refl _
    | (refine fun (p : Part) hp => ?_; cases p <;> first | (cases hp; done) | with_reducible rfl)
    | with_reducible apply Within.leaf

theorem tagError_within {x0 x1 x2 s} : Within [.hdrs, .vecs] s (tagError x0 x1 x2 s) :=
  hpEvt_within.mono rfl

theorem qEvt_within {x0 x1 x2 s} : Within [.hdrs, .vecs] s (qEvt x0 x1 x2 s) := by
  unfold qEvt
  repeat' first
    | with_reducible exact Within.refl _ _
    | with_reducible apply Within.step raise_within rfl
    | with_reducible apply Within.ite <;> intro _

theorem queueError_within {x0 x1 s} : Within [.hdrs, .queues, .vecs] s (queueError x0 x1 s) := by
  unfold queueError
  repeat' first
    | with_reducible exact Within.refl _ _
    | with_reducible apply Within.step qEvt_within rfl
    | with_reducible apply Within.step modQueue_within rfl
    | with_reducible exact id
    | with_reducible exact Nat.le_refl _
    | (refine fun (p : Part) hp => ?_; cases p <;> first | (cases hp; done) | with_reducible rfl)
    | with_reducible apply Within.leaf

theorem queueRefused_within {x0 s} : Within [.hdrs, .queues, .vecs] s (queueRefused x0 s) := by
  unfold queueRefused
  repeat' first
    | with_reducible exact Within.refl _ _
    | with_reducible apply Within.step qEvt_within rfl
    | with_reducible apply Within.step modQueue_within rfl
    | with_reducible exact id
    | with_reducible exact Nat.le_refl _
    | (refine fun (p : Part) hp => ?_; cases p <;> first | (cases hp; done) | with_reducible rfl)
    | with_reducible apply Within.leaf

theorem modJob_within {x0 x1 x2 s} : Within [.jobs] s (modJob x0 x1 x2 s) := by
  unfold modJob
  repeat' first
    | with_reducible exact Within.refl _ _
    | with_reducible apply Within.ite <;> intro _
    | with_reducible exact id
    | with_reducible exact Nat.le_refl _
    | (refine fun (p : Part) hp => ?_; cases p <;> first | (cases hp; done) | with_reducible rfl)
    | with_reducible apply Within.leaf

theorem endJob_within {x0 x1 x2 x3 s} : Within [.accs, .commits, .regions, .jobs, .groups] s (endJob x0 x1 x2 x3 s) := by
  unfold endJob
  repeat' first
    | with_reducible assumption
    | with_reducible exact Within.refl _ _
    | with_reducible apply Within.step pinCopy_within rfl
    | with_reducible apply Within.step modJob_within rfl
    | with_reducible apply forAll_within
    | with_reducible apply Within.ite <;> intro _
    | with_reducible exact id
    | with_reducible exact Nat.le_refl _
    | (refine fun (p : Part) hp => ?_; cases p <;> first | (cases hp; done) | with_reducible rfl)
    | intro x t h
    | intro t h
    | split
    | (dsimp only; split)
    | with_reducible apply Within.leaf

theorem ringReply_within {x0 x1 s} : Within [.links] s (ringReply x0 x1 s) :=
  sendMsg_within.mono rfl

theorem kpwSettle_within {x0 s} : Within [.ring] s (kpwSettle x0 s) := by
  unfold kpwSettle
  repeat' first
    | with_reducible exact Within.refl _ _
    | with_reducible apply Within.ite <;> intro _
    | with_reducible exact id
    | with_reducible exact Nat.le_refl _
    | (refine fun (p : Part) hp => ?_; cases p <;> first | (cases hp; done) | with_reducible rfl)
    | with_reducible apply Within.leaf

theorem endAcc_within {x0 x1 x2 s} : Within [.hdrs, .flds, .links, .accs, .jobs, .vecs, .ring] s (endAcc x0 x1 x2 s) := by
  unfold endAcc
  repeat' first
    | with_reducible exact Within.refl _ _
    | with_reducible apply Within.step complete_within rfl
    | with_reducible apply Within.step refuseNP_within rfl
    | with_reducible apply Within.step dropPosted_within rfl
    | with_reducible apply Within.step ringReply_within rfl
    | with_reducible apply Within.step kpwSettle_within rfl
    | with_reducible apply Within.step modJob_within rfl
    | with_reducible apply Within.ite <;> intro _
    | with_reducible exact id
    | with_reducible exact Nat.le_refl _
    | (refine fun (p : Part) hp => ?_; cases p <;> first | (cases hp; done) | with_reducible rfl)
    | split
    | (dsimp only; split)
    | with_reducible apply Within.leaf

theorem ringBell_within {x0 x1 s} : Within [.hdrs, .queues, .vecs] s (ringBell x0 x1 s) := by
  unfold ringBell
  repeat' first
    | with_reducible exact Within.refl _ _
    | with_reducible apply Within.step setQueue_within rfl
    | with_reducible apply Within.step queueError_within rfl
    | with_reducible apply Within.ite <;> intro _
    | with_reducible exact id
    | with_reducible exact Nat.le_refl _
    | (refine fun (p : Part) hp => ?_; cases p <;> first | (cases hp; done) | with_reducible rfl)
    | with_reducible apply Within.leaf

theorem doorbellActs_within {x0 s} : Within [.hdrs, .flds, .queues, .vecs] s (doorbellActs x0 s) := by
  unfold doorbellActs
  repeat' first
    | with_reducible exact Within.refl _ _
    | with_reducible apply Within.step dropDoorbell_within rfl
    | with_reducible apply Within.step ringBell_within rfl
    | with_reducible apply Within.ite <;> intro _

theorem releaseBells_within {s} : Within [.hdrs, .flds, .queues, .bells, .vecs] s (releaseBells s) := by
  unfold releaseBells
  repeat' first
    | with_reducible assumption
    | with_reducible exact Within.refl _ _
    | with_reducible apply Within.step doorbellActs_within rfl
    | with_reducible apply forAll_within
    | with_reducible exact id
    | with_reducible exact Nat.le_refl _
    | (refine fun (p : Part) hp => ?_; cases p <;> first | (cases hp; done) | with_reducible rfl)
    | intro x t h
    | intro t h
    | with_reducible apply Within.leaf

theorem dropPins_within {x0 s} : Within [.accs, .jobs] s (dropPins x0 s) := by
  unfold dropPins
  repeat' first
    | with_reducible exact Within.refl _ _
    | with_reducible apply Within.ite <;> intro _
    | with_reducible exact id
    | with_reducible exact Nat.le_refl _
    | (refine fun (p : Part) hp => ?_; cases p <;> first | (cases hp; done) | with_reducible rfl)
    | with_reducible apply Within.leaf

theorem discardCommit_within {x0 s} : Within [.flds, .links, .jobs] s (discardCommit x0 s) := by
  unfold discardCommit
  repeat' first
    | with_reducible exact Within.refl _ _
    | with_reducible apply Within.step refuseNP_within rfl
    | with_reducible apply Within.ite <;> intro _
    | with_reducible exact id
    | with_reducible exact Nat.le_refl _
    | (refine fun (p : Part) hp => ?_; cases p <;> first | (cases hp; done) | with_reducible rfl)
    | split
    | (dsimp only; split)
    | with_reducible apply Within.leaf

theorem ringLost_within {x0 x1 s} : Within [.hdrs, .queues, .vecs] s (ringLost x0 x1 s) := by
  unfold ringLost
  repeat' first
    | with_reducible exact Within.refl _ _
    | with_reducible apply Within.step queueError_within rfl
    | with_reducible apply Within.ite <;> intro _

theorem disableRegion_within {x0 s} : Within [.hdrs, .flds, .links, .accs, .commits, .regions, .queues, .jobs, .bells, .vecs, .ring] s (disableRegion x0 s) := by
  unfold disableRegion
  repeat' first
    | with_reducible assumption
    | with_reducible exact Within.refl _ _
    | with_reducible apply Within.step discardCommit_within rfl
    | with_reducible apply Within.step ringLost_within rfl
    | with_reducible apply Within.step endAcc_within rfl
    | with_reducible apply Within.step releaseBells_within rfl
    | with_reducible apply Within.step dropPins_within rfl
    | with_reducible apply Within.step setRegion_within rfl
    | with_reducible apply forAll_within
    | with_reducible apply Within.ite <;> intro _
    | with_reducible exact id
    | with_reducible exact Nat.le_refl _
    | (refine fun (p : Part) hp => ?_; cases p <;> first | (cases hp; done) | with_reducible rfl)
    | intro x t h
    | intro t h
    | with_reducible apply Within.leaf

theorem disableAll_within {s} : Within [.hdrs, .flds, .links, .accs, .commits, .regions, .queues, .jobs, .bells, .vecs, .ring] s (disableAll s) := by
  unfold disableAll
  repeat' first
    | with_reducible assumption
    | with_reducible exact Within.refl _ _
    | with_reducible apply Within.step disableRegion_within rfl
    | with_reducible apply forAll_within
    | intro x t h
    | intro t h

/-! ### RingOps -/

theorem ringEvt_within {x0 x1 s} : Within [.hdrs, .vecs] s (ringEvt x0 x1 s) :=
  raiseCaps_within.mono rfl

theorem ringSendAs_within {x0 x1 x2 s} : Within [.links] s (ringSendAs x0 x1 x2 s) := by
  unfold ringSendAs
  repeat' first
    | with_reducible exact Within.refl _ _
    | with_reducible apply Within.step queueMsg_within rfl
    | with_reducible exact id
    | with_reducible exact Nat.le_refl _
    | (refine fun (p : Part) hp => ?_; cases p <;> first | (cases hp; done) | with_reducible rfl)
    | split
    | (dsimp only; split)
    | with_reducible apply Within.leaf

theorem ringSend_within {x0 x1 s} : Within [.links] s (ringSend x0 x1 s) :=
  ringSendAs_within.mono rfl

theorem ackMirrored_within {x0 s} : Within [.flds, .links, .accs] s (ackMirrored x0 s) := by
  unfold ackMirrored
  repeat' first
    | with_reducible exact Within.refl _ _
    | with_reducible apply Within.step complete_within rfl
    | with_reducible exact id
    | with_reducible exact Nat.le_refl _
    | (refine fun (p : Part) hp => ?_; cases p <;> first | (cases hp; done) | with_reducible rfl)
    | split
    | (dsimp only; split)
    | with_reducible apply Within.leaf

theorem dropKpw_within {x0 s} : Within [.flds, .links, .accs, .ring] s (dropKpw x0 s) := by
  unfold dropKpw
  repeat' first
    | with_reducible assumption
    | with_reducible exact Within.refl _ _
    | with_reducible apply Within.step ackMirrored_within rfl
    | with_reducible apply forAll_within
    | with_reducible apply Within.ite <;> intro _
    | with_reducible exact id
    | with_reducible exact Nat.le_refl _
    | (refine fun (p : Part) hp => ?_; cases p <;> first | (cases hp; done) | with_reducible rfl)
    | intro x t h
    | intro t h
    | with_reducible apply Within.leaf

theorem detachMirror_within {x0 s} : Within [.hdrs, .flds, .links, .accs, .vecs, .ring] s (detachMirror x0 s) := by
  unfold detachMirror
  repeat' first
    | with_reducible exact Within.refl _ _
    | with_reducible apply Within.step ringEvt_within rfl
    | with_reducible apply Within.step setMirror_within rfl
    | with_reducible apply Within.step dropKpw_within rfl
    | with_reducible exact id
    | with_reducible exact Nat.le_refl _
    | (refine fun (p : Part) hp => ?_; cases p <;> first | (cases hp; done) | with_reducible rfl)
    | with_reducible apply Within.leaf

theorem sendKpwAs_within {x0 x1 x2 x3 x4 x5 x6 s} : Within [.links, .ring] s (sendKpwAs x0 x1 x2 x3 x4 x5 x6 s) := by
  unfold sendKpwAs
  repeat' first
    | with_reducible exact Within.refl _ _
    | with_reducible apply Within.step ringSendAs_within rfl
    | with_reducible exact id
    | with_reducible exact Nat.le_refl _
    | (refine fun (p : Part) hp => ?_; cases p <;> first | (cases hp; done) | with_reducible rfl)
    | with_reducible apply Within.leaf

theorem sendKpw_within {x0 x1 x2 x3 x4 x5 s} : Within [.links, .ring] s (sendKpw x0 x1 x2 x3 x4 x5 s) := by
  unfold sendKpw
  repeat' first
    | with_reducible assumption
    | with_reducible exact Within.refl _ _
    | with_reducible apply Within.step sendKpwAs_within rfl
    | with_reducible apply onlyIf_within
    | intro x t h
    | intro t h

theorem markDirty_within {x0 s} : Within [.ring] s (markDirty x0 s) := by
  unfold markDirty
  repeat' first
    | with_reducible assumption
    | with_reducible exact Within.refl _ _
    | with_reducible apply onlyIf_within
    | with_reducible exact id
    | with_reducible exact Nat.le_refl _
    | (refine fun (p : Part) hp => ?_; cases p <;> first | (cases hp; done) | with_reducible rfl)
    | intro x t h
    | intro t h
    | with_reducible apply Within.leaf

theorem hoAbortLocal_within {x0 s} : Within [.hdrs, .flds, .links, .accs, .commits, .regions, .queues, .jobs, .bells, .vecs, .ring] s (hoAbortLocal x0 s) := by
  unfold hoAbortLocal
  repeat' first
    | with_reducible assumption
    | with_reducible exact Within.refl _ _
    | with_reducible apply Within.step disableAll_within rfl
    | with_reducible apply Within.step ringEvt_within rfl
    | with_reducible apply onlyIf_within
    | with_reducible exact id
    | with_reducible exact Nat.le_refl _
    | (refine fun (p : Part) hp => ?_; cases p <;> first | (cases hp; done) | with_reducible rfl)
    | intro x t h
    | intro t h
    | with_reducible apply Within.leaf

theorem hoAbort_within {x0 s} : Within [.hdrs, .flds, .links, .accs, .commits, .regions, .queues, .jobs, .bells, .vecs, .ring] s (hoAbort x0 s) := by
  unfold hoAbort
  repeat' first
    | with_reducible exact Within.refl _ _
    | with_reducible apply Within.step hoAbortLocal_within rfl
    | with_reducible apply Within.step ringSend_within rfl
    | with_reducible apply Within.ite <;> intro _

/-! ### Fault -/

theorem assertFault_within {s} : Within [.safe] s (assertFault s) := by
  unfold assertFault
  repeat' first
    | with_reducible exact Within.refl _ _
    | with_reducible exact id
    | with_reducible exact Nat.le_refl _
    | (refine fun (p : Part) hp => ?_; cases p <;> first | (cases hp; done) | with_reducible rfl)
    | with_reducible apply Within.leaf

theorem enterSafe_within {x0 x1 x2 s} : Within [.hdrs, .flds, .links, .accs, .commits, .regions, .queues, .jobs, .bells, .vecs, .ring, .safe] s (enterSafe x0 x1 x2 s) := by
  unfold enterSafe
  repeat' first
    | with_reducible exact Within.refl _ _
    | with_reducible apply Within.step fset_within rfl
    | with_reducible apply Within.step hoAbort_within rfl
    | with_reducible apply Within.step assertFault_within rfl
    | with_reducible apply Within.ite <;> intro _
    | with_reducible exact id
    | with_reducible exact Nat.le_refl _
    | (refine fun (p : Part) hp => ?_; cases p <;> first | (cases hp; done) | with_reducible rfl)
    | with_reducible apply Within.leaf

theorem safeFault_within {x0 x1 x2 s} : Within [.hdrs, .flds, .links, .accs, .commits, .regions, .queues, .jobs, .bells, .vecs, .ring, .safe] s (safeFault x0 x1 x2 s) := by
  unfold safeFault
  repeat' first
    | with_reducible exact Within.refl _ _
    | with_reducible apply Within.step logEvent_within rfl
    | with_reducible apply Within.step enterSafe_within rfl
    | with_reducible apply Within.ite <;> intro _

theorem deviceFault_within {x0 x1 x2 s} : Within [.hdrs, .flds, .links, .accs, .commits, .regions, .queues, .jobs, .bells, .vecs, .ring, .safe] s (deviceFault x0 x1 x2 s) := by
  unfold deviceFault
  repeat' first
    | with_reducible exact Within.refl _ _
    | with_reducible apply Within.step logEvent_within rfl
    | with_reducible apply Within.step safeFault_within rfl
    | with_reducible apply Within.ite <;> intro _

theorem scopeReport_within {x0 x1 x2 x3 x4 x5 x6 s} : Within [.hdrs, .flds, .vecs, .safe] s (scopeReport x0 x1 x2 x3 x4 x5 x6 s) := by
  unfold scopeReport
  repeat' first
    | with_reducible exact Within.refl _ _
    | with_reducible apply Within.step safeEvt_within rfl
    | with_reducible apply Within.step fbump_within rfl
    | with_reducible apply Within.step logEvent_within rfl

theorem bayEvt_within {x0 x1 x2 s} : Within [.hdrs, .vecs] s (bayEvt x0 x1 x2 s) :=
  raise_within.mono rfl

theorem bayFault_within {x0 x1 s} : Within [.hdrs, .flds, .vecs] s (bayFault x0 x1 s) := by
  unfold bayFault
  repeat' first
    | with_reducible exact Within.refl _ _
    | with_reducible apply Within.step bayEvt_within rfl
    | with_reducible apply Within.step fbump_within rfl

theorem discardAcc_within {x0 x1 s} : Within [.flds, .links, .accs, .regions] s (discardAcc x0 x1 s) := by
  unfold discardAcc
  repeat' first
    | with_reducible assumption
    | with_reducible exact Within.refl _ _
    | with_reducible apply Within.step pinCopy_within rfl
    | with_reducible apply Within.step complete_within rfl
    | with_reducible apply onlyIf_within
    | with_reducible exact id
    | with_reducible exact Nat.le_refl _
    | (refine fun (p : Part) hp => ?_; cases p <;> first | (cases hp; done) | with_reducible rfl)
    | intro x t h
    | intro t h
    | split
    | (dsimp only; split)
    | with_reducible apply Within.leaf

theorem scopeAcc_within {x0 s} : Within [.hdrs, .flds, .links, .accs, .commits, .regions, .jobs, .vecs, .groups, .ring] s (scopeAcc x0 s) := by
  unfold scopeAcc
  repeat' first
    | with_reducible exact Within.refl _ _
    | with_reducible apply Within.step endJob_within rfl
    | with_reducible apply Within.step discardAcc_within rfl
    | with_reducible apply Within.step endAcc_within rfl
    | with_reducible exact id
    | with_reducible exact Nat.le_refl _
    | (refine fun (p : Part) hp => ?_; cases p <;> first | (cases hp; done) | with_reducible rfl)
    | split
    | (dsimp only; split)
    | with_reducible apply Within.leaf

theorem discardReads_within {x0 s} : Within [.hdrs, .flds, .links, .accs, .commits, .chans, .regions, .jobs, .vecs, .groups, .ring] s (discardReads x0 s) := by
  unfold discardReads
  repeat' first
    | with_reducible assumption
    | with_reducible exact Within.refl _ _
    | with_reducible apply Within.step scopeAcc_within rfl
    | with_reducible apply Within.step modChan_within rfl
    | with_reducible apply Within.step endJob_within rfl
    | with_reducible apply forAll_within
    | with_reducible exact id
    | with_reducible exact Nat.le_refl _
    | (refine fun (p : Part) hp => ?_; cases p <;> first | (cases hp; done) | with_reducible rfl)
    | intro x t h
    | intro t h
    | with_reducible apply Within.leaf

theorem chEvt_within {x0 x1 x2 x3 s} : Within [.hdrs, .vecs] s (chEvt x0 x1 x2 x3 s) :=
  raise_within.mono rfl

theorem dspEvt_within {x0 x1 x2 s} : Within [.hdrs, .vecs] s (dspEvt x0 x1 x2 s) :=
  raiseCaps_within.mono rfl

theorem dspAdvance_within {s} : Within [.flds, .chans] s (dspAdvance s) := by
  unfold dspAdvance
  repeat' first
    | with_reducible assumption
    | with_reducible exact Within.refl _ _
    | with_reducible apply Within.step fset_within rfl
    | with_reducible apply onlyIf_within
    | with_reducible exact id
    | with_reducible exact Nat.le_refl _
    | (refine fun (p : Part) hp => ?_; cases p <;> first | (cases hp; done) | with_reducible rfl)
    | intro x t h
    | intro t h
    | with_reducible apply Within.leaf

theorem dspFailed_within {x0 s} : Within [.hdrs, .flds, .chans, .vecs, .pll] s (dspFailed x0 s) := by
  unfold dspFailed
  repeat' first
    | with_reducible exact Within.refl _ _
    | with_reducible apply Within.step dspAdvance_within rfl
    | with_reducible apply Within.step dspEvt_within rfl
    | with_reducible exact id
    | with_reducible exact Nat.le_refl _
    | (refine fun (p : Part) hp => ?_; cases p <;> first | (cases hp; done) | with_reducible rfl)
    | with_reducible apply Within.leaf

theorem failChannel_within {x0 x1 x2 s} : Within [.hdrs, .flds, .links, .accs, .commits, .chans, .regions, .queues, .jobs, .bells, .vecs, .groups, .pll, .ring, .safe] s (failChannel x0 x1 x2 s) := by
  unfold failChannel
  repeat' first
    | with_reducible assumption
    | with_reducible exact Within.refl _ _
    | with_reducible apply Within.step logEvent_within rfl
    | with_reducible apply Within.step discardReads_within rfl
    | with_reducible apply Within.step kpSingle_within rfl
    | with_reducible apply Within.step modChan_within rfl
    | with_reducible apply Within.step scopeReport_within rfl
    | with_reducible apply Within.step chEvt_within rfl
    | with_reducible apply Within.step dspFailed_within rfl
    | with_reducible apply Within.step hoAbort_within rfl
    | with_reducible apply Within.step bayFault_within rfl
    | with_reducible apply onlyIf_within
    | with_reducible apply Within.ite <;> intro _
    | with_reducible exact id
    | with_reducible exact Nat.le_refl _
    | (refine fun (p : Part) hp => ?_; cases p <;> first | (cases hp; done) | with_reducible rfl)
    | intro x t h
    | intro t h
    | split
    | (dsimp only; split)
    | with_reducible apply Within.leaf

theorem kpFailure_within {x0 x1 s} : Within [.hdrs, .flds, .links, .accs, .commits, .regions, .queues, .jobs, .bells, .vecs, .ring, .safe] s (kpFailure x0 x1 s) := by
  unfold kpFailure
  repeat' first
    | with_reducible exact Within.refl _ _
    | with_reducible apply Within.step rgnEvt_within rfl
    | with_reducible apply Within.step safeEvt_within rfl
    | with_reducible apply Within.step logEvent_within rfl
    | with_reducible apply Within.step enterSafe_within rfl
    | with_reducible apply Within.ite <;> intro _

theorem jgEvt_within {x0 x1 x2 x3 s} : Within [.hdrs, .vecs] s (jgEvt x0 x1 x2 x3 s) :=
  raise_within.mono rfl

theorem fencePair_within {x0 x1 s} : Within [.hdrs, .vecs, .groups] s (fencePair x0 x1 s) := by
  unfold fencePair
  repeat' first
    | with_reducible exact Within.refl _ _
    | with_reducible apply Within.step jgEvt_within rfl
    | with_reducible apply Within.step modGroup_within rfl
    | with_reducible exact id
    | with_reducible exact Nat.le_refl _
    | (refine fun (p : Part) hp => ?_; cases p <;> first | (cases hp; done) | with_reducible rfl)
    | with_reducible apply Within.leaf

theorem dropFetches_within {x0 x1 s} : Within [.accs] s (dropFetches x0 x1 s) := by
  unfold dropFetches
  repeat' first
    | with_reducible exact Within.refl _ _
    | with_reducible exact id
    | with_reducible exact Nat.le_refl _
    | (refine fun (p : Part) hp => ?_; cases p <;> first | (cases hp; done) | with_reducible rfl)
    | split
    | (dsimp only; split)
    | with_reducible apply Within.leaf

theorem discardGroup_within {x0 s} : Within [.accs, .commits, .regions, .jobs, .groups] s (discardGroup x0 s) := by
  unfold discardGroup
  repeat' first
    | with_reducible assumption
    | with_reducible exact Within.refl _ _
    | with_reducible apply Within.step modGroup_within rfl
    | with_reducible apply Within.step dropFetches_within rfl
    | with_reducible apply Within.step endJob_within rfl
    | with_reducible apply forAll_within
    | with_reducible exact id
    | with_reducible exact Nat.le_refl _
    | (refine fun (p : Part) hp => ?_; cases p <;> first | (cases hp; done) | with_reducible rfl)
    | intro x t h
    | intro t h
    | with_reducible apply Within.leaf

theorem groupEmpty_within {x0 s} : Within [.hdrs, .vecs, .groups] s (groupEmpty x0 s) := by
  unfold groupEmpty
  repeat' first
    | with_reducible assumption
    | with_reducible exact Within.refl _ _
    | with_reducible apply Within.step jgEvt_within rfl
    | with_reducible apply Within.step modGroup_within rfl
    | with_reducible apply onlyIf_within
    | with_reducible exact id
    | with_reducible exact Nat.le_refl _
    | (refine fun (p : Part) hp => ?_; cases p <;> first | (cases hp; done) | with_reducible rfl)
    | intro x t h
    | intro t h
    | with_reducible apply Within.leaf

theorem groupFault_within {x0 x1 x2 x3 x4 x5 s} : Within [.hdrs, .flds, .accs, .commits, .regions, .jobs, .vecs, .groups, .safe] s (groupFault x0 x1 x2 x3 x4 x5 s) := by
  unfold groupFault
  repeat' first
    | with_reducible assumption
    | with_reducible exact Within.refl _ _
    | with_reducible apply Within.step logEvent_within rfl
    | with_reducible apply Within.step scopeReport_within rfl
    | with_reducible apply Within.step jgEvt_within rfl
    | with_reducible apply Within.step fbump_within rfl
    | with_reducible apply Within.step discardGroup_within rfl
    | with_reducible apply Within.step modGroup_within rfl
    | with_reducible apply Within.step fencePair_within rfl
    | with_reducible apply onlyIf_within
    | with_reducible apply Within.ite <;> intro _
    | with_reducible exact id
    | with_reducible exact Nat.le_refl _
    | (refine fun (p : Part) hp => ?_; cases p <;> first | (cases hp; done) | with_reducible rfl)
    | intro x t h
    | intro t h
    | with_reducible apply Within.leaf

theorem portFaultReport_within {x0 x1 x2 s} : Within [.hdrs, .flds, .vecs, .safe] s (portFaultReport x0 x1 x2 s) := by
  unfold portFaultReport
  repeat' first
    | with_reducible exact Within.refl _ _
    | with_reducible apply Within.step scopeReport_within rfl
    | with_reducible apply Within.ite <;> intro _

/-! ### Chan -/

theorem wantAlmanac_within {s} : Within [.boot] s (wantAlmanac s) := by
  unfold wantAlmanac
  repeat' first
    | with_reducible exact Within.refl _ _
    | with_reducible exact id
    | with_reducible exact Nat.le_refl _
    | (refine fun (p : Part) hp => ?_; cases p <;> first | (cases hp; done) | with_reducible rfl)
    | with_reducible apply Within.leaf

theorem addCandidate_within {x0 x1 x2 s} : Within [.hdrs, .chans, .vecs] s (addCandidate x0 x1 x2 s) := by
  unfold addCandidate
  repeat' first
    | with_reducible assumption
    | with_reducible exact Within.refl _ _
    | with_reducible apply Within.step setChan_within rfl
    | with_reducible apply Within.step chEvt_within rfl
    | with_reducible apply onlyIf_within
    | with_reducible apply Within.ite <;> intro _
    | with_reducible exact id
    | with_reducible exact Nat.le_refl _
    | (refine fun (p : Part) hp => ?_; cases p <;> first | (cases hp; done) | with_reducible rfl)
    | intro x t h
    | intro t h
    | split
    | (dsimp only; split)
    | with_reducible apply Within.leaf

theorem countCorrected_within {x0 x1 x2 s} : Within [.hdrs, .flds, .chans, .vecs] s (countCorrected x0 x1 x2 s) := by
  unfold countCorrected
  repeat' first
    | with_reducible assumption
    | with_reducible exact Within.refl _ _
    | with_reducible apply Within.step chEvt_within rfl
    | with_reducible apply Within.step fbump_within rfl
    | with_reducible apply Within.step addCandidate_within rfl
    | with_reducible apply Within.step setChan_within rfl
    | with_reducible apply onlyIf_within
    | with_reducible apply Within.ite <;> intro _
    | with_reducible exact id
    | with_reducible exact Nat.le_refl _
    | (refine fun (p : Part) hp => ?_; cases p <;> first | (cases hp; done) | with_reducible rfl)
    | intro x t h
    | intro t h
    | with_reducible apply Within.leaf

theorem countUncor_within {x0 x1 x2 x3 s} : Within [.hdrs, .flds, .links, .accs, .commits, .chans, .regions, .queues, .jobs, .bells, .vecs, .groups, .pll, .ring, .safe] s (countUncor x0 x1 x2 x3 s) := by
  unfold countUncor
  repeat' first
    | with_reducible assumption
    | with_reducible exact Within.refl _ _
    | with_reducible apply Within.step chEvt_within rfl
    | with_reducible apply Within.step fbump_within rfl
    | with_reducible apply Within.step addCandidate_within rfl
    | with_reducible apply Within.step setChan_within rfl
    | with_reducible apply Within.step failChannel_within rfl
    | with_reducible apply onlyIf_within
    | with_reducible apply Within.ite <;> intro _
    | with_reducible exact id
    | with_reducible exact Nat.le_refl _
    | (refine fun (p : Part) hp => ?_; cases p <;> first | (cases hp; done) | with_reducible rfl)
    | intro x t h
    | intro t h
    | with_reducible apply Within.leaf

theorem countDec_within {x0 x1 x2 x3 s} : Within [.hdrs, .flds, .links, .accs, .commits, .chans, .regions, .queues, .jobs, .bells, .vecs, .groups, .pll, .ring, .safe] s (countDec x0 x1 x2 x3 s) := by
  unfold countDec
  repeat' first
    | with_reducible exact Within.refl _ _
    | with_reducible apply Within.step countCorrected_within rfl
    | with_reducible apply Within.step countUncor_within rfl
    | with_reducible exact id
    | with_reducible exact Nat.le_refl _
    | (refine fun (p : Part) hp => ?_; cases p <;> first | (cases hp; done) | with_reducible rfl)
    | split
    | (dsimp only; split)
    | with_reducible apply Within.leaf

theorem touchCheck_within {x0 x1 x2 x3 s} : Within [.chans] s (touchCheck x0 x1 x2 x3 s) :=
  modChan_within.mono rfl

theorem touchRec_within {x0 x1 x2 x3 s} : Within [.chans] s (touchRec x0 x1 x2 x3 s) :=
  modChan_within.mono rfl

theorem putRec_within {x0 x1 x2 x3 s} : Within [.chans, .recs] s (putRec x0 x1 x2 x3 s) := by
  unfold putRec
  repeat' first
    | with_reducible exact Within.refl _ _
    | with_reducible apply Within.step touchRec_within rfl
    | with_reducible apply Within.step setRec_within rfl

theorem wakeChan_within {x0 s} : Within [.chans] s (wakeChan x0 s) := by
  unfold wakeChan
  repeat' first
    | with_reducible exact Within.refl _ _
    | with_reducible apply Within.step modChan_within rfl
    | with_reducible apply Within.ite <;> intro _
    | with_reducible exact id
    | with_reducible exact Nat.le_refl _
    | (refine fun (p : Part) hp => ?_; cases p <;> first | (cases hp; done) | with_reducible rfl)
    | with_reducible apply Within.leaf

theorem admitRead_within {x0 x1 x2 x3 x4 x5 s} : Within [.flds, .nextId, .chans] s (admitRead x0 x1 x2 x3 x4 x5 s) := by
  unfold admitRead
  repeat' first
    | with_reducible exact Within.refl _ _
    | with_reducible apply Within.step wakeChan_within rfl
    | with_reducible apply Within.step modChan_within rfl
    | with_reducible apply Within.step fadd_within rfl
    | with_reducible exact id
    | with_reducible exact Nat.le_refl _
    | (refine fun (p : Part) hp => ?_; cases p <;> first | (cases hp; done) | with_reducible rfl)
    | with_reducible apply Within.leaf

theorem admitWrite_within {x0 x1 x2 s} : Within [.nextId, .chans] s (admitWrite x0 x1 x2 s) := by
  unfold admitWrite
  repeat' first
    | with_reducible assumption
    | with_reducible exact Within.refl _ _
    | with_reducible apply Within.step wakeChan_within rfl
    | with_reducible apply Within.step modChan_within rfl
    | with_reducible apply foldl_within
    | with_reducible apply Within.ite <;> intro _
    | with_reducible exact id
    | with_reducible exact Nat.le_refl _
    | (refine fun (p : Part) hp => ?_; cases p <;> first | (cases hp; done) | with_reducible rfl)
    | intro x t h
    | intro t h
    | split
    | (dsimp only; split)
    | with_reducible apply Within.leaf

theorem modRank_within {x0 x1 x2 s} : Within [.chans] s (modRank x0 x1 x2 s) := by
  unfold modRank
  repeat' first
    | with_reducible exact Within.refl _ _
    | with_reducible apply Within.step modChan_within rfl
    | with_reducible exact id
    | with_reducible exact Nat.le_refl _
    | (refine fun (p : Part) hp => ?_; cases p <;> first | (cases hp; done) | with_reducible rfl)
    | with_reducible apply Within.leaf

theorem refreshPair_within {x0 x1 x2 s} : Within [.chans] s (refreshPair x0 x1 x2 s) := by
  unfold refreshPair
  repeat' first
    | with_reducible exact Within.refl _ _
    | with_reducible apply Within.step modRank_within rfl
    | with_reducible apply Within.step modChan_within rfl
    | with_reducible apply Within.ite <;> intro _
    | with_reducible exact id
    | with_reducible exact Nat.le_refl _
    | (refine fun (p : Part) hp => ?_; cases p <;> first | (cases hp; done) | with_reducible rfl)
    | with_reducible apply Within.leaf

theorem refreshAll_within {x0 x1 s} : Within [.chans] s (refreshAll x0 x1 s) := by
  unfold refreshAll
  repeat' first
    | with_reducible exact Within.refl _ _
    | with_reducible apply Within.step modRank_within rfl
    | with_reducible apply Within.step modChan_within rfl
    | with_reducible exact id
    | with_reducible exact Nat.le_refl _
    | (refine fun (p : Part) hp => ?_; cases p <;> first | (cases hp; done) | with_reducible rfl)
    | with_reducible apply Within.leaf

theorem deliver_within {x0 x1 x2 x3 x4 s} : Within [.accs] s (deliver x0 x1 x2 x3 x4 s) := by
  unfold deliver
  repeat' first
    | with_reducible exact Within.refl _ _
    | with_reducible apply Within.ite <;> intro _
    | with_reducible exact id
    | with_reducible exact Nat.le_refl _
    | (refine fun (p : Part) hp => ?_; cases p <;> first | (cases hp; done) | with_reducible rfl)
    | split
    | (dsimp only; split)
    | with_reducible apply Within.leaf

theorem drainLine_within {x0 x1 s} : Within [.chans, .mem] s (drainLine x0 x1 s) := by
  unfold drainLine
  repeat' first
    | with_reducible exact Within.refl _ _
    | with_reducible apply Within.step touchCheck_within rfl
    | with_reducible apply Within.step putPoison_within rfl
    | with_reducible apply Within.step putLine_within rfl
    | with_reducible apply Within.ite <;> intro _

theorem fetchLine_within {x0 x1 s} : Within [.accs, .chans] s (fetchLine x0 x1 s) := by
  unfold fetchLine
  repeat' first
    | with_reducible exact Within.refl _ _
    | with_reducible apply Within.step touchCheck_within rfl
    | with_reducible apply Within.step deliver_within rfl

theorem issueColumn_within {x0 x1 s} : Within [.accs, .chans, .mem] s (issueColumn x0 x1 s) := by
  unfold issueColumn
  repeat' first
    | with_reducible exact Within.refl _ _
    | with_reducible apply Within.step modChan_within rfl
    | with_reducible apply Within.step drainLine_within rfl
    | with_reducible apply Within.step fetchLine_within rfl
    | with_reducible apply Within.ite <;> intro _
    | with_reducible exact id
    | with_reducible exact Nat.le_refl _
    | (refine fun (p : Part) hp => ?_; cases p <;> first | (cases hp; done) | with_reducible rfl)
    | with_reducible apply Within.leaf

theorem issueOp_within {x0 x1 s} : Within [.accs, .chans, .mem] s (issueOp x0 x1 s) := by
  unfold issueOp
  repeat' first
    | with_reducible exact Within.refl _ _
    | with_reducible apply Within.step setChan_within rfl
    | with_reducible apply Within.step modChan_within rfl
    | with_reducible apply Within.step issueColumn_within rfl
    | with_reducible apply Within.ite <;> intro _
    | with_reducible exact id
    | with_reducible exact Nat.le_refl _
    | (refine fun (p : Part) hp => ?_; cases p <;> first | (cases hp; done) | with_reducible rfl)
    | with_reducible apply Within.leaf

theorem updateDrain_within {x0 s} : Within [.flds, .chans] s (updateDrain x0 s) := by
  unfold updateDrain
  repeat' first
    | with_reducible assumption
    | with_reducible exact Within.refl _ _
    | with_reducible apply Within.step setChan_within rfl
    | with_reducible apply Within.step fbump_within rfl
    | with_reducible apply onlyIf_within
    | with_reducible apply Within.ite <;> intro _
    | with_reducible exact id
    | with_reducible exact Nat.le_refl _
    | (refine fun (p : Part) hp => ?_; cases p <;> first | (cases hp; done) | with_reducible rfl)
    | intro x t h
    | intro t h
    | with_reducible apply Within.leaf

theorem writeBack_within {x0 x1 x2 x3 s} : Within [.nextId, .chans] s (writeBack x0 x1 x2 x3 s).2 := by
  unfold writeBack
  repeat' first
    | with_reducible exact Within.refl _ _
    | with_reducible apply Within.step admitWrite_within rfl
    | with_reducible apply Within.ite <;> intro _
    | split
    | (dsimp only; split)

theorem recFromOther_within {x0 x1 x2 x3 x4 x5 s} : Within [.chans, .recs] s (recFromOther x0 x1 x2 x3 x4 x5 s) := by
  unfold recFromOther
  repeat' first
    | with_reducible assumption
    | with_reducible exact Within.refl _ _
    | with_reducible apply Within.step putRec_within rfl
    | with_reducible apply onlyIf_within
    | intro x t h
    | intro t h

theorem scrubData_within {x0 x1 x2 s} : Within [.hdrs, .flds, .links, .accs, .nextId, .commits, .chans, .recs, .regions, .queues, .jobs, .bells, .vecs, .groups, .pll, .ring, .safe] s (scrubData x0 x1 x2 s).2 := by
  unfold scrubData
  repeat' first
    | with_reducible assumption
    | with_reducible exact Within.refl _ _
    | with_reducible apply Within.step setChan_within rfl
    | with_reducible apply Within.step countDec_within rfl
    | with_reducible apply Within.step touchCheck_within rfl
    | with_reducible apply Within.step modChan_within rfl
    | with_reducible apply Within.step writeBack_within rfl
    | with_reducible apply Within.step rgnEvt_within rfl
    | with_reducible apply Within.step recFromOther_within rfl
    | with_reducible apply onlyIf_within
    | with_reducible apply foldl_within
    | with_reducible apply Within.ite <;> intro _
    | with_reducible exact id
    | with_reducible exact Nat.le_refl _
    | (refine fun (p : Part) hp => ?_; cases p <;> first | (cases hp; done) | with_reducible rfl)
    | intro x t h
    | intro t h
    | split
    | (dsimp only; split)
    | with_reducible apply Within.leaf

theorem scrubRecLost_within {x0 x1 s} : Within [.hdrs, .chans, .recs, .vecs] s (scrubRecLost x0 x1 s) := by
  unfold scrubRecLost
  repeat' first
    | with_reducible exact Within.refl _ _
    | with_reducible apply Within.step rgnEvt_within rfl
    | with_reducible apply Within.step recFromOther_within rfl
    | with_reducible apply Within.ite <;> intro _
    | with_reducible exact id
    | with_reducible exact Nat.le_refl _
    | (refine fun (p : Part) hp => ?_; cases p <;> first | (cases hp; done) | with_reducible rfl)
    | split
    | (dsimp only; split)
    | with_reducible apply Within.leaf

theorem scrubRecs_within {x0 x1 x2 s} : Within [.hdrs, .flds, .links, .accs, .commits, .chans, .recs, .regions, .queues, .jobs, .bells, .vecs, .groups, .pll, .ring, .safe] s (scrubRecs x0 x1 x2 s) := by
  unfold scrubRecs
  repeat' first
    | with_reducible assumption
    | with_reducible exact Within.refl _ _
    | with_reducible apply Within.step countDec_within rfl
    | with_reducible apply Within.step touchRec_within rfl
    | with_reducible apply Within.step scrubRecLost_within rfl
    | with_reducible apply Within.step putRec_within rfl
    | with_reducible apply forAll_within
    | with_reducible apply onlyIf_within
    | with_reducible apply Within.ite <;> intro _
    | with_reducible exact id
    | with_reducible exact Nat.le_refl _
    | (refine fun (p : Part) hp => ?_; cases p <;> first | (cases hp; done) | with_reducible rfl)
    | intro x t h
    | intro t h
    | split
    | (dsimp only; split)
    | with_reducible apply Within.leaf

theorem scrubLine_within {x0 x1 x2 s} : Within [.hdrs, .flds, .links, .accs, .nextId, .commits, .chans, .recs, .regions, .queues, .jobs, .bells, .vecs, .groups, .pll, .ring, .safe] s (scrubLine x0 x1 x2 s).2 := by
  unfold scrubLine
  repeat' first
    | with_reducible exact Within.refl _ _
    | with_reducible apply Within.step scrubData_within rfl
    | with_reducible apply Within.step modChan_within rfl
    | with_reducible apply Within.step scrubRecs_within rfl
    | with_reducible apply Within.ite <;> intro _
    | split
    | (dsimp only; split)

theorem scrubSlot_within {x0 x1 s} : Within [.hdrs, .flds, .links, .accs, .nextId, .commits, .chans, .recs, .regions, .queues, .jobs, .bells, .vecs, .groups, .pll, .ring, .safe] s (scrubSlot x0 x1 s) := by
  unfold scrubSlot
  repeat' first
    | with_reducible exact Within.refl _ _
    | with_reducible apply Within.step scrubLine_within rfl
    | with_reducible apply Within.step modChan_within rfl
    | with_reducible apply Within.step chEvt_within rfl
    | with_reducible apply Within.step fbump_within rfl
    | with_reducible apply Within.ite <;> intro _
    | with_reducible exact id
    | with_reducible exact Nat.le_refl _
    | (refine fun (p : Part) hp => ?_; cases p <;> first | (cases hp; done) | with_reducible rfl)
    | split
    | (dsimp only; split)
    | with_reducible apply Within.leaf

theorem takeSnapshot_within {x0 s} : Within [.flds] s (takeSnapshot x0 s) := by
  unfold takeSnapshot
  repeat' first
    | with_reducible exact Within.refl _ _
    | with_reducible apply Within.step fset_within rfl

theorem runBackground_within {x0 x1 x2 s} : Within [.hdrs, .flds, .links, .accs, .nextId, .commits, .chans, .recs, .regions, .queues, .jobs, .bells, .vecs, .groups, .pll, .ring, .safe] s (runBackground x0 x1 x2 s) := by
  unfold runBackground
  repeat' first
    | with_reducible assumption
    | with_reducible exact Within.refl _ _
    | with_reducible apply Within.step modChan_within rfl
    | with_reducible apply Within.step scrubSlot_within rfl
    | with_reducible apply Within.step takeSnapshot_within rfl
    | with_reducible apply onlyIf_within
    | with_reducible exact id
    | with_reducible exact Nat.le_refl _
    | (refine fun (p : Part) hp => ?_; cases p <;> first | (cases hp; done) | with_reducible rfl)
    | intro x t h
    | intro t h
    | split
    | (dsimp only; split)
    | with_reducible apply Within.leaf

theorem noteCredit_within {x0 s} : Within [.chans] s (noteCredit x0 s) := by
  unfold noteCredit
  repeat' first
    | with_reducible exact Within.refl _ _
    | with_reducible apply Within.step modChan_within rfl
    | with_reducible exact id
    | with_reducible exact Nat.le_refl _
    | (refine fun (p : Part) hp => ?_; cases p <;> first | (cases hp; done) | with_reducible rfl)
    | with_reducible apply Within.leaf

theorem refreshHeld_within {x0 x1 x2 s} : Within [.chans] s (refreshHeld x0 x1 x2 s) := by
  unfold refreshHeld
  repeat' first
    | with_reducible exact Within.refl _ _
    | with_reducible apply Within.step refreshAll_within rfl
    | with_reducible apply Within.step refreshPair_within rfl
    | with_reducible apply Within.ite <;> intro _

theorem runSlot_within {x0 x1 x2 s} : Within [.hdrs, .flds, .links, .accs, .nextId, .commits, .chans, .mem, .recs, .regions, .queues, .jobs, .bells, .vecs, .groups, .pll, .ring, .safe] s (runSlot x0 x1 x2 s) := by
  unfold runSlot
  repeat' first
    | with_reducible assumption
    | with_reducible exact Within.refl _ _
    | with_reducible apply Within.step issueOp_within rfl
    | with_reducible apply Within.step chEvt_within rfl
    | with_reducible apply Within.step fbump_within rfl
    | with_reducible apply Within.step refreshAll_within rfl
    | with_reducible apply Within.step refreshPair_within rfl
    | with_reducible apply Within.step modChan_within rfl
    | with_reducible apply Within.step modRank_within rfl
    | with_reducible apply Within.step refreshHeld_within rfl
    | with_reducible apply Within.step runBackground_within rfl
    | with_reducible apply onlyIf_within
    | with_reducible exact id
    | with_reducible exact Nat.le_refl _
    | (refine fun (p : Part) hp => ?_; cases p <;> first | (cases hp; done) | with_reducible rfl)
    | intro x t h
    | intro t h
    | split
    | (dsimp only; split)
    | with_reducible apply Within.leaf

theorem moveDrift_within {x0 s} : Within [.chans] s (moveDrift x0 s) := by
  unfold moveDrift
  repeat' first
    | with_reducible assumption
    | with_reducible exact Within.refl _ _
    | with_reducible apply Within.step setChan_within rfl
    | with_reducible apply onlyIf_within
    | intro x t h
    | intro t h

theorem powerDownSlot_within {x0 x1 s} : Within [.hdrs, .flds, .links, .accs, .nextId, .commits, .chans, .mem, .recs, .regions, .queues, .jobs, .bells, .vecs, .groups, .pll, .ring, .safe] s (powerDownSlot x0 x1 s) := by
  unfold powerDownSlot
  repeat' first
    | with_reducible assumption
    | with_reducible exact Within.refl _ _
    | with_reducible apply Within.step runSlot_within rfl
    | with_reducible apply Within.step wakeChan_within rfl
    | with_reducible apply onlyIf_within
    | intro x t h
    | intro t h

theorem schedulerSlot_within {x0 x1 s} : Within [.hdrs, .flds, .links, .accs, .nextId, .commits, .chans, .mem, .recs, .regions, .queues, .jobs, .bells, .vecs, .groups, .pll, .ring, .safe] s (schedulerSlot x0 x1 s) := by
  unfold schedulerSlot
  repeat' first
    | with_reducible exact Within.refl _ _
    | with_reducible apply Within.step failChannel_within rfl
    | with_reducible apply Within.step powerDownSlot_within rfl
    | with_reducible apply Within.step updateDrain_within rfl
    | with_reducible apply Within.step moveDrift_within rfl
    | with_reducible apply Within.step runSlot_within rfl
    | with_reducible apply Within.ite <;> intro _

theorem execSchedulerSlot_within {x0 x1 s} : ∀ u, execSchedulerSlot x0 x1 s = .next u → Within [.hdrs, .flds, .links, .accs, .nextId, .commits, .chans, .mem, .recs, .regions, .queues, .jobs, .bells, .vecs, .groups, .pll, .ring, .safe] s u :=
  fun _ h => Host.Outcome.next.inj h ▸ schedulerSlot_within.mono rfl

theorem execPhyFault_within {x0 x1 s} : ∀ u, execPhyFault x0 x1 s = .next u → Within [.hdrs, .flds, .links, .accs, .commits, .chans, .regions, .queues, .jobs, .bells, .vecs, .groups, .pll, .ring, .safe] s u := by
  unfold execPhyFault
  refine fun _ h => Host.Outcome.next.inj h ▸ ?_
  repeat' first
    | with_reducible exact Within.refl _ _
    | with_reducible apply Within.step failChannel_within rfl
    | with_reducible apply Within.ite <;> intro _

theorem refreshTick_within {x0 x1 s} : Within [.now, .chans, .time] s (refreshTick x0 x1 s) := by
  unfold refreshTick
  repeat' first
    | with_reducible exact Within.refl _ _
    | with_reducible apply Within.step waitUntil_within rfl
    | with_reducible apply Within.step noteCredit_within rfl
    | with_reducible apply Within.step modRank_within rfl
    | with_reducible apply Within.ite <;> intro _
    | with_reducible exact id
    | with_reducible exact Nat.le_refl _
    | (refine fun (p : Part) hp => ?_; cases p <;> first | (cases hp; done) | with_reducible rfl)
    | with_reducible apply Within.leaf

theorem execRefreshTick_within {x0 x1 s} : ∀ u, execRefreshTick x0 x1 s = .next u → Within [.now, .chans, .time] s u :=
  fun _ h => Host.Outcome.next.inj h ▸ refreshTick_within.mono rfl

theorem addDue_within {x0 x1 s} : Within [.chans] s (addDue x0 x1 s) := by
  unfold addDue
  repeat' first
    | with_reducible exact Within.refl _ _
    | with_reducible apply Within.step modChan_within rfl
    | with_reducible apply Within.ite <;> intro _
    | with_reducible exact id
    | with_reducible exact Nat.le_refl _
    | (refine fun (p : Part) hp => ?_; cases p <;> first | (cases hp; done) | with_reducible rfl)
    | with_reducible apply Within.leaf

theorem backgroundDue_within {x0 x1 s} : Within [.now, .chans, .time] s (backgroundDue x0 x1 s) := by
  unfold backgroundDue
  repeat' first
    | with_reducible exact Within.refl _ _
    | with_reducible apply Within.step addDue_within rfl
    | with_reducible apply Within.step waitUntil_within rfl
    | with_reducible apply Within.ite <;> intro _

theorem execBackgroundDue_within {x0 x1 s} : ∀ u, execBackgroundDue x0 x1 s = .next u → Within [.now, .chans, .time] s u :=
  fun _ h => Host.Outcome.next.inj h ▸ backgroundDue_within.mono rfl

theorem execBackgroundSlackOut_within {x0 x1 s} : ∀ u, execBackgroundSlackOut x0 x1 s = .next u → Within [.now, .chans, .time] s u := by
  unfold execBackgroundSlackOut
  refine fun _ h => Host.Outcome.next.inj h ▸ ?_
  repeat' first
    | with_reducible exact Within.refl _ _
    | with_reducible apply Within.step modChan_within rfl
    | with_reducible apply Within.step waitUntil_within rfl
    | with_reducible apply Within.ite <;> intro _
    | with_reducible exact id
    | with_reducible exact Nat.le_refl _
    | (refine fun (p : Part) hp => ?_; cases p <;> first | (cases hp; done) | with_reducible rfl)
    | split
    | (dsimp only; split)
    | with_reducible apply Within.leaf

theorem trackingLoss_within {x0 s} : Within [.hdrs, .chans, .regions, .vecs] s (trackingLoss x0 s) := by
  unfold trackingLoss
  repeat' first
    | with_reducible exact Within.refl _ _
    | with_reducible apply Within.step chEvt_within rfl
    | with_reducible apply Within.step kpSingle_within rfl
    | with_reducible apply Within.step modChan_within rfl
    | with_reducible exact id
    | with_reducible exact Nat.le_refl _
    | (refine fun (p : Part) hp => ?_; cases p <;> first | (cases hp; done) | with_reducible rfl)
    | with_reducible apply Within.leaf

theorem followDrift_within {x0 x1 s} : Within [.hdrs, .chans, .regions, .vecs] s (followDrift x0 x1 s) := by
  unfold followDrift
  repeat' first
    | with_reducible exact Within.refl _ _
    | with_reducible apply Within.step trackingLoss_within rfl
    | with_reducible apply Within.step modChan_within rfl
    | with_reducible apply Within.ite <;> intro _
    | with_reducible exact id
    | with_reducible exact Nat.le_refl _
    | (refine fun (p : Part) hp => ?_; cases p <;> first | (cases hp; done) | with_reducible rfl)
    | with_reducible apply Within.leaf

theorem finishExit_within {x0 x1 s} : Within [.now, .hdrs, .chans, .regions, .vecs, .time] s (finishExit x0 x1 s) := by
  unfold finishExit
  repeat' first
    | with_reducible exact Within.refl _ _
    | with_reducible apply Within.step waitUntil_within rfl
    | with_reducible apply Within.step followDrift_within rfl
    | with_reducible apply Within.step modChan_within rfl
    | with_reducible apply Within.ite <;> intro _
    | with_reducible exact id
    | with_reducible exact Nat.le_refl _
    | (refine fun (p : Part) hp => ?_; cases p <;> first | (cases hp; done) | with_reducible rfl)
    | with_reducible apply Within.leaf

theorem execOscMeasureDone_within {x0 x1 s} : ∀ u, execOscMeasureDone x0 x1 s = .next u → Within [.now, .hdrs, .chans, .regions, .vecs, .time] s u := by
  unfold execOscMeasureDone
  refine fun _ h => Host.Outcome.next.inj h ▸ ?_
  repeat' first
    | with_reducible exact Within.refl _ _
    | with_reducible apply Within.step finishExit_within rfl
    | with_reducible apply Within.step followDrift_within rfl
    | with_reducible apply Within.ite <;> intro _

theorem execMr4ReadDone_within {x0 x1 x2 s} : ∀ u, execMr4ReadDone x0 x1 x2 s = .next u → Within [.hdrs, .chans, .vecs] s u := by
  unfold execMr4ReadDone
  refine fun _ h => Host.Outcome.next.inj h ▸ ?_
  repeat' first
    | with_reducible exact Within.refl _ _
    | with_reducible apply Within.step modRank_within rfl
    | with_reducible apply Within.step chEvt_within rfl
    | with_reducible apply Within.ite <;> intro _
    | with_reducible exact id
    | with_reducible exact Nat.le_refl _
    | (refine fun (p : Part) hp => ?_; cases p <;> first | (cases hp; done) | with_reducible rfl)
    | with_reducible apply Within.leaf

theorem scrubDeadline_within {x0 s} : Within [.now, .hdrs, .chans, .vecs, .time] s (scrubDeadline x0 s) := by
  unfold scrubDeadline
  repeat' first
    | with_reducible exact Within.refl _ _
    | with_reducible apply Within.step chEvt_within rfl
    | with_reducible apply Within.step modChan_within rfl
    | with_reducible apply Within.step waitUntil_within rfl
    | with_reducible apply Within.ite <;> intro _
    | with_reducible exact id
    | with_reducible exact Nat.le_refl _
    | (refine fun (p : Part) hp => ?_; cases p <;> first | (cases hp; done) | with_reducible rfl)
    | with_reducible apply Within.leaf

theorem execScrubPassDeadline_within {x0 s} : ∀ u, execScrubPassDeadline x0 s = .next u → Within [.now, .hdrs, .chans, .vecs, .time] s u :=
  fun _ h => Host.Outcome.next.inj h ▸ scrubDeadline_within.mono rfl

theorem powerDown_within {x0 s} : Within [.now, .chans, .time] s (powerDown x0 s) := by
  unfold powerDown
  repeat' first
    | with_reducible exact Within.refl _ _
    | with_reducible apply Within.step modChan_within rfl
    | with_reducible apply Within.step waitUntil_within rfl
    | with_reducible apply Within.ite <;> intro _
    | with_reducible exact id
    | with_reducible exact Nat.le_refl _
    | (refine fun (p : Part) hp => ?_; cases p <;> first | (cases hp; done) | with_reducible rfl)
    | with_reducible apply Within.leaf

theorem execPowerdownEntry_within {x0 s} : ∀ u, execPowerdownEntry x0 s = .next u → Within [.now, .chans, .time] s u :=
  fun _ h => Host.Outcome.next.inj h ▸ powerDown_within.mono rfl

theorem copied_within {x0 s} : Within [.chans] s (copied x0 s) := by
  unfold copied
  repeat' first
    | with_reducible exact Within.refl _ _
    | with_reducible apply Within.step modChan_within rfl
    | with_reducible exact id
    | with_reducible exact Nat.le_refl _
    | (refine fun (p : Part) hp => ?_; cases p <;> first | (cases hp; done) | with_reducible rfl)
    | with_reducible apply Within.leaf

theorem copyDataLine_within {x0 x1 x2 s} : Within [.hdrs, .flds, .links, .accs, .nextId, .commits, .chans, .regions, .queues, .jobs, .bells, .vecs, .groups, .pll, .ring, .safe] s (copyDataLine x0 x1 x2 s) := by
  unfold copyDataLine
  repeat' first
    | with_reducible assumption
    | with_reducible exact Within.refl _ _
    | with_reducible apply Within.step setChan_within rfl
    | with_reducible apply Within.step copied_within rfl
    | with_reducible apply Within.step countDec_within rfl
    | with_reducible apply Within.step touchCheck_within rfl
    | with_reducible apply Within.step modChan_within rfl
    | with_reducible apply Within.step admitWrite_within rfl
    | with_reducible apply foldl_within
    | with_reducible apply Within.ite <;> intro _
    | with_reducible exact id
    | with_reducible exact Nat.le_refl _
    | (refine fun (p : Part) hp => ?_; cases p <;> first | (cases hp; done) | with_reducible rfl)
    | intro x t h
    | intro t h
    | split
    | (dsimp only; split)
    | with_reducible apply Within.leaf

theorem copyCheckLine_within {x0 x1 s} : Within [.chans, .mem] s (copyCheckLine x0 x1 s) := by
  unfold copyCheckLine
  repeat' first
    | with_reducible assumption
    | with_reducible exact Within.refl _ _
    | with_reducible apply Within.step copied_within rfl
    | with_reducible apply Within.step modChan_within rfl
    | with_reducible apply forAll_within
    | with_reducible exact id
    | with_reducible exact Nat.le_refl _
    | (refine fun (p : Part) hp => ?_; cases p <;> first | (cases hp; done) | with_reducible rfl)
    | intro x t h
    | intro t h
    | exact memWriteList_wf
    | with_reducible apply Within.leaf

theorem copyRecLine_within {x0 x1 s} : Within [.chans, .recs] s (copyRecLine x0 x1 s) := by
  unfold copyRecLine
  repeat' first
    | with_reducible assumption
    | with_reducible exact Within.refl _ _
    | with_reducible apply Within.step copied_within rfl
    | with_reducible apply Within.step modChan_within rfl
    | with_reducible apply Within.step setRec_within rfl
    | with_reducible apply forAll_within
    | intro x t h
    | intro t h

theorem copyNext_within {x0 x1 x2 s} : Within [.hdrs, .flds, .links, .accs, .nextId, .commits, .chans, .mem, .recs, .regions, .queues, .jobs, .bells, .vecs, .groups, .pll, .ring, .safe] s (copyNext x0 x1 x2 s) := by
  unfold copyNext
  repeat' first
    | with_reducible assumption
    | with_reducible exact Within.refl _ _
    | with_reducible apply Within.step copyDataLine_within rfl
    | with_reducible apply Within.step copyCheckLine_within rfl
    | with_reducible apply Within.step copyRecLine_within rfl
    | with_reducible apply Within.step copied_within rfl
    | with_reducible apply Within.step modChan_within rfl
    | with_reducible apply onlyIf_within
    | with_reducible apply Within.ite <;> intro _
    | intro x t h
    | intro t h

theorem rowRedirect_within {x0 x1 s} : Within [.hdrs, .flds, .links, .accs, .nextId, .commits, .chans, .mem, .recs, .regions, .queues, .jobs, .bells, .vecs, .groups, .pll, .ring, .safe] s (rowRedirect x0 x1 s) := by
  unfold rowRedirect
  repeat' first
    | with_reducible exact Within.refl _ _
    | with_reducible apply Within.step copyNext_within rfl
    | with_reducible apply Within.step chEvt_within rfl
    | with_reducible apply Within.step setChan_within rfl
    | with_reducible apply Within.ite <;> intro _
    | with_reducible exact id
    | with_reducible exact Nat.le_refl _
    | (refine fun (p : Part) hp => ?_; cases p <;> first | (cases hp; done) | with_reducible rfl)
    | split
    | (dsimp only; split)
    | with_reducible apply Within.leaf

theorem execRowRedirect_within {x0 x1 s} : ∀ u, execRowRedirect x0 x1 s = .next u → Within [.hdrs, .flds, .links, .accs, .nextId, .commits, .chans, .mem, .recs, .regions, .queues, .jobs, .bells, .vecs, .groups, .pll, .ring, .safe] s u :=
  fun _ h => Host.Outcome.next.inj h ▸ rowRedirect_within.mono rfl

theorem redirectDone_within {x0 s} : Within [.hdrs, .chans, .vecs, .boot] s (redirectDone x0 s) := by
  unfold redirectDone
  repeat' first
    | with_reducible exact Within.refl _ _
    | with_reducible apply Within.step wantAlmanac_within rfl
    | with_reducible apply Within.step chEvt_within rfl
    | with_reducible apply Within.step setChan_within rfl
    | with_reducible apply Within.ite <;> intro _
    | with_reducible exact id
    | with_reducible exact Nat.le_refl _
    | (refine fun (p : Part) hp => ?_; cases p <;> first | (cases hp; done) | with_reducible rfl)
    | split
    | (dsimp only; split)
    | with_reducible apply Within.leaf

theorem execRedirectDone_within {x0 s} : ∀ u, execRedirectDone x0 s = .next u → Within [.hdrs, .chans, .vecs, .boot] s u :=
  fun _ h => Host.Outcome.next.inj h ▸ redirectDone_within.mono rfl

/-! ### Access -/

theorem settleTracker_within {x0 s} : Within [.accs, .commits] s (settleTracker x0 s) := by
  unfold settleTracker
  repeat' first
    | with_reducible exact Within.refl _ _
    | with_reducible apply Within.ite <;> intro _
    | with_reducible exact id
    | with_reducible exact Nat.le_refl _
    | (refine fun (p : Part) hp => ?_; cases p <;> first | (cases hp; done) | with_reducible rfl)
    | with_reducible apply Within.leaf

theorem newAcc_within {x0 x1 x2 x3 x4 x5 s} : Within [.accs, .nextId, .commits] s (newAcc x0 x1 x2 x3 x4 x5 s) := by
  unfold newAcc
  repeat' first
    | with_reducible exact Within.refl _ _
    | with_reducible apply Within.step settleTracker_within rfl
    | with_reducible apply Within.ite <;> intro _
    | with_reducible exact id
    | with_reducible exact Nat.le_refl _
    | (refine fun (p : Part) hp => ?_; cases p <;> first | (cases hp; done) | with_reducible rfl)
    | split
    | (dsimp only; split)
    | with_reducible apply Within.leaf

theorem hostRd_within {x0 x1 x2 x3 x4 s} : Within [.hdrs, .flds, .links, .accs, .nextId, .commits, .vecs] s (hostRd x0 x1 x2 x3 x4 s) := by
  unfold hostRd
  repeat' first
    | with_reducible exact Within.refl _ _
    | with_reducible apply Within.step tagError_within rfl
    | with_reducible apply Within.step useTag_within rfl
    | with_reducible apply Within.step refuseNP_within rfl
    | with_reducible apply Within.step newAcc_within rfl
    | with_reducible apply Within.ite <;> intro _
    | with_reducible exact id
    | with_reducible exact Nat.le_refl _
    | (refine fun (p : Part) hp => ?_; cases p <;> first | (cases hp; done) | with_reducible rfl)
    | split
    | (dsimp only; split)
    | with_reducible apply Within.leaf

theorem hostWrAck_within {x0 x1 x2 x3 x4 s} : Within [.hdrs, .flds, .links, .accs, .nextId, .commits, .vecs] s (hostWrAck x0 x1 x2 x3 x4 s) := by
  unfold hostWrAck
  repeat' first
    | with_reducible exact Within.refl _ _
    | with_reducible apply Within.step tagError_within rfl
    | with_reducible apply Within.step useTag_within rfl
    | with_reducible apply Within.step refuseNP_within rfl
    | with_reducible apply Within.step complete_within rfl
    | with_reducible apply Within.step newAcc_within rfl
    | with_reducible apply Within.ite <;> intro _
    | with_reducible exact id
    | with_reducible exact Nat.le_refl _
    | (refine fun (p : Part) hp => ?_; cases p <;> first | (cases hp; done) | with_reducible rfl)
    | split
    | (dsimp only; split)
    | with_reducible apply Within.leaf

theorem hostWrPost_within {x0 x1 x2 x3 s} : Within [.hdrs, .flds, .accs, .nextId, .commits, .vecs] s (hostWrPost x0 x1 x2 x3 s) := by
  unfold hostWrPost
  repeat' first
    | with_reducible exact Within.refl _ _
    | with_reducible apply Within.step dropPosted_within rfl
    | with_reducible apply Within.step newAcc_within rfl
    | with_reducible apply Within.ite <;> intro _
    | with_reducible exact id
    | with_reducible exact Nat.le_refl _
    | (refine fun (p : Part) hp => ?_; cases p <;> first | (cases hp; done) | with_reducible rfl)
    | split
    | (dsimp only; split)
    | with_reducible apply Within.leaf

theorem hostCommit_within {x0 x1 x2 x3 x4 s} : Within [.hdrs, .flds, .links, .accs, .nextId, .commits, .vecs] s (hostCommit x0 x1 x2 x3 x4 s) := by
  unfold hostCommit
  repeat' first
    | with_reducible exact Within.refl _ _
    | with_reducible apply Within.step tagError_within rfl
    | with_reducible apply Within.step useTag_within rfl
    | with_reducible apply Within.step refuseNP_within rfl
    | with_reducible apply Within.step settleTracker_within rfl
    | with_reducible apply Within.ite <;> intro _
    | with_reducible exact id
    | with_reducible exact Nat.le_refl _
    | (refine fun (p : Part) hp => ?_; cases p <;> first | (cases hp; done) | with_reducible rfl)
    | split
    | (dsimp only; split)
    | with_reducible apply Within.leaf

theorem dropCached_within {x0 x1 s} : Within [.groups] s (dropCached x0 x1 s) := by
  unfold dropCached
  repeat' first
    | with_reducible exact Within.refl _ _
    | with_reducible exact id
    | with_reducible exact Nat.le_refl _
    | (refine fun (p : Part) hp => ?_; cases p <;> first | (cases hp; done) | with_reducible rfl)
    | with_reducible apply Within.leaf

theorem noteOver_within {x0 x1 x2 x3 s} : Within [.accs] s (noteOver x0 x1 x2 x3 s) := by
  unfold noteOver
  repeat' first
    | with_reducible exact Within.refl _ _
    | with_reducible apply Within.ite <;> intro _
    | with_reducible exact id
    | with_reducible exact Nat.le_refl _
    | (refine fun (p : Part) hp => ?_; cases p <;> first | (cases hp; done) | with_reducible rfl)
    | with_reducible apply Within.leaf

theorem placeWrite_within {x0 x1 x2 x3 x4 x5 s} : Within [.accs, .nextId, .chans, .recs, .groups, .ring] s (placeWrite x0 x1 x2 x3 x4 x5 s) := by
  unfold placeWrite
  repeat' first
    | with_reducible assumption
    | with_reducible exact Within.refl _ _
    | with_reducible apply Within.step putRec_within rfl
    | with_reducible apply Within.step admitWrite_within rfl
    | with_reducible apply Within.step noteOver_within rfl
    | with_reducible apply Within.step dropCached_within rfl
    | with_reducible apply Within.step markDirty_within rfl
    | with_reducible apply forAll_within
    | intro x t h
    | intro t h

theorem openNow_within {x0 x1 s} : Within [.chans, .recs, .regions] s (openNow x0 x1 s) := by
  unfold openNow
  repeat' first
    | with_reducible assumption
    | with_reducible exact Within.refl _ _
    | with_reducible apply Within.step openCopy_within rfl
    | with_reducible apply onlyIf_within
    | intro x t h
    | intro t h

theorem unitWrite_within {x0 x1 x2 x3 x4 x5 s} : Within [.links, .accs, .nextId, .chans, .recs, .regions, .groups, .ring] s (unitWrite x0 x1 x2 x3 x4 x5 s) := by
  unfold unitWrite
  repeat' first
    | with_reducible exact Within.refl _ _
    | with_reducible apply Within.step placeWrite_within rfl
    | with_reducible apply Within.step openNow_within rfl
    | with_reducible apply Within.step sendKpw_within rfl
    | with_reducible exact id
    | with_reducible exact Nat.le_refl _
    | (refine fun (p : Part) hp => ?_; cases p <;> first | (cases hp; done) | with_reducible rfl)
    | split
    | (dsimp only; split)
    | with_reducible apply Within.leaf

theorem passWrite_within {x0 x1 x2 s} : Within [.hdrs, .flds, .links, .accs, .nextId, .chans, .recs, .regions, .jobs, .vecs, .groups, .ring] s (passWrite x0 x1 x2 s) := by
  unfold passWrite
  repeat' first
    | with_reducible exact Within.refl _ _
    | with_reducible apply Within.step placeWrite_within rfl
    | with_reducible apply Within.step openNow_within rfl
    | with_reducible apply Within.step endAcc_within rfl
    | with_reducible apply Within.step sendKpw_within rfl
    | with_reducible apply Within.ite <;> intro _
    | with_reducible exact id
    | with_reducible exact Nat.le_refl _
    | (refine fun (p : Part) hp => ?_; cases p <;> first | (cases hp; done) | with_reducible rfl)
    | split
    | (dsimp only; split)
    | with_reducible apply Within.leaf

theorem setTags_within {x0 x1 x2 s} : Within [.recs] s (setTags x0 x1 x2 s) := by
  unfold setTags
  repeat' first
    | with_reducible assumption
    | with_reducible exact Within.refl _ _
    | with_reducible apply Within.step setRec_within rfl
    | with_reducible apply forAll_within
    | with_reducible exact id
    | with_reducible exact Nat.le_refl _
    | (refine fun (p : Part) hp => ?_; cases p <;> first | (cases hp; done) | with_reducible rfl)
    | intro x t h
    | intro t h
    | with_reducible apply Within.leaf

theorem setBlockRec_within {x0 x1 x2 x3 s} : Within [.recs] s (setBlockRec x0 x1 x2 x3 s) := by
  unfold setBlockRec
  repeat' first
    | with_reducible assumption
    | with_reducible exact Within.refl _ _
    | with_reducible apply Within.step setRec_within rfl
    | with_reducible apply forAll_within
    | intro x t h
    | intro t h

theorem passAs_within {x0 x1 x2 s} : Within [.hdrs, .flds, .links, .accs, .nextId, .chans, .recs, .regions, .jobs, .vecs, .groups, .ring] s (passAs x0 x1 x2 s) := by
  unfold passAs
  repeat' first
    | with_reducible exact Within.refl _ _
    | with_reducible apply Within.step passWrite_within rfl
    | with_reducible apply Within.step endAcc_within rfl
    | with_reducible apply Within.step setTags_within rfl
    | with_reducible apply Within.step placeWrite_within rfl
    | with_reducible apply Within.step setBlockRec_within rfl
    | with_reducible apply Within.step unitWrite_within rfl
    | with_reducible exact id
    | with_reducible exact Nat.le_refl _
    | (refine fun (p : Part) hp => ?_; cases p <;> first | (cases hp; done) | with_reducible rfl)
    | split
    | (dsimp only; split)
    | with_reducible apply Within.leaf

theorem passRead_within {x0 x1 s} : Within [.flds, .accs, .nextId, .chans, .regions] s (passRead x0 x1 s) := by
  unfold passRead
  repeat' first
    | with_reducible assumption
    | with_reducible exact Within.refl _ _
    | with_reducible apply Within.step admitRead_within rfl
    | with_reducible apply Within.step touchRec_within rfl
    | with_reducible apply Within.step pinCopy_within rfl
    | with_reducible apply forAll_within
    | with_reducible apply onlyIf_within
    | with_reducible apply Within.ite <;> intro _
    | with_reducible exact id
    | with_reducible exact Nat.le_refl _
    | (refine fun (p : Part) hp => ?_; cases p <;> first | (cases hp; done) | with_reducible rfl)
    | intro x t h
    | intro t h
    | with_reducible apply Within.leaf

theorem orderingPass_within {x0 s} : Within [.hdrs, .flds, .links, .accs, .nextId, .chans, .recs, .regions, .jobs, .vecs, .groups, .ring] s (orderingPass x0 s) := by
  unfold orderingPass
  repeat' first
    | with_reducible exact Within.refl _ _
    | with_reducible apply Within.step endAcc_within rfl
    | with_reducible apply Within.step passAs_within rfl
    | with_reducible apply Within.step passRead_within rfl
    | with_reducible apply Within.ite <;> intro _
    | with_reducible exact id
    | with_reducible exact Nat.le_refl _
    | (refine fun (p : Part) hp => ?_; cases p <;> first | (cases hp; done) | with_reducible rfl)
    | split
    | (dsimp only; split)
    | with_reducible apply Within.leaf

theorem countGot_within {x0 x1 x2 x3 s} : Within [.hdrs, .flds, .links, .accs, .commits, .chans, .regions, .queues, .jobs, .bells, .vecs, .groups, .pll, .ring, .safe] s (countGot x0 x1 x2 x3 s) := by
  unfold countGot
  repeat' first
    | with_reducible exact Within.refl _ _
    | with_reducible apply Within.step countDec_within rfl
    | with_reducible exact id
    | with_reducible exact Nat.le_refl _
    | (refine fun (p : Part) hp => ?_; cases p <;> first | (cases hp; done) | with_reducible rfl)
    | split
    | (dsimp only; split)
    | with_reducible apply Within.leaf

theorem countRec_within {x0 x1 x2 s} : Within [.hdrs, .flds, .links, .accs, .commits, .chans, .regions, .queues, .jobs, .bells, .vecs, .groups, .pll, .ring, .safe] s (countRec x0 x1 x2 s) := by
  unfold countRec
  repeat' first
    | with_reducible assumption
    | with_reducible exact Within.refl _ _
    | with_reducible apply Within.step rgnEvt_within rfl
    | with_reducible apply Within.step countDec_within rfl
    | with_reducible apply onlyIf_within
    | intro x t h
    | intro t h

theorem rewriteFoot_within {x0 x1 x2 x3 x4 x5 s} : Within [.nextId, .chans, .recs] s (rewriteFoot x0 x1 x2 x3 x4 x5 s) := by
  unfold rewriteFoot
  repeat' first
    | with_reducible assumption
    | with_reducible exact Within.refl _ _
    | with_reducible apply Within.step putRec_within rfl
    | with_reducible apply Within.step admitWrite_within rfl
    | with_reducible apply onlyIf_within
    | intro x t h
    | intro t h

theorem kpEffect_within {x0 x1 x2 x3 s} : Within [.hdrs, .flds, .links, .accs, .nextId, .commits, .chans, .recs, .regions, .queues, .jobs, .bells, .vecs, .ring, .safe] s (kpEffect x0 x1 x2 x3 s) := by
  unfold kpEffect
  repeat' first
    | with_reducible assumption
    | with_reducible exact Within.refl _ _
    | with_reducible apply Within.step rgnEvt_within rfl
    | with_reducible apply Within.step rewriteFoot_within rfl
    | with_reducible apply Within.step kpFailure_within rfl
    | with_reducible apply forAll_within
    | with_reducible apply Within.ite <;> intro _
    | with_reducible exact id
    | with_reducible exact Nat.le_refl _
    | (refine fun (p : Part) hp => ?_; cases p <;> first | (cases hp; done) | with_reducible rfl)
    | intro x t h
    | intro t h
    | split
    | (dsimp only; split)
    | with_reducible apply Within.leaf

theorem finishRead_within {x0 x1 x2 x3 s} : Within [.flds, .links, .accs, .regions] s (finishRead x0 x1 x2 x3 s) := by
  unfold finishRead
  repeat' first
    | with_reducible assumption
    | with_reducible exact Within.refl _ _
    | with_reducible apply Within.step pinCopy_within rfl
    | with_reducible apply Within.step completeData_within rfl
    | with_reducible apply Within.step complete_within rfl
    | with_reducible apply onlyIf_within
    | with_reducible apply Within.ite <;> intro _
    | with_reducible exact id
    | with_reducible exact Nat.le_refl _
    | (refine fun (p : Part) hp => ?_; cases p <;> first | (cases hp; done) | with_reducible rfl)
    | intro x t h
    | intro t h
    | split
    | (dsimp only; split)
    | with_reducible apply Within.leaf

theorem finishPlain_within {x0 x1 s} : Within [.hdrs, .flds, .links, .accs, .commits, .chans, .regions, .queues, .jobs, .bells, .vecs, .groups, .pll, .ring, .safe] s (finishPlain x0 x1 s) := by
  unfold finishPlain
  repeat' first
    | with_reducible assumption
    | with_reducible exact Within.refl _ _
    | with_reducible apply Within.step countRec_within rfl
    | with_reducible apply Within.step countGot_within rfl
    | with_reducible apply Within.step finishRead_within rfl
    | with_reducible apply forAll_within
    | with_reducible apply Within.ite <;> intro _
    | intro x t h
    | intro t h

theorem countKp_within {x0 x1 s} : Within [.hdrs, .flds, .links, .accs, .commits, .chans, .regions, .queues, .jobs, .bells, .vecs, .groups, .pll, .ring, .safe] s (countKp x0 x1 s) := by
  unfold countKp
  repeat' first
    | with_reducible assumption
    | with_reducible exact Within.refl _ _
    | with_reducible apply Within.step countRec_within rfl
    | with_reducible apply Within.step countGot_within rfl
    | with_reducible apply forAll_within
    | intro x t h
    | intro t h

theorem finishKp_within {x0 x1 s} : Within [.hdrs, .flds, .links, .accs, .nextId, .commits, .chans, .recs, .regions, .queues, .jobs, .bells, .vecs, .groups, .pll, .ring, .safe] s (finishKp x0 x1 s) := by
  unfold finishKp
  repeat' first
    | with_reducible assumption
    | with_reducible exact Within.refl _ _
    | with_reducible apply Within.step kpEffect_within rfl
    | with_reducible apply Within.step countKp_within rfl
    | with_reducible apply Within.step finishRead_within rfl
    | with_reducible apply forAll_within
    | with_reducible apply Within.ite <;> intro _
    | intro x t h
    | intro t h

theorem readComplete_within {x0 x1 s} : Within [.hdrs, .flds, .links, .accs, .nextId, .commits, .chans, .recs, .regions, .queues, .jobs, .bells, .vecs, .groups, .pll, .ring, .safe] s (readComplete x0 x1 s) := by
  unfold readComplete
  repeat' first
    | with_reducible exact Within.refl _ _
    | with_reducible apply Within.step discardAcc_within rfl
    | with_reducible apply Within.step finishKp_within rfl
    | with_reducible apply Within.step finishPlain_within rfl
    | with_reducible apply Within.ite <;> intro _
    | with_reducible exact id
    | with_reducible exact Nat.le_refl _
    | (refine fun (p : Part) hp => ?_; cases p <;> first | (cases hp; done) | with_reducible rfl)
    | split
    | (dsimp only; split)
    | with_reducible apply Within.leaf

theorem endCommit_within {x0 x1 x2 x3 s} : Within [.flds, .links, .jobs] s (endCommit x0 x1 x2 x3 s) := by
  unfold endCommit
  repeat' first
    | with_reducible exact Within.refl _ _
    | with_reducible apply Within.step complete_within rfl
    | with_reducible apply Within.step refuseNP_within rfl
    | with_reducible apply Within.ite <;> intro _
    | with_reducible exact id
    | with_reducible exact Nat.le_refl _
    | (refine fun (p : Part) hp => ?_; cases p <;> first | (cases hp; done) | with_reducible rfl)
    | split
    | (dsimp only; split)
    | with_reducible apply Within.leaf

theorem commitAccept_within {x0 s} : Within [.flds, .links, .commits, .regions, .jobs] s (commitAccept x0 s) := by
  unfold commitAccept
  repeat' first
    | with_reducible exact Within.refl _ _
    | with_reducible apply Within.step endCommit_within rfl
    | with_reducible apply Within.step setRegion_within rfl
    | with_reducible apply Within.ite <;> intro _
    | with_reducible exact id
    | with_reducible exact Nat.le_refl _
    | (refine fun (p : Part) hp => ?_; cases p <;> first | (cases hp; done) | with_reducible rfl)
    | split
    | (dsimp only; split)
    | with_reducible apply Within.leaf

theorem readHazard_within {x0 x1 s} : Within [.flds, .chans] s (readHazard x0 x1 s) := by
  unfold readHazard
  repeat' first
    | with_reducible exact Within.refl _ _
    | with_reducible apply Within.step modChan_within rfl
    | with_reducible apply Within.step fbump_within rfl
    | with_reducible apply Within.ite <;> intro _
    | with_reducible exact id
    | with_reducible exact Nat.le_refl _
    | (refine fun (p : Part) hp => ?_; cases p <;> first | (cases hp; done) | with_reducible rfl)
    | with_reducible apply Within.leaf

theorem BlockRead.promote_within {x0 s} : Within [.flds, .chans] s (BlockRead.promote x0 s) := by
  unfold BlockRead.promote
  repeat' first
    | with_reducible assumption
    | with_reducible exact Within.refl _ _
    | with_reducible apply Within.step readHazard_within rfl
    | with_reducible apply forAll_within
    | intro x t h
    | intro t h

theorem BlockRead.count_within {x0 s} : Within [.hdrs, .flds, .links, .accs, .commits, .chans, .regions, .queues, .jobs, .bells, .vecs, .groups, .pll, .ring, .safe] s (BlockRead.count x0 s) := by
  unfold BlockRead.count
  repeat' first
    | with_reducible assumption
    | with_reducible exact Within.refl _ _
    | with_reducible apply Within.step countDec_within rfl
    | with_reducible apply Within.step touchCheck_within rfl
    | with_reducible apply Within.step modChan_within rfl
    | with_reducible apply forAll_within
    | intro x t h
    | intro t h

theorem LineCopy.promote_within {x0 s} : Within [.flds, .chans] s (LineCopy.promote x0 s) := by
  unfold LineCopy.promote
  repeat' first
    | with_reducible assumption
    | with_reducible exact Within.refl _ _
    | with_reducible apply Within.step readHazard_within rfl
    | with_reducible apply forAll_within
    | intro x t h
    | intro t h

theorem LineCopy.run_within {x0 s} : Within [.hdrs, .flds, .links, .accs, .nextId, .commits, .chans, .regions, .queues, .jobs, .bells, .vecs, .groups, .pll, .ring, .safe] s (LineCopy.run x0 s) := by
  unfold LineCopy.run
  repeat' first
    | with_reducible assumption
    | with_reducible exact Within.refl _ _
    | with_reducible apply Within.step countDec_within rfl
    | with_reducible apply Within.step touchCheck_within rfl
    | with_reducible apply Within.step modChan_within rfl
    | with_reducible apply Within.step admitWrite_within rfl
    | with_reducible apply forAll_within
    | with_reducible apply Within.ite <;> intro _
    | with_reducible exact id
    | with_reducible exact Nat.le_refl _
    | (refine fun (p : Part) hp => ?_; cases p <;> first | (cases hp; done) | with_reducible rfl)
    | intro x t h
    | intro t h
    | split
    | (dsimp only; split)
    | with_reducible apply Within.leaf

theorem fillLine_within {x0 x1 x2 x3 x4 x5 s} : Within [.hdrs, .flds, .links, .accs, .nextId, .commits, .chans, .regions, .queues, .jobs, .bells, .vecs, .groups, .pll, .ring, .safe] s (fillLine x0 x1 x2 x3 x4 x5 s) := by
  unfold fillLine
  repeat' first
    | with_reducible exact Within.refl _ _
    | with_reducible apply Within.step LineCopy.promote_within rfl
    | with_reducible apply Within.step LineCopy.run_within rfl
    | with_reducible apply Within.ite <;> intro _
    | with_reducible exact id
    | with_reducible exact Nat.le_refl _
    | (refine fun (p : Part) hp => ?_; cases p <;> first | (cases hp; done) | with_reducible rfl)
    | with_reducible apply Within.leaf

theorem fillForwardDone_within {x0 x1 s} : Within [.hdrs, .flds, .links, .accs, .nextId, .commits, .chans, .regions, .queues, .jobs, .bells, .vecs, .groups, .pll, .ring, .safe] s (fillForwardDone x0 x1 s) := by
  unfold fillForwardDone
  repeat' first
    | with_reducible assumption
    | with_reducible exact Within.refl _ _
    | with_reducible apply Within.step fillLine_within rfl
    | with_reducible apply Within.step endCommit_within rfl
    | with_reducible apply Within.step modRegion_within rfl
    | with_reducible apply forAll_within
    | with_reducible apply Within.ite <;> intro _
    | with_reducible exact id
    | with_reducible exact Nat.le_refl _
    | (refine fun (p : Part) hp => ?_; cases p <;> first | (cases hp; done) | with_reducible rfl)
    | intro x t h
    | intro t h
    | split
    | (dsimp only; split)
    | with_reducible apply Within.leaf

theorem epchEvt_within {x0 x1 x2 s} : Within [.hdrs, .vecs] s (epchEvt x0 x1 x2 s) :=
  raise_within.mono rfl

theorem markLate_within {x0 x1 x2 s} : Within [.hdrs, .flds, .regions, .vecs] s (markLate x0 x1 x2 s) := by
  unfold markLate
  repeat' first
    | with_reducible exact Within.refl _ _
    | with_reducible apply Within.step epchEvt_within rfl
    | with_reducible apply Within.step fbump_within rfl
    | with_reducible apply Within.step rgnEvt_within rfl
    | with_reducible apply Within.step setRegion_within rfl
    | with_reducible exact id
    | with_reducible exact Nat.le_refl _
    | (refine fun (p : Part) hp => ?_; cases p <;> first | (cases hp; done) | with_reducible rfl)
    | with_reducible apply Within.leaf

theorem skipCopy_within {x0 x1 x2 s} : Within [.hdrs, .flds, .regions, .vecs] s (skipCopy x0 x1 x2 s) := by
  unfold skipCopy
  repeat' first
    | with_reducible exact Within.refl _ _
    | with_reducible apply Within.step epchEvt_within rfl
    | with_reducible apply Within.step fbump_within rfl
    | with_reducible apply Within.step rgnEvt_within rfl
    | with_reducible apply Within.step setRegion_within rfl
    | with_reducible exact id
    | with_reducible exact Nat.le_refl _
    | (refine fun (p : Part) hp => ?_; cases p <;> first | (cases hp; done) | with_reducible rfl)
    | with_reducible apply Within.leaf

theorem flipRecs_within {x0 x1 x2 s} : Within [.chans, .recs] s (flipRecs x0 x1 x2 s) := by
  unfold flipRecs
  repeat' first
    | with_reducible assumption
    | with_reducible exact Within.refl _ _
    | with_reducible apply Within.step changeRec_within rfl
    | with_reducible apply forAll_within
    | with_reducible apply Within.ite <;> intro _
    | with_reducible exact id
    | with_reducible exact Nat.le_refl _
    | (refine fun (p : Part) hp => ?_; cases p <;> first | (cases hp; done) | with_reducible rfl)
    | intro x t h
    | intro t h
    | split
    | (dsimp only; split)
    | with_reducible apply Within.leaf

theorem flipTo_within {x0 x1 x2 s} : Within [.flds, .chans, .recs, .regions, .ring] s (flipTo x0 x1 x2 s) := by
  unfold flipTo
  repeat' first
    | with_reducible assumption
    | with_reducible exact Within.refl _ _
    | with_reducible apply Within.step flipRecs_within rfl
    | with_reducible apply Within.step setRegion_within rfl
    | with_reducible apply Within.step markDirty_within rfl
    | with_reducible apply Within.step fset_within rfl
    | with_reducible apply forAll_within
    | with_reducible apply Within.ite <;> intro _
    | with_reducible exact id
    | with_reducible exact Nat.le_refl _
    | (refine fun (p : Part) hp => ?_; cases p <;> first | (cases hp; done) | with_reducible rfl)
    | intro x t h
    | intro t h
    | with_reducible apply Within.leaf

theorem flipRegion_within {x0 x1 s} : Within [.hdrs, .flds, .chans, .recs, .regions, .vecs, .ring] s (flipRegion x0 x1 s) := by
  unfold flipRegion
  repeat' first
    | with_reducible assumption
    | with_reducible exact Within.refl _ _
    | with_reducible apply Within.step markLate_within rfl
    | with_reducible apply Within.step flipTo_within rfl
    | with_reducible apply Within.step skipCopy_within rfl
    | with_reducible apply forAll_within
    | with_reducible apply Within.ite <;> intro _
    | with_reducible exact id
    | with_reducible exact Nat.le_refl _
    | (refine fun (p : Part) hp => ?_; cases p <;> first | (cases hp; done) | with_reducible rfl)
    | intro x t h
    | intro t h
    | split
    | (dsimp only; split)
    | with_reducible apply Within.leaf

theorem flipAll_within {x0 s} : Within [.hdrs, .flds, .chans, .recs, .regions, .vecs, .ring] s (flipAll x0 s) := by
  unfold flipAll
  repeat' first
    | with_reducible assumption
    | with_reducible exact Within.refl _ _
    | with_reducible apply Within.step flipRegion_within rfl
    | with_reducible apply forAll_within
    | with_reducible apply Within.ite <;> intro _
    | intro x t h
    | intro t h

theorem execRd_within {x0 x1 x2 x3 x4 x5 s} : ∀ u, execRd x0 x1 x2 x3 x4 x5 s = .next u → Within [.hdrs, .flds, .links, .accs, .nextId, .commits, .vecs] s u := by
  unfold execRd
  refine fun _ h => Host.Outcome.next.inj h ▸ ?_
  repeat' first
    | with_reducible assumption
    | with_reducible exact Within.refl _ _
    | with_reducible apply Within.step hostRd_within rfl
    | with_reducible apply arrives_within ?_ rfl
    | intro x t h
    | intro t h

theorem execWrAck_within {x0 x1 x2 x3 x4 x5 s} : ∀ u, execWrAck x0 x1 x2 x3 x4 x5 s = .next u → Within [.hdrs, .flds, .links, .accs, .nextId, .commits, .vecs] s u := by
  unfold execWrAck
  refine fun _ h => Host.Outcome.next.inj h ▸ ?_
  repeat' first
    | with_reducible assumption
    | with_reducible exact Within.refl _ _
    | with_reducible apply Within.step hostWrAck_within rfl
    | with_reducible apply arrives_within ?_ rfl
    | intro x t h
    | intro t h

theorem execWrPost_within {x0 x1 x2 x3 x4 s} : ∀ u, execWrPost x0 x1 x2 x3 x4 s = .next u → Within [.hdrs, .flds, .links, .accs, .nextId, .commits, .vecs] s u := by
  unfold execWrPost
  refine fun _ h => Host.Outcome.next.inj h ▸ ?_
  repeat' first
    | with_reducible assumption
    | with_reducible exact Within.refl _ _
    | with_reducible apply Within.step hostWrPost_within rfl
    | with_reducible apply arrives_within ?_ rfl
    | intro x t h
    | intro t h

theorem execCommit_within {x0 x1 x2 x3 x4 s} : ∀ u, execCommit x0 x1 x2 x3 x4 s = .next u → Within [.hdrs, .flds, .links, .accs, .nextId, .commits, .vecs] s u := by
  unfold execCommit
  refine fun _ h => Host.Outcome.next.inj h ▸ ?_
  repeat' first
    | with_reducible assumption
    | with_reducible exact Within.refl _ _
    | with_reducible apply Within.step hostCommit_within rfl
    | with_reducible apply arrives_within ?_ rfl
    | intro x t h
    | intro t h

theorem execCommitAccept_within {x0 s} : ∀ u, execCommitAccept x0 s = .next u → Within [.flds, .links, .commits, .regions, .jobs] s u :=
  fun _ h => Host.Outcome.next.inj h ▸ commitAccept_within.mono rfl

theorem execFillForwardDone_within {x0 x1 s} : ∀ u, execFillForwardDone x0 x1 s = .next u → Within [.hdrs, .flds, .links, .accs, .nextId, .commits, .chans, .regions, .queues, .jobs, .bells, .vecs, .groups, .pll, .ring, .safe] s u :=
  fun _ h => Host.Outcome.next.inj h ▸ fillForwardDone_within.mono rfl

theorem execOrderingPointPass_within {x0 s} : ∀ u, execOrderingPointPass x0 s = .next u → Within [.hdrs, .flds, .links, .accs, .nextId, .chans, .recs, .regions, .queues, .jobs, .bells, .vecs, .groups, .ring] s u := by
  unfold execOrderingPointPass
  refine fun _ h => Host.Outcome.next.inj h ▸ ?_
  repeat' first
    | with_reducible exact Within.refl _ _
    | with_reducible apply Within.step releaseBells_within rfl
    | with_reducible apply Within.step orderingPass_within rfl

theorem execReadComplete_within {x0 x1 s} : ∀ u, execReadComplete x0 x1 s = .next u → Within [.hdrs, .flds, .links, .accs, .nextId, .commits, .chans, .recs, .regions, .queues, .jobs, .bells, .vecs, .groups, .pll, .ring, .safe] s u :=
  fun _ h => Host.Outcome.next.inj h ▸ readComplete_within.mono rfl

/-! ### Line -/

theorem lEvt_within {x0 x1 x2 s} : Within [.hdrs, .vecs] s (lEvt x0 x1 x2 s) :=
  laneEvt_within.mono rfl

theorem upEvt_within {x0 s} : Within [.hdrs, .vecs] s (upEvt x0 s) := by
  unfold upEvt
  repeat' first
    | with_reducible exact Within.refl _ _
    | with_reducible apply Within.step lEvt_within rfl
    | with_reducible apply Within.step raiseCaps_within rfl
    | with_reducible apply Within.ite <;> intro _

theorem downEvt_within {x0 s} : Within [.hdrs, .vecs] s (downEvt x0 s) := by
  unfold downEvt
  repeat' first
    | with_reducible exact Within.refl _ _
    | with_reducible apply Within.step lEvt_within rfl
    | with_reducible apply Within.step raiseCaps_within rfl
    | with_reducible apply Within.ite <;> intro _

theorem sendBlock_within {x0 x1 x2 s} : Within [.links] s (sendBlock x0 x1 x2 s) := by
  unfold sendBlock
  repeat' first
    | with_reducible exact Within.refl _ _
    | with_reducible apply Within.step modLane_within rfl
    | with_reducible apply Within.ite <;> intro _
    | with_reducible exact id
    | with_reducible exact Nat.le_refl _
    | (refine fun (p : Part) hp => ?_; cases p <;> first | (cases hp; done) | with_reducible rfl)
    | with_reducible apply Within.leaf

theorem putWord_within {x0 x1 x2 s} : Within [.links] s (putWord x0 x1 x2 s) := by
  unfold putWord
  repeat' first
    | with_reducible exact Within.refl _ _
    | with_reducible apply Within.step setLink_within rfl
    | with_reducible apply Within.ite <;> intro _
    | with_reducible exact id
    | with_reducible exact Nat.le_refl _
    | (refine fun (p : Part) hp => ?_; cases p <;> first | (cases hp; done) | with_reducible rfl)
    | with_reducible apply Within.leaf

theorem putWords_within {x0 x1 x2 s} : Within [.links] s (putWords x0 x1 x2 s) := by
  unfold putWords
  repeat' first
    | with_reducible assumption
    | with_reducible exact Within.refl _ _
    | with_reducible apply Within.step putWord_within rfl
    | with_reducible apply forAll_within
    | intro x t h
    | intro t h

theorem completeRound_within {x0 s} : Within [.freeCtr, .links] s (completeRound x0 s) := by
  unfold completeRound
  repeat' first
    | with_reducible assumption
    | with_reducible exact Within.refl _ _
    | with_reducible apply Within.step putWord_within rfl
    | with_reducible apply Within.step nextFree_within rfl
    | with_reducible apply forAll_within
    | with_reducible apply Within.ite <;> intro _
    | intro x t h
    | intro t h

theorem sendGroup_within {x0 x1 x2 s} : Within [.freeCtr, .links] s (sendGroup x0 x1 x2 s) := by
  unfold sendGroup
  repeat' first
    | with_reducible exact Within.refl _ _
    | with_reducible apply Within.step completeRound_within rfl
    | with_reducible apply Within.step putWords_within rfl
    | with_reducible apply Within.step nextFree_within rfl
    | with_reducible apply Within.step setLink_within rfl
    | with_reducible apply Within.step modLink_within rfl
    | with_reducible apply Within.ite <;> intro _
    | with_reducible exact id
    | with_reducible exact Nat.le_refl _
    | (refine fun (p : Part) hp => ?_; cases p <;> first | (cases hp; done) | with_reducible rfl)
    | with_reducible apply Within.leaf

theorem sendFill_within {x0 s} : Within [.freeCtr, .links] s (sendFill x0 s) := by
  unfold sendFill
  repeat' first
    | with_reducible assumption
    | with_reducible exact Within.refl _ _
    | with_reducible apply Within.step putWord_within rfl
    | with_reducible apply Within.step nextFree_within rfl
    | with_reducible apply forAll_within
    | intro x t h
    | intro t h

theorem wakePort_within {x0 s} : Within [.freeCtr, .links] s (wakePort x0 s) := by
  unfold wakePort
  repeat' first
    | with_reducible exact Within.refl _ _
    | with_reducible apply Within.step sendFill_within rfl
    | with_reducible apply Within.step modLink_within rfl
    | with_reducible apply Within.ite <;> intro _
    | with_reducible exact id
    | with_reducible exact Nat.le_refl _
    | (refine fun (p : Part) hp => ?_; cases p <;> first | (cases hp; done) | with_reducible rfl)
    | split
    | (dsimp only; split)
    | with_reducible apply Within.leaf

theorem wakeDevice_within {x0 x1 s} : Within [.freeCtr, .hdrs, .flds, .links, .chans, .vecs, .power] s (wakeDevice x0 x1 s) := by
  unfold wakeDevice
  repeat' first
    | with_reducible assumption
    | with_reducible exact Within.refl _ _
    | with_reducible apply Within.step wakePort_within rfl
    | with_reducible apply Within.step fset_within rfl
    | with_reducible apply Within.step fbump_within rfl
    | with_reducible apply Within.step raise_within rfl
    | with_reducible apply forAll_within
    | with_reducible apply Within.ite <;> intro _
    | with_reducible exact id
    | with_reducible exact Nat.le_refl _
    | (refine fun (p : Part) hp => ?_; cases p <;> first | (cases hp; done) | with_reducible rfl)
    | intro x t h
    | intro t h
    | with_reducible apply Within.leaf

theorem wakeFor_within {x0 x1 s} : Within [.freeCtr, .hdrs, .flds, .links, .chans, .vecs, .power] s (wakeFor x0 x1 s) := by
  unfold wakeFor
  repeat' first
    | with_reducible assumption
    | with_reducible exact Within.refl _ _
    | with_reducible apply Within.step wakeDevice_within rfl
    | with_reducible apply onlyIf_within
    | with_reducible exact id
    | with_reducible exact Nat.le_refl _
    | (refine fun (p : Part) hp => ?_; cases p <;> first | (cases hp; done) | with_reducible rfl)
    | intro x t h
    | intro t h
    | split
    | (dsimp only; split)
    | with_reducible apply Within.leaf

/-! ### Via -/

theorem sbEvt_within {x0 x1 x2 x3 s} : Within [.hdrs, .vecs] s (sbEvt x0 x1 x2 x3 s) :=
  raise_within.mono rfl

theorem sbRefused_within {x0 s} : Within [.hdrs, .flds, .vecs] s (sbRefused x0 s) := by
  unfold sbRefused
  repeat' first
    | with_reducible exact Within.refl _ _
    | with_reducible apply Within.step sbEvt_within rfl
    | with_reducible apply Within.step fbump_within rfl
    | with_reducible apply Within.ite <;> intro _

theorem noteDeny_within {x0 s} : Within [.hdrs] s (noteDeny x0 s) := by
  unfold noteDeny
  repeat' first
    | with_reducible assumption
    | with_reducible exact Within.refl _ _
    | with_reducible apply Within.step modHdr_within rfl
    | with_reducible apply onlyIf_within
    | with_reducible exact id
    | with_reducible exact Nat.le_refl _
    | (refine fun (p : Part) hp => ?_; cases p <;> first | (cases hp; done) | with_reducible rfl)
    | intro x t h
    | intro t h
    | with_reducible apply Within.leaf

/-- What waking the device may change (R349). -/
abbrev wakeParts : List Part := [.freeCtr, .hdrs, .flds, .links, .chans, .vecs, .power]
theorem sleeps_wq (q : Fin 256) : sleeps (Pg.wq q) = false := by
  have h : 0x90 ≤ Pg.wq q ∧ Pg.wq q < 0xA0 := by
    have := q.isLt
    simp only [Pg.wq]
    omega
  have h1 : pageType (Pg.wq q) = 0x90 := by
    unfold pageType
    repeat' split
    all_goals first | rfl | omega
  unfold sleeps
  rw [h1]
  rfl
theorem wakeFor_page_within {P r x0 x1 s} (hs : sleeps x1 = false ∨ wakeParts.all P.contains = true)
    (k : Within P r s) : Within P r (wakeFor x0 x1 s) := by
  rcases hs with h | h
  · cases x0 <;> simp only [wakeFor, onlyIf, h] <;> exact k
  · exact Within.step wakeFor_within h k
theorem viaReg_within {P r x0 x1 x2 f s} (hf : ∀ t, Within P r t → Within P r (f t)) (hm : [.hdrs, .flds, .vecs].all P.contains = true)
    (hs : sleeps x1 = false ∨ wakeParts.all P.contains = true) (k : Within P r s) : Within P r (viaReg x0 x1 x2 f s) := by
  have hw (src : Src) : Within P r (wakeFor src x1 s) := wakeFor_page_within hs k
  have no (p : Nat) (e : Status) : Within P r (countRefused p e s) :=
    Within.step countRefused_within (all_contains_trans (R := [.hdrs, .flds, .vecs]) rfl hm) k
  unfold viaReg
  cases x0 with
  | host p => exact Within.ite (fun _ => k) fun _ => Within.ite (fun _ => no _ _) fun _ => Within.ite (fun _ => hf s k) fun _ => no _ _
  | sideband => exact Within.ite (fun _ => hf _ (hw _)) fun _ => Within.step sbRefused_within (all_contains_trans (R := [.hdrs, .flds, .vecs]) rfl hm) k
  | core => exact hf _ (hw _)

theorem viaSealed_within {P r x0 x1 x2 x3 f s} (hf : ∀ t, Within P r t → Within P r (f t)) (hm : [.hdrs, .flds, .vecs].all P.contains = true)
    (hs : sleeps x1 = false ∨ wakeParts.all P.contains = true) (k : Within P r s) : Within P r (viaSealed x0 x1 x2 x3 f s) := by
  unfold viaSealed
  refine viaReg_within (fun t ht => Within.ite (fun _ => ?_) fun _ => hf t ht) (all_contains_trans (R := [.hdrs, .flds, .vecs]) rfl hm) hs k
  cases x0 with
  | host p => exact Within.step countRefused_within (all_contains_trans (R := [.hdrs, .flds, .vecs]) rfl hm) (Within.step noteDeny_within (all_contains_trans (R := [.hdrs, .flds, .vecs]) rfl hm) ht)
  | sideband => exact Within.step sbRefused_within (all_contains_trans (R := [.hdrs, .flds, .vecs]) rfl hm) (Within.step noteDeny_within (all_contains_trans (R := [.hdrs, .flds, .vecs]) rfl hm) ht)
  | core => exact ht

theorem busResult_within {v : Option Word} {t : State} : Within [.busResult] t { t with busResult := v } := by
  refine Within.leaf (Within.refl _ _) ?_ (Nat.le_refl _) (Nat.le_refl _) id id
  intro p hp
  cases p <;> first | (cases hp; done) | with_reducible rfl
theorem viaRead_within {P r x0 x1 s} {f : State → Word × State} (hf : ∀ t, Within P r t → Within P r (f t).2)
    (hm : [Part.busResult, .flds].all P.contains = true) (hs : sleeps x1 = false ∨ wakeParts.all P.contains = true) (k : Within P r s) :
    Within P r (viaRead x0 x1 f s) := by
  have go (t : State) (h : Within P r t) : Within P r { (f t).2 with busResult := some (f t).1 } :=
    Within.step busResult_within (all_contains_trans (R := [.busResult, .flds]) rfl hm) (hf t h)
  have hw (src : Src) : Within P r (wakeFor src x1 s) := wakeFor_page_within hs k
  have no (p : Nat) (e : Status) : Within P r (countRefused p e s) :=
    Within.step countRefused_within (all_contains_trans (R := [.busResult, .flds]) rfl hm) k
  unfold viaRead
  cases x0 with
  | host p => exact Within.ite (fun _ => k) fun _ => Within.ite (fun _ => no _ _) fun _ => Within.ite (fun _ => go s k) fun _ => no _ _
  | sideband => exact go _ (hw _)
  | core => exact go _ (hw _)

/-! ### ChanCmd -/

theorem snapRequest_within {x0 s} : Within [.chans] s (snapRequest x0 s) := by
  unfold snapRequest
  repeat' first
    | with_reducible exact Within.refl _ _
    | with_reducible apply Within.step modChan_within rfl
    | with_reducible apply Within.ite <;> intro _
    | with_reducible exact id
    | with_reducible exact Nat.le_refl _
    | (refine fun (p : Part) hp => ?_; cases p <;> first | (cases hp; done) | with_reducible rfl)
    | with_reducible apply Within.leaf

theorem clearChan_within {x0 s} : Within [.flds, .chans] s (clearChan x0 s) := by
  unfold clearChan
  repeat' first
    | with_reducible exact Within.refl _ _
    | with_reducible apply Within.step modChan_within rfl
    | with_reducible apply Within.step fclear_within rfl
    | with_reducible exact id
    | with_reducible exact Nat.le_refl _
    | (refine fun (p : Part) hp => ?_; cases p <;> first | (cases hp; done) | with_reducible rfl)
    | with_reducible apply Within.leaf

theorem execTelemetrySnap_within {x0 x1 s} : ∀ u, execTelemetrySnap x0 x1 s = .next u → Within [.freeCtr, .hdrs, .flds, .links, .chans, .vecs, .power] s u := by
  unfold execTelemetrySnap
  refine fun _ h => Host.Outcome.next.inj h ▸ ?_
  repeat' first
    | with_reducible assumption
    | with_reducible exact Within.refl _ _
    | with_reducible apply Within.step snapRequest_within rfl
    | with_reducible apply Within.step wakeFor_within rfl
    | with_reducible apply viaReg_within ?_ rfl (.inr rfl)
    | intro x t h
    | intro t h

theorem execChClrcnt_within {x0 x1 s} : ∀ u, execChClrcnt x0 x1 s = .next u → Within [.freeCtr, .hdrs, .flds, .links, .chans, .vecs, .power] s u := by
  unfold execChClrcnt
  refine fun _ h => Host.Outcome.next.inj h ▸ ?_
  repeat' first
    | with_reducible assumption
    | with_reducible exact Within.refl _ _
    | with_reducible apply Within.step clearChan_within rfl
    | with_reducible apply Within.step wakeFor_within rfl
    | with_reducible apply viaReg_within ?_ rfl (.inr rfl)
    | intro x t h
    | intro t h

end Sys2Proof.Machine
end

