-- ==== Sys2Proof/Laws/Via.lean ====
section
/-!
SUPPORT. What an admitted register write, a refused one and a cleared counter come to.
-/

namespace Sys2Proof.Machine

theorem wakeFor_awake {src : Src} {page : Nat} {s : State} (h : sleeps page = false) : wakeFor src page s = s := by
  cases src <;> simp [wakeFor, onlyIf, h]

@[simp] theorem wakeFor_host {p : Fin 16} {page : Nat} {s : State} : wakeFor (.host p) page s = s := rfl

theorem viaReg_admitted {src : Src} {page off : Nat} {f : State → State} {s : State} (h : mayWrite s src page off = true) :
    viaReg src page off f s = f (wakeFor src page s) := by
  cases src with
  | host p =>
    simp only [mayWrite, Bool.and_eq_true, Bool.not_eq_true', bne_iff_ne, ne_eq] at h
    obtain ⟨⟨⟨h1, h2⟩, h3⟩, h4⟩ := h
    simp [viaReg, h1, h2, h3, h4]
  | sideband =>
    have h' : sbReach s page off = true := h
    simp [viaReg, h']
  | core => rfl

/-- A command that is the effect of an admitted register write answers that effect, on a unit that is awake. -/
theorem Answers.woken {c : Instr} {src : Src} {page off : Nat} {f : State → State} {s : State} {post : State → Prop}
    (he : exec c s = .next (viaReg src page off f s)) (h : mayWrite s src page off = true) (hp : post (f (wakeFor src page s))) :
    Answers c s post :=
  ⟨_, by rw [he, viaReg_admitted h], hp⟩

/-- A command that is the effect of an admitted register write of a page whose unit never sleeps answers that effect. -/
theorem Answers.write {c : Instr} {src : Src} {page off : Nat} {f : State → State} {s : State} {post : State → Prop}
    (he : exec c s = .next (viaReg src page off f s)) (hs : sleeps page = false) (h : mayWrite s src page off = true) (hp : post (f s)) :
    Answers c s post :=
  Answers.woken he h (by rw [wakeFor_awake hs]; exact hp)

theorem viaRead_admitted {src : Src} {page : Nat} {f : State → Word × State} {s : State} (h : mayRead s src page = true) :
    viaRead src page f s = { (f (wakeFor src page s)).2 with busResult := some (f (wakeFor src page s)).1 } := by
  cases src with
  | host p =>
    simp only [mayRead, Bool.and_eq_true, Bool.not_eq_true', bne_iff_ne, ne_eq] at h
    obtain ⟨⟨⟨h1, h2⟩, h3⟩, h4⟩ := h
    simp [viaRead, h1, h2, h3, h4]
  | sideband => rfl
  | core => rfl

theorem OtherFields.refl (page : Nat) (fs : List Fld) (s : State) : OtherFields page fs s s := fun _ _ _ => rfl

theorem OtherFields.step {page : Nat} {fs gs : List Fld} {s t u : State} (h : OtherFields page fs s t) (k : OtherFields page gs t u) :
    OtherFields page (fs ++ gs) s u := fun p f hf =>
  (k p f fun g hg => hf g (List.mem_append_right _ hg)).trans (h p f fun g hg => hf g (List.mem_append_left _ hg))

theorem OtherFields.mono {page : Nat} {fs gs : List Fld} {s t : State} (h : OtherFields page fs s t) (hs : ∀ f ∈ fs, f ∈ gs) :
    OtherFields page gs s t := fun p f hf => h p f fun g hg => hf g (hs g hg)

theorem fset_otherFields {page : Nat} {f : Fld} {v : Nat} {s : State} : OtherFields page [f] s (fset page f v s) := fun _ _ hf =>
  fget_fset_ne (hf f (List.mem_singleton.mpr rfl))

theorem fset_zero_keeps_zero {page : Nat} {f g : Fld} {s : State} (hf : f.rst = 0) (hg : g.rst = 0) (h : fget s page g = 0) :
    fget (fset page f 0 s) page g = 0 := by
  unfold fget fset at *
  rw [hg] at h ⊢
  rw [hf, Nat.zero_mod]
  by_cases hk : fkey page g.off g.lo = fkey page f.off f.lo
  · rw [hk]
    show tget 0 (cset s.flds (fkey page f.off f.lo) 0 0) (fkey page f.off f.lo) = 0
    exact tget_cset_same _ _ _ _
  · show tget 0 (cset s.flds (fkey page f.off f.lo) 0 0) (fkey page g.off g.lo) = 0
    rw [tget_cset_ne _ _ hk]
    exact h

theorem fclear_keeps_zero {page : Nat} {fs : List Fld} {g : Fld} (hg : g.rst = 0) : ∀ {s : State}, (∀ f ∈ fs, f.rst = 0) →
    fget s page g = 0 → fget (fclear page fs s) page g = 0 := by
  induction fs with
  | nil => exact fun _ h => h
  | cons f t ih =>
    intro s hr h
    exact ih (fun e he => hr e (List.mem_cons_of_mem _ he)) (fset_zero_keeps_zero (hr f List.mem_cons_self) hg h)

theorem fclear_cleared {page : Nat} {fs : List Fld} : ∀ {s : State}, (∀ f ∈ fs, f.rst = 0) → Cleared page fs s (fclear page fs s) := by
  induction fs with
  | nil => exact fun _ => ⟨fun _ h => (nomatch h), OtherFields.refl _ _ _⟩
  | cons f t ih =>
    intro s hr
    have hz := hr f List.mem_cons_self
    have ht := fun e he => hr e (List.mem_cons_of_mem f he)
    have k := ih (s := fset page f 0 s) ht
    refine ⟨fun g hg => ?_, fset_otherFields.step k.2⟩
    rcases List.mem_cons.mp hg with e | hm
    · rw [e]
      exact fclear_keeps_zero (fs := t) hz ht (by rw [fget_fset_same, Nat.zero_mod])
    · exact k.1 g hm

theorem Cleared.trans {page : Nat} {fs gs : List Fld} {s t : State} (h : Cleared page fs s t) (hg : ∀ f ∈ gs, f.rst = 0)
    (hf : ∀ f ∈ fs, f.rst = 0) : Cleared page (fs ++ gs) s (fclear page gs t) := by
  refine ⟨fun g hm => ?_, h.2.step (fclear_cleared hg).2⟩
  rcases List.mem_append.mp hm with hm | hm
  · exact fclear_keeps_zero (hf g hm) hg (h.1 g hm)
  · exact (fclear_cleared hg).1 g hm

end Sys2Proof.Machine
end

