-- ==== Sys2Proof/Laws/Host.lean ====
section
/-!
SUPPORT. What a request of a host port finds: the port after it has been heard, the checks of Table 4-7, a new access.
-/

namespace Sys2Proof.Machine

theorem heard_fget {l : Nat} {s : State} {p : Nat} {f : Fld} (h : fkey p f.off f.lo ≠ fkey (Pg.link l) 0x204 8) : fget (heard l s) p f = fget s p f := by
  unfold heard standbyRefused
  split
  · rw [modLink_fget]
    unfold fbump fadd
    rw [fget_fset_ne h, modLink_fget]
  · rw [modLink_fget]

theorem heard_other {l : Nat} {s : State} : OtherFields (Pg.link l) [F.HP_PSBY_REFUSED] s (heard l s) := fun _ _ hf => heard_fget (hf _ (List.mem_singleton.mpr rfl))

theorem link_ne (P : Nat) (p : Nat) (hp : p < 16) (f : Fld) (ho : f.off < 4096) (hl : f.lo < 32) (hP : P < 16): fkey P f.off f.lo ≠ fkey (Pg.link p) 0x204 8 := by
  unfold fkey Pg.link; rw [if_pos hp]; omega

theorem heard_same {l : Nat} {s : State} {p : Part} (h : [Part.flds, .links].contains p = false) : Same p s (heard l s) := heard_within.same p h

theorem heard_link {l : Nat} {s : State} : ∃ sb, (heard l s).link l = { (s.link l) with standby := sb, lastBusy := s.now } := by
  unfold heard standbyRefused
  split
  · refine ⟨.none, ?_⟩
    simp [modLink, fbump, fadd]
  · refine ⟨(s.link l).standby, ?_⟩
    simp [modLink]

theorem heard_others {l : Nat} {s : State} : OtherLinks [l] s (heard l s) := by
  intro j hj
  have hj : j ≠ l := fun e => hj (by simp [e])
  unfold heard standbyRefused
  split
  · simp [modLink, fbump, fadd, setLink_link_ne hj]
  · simp [modLink, setLink_link_ne hj]

theorem geom_eq {s t : State} (hf : ∀ f : Fld, f.off = 0x84 → f.lo = 0 → fget t Pg.rgn f = fget s Pg.rgn f) (hb : t.built = s.built) (hc : t.chans = s.chans) : geom t = geom s := by
  have h1 : presentList t = presentList s := by unfold presentList chPresent State.chan; rw [hc]
  have h2 : uMin t = uMin s := by unfold uMin State.chan; rw [h1, hc]
  unfold geom
  rw [h1, h2, hb, hf _ rfl rfl]

theorem regionOf_eq {s t : State} (h : t.regions = s.regions) (a : Nat) : regionOf t a = regionOf s a := by unfold regionOf; rw [h]

theorem mirrorDest_eq {s t : State} (h : t.ring = s.ring) (a : Nat) : mirrorDest t a = mirrorDest s a := by unfold mirrorDest State.mirror; rw [h]
/-- Two states that the checks of a request do not tell apart. -/
structure Alike (s t : State) : Prop where
  safe : t.safe = s.safe
  power : t.power = s.power
  regions : t.regions = s.regions
  ring : t.ring = s.ring
  built : t.built = s.built
  chans : t.chans = s.chans
  boot : t.boot = s.boot
  flash : t.flash = s.flash
  flds : ∀ P f, P < 16 → f.off < 4096 → f.lo < 32 → fget t P f = fget s P f

theorem heard_alike (port : Fin 16) (s : State) : Alike s (heard port s) :=
  ⟨heard_same (p := .safe) rfl, heard_same (p := .power) rfl, heard_same (p := .regions) rfl, heard_same (p := .ring) rfl, heard_same (p := .built) rfl, heard_same (p := .chans) rfl,
   heard_same (p := .boot) rfl, heard_same (p := .flash) rfl, fun P f hP ho hl => heard_fget (link_ne P port port.isLt f ho hl hP)⟩

theorem Alike.right {s t : State} (h : Alike s t) {port rn : Nat} {w : Bool} (hp : port < 16) (hr : rn < 256) :
    memRight t port rn w = memRight s port rn w := by
  unfold memRight
  rw [h.flds _ _ (by decide) (by simp [Fld.shift]; omega) (by simp [Fld.shift])]

theorem Alike.geom {s t : State} (h : Alike s t) : geom t = geom s := geom_eq (fun f ho hl => h.flds _ _ (by decide) (by omega) (by omega)) h.built h.chans

theorem RequestOk.alike {s t : State} (h : Alike s t) {port : Fin 16} {w addr lines ma rn r} (k : RequestOk s port w addr lines ma rn r) : RequestOk t port w addr lines ma rn r :=
  { normal := by unfold inSafe; rw [h.safe]; exact k.normal
    awake := by rw [h.power]; exact k.awake
    inBlock := k.inBlock
    below := by rw [h.geom]; exact k.below
    region := by rw [regionOf_eq h.regions]; exact k.region
    number := k.number, shadow := k.shadow
    right := by rw [h.right port.isLt k.number]; exact k.right
    writer := fun e => ⟨(k.writer e).1, by rw [mirrorDest_eq h.ring]; exact (k.writer e).2⟩
    aged := k.aged, walked := k.walked
    handover := by unfold hoHolds; rw [h.ring]; exact k.handover
    copy := k.copy }

theorem RequestOk.checkMem {s : State} {port w addr lines ma rn r} (k : RequestOk s port w addr lines ma rn r) : checkMem s port w addr lines ma = none := by
  obtain ⟨h1,h2,⟨h3,h3'⟩,h4,h5,h6,h7,h8,h9,h10,h11,h12,h13⟩ := k
  unfold Machine.checkMem
  cases w
  · have := h10 rfl
    rcases this with h | h <;> simp [h1, h2, h3, Nat.not_lt.mpr h3', Nat.not_le.mpr h4, h5, h7, h8, h, h11, h12] <;> omega
  · obtain ⟨ha, hb⟩ := h9 rfl
    have hc := h13 rfl
    obtain ⟨cp, hcp⟩ := Option.isSome_iff_exists.mp hc
    by_cases hbuf : r.buffered = true <;> simp_all [Nat.not_lt.mpr h3', Nat.not_le.mpr h4]

theorem useTag_alike {p tag : Nat} {s t : State} (h : Alike s t) : Alike s (useTag p tag t) :=
  ⟨h.safe, h.power, h.regions, h.ring, h.built, h.chans, h.boot, h.flash, h.flds⟩

theorem useTag_tags {port tag : Nat} {s : State} : ((useTag port tag (heard port s)).link port).tags = (s.link port).tags ++ [tag] := by
  obtain ⟨sb, e⟩ := heard_link (l := port) (s := s)
  unfold useTag modLink
  rw [setLink_link_same, e]

theorem useTag_other {port tag : Nat} {s : State} : OtherLinks [port] s (useTag port tag (heard port s)) := by
  intro j hj
  have hj' : j ≠ port := fun e => hj (by simp [e])
  unfold useTag modLink
  rw [setLink_link_ne hj', heard_others j hj]

theorem newAcc_links {a b c d e f s} : (newAcc a b c d e f s).links = s.links := newAcc_within.same .links rfl

theorem newAcc_flds {a b c d e f s} : (newAcc a b c d e f s).flds = s.flds := newAcc_within.same .flds rfl

theorem otherLinks_of {ls s t u} (h : OtherLinks ls s t) (e : u.links = t.links) : OtherLinks ls s u := fun j hj => by
  have := h j hj; unfold State.link at *; rw [e]; exact this

theorem otherFields_of {p fs s t u} (h : OtherFields p fs s t) (e : u.flds = t.flds) : OtherFields p fs s u := fun j f hj => by
  have := h j f hj; unfold fget at *; rw [e]; exact this

theorem tags_heard {port : Nat} {s : State} : ((heard port s).link port).tags = (s.link port).tags := by
  obtain ⟨sb, e⟩ := heard_link (l := port) (s := s); rw [e]

theorem Alike.regRight {s t : State} (h : Alike s t) {port page : Nat} {w : Bool} (hp : port < 16) (hr : page < 256) :
    regRight t port page w = regRight s port page w := by
  unfold Machine.regRight
  rw [h.flds _ _ (by decide) (by simp [Fld.shift]; omega) (by simp [Fld.shift])]
theorem linkUp_of {s : State} {l : Nat} (h : linkActive s l = true) : linkUp s l = true := by
  unfold linkActive at h
  simp only [Bool.and_eq_true, beq_iff_eq] at h
  unfold linkUp
  rw [h.1.1]

theorem linkUp_state {s t : State} {l : Nat} (h : (t.link l).state = (s.link l).state) : linkUp t l = linkUp s l := by
  unfold linkUp
  rw [h]

theorem countSent_link {l j : Nat} {st : Status} {s : State} : (countSent l st s).link j = s.link j := by
  unfold countSent onlyIf
  split <;> rfl

theorem countRefused_link {l j : Nat} {st : Status} {s : State} : (countRefused l st s).link j = s.link j := by
  unfold countRefused
  split <;> rfl

/-- A completion goes to the end of the port's queue. -/
theorem complete_queued {port tag len : Nat} {cls : TClass} {st : Status} {d : Nat} {reg : Option Nat} {s t : State}
    (hu : linkUp s port = true) (h : (t.link port).state = (s.link port).state) (hq : (t.link port).txq = (s.link port).txq) :
    Completes port tag len cls st d reg s (complete port tag len cls st d reg t) := by
  have h1 : linkUp t port = true := by rw [linkUp_state h, hu]
  have h2 : ∀ u : State, u.link port = t.link port → linkUp u port = true := fun u e => by rw [linkUp_state (s := t) (by rw [e]), h1]
  unfold Completes Queued complete sendMsg queueMsg onlyIf
  dsimp only
  rw [h1, if_pos rfl, h2 _ countSent_link, if_pos rfl]
  unfold modLink
  rw [setLink_link_same, countSent_link]
  show (t.link port).txq ++ _ = _
  rw [hq]

theorem refuseNP_queued {port tag len : Nat} {cls : TClass} {st : Status} {d : Nat} {reg : Option Nat} {s t : State}
    (hu : linkUp s port = true) (h : (t.link port).state = (s.link port).state) (hq : (t.link port).txq = (s.link port).txq) :
    Completes port tag len cls st d reg s (refuseNP port tag len cls st d reg t) :=
  complete_queued hu (by rw [countRefused_link, h]) (by rw [countRefused_link, hq])

theorem useTag_heard_link {port tag : Nat} {s : State} :
    ((useTag port tag (heard port s)).link port).state = (s.link port).state ∧
      ((useTag port tag (heard port s)).link port).txq = (s.link port).txq := by
  obtain ⟨sb, e⟩ := heard_link (l := port) (s := s)
  unfold useTag modLink
  rw [setLink_link_same, e]
  exact ⟨rfl, rfl⟩

end Sys2Proof.Machine
end

