-- ==== Sys2Proof/Laws/WithinFlash.lean ====
section
/-!
SUPPORT. What each operation may change: the flash and the work units. One lemma per operation, named after it.
-/

namespace Sys2Proof.Machine

set_option linter.all false

/-! ### FlashOps -/

theorem setCell_within {x0 x1 s} : Within [.flash] s (setCell x0 x1 s) := by
  unfold setCell
  repeat' first
    | with_reducible exact Within.refl _ _
    | with_reducible exact id
    | with_reducible exact Nat.le_refl _
    | (refine fun (p : Part) hp => ?_; cases p <;> first | (cases hp; done) | with_reducible rfl)
    | exact flash_wf_of rfl
    | with_reducible apply Within.leaf

theorem buildWindow_within {x0 s} : Within [.flash] s (buildWindow x0 s) := by
  unfold buildWindow
  repeat' first
    | with_reducible assumption
    | with_reducible exact Within.refl _ _
    | with_reducible apply foldl_within
    | with_reducible apply Within.ite <;> intro _
    | with_reducible exact id
    | with_reducible exact Nat.le_refl _
    | (refine fun (p : Part) hp => ?_; cases p <;> first | (cases hp; done) | with_reducible rfl)
    | intro x t h
    | intro t h
    | exact flash_wf_of rfl
    | split
    | (dsimp only; split)
    | with_reducible apply Within.leaf

theorem flashPut_within {x0 x1 s} : Within [.flash] s (flashPut x0 x1 s) := by
  refine Within.leaf (Within.refl _ _) ?_ (Nat.le_refl _) (Nat.le_refl _) (id) (fun h => (flash_wf_iff _).mpr (((flash_wf_iff _).mp h).cset _ _))
  intro p hp
  cases p <;> first | (cases hp; done) | with_reducible rfl

theorem flashPutList_within {x0 x1 s} : Within [.flash] s (flashPutList x0 x1 s) := by
  refine Within.leaf (Within.refl _ _) ?_ (Nat.le_refl _) (Nat.le_refl _) (id) (fun h => flash_foldl_wf h _ _)
  intro p hp
  cases p <;> first | (cases hp; done) | with_reducible rfl

theorem flashSector_within {x0 x1 s} (hn : SectorOk x1) : Within [.flash] s (flashSector x0 x1 s) := by
  refine Within.leaf (Within.refl _ _) ?_ (Nat.le_refl _) (Nat.le_refl _) (id) (fun h => flashSector_wf h hn)
  intro p hp
  cases p <;> first | (cases hp; done) | with_reducible rfl

theorem flashErase_within {x0 s} : Within [.flash] s (flashErase x0 s) := flashSector_within sectorOk_nil

theorem flashUndefined_within {x0 s} : Within [.freeCtr, .flash] s (flashUndefined x0 s) :=
  nextFree_within.step rfl ((flashSector_within (range_sectorOk _)).mono rfl)

theorem setFbank_within {x0 x1 s} : Within [.flash] s (setFbank x0 x1 s) := by
  unfold setFbank
  repeat' first
    | with_reducible exact Within.refl _ _
    | with_reducible exact id
    | with_reducible exact Nat.le_refl _
    | (refine fun (p : Part) hp => ?_; cases p <;> first | (cases hp; done) | with_reducible rfl)
    | exact flash_wf_of rfl
    | with_reducible apply Within.leaf

theorem startFlash_within {x0 x1 x2 s} : Within [.boot, .flash] s (startFlash x0 x1 x2 s) := by
  unfold startFlash
  repeat' first
    | with_reducible exact Within.refl _ _
    | with_reducible apply Within.step setFbank_within rfl
    | with_reducible exact id
    | with_reducible exact Nat.le_refl _
    | (refine fun (p : Part) hp => ?_; cases p <;> first | (cases hp; done) | with_reducible rfl)
    | exact flash_wf_of rfl
    | with_reducible apply Within.leaf

theorem flshEvt_within {x0 x1 x2 s} : Within [.hdrs, .vecs] s (flshEvt x0 x1 x2 s) :=
  raise_within.mono rfl

theorem flshCfgErr_within {s} : Within [.hdrs, .vecs] s (flshCfgErr s) :=
  flshEvt_within.mono rfl

theorem countRead_within {x0 x1 x2 s} : Within [.hdrs, .flds, .vecs] s (countRead x0 x1 x2 s) := by
  unfold countRead
  repeat' first
    | with_reducible exact Within.refl _ _
    | with_reducible apply Within.step flshEvt_within rfl
    | with_reducible apply Within.step fbump_within rfl
    | with_reducible apply Within.ite <;> intro _

theorem noteBad_within {x0 x1 s} : Within [.flash] s (noteBad x0 x1 s) := by
  unfold noteBad
  repeat' first
    | with_reducible exact Within.refl _ _
    | with_reducible apply Within.ite <;> intro _
    | with_reducible exact id
    | with_reducible exact Nat.le_refl _
    | (refine fun (p : Part) hp => ?_; cases p <;> first | (cases hp; done) | with_reducible rfl)
    | exact flash_wf_of rfl
    | split
    | (dsimp only; split)
    | with_reducible apply Within.leaf

theorem noteWeak_within {x0 x1 s} : Within [.flash] s (noteWeak x0 x1 s) := by
  unfold noteWeak
  repeat' first
    | with_reducible exact Within.refl _ _
    | with_reducible apply Within.ite <;> intro _
    | with_reducible exact id
    | with_reducible exact Nat.le_refl _
    | (refine fun (p : Part) hp => ?_; cases p <;> first | (cases hp; done) | with_reducible rfl)
    | exact flash_wf_of rfl
    | split
    | (dsimp only; split)
    | with_reducible apply Within.leaf

theorem ownRead_within {x0 x1 s} : Within [.hdrs, .flds, .vecs, .flash] s (ownRead x0 x1 s) := by
  unfold ownRead
  repeat' first
    | with_reducible exact Within.refl _ _
    | with_reducible apply Within.step noteBad_within rfl
    | with_reducible apply Within.step noteWeak_within rfl
    | with_reducible apply Within.step countRead_within rfl

theorem windowRead_within {x0 s} : Within [.hdrs, .flds, .vecs, .flash] s (windowRead x0 s).2 := by
  unfold windowRead
  repeat' first
    | with_reducible assumption
    | with_reducible exact Within.refl _ _
    | with_reducible apply Within.step noteBad_within rfl
    | with_reducible apply Within.step noteWeak_within rfl
    | with_reducible apply Within.step countRead_within rfl
    | with_reducible apply Within.step fset_within rfl
    | with_reducible apply onlyIf_within
    | with_reducible apply Within.ite <;> intro _
    | intro x t h
    | intro t h
    | split
    | (dsimp only; split)

theorem retireSector_within {x0 x1 s} : Within [.hdrs, .flds, .vecs, .flash] s (retireSector x0 x1 s) := by
  unfold retireSector
  repeat' first
    | with_reducible assumption
    | with_reducible exact Within.refl _ _
    | with_reducible apply Within.step flshEvt_within rfl
    | with_reducible apply Within.step fbump_within rfl
    | with_reducible apply Within.step setCell_within rfl
    | with_reducible apply onlyIf_within
    | intro x t h
    | intro t h

theorem openCell_within {x0 s} : Within [.flash] s (openCell x0 s) :=
  setCell_within.mono rfl

theorem closeCell_within {x0 x1 s} : Within [.flash] s (closeCell x0 x1 s) := by
  unfold closeCell
  repeat' first
    | with_reducible exact Within.refl _ _
    | with_reducible apply Within.step setCell_within rfl
    | with_reducible exact id
    | with_reducible exact Nat.le_refl _
    | (refine fun (p : Part) hp => ?_; cases p <;> first | (cases hp; done) | with_reducible rfl)
    | exact flash_wf_of rfl
    | split
    | (dsimp only; split)
    | with_reducible apply Within.leaf

theorem startLogical_within {x0 x1 x2 s} : Within [.boot, .flash] s (startLogical x0 x1 x2 s) := by
  unfold startLogical
  repeat' first
    | with_reducible exact Within.refl _ _
    | with_reducible apply Within.step startFlash_within rfl
    | with_reducible exact id
    | with_reducible exact Nat.le_refl _
    | (refine fun (p : Part) hp => ?_; cases p <;> first | (cases hp; done) | with_reducible rfl)
    | exact flash_wf_of rfl
    | split
    | (dsimp only; split)
    | with_reducible apply Within.leaf

theorem inkPage_within {x0 x1 s} : Within [.flash] s (inkPage x0 x1 s) := by
  unfold inkPage
  repeat' first
    | with_reducible exact Within.refl _ _
    | with_reducible apply Within.step flashPutList_within rfl
    | with_reducible apply Within.ite <;> intro _
    | with_reducible exact id
    | with_reducible exact Nat.le_refl _
    | (refine fun (p : Part) hp => ?_; cases p <;> first | (cases hp; done) | with_reducible rfl)
    | exact flash_wf_of rfl
    | with_reducible apply Within.leaf

theorem moveTail_within {x0 x1 s} : Within [.flash] s (moveTail x0 x1 s) := by
  induction x1 generalizing s with
  | zero => exact Within.refl _ _
  | succ k ih =>
    refine Within.ite (fun _ => Within.refl _ _) fun _ => Within.step ih rfl ?_
    refine Within.leaf (Within.refl _ _) ?_ (Nat.le_refl _) (Nat.le_refl _) id (flash_wf_of rfl)
    intro p hp
    cases p <;> first | (cases hp; done) | with_reducible rfl

theorem scramblePage_within {x0 s} : Within [.freeCtr, .flash] s (scramblePage x0 s) := by
  unfold scramblePage
  repeat' first
    | with_reducible exact Within.refl _ _
    | with_reducible apply Within.step nextFree_within rfl
    | with_reducible apply Within.step flashPutList_within rfl

theorem mboxResult_within {x0 s} : Within [.flash] s (mboxResult x0 s) := by
  unfold mboxResult
  repeat' first
    | with_reducible exact Within.refl _ _
    | with_reducible exact id
    | with_reducible exact Nat.le_refl _
    | (refine fun (p : Part) hp => ?_; cases p <;> first | (cases hp; done) | with_reducible rfl)
    | exact flash_wf_of rfl
    | split
    | (dsimp only; split)
    | with_reducible apply Within.leaf

theorem setMbuf_within {x0 s} : Within [.flds] s (setMbuf x0 s) := by
  unfold setMbuf
  repeat' first
    | with_reducible assumption
    | with_reducible exact Within.refl _ _
    | with_reducible apply Within.step fset_within rfl
    | with_reducible apply forAll_within
    | intro x t h
    | intro t h

theorem mboxServeRead_within {x0 x1 s} : Within [.hdrs, .flds, .vecs, .flash] s (mboxServeRead x0 x1 s) := by
  unfold mboxServeRead
  repeat' first
    | with_reducible assumption
    | with_reducible exact Within.refl _ _
    | with_reducible apply Within.step mboxResult_within rfl
    | with_reducible apply Within.step setMbuf_within rfl
    | with_reducible apply Within.step setFbank_within rfl
    | with_reducible apply Within.step noteBad_within rfl
    | with_reducible apply Within.step noteWeak_within rfl
    | with_reducible apply Within.step countRead_within rfl
    | with_reducible apply onlyIf_within
    | with_reducible apply Within.ite <;> intro _
    | with_reducible exact id
    | with_reducible exact Nat.le_refl _
    | (refine fun (p : Part) hp => ?_; cases p <;> first | (cases hp; done) | with_reducible rfl)
    | intro x t h
    | intro t h
    | exact flash_wf_of rfl
    | split
    | (dsimp only; split)
    | with_reducible apply Within.leaf

theorem mboxServeProgram_within {x0 x1 s} : Within [.boot, .flash] s (mboxServeProgram x0 x1 s) := by
  unfold mboxServeProgram
  repeat' first
    | with_reducible exact Within.refl _ _
    | with_reducible apply Within.step mboxResult_within rfl
    | with_reducible apply Within.step startFlash_within rfl
    | with_reducible apply Within.ite <;> intro _
    | with_reducible exact id
    | with_reducible exact Nat.le_refl _
    | (refine fun (p : Part) hp => ?_; cases p <;> first | (cases hp; done) | with_reducible rfl)
    | exact flash_wf_of rfl
    | split
    | (dsimp only; split)
    | with_reducible apply Within.leaf

theorem mboxServeErase_within {x0 x1 s} : Within [.hdrs, .vecs, .boot, .flash] s (mboxServeErase x0 x1 s) := by
  unfold mboxServeErase
  repeat' first
    | with_reducible exact Within.refl _ _
    | with_reducible apply Within.step mboxResult_within rfl
    | with_reducible apply Within.step startFlash_within rfl
    | with_reducible apply Within.step flshEvt_within rfl
    | with_reducible apply Within.ite <;> intro _
    | with_reducible exact id
    | with_reducible exact Nat.le_refl _
    | (refine fun (p : Part) hp => ?_; cases p <;> first | (cases hp; done) | with_reducible rfl)
    | exact flash_wf_of rfl
    | split
    | (dsimp only; split)
    | with_reducible apply Within.leaf

theorem mboxServeSuspend_within {x0 s} : Within [.flash] s (mboxServeSuspend x0 s) := by
  unfold mboxServeSuspend
  repeat' first
    | with_reducible exact Within.refl _ _
    | with_reducible apply Within.step mboxResult_within rfl
    | with_reducible apply Within.step setFbank_within rfl
    | with_reducible apply Within.ite <;> intro _
    | with_reducible exact id
    | with_reducible exact Nat.le_refl _
    | (refine fun (p : Part) hp => ?_; cases p <;> first | (cases hp; done) | with_reducible rfl)
    | exact flash_wf_of rfl
    | split
    | (dsimp only; split)
    | with_reducible apply Within.leaf

theorem mboxServeResume_within {x0 s} : Within [.flash] s (mboxServeResume x0 s) := by
  unfold mboxServeResume
  repeat' first
    | with_reducible exact Within.refl _ _
    | with_reducible apply Within.step mboxResult_within rfl
    | with_reducible apply Within.step setFbank_within rfl
    | with_reducible apply Within.ite <;> intro _
    | with_reducible exact id
    | with_reducible exact Nat.le_refl _
    | (refine fun (p : Part) hp => ?_; cases p <;> first | (cases hp; done) | with_reducible rfl)
    | exact flash_wf_of rfl
    | split
    | (dsimp only; split)
    | with_reducible apply Within.leaf

theorem mboxServe_within {x0 s} : Within [.hdrs, .flds, .vecs, .boot, .flash] s (mboxServe x0 s) := by
  unfold mboxServe
  repeat' first
    | with_reducible exact Within.refl _ _
    | with_reducible apply Within.step mboxServeRead_within rfl
    | with_reducible apply Within.step mboxServeProgram_within rfl
    | with_reducible apply Within.step mboxServeErase_within rfl
    | with_reducible apply Within.step mboxServeSuspend_within rfl
    | with_reducible apply Within.step mboxServeResume_within rfl
    | with_reducible apply Within.ite <;> intro _
    | with_reducible exact id
    | with_reducible exact Nat.le_refl _
    | (refine fun (p : Part) hp => ?_; cases p <;> first | (cases hp; done) | with_reducible rfl)
    | exact flash_wf_of rfl
    | split
    | (dsimp only; split)
    | with_reducible apply Within.leaf

theorem mboxNote_within {s} : Within [.flash] s (mboxNote s) := by
  unfold mboxNote
  repeat' first
    | with_reducible exact Within.refl _ _
    | with_reducible apply Within.ite <;> intro _
    | with_reducible exact id
    | with_reducible exact Nat.le_refl _
    | (refine fun (p : Part) hp => ?_; cases p <;> first | (cases hp; done) | with_reducible rfl)
    | exact flash_wf_of rfl
    | split
    | (dsimp only; split)
    | with_reducible apply Within.leaf

theorem coreSuspends_within {x0 x1 s} : Within [.flash] s (coreSuspends x0 x1 s) := by
  unfold coreSuspends
  repeat' first
    | with_reducible exact Within.refl _ _
    | with_reducible apply Within.step setFbank_within rfl
    | with_reducible apply Within.ite <;> intro _
    | with_reducible exact id
    | with_reducible exact Nat.le_refl _
    | (refine fun (p : Part) hp => ?_; cases p <;> first | (cases hp; done) | with_reducible rfl)
    | exact flash_wf_of rfl
    | split
    | (dsimp only; split)
    | with_reducible apply Within.leaf

theorem mboxWrite_within {x0 x1 s} : Within [.hdrs, .flds, .vecs, .boot, .flash] s (mboxWrite x0 x1 s) := by
  unfold mboxWrite
  repeat' first
    | with_reducible exact Within.refl _ _
    | with_reducible apply Within.step coreSuspends_within rfl
    | with_reducible apply Within.step flshCfgErr_within rfl
    | with_reducible apply Within.step mboxNote_within rfl
    | with_reducible apply Within.step mboxServe_within rfl
    | with_reducible apply Within.ite <;> intro _
    | with_reducible exact id
    | with_reducible exact Nat.le_refl _
    | (refine fun (p : Part) hp => ?_; cases p <;> first | (cases hp; done) | with_reducible rfl)
    | exact flash_wf_of rfl
    | with_reducible apply Within.leaf

theorem mboxEnd_within {x0 s} : Within [.hdrs, .flds, .vecs, .boot, .flash] s (mboxEnd x0 s) := by
  unfold mboxEnd
  repeat' first
    | with_reducible exact Within.refl _ _
    | with_reducible apply Within.step mboxNote_within rfl
    | with_reducible apply Within.step mboxServe_within rfl
    | with_reducible apply Within.step flshEvt_within rfl
    | with_reducible apply Within.ite <;> intro _
    | with_reducible exact id
    | with_reducible exact Nat.le_refl _
    | (refine fun (p : Part) hp => ?_; cases p <;> first | (cases hp; done) | with_reducible rfl)
    | exact flash_wf_of rfl
    | split
    | (dsimp only; split)
    | with_reducible apply Within.leaf

theorem nextStep_within {x0 x1 x2 x3 x4 x5 s} : Within [.flash] s (nextStep x0 x1 x2 x3 x4 x5 s) := by
  unfold nextStep
  repeat' first
    | with_reducible exact Within.refl _ _
    | with_reducible apply Within.step setFbank_within rfl
    | with_reducible exact id
    | with_reducible exact Nat.le_refl _
    | (refine fun (p : Part) hp => ?_; cases p <;> first | (cases hp; done) | with_reducible rfl)
    | exact flash_wf_of rfl
    | with_reducible apply Within.leaf

theorem bankIdle_within {x0 s} : Within [.flash] s (bankIdle x0 s) := by
  unfold bankIdle
  repeat' first
    | with_reducible exact Within.refl _ _
    | with_reducible apply Within.step setFbank_within rfl
    | with_reducible exact id
    | with_reducible exact Nat.le_refl _
    | (refine fun (p : Part) hp => ?_; cases p <;> first | (cases hp; done) | with_reducible rfl)
    | exact flash_wf_of rfl
    | with_reducible apply Within.leaf

theorem copySector_within {x0 x1 s} : Within [.flash] s (copySector x0 x1 s) := by
  refine Within.leaf (t := s) (Within.refl _ _) ?_ (Nat.le_refl _) (Nat.le_refl _) id
    (fun h => flash_wf_of (f := (flashSector x1 _ s).flash) rfl (flash_wf_of rfl (flashSector_wf h (copied_sectorOk h x0))))
  intro p hp
  cases p <;> first | (cases hp; done) | rfl

theorem almAdvance_within {x0 s} : Within [.boot, .flash] s (almAdvance x0 s) := by
  unfold almAdvance
  repeat' first
    | with_reducible exact Within.refl _ _
    | with_reducible apply Within.ite <;> intro _
    | with_reducible exact id
    | with_reducible exact Nat.le_refl _
    | (refine fun (p : Part) hp => ?_; cases p <;> first | (cases hp; done) | with_reducible rfl)
    | exact flash_wf_of rfl
    | split
    | (dsimp only; split)
    | with_reducible apply Within.leaf

theorem logAdvance_within {x0 s} : Within [.flash] s (logAdvance x0 s) := by
  unfold logAdvance
  repeat' first
    | with_reducible exact Within.refl _ _
    | with_reducible apply Within.ite <;> intro _
    | with_reducible exact id
    | with_reducible exact Nat.le_refl _
    | (refine fun (p : Part) hp => ?_; cases p <;> first | (cases hp; done) | with_reducible rfl)
    | exact flash_wf_of rfl
    | split
    | (dsimp only; split)
    | with_reducible apply Within.leaf

theorem ownerResult_within {x0 x1 s} : Within [.boot, .flash] s (ownerResult x0 x1 s) := by
  unfold ownerResult
  repeat' first
    | with_reducible exact Within.refl _ _
    | with_reducible apply Within.step mboxResult_within rfl
    | with_reducible apply Within.step almAdvance_within rfl
    | with_reducible apply Within.step logAdvance_within rfl
    | with_reducible exact id
    | with_reducible exact Nat.le_refl _
    | (refine fun (p : Part) hp => ?_; cases p <;> first | (cases hp; done) | with_reducible rfl)
    | exact flash_wf_of rfl
    | split
    | (dsimp only; split)
    | with_reducible apply Within.leaf

theorem endRotation_within {x0 x1 x2 x3 s} : Within [.flash] s (endRotation x0 x1 x2 x3 s) := by
  unfold endRotation
  repeat' first
    | with_reducible exact Within.refl _ _
    | with_reducible apply Within.step closeCell_within rfl
    | with_reducible apply Within.step bankIdle_within rfl
    | with_reducible apply Within.ite <;> intro _
    | with_reducible exact id
    | with_reducible exact Nat.le_refl _
    | (refine fun (p : Part) hp => ?_; cases p <;> first | (cases hp; done) | with_reducible rfl)
    | exact flash_wf_of rfl
    | with_reducible apply Within.leaf

theorem eraseStepDone_within {x0 x1 x2 x3 x4 x5 x6 s} : Within [.freeCtr, .hdrs, .flds, .vecs, .boot, .flash] s (eraseStepDone x0 x1 x2 x3 x4 x5 x6 s) := by
  unfold eraseStepDone
  repeat' first
    | with_reducible exact Within.refl _ _
    | with_reducible apply Within.step nextStep_within rfl
    | with_reducible apply Within.step flashUndefined_within rfl
    | with_reducible apply Within.step openCell_within rfl
    | with_reducible apply Within.step flashErase_within rfl
    | with_reducible apply Within.step closeCell_within rfl
    | with_reducible apply Within.step ownerResult_within rfl
    | with_reducible apply Within.step bankIdle_within rfl
    | with_reducible apply Within.step copySector_within rfl
    | with_reducible apply Within.step endRotation_within rfl
    | with_reducible apply Within.step retireSector_within rfl
    | with_reducible apply Within.ite <;> intro _
    | with_reducible exact id
    | with_reducible exact Nat.le_refl _
    | (refine fun (p : Part) hp => ?_; cases p <;> first | (cases hp; done) | with_reducible rfl)
    | exact flash_wf_of rfl
    | split
    | (dsimp only; split)
    | with_reducible apply Within.leaf

theorem flashDone_within {x0 x1 s} : Within [.freeCtr, .hdrs, .flds, .vecs, .boot, .flash] s (flashDone x0 x1 s) := by
  unfold flashDone
  repeat' first
    | with_reducible exact Within.refl _ _
    | with_reducible apply Within.step setFbank_within rfl
    | with_reducible apply Within.step ownerResult_within rfl
    | with_reducible apply Within.step inkPage_within rfl
    | with_reducible apply Within.step scramblePage_within rfl
    | with_reducible apply Within.step eraseStepDone_within rfl
    | with_reducible apply Within.ite <;> intro _
    | with_reducible exact id
    | with_reducible exact Nat.le_refl _
    | (refine fun (p : Part) hp => ?_; cases p <;> first | (cases hp; done) | with_reducible rfl)
    | exact flash_wf_of rfl
    | split
    | (dsimp only; split)
    | with_reducible apply Within.leaf

theorem flashAbortBank_within {x0 s} : Within [.freeCtr, .flash] s (flashAbortBank x0 s) := by
  unfold flashAbortBank
  repeat' first
    | with_reducible exact Within.refl _ _
    | with_reducible apply Within.step scramblePage_within rfl
    | with_reducible apply Within.step flashUndefined_within rfl
    | with_reducible apply Within.step setFbank_within rfl
    | with_reducible exact id
    | with_reducible exact Nat.le_refl _
    | (refine fun (p : Part) hp => ?_; cases p <;> first | (cases hp; done) | with_reducible rfl)
    | exact flash_wf_of rfl
    | split
    | (dsimp only; split)
    | with_reducible apply Within.leaf

theorem flashAbort_within {s} : Within [.freeCtr, .boot, .flash] s (flashAbort s) := by
  unfold flashAbort
  repeat' first
    | with_reducible exact Within.refl _ _
    | with_reducible apply Within.step flashAbortBank_within rfl
    | with_reducible apply Within.step mboxResult_within rfl
    | with_reducible exact id
    | with_reducible exact Nat.le_refl _
    | (refine fun (p : Part) hp => ?_; cases p <;> first | (cases hp; done) | with_reducible rfl)
    | exact flash_wf_of rfl
    | split
    | (dsimp only; split)
    | with_reducible apply Within.leaf

/-! ### Units -/

theorem askRead_within {x0 x1 x2 x3 x4 x5 x6 s} : Within [.accs, .nextId] s (askRead x0 x1 x2 x3 x4 x5 x6 s) := by
  unfold askRead
  repeat' first
    | with_reducible exact Within.refl _ _
    | with_reducible apply Within.ite <;> intro _
    | with_reducible exact id
    | with_reducible exact Nat.le_refl _
    | (refine fun (p : Part) hp => ?_; cases p <;> first | (cases hp; done) | with_reducible rfl)
    | split
    | (dsimp only; split)
    | with_reducible apply Within.leaf

theorem askWrite_within {x0 x1 x2 x3 x4 x5 x6 s} : Within [.accs, .nextId] s (askWrite x0 x1 x2 x3 x4 x5 x6 s) := by
  unfold askWrite
  repeat' first
    | with_reducible exact Within.refl _ _
    | with_reducible apply Within.ite <;> intro _
    | with_reducible exact id
    | with_reducible exact Nat.le_refl _
    | (refine fun (p : Part) hp => ?_; cases p <;> first | (cases hp; done) | with_reducible rfl)
    | with_reducible apply Within.leaf

theorem takeRead_within {x0 x1 s} : Within [.hdrs, .flds, .links, .accs, .nextId, .commits, .chans, .recs, .regions, .queues, .jobs, .bells, .vecs, .groups, .pll, .ring, .safe] s (takeRead x0 x1 s) := by
  unfold takeRead
  repeat' first
    | with_reducible assumption
    | with_reducible exact Within.refl _ _
    | with_reducible apply Within.step pinCopy_within rfl
    | with_reducible apply Within.step kpEffect_within rfl
    | with_reducible apply Within.step countKp_within rfl
    | with_reducible apply Within.step countRec_within rfl
    | with_reducible apply Within.step countGot_within rfl
    | with_reducible apply onlyIf_within
    | with_reducible apply forAll_within
    | with_reducible apply Within.ite <;> intro _
    | with_reducible exact id
    | with_reducible exact Nat.le_refl _
    | (refine fun (p : Part) hp => ?_; cases p <;> first | (cases hp; done) | with_reducible rfl)
    | intro x t h
    | intro t h
    | with_reducible apply Within.leaf

theorem takeReads_within {x0 x1 s} : ∀ t, takeReads x0 x1 s = some t → Within [.hdrs, .flds, .links, .accs, .nextId, .commits, .chans, .recs, .regions, .queues, .jobs, .bells, .vecs, .groups, .pll, .ring, .safe] s t := by
  induction x1 generalizing s with
  | nil => intro t h; cases h; exact Within.refl _ _
  | cons a as ih =>
    intro t h
    unfold takeReads at h
    split at h
    · exact (ih t h).step rfl (takeRead_within.mono rfl)
    · cases h

/-! ### Queue -/

theorem fetched_within {x0 x1 s} : Within [.nextId, .queues, .jobs] s (fetched x0 x1 s) := by
  unfold fetched
  repeat' first
    | with_reducible exact Within.refl _ _
    | with_reducible apply Within.step setQueue_within rfl
    | with_reducible apply Within.ite <;> intro _
    | with_reducible exact id
    | with_reducible exact Nat.le_refl _
    | (refine fun (p : Part) hp => ?_; cases p <;> first | (cases hp; done) | with_reducible rfl)
    | split
    | (dsimp only; split)
    | with_reducible apply Within.leaf

theorem fetchDescriptor_within {x0 x1 s} : Within [.hdrs, .flds, .links, .accs, .nextId, .commits, .chans, .recs, .regions, .queues, .jobs, .bells, .vecs, .groups, .pll, .ring, .safe] s (fetchDescriptor x0 x1 s) := by
  unfold fetchDescriptor
  repeat' first
    | with_reducible exact Within.refl _ _
    | with_reducible apply Within.step fetched_within rfl
    | with_reducible apply Within.step takeRead_within rfl
    | with_reducible apply Within.step askRead_within rfl
    | with_reducible apply Within.ite <;> intro _
    | with_reducible exact id
    | with_reducible exact Nat.le_refl _
    | (refine fun (p : Part) hp => ?_; cases p <;> first | (cases hp; done) | with_reducible rfl)
    | split
    | (dsimp only; split)
    | with_reducible apply Within.leaf

theorem presentCommit_within {x0 x1 s} : Within [.accs, .nextId, .commits, .regions, .jobs, .groups] s (presentCommit x0 x1 s) := by
  unfold presentCommit
  repeat' first
    | with_reducible exact Within.refl _ _
    | with_reducible apply Within.step endJob_within rfl
    | with_reducible apply Within.step modJob_within rfl
    | with_reducible exact id
    | with_reducible exact Nat.le_refl _
    | (refine fun (p : Part) hp => ?_; cases p <;> first | (cases hp; done) | with_reducible rfl)
    | split
    | (dsimp only; split)
    | with_reducible apply Within.leaf

theorem presentDue_within {s} : Within [.accs, .nextId, .commits, .regions, .jobs, .groups] s (presentDue s) := by
  unfold presentDue
  repeat' first
    | with_reducible assumption
    | with_reducible exact Within.refl _ _
    | with_reducible apply Within.step presentCommit_within rfl
    | with_reducible apply forAll_within
    | intro x t h
    | intro t h

theorem useCache_within {x0 x1 x2 s} : Within [.flds, .groups] s (useCache x0 x1 x2 s).2 := by
  unfold useCache
  repeat' first
    | with_reducible exact Within.refl _ _
    | with_reducible apply Within.step fbump_within rfl
    | with_reducible apply Within.step setGroup_within rfl
    | with_reducible apply Within.ite <;> intro _
    | with_reducible exact id
    | with_reducible exact Nat.le_refl _
    | (refine fun (p : Part) hp => ?_; cases p <;> first | (cases hp; done) | with_reducible rfl)
    | split
    | (dsimp only; split)
    | with_reducible apply Within.leaf

theorem openFor_within {x0 s} : Within [.chans, .recs, .regions] s (openFor x0 s) := by
  unfold openFor
  repeat' first
    | with_reducible exact Within.refl _ _
    | with_reducible apply Within.step openCopy_within rfl
    | with_reducible apply Within.ite <;> intro _
    | with_reducible exact id
    | with_reducible exact Nat.le_refl _
    | (refine fun (p : Part) hp => ?_; cases p <;> first | (cases hp; done) | with_reducible rfl)
    | split
    | (dsimp only; split)
    | with_reducible apply Within.leaf

theorem runJob_within {x0 s} : Within [.flds, .accs, .nextId, .commits, .chans, .recs, .regions, .jobs, .groups] s (runJob x0 s) := by
  unfold runJob
  repeat' first
    | with_reducible assumption
    | with_reducible exact Within.refl _ _
    | with_reducible apply Within.step openFor_within rfl
    | with_reducible apply Within.step pinCopy_within rfl
    | with_reducible apply Within.step useCache_within rfl
    | with_reducible apply Within.step presentCommit_within rfl
    | with_reducible apply forAll_within
    | with_reducible apply Within.ite <;> intro _
    | with_reducible exact id
    | with_reducible exact Nat.le_refl _
    | (refine fun (p : Part) hp => ?_; cases p <;> first | (cases hp; done) | with_reducible rfl)
    | intro x t h
    | intro t h
    | split
    | (dsimp only; split)
    | with_reducible apply Within.leaf

theorem startDescriptor_within {x0 s} : Within [.flds, .accs, .nextId, .commits, .chans, .recs, .regions, .queues, .jobs, .groups] s (startDescriptor x0 s) := by
  unfold startDescriptor
  repeat' first
    | with_reducible exact Within.refl _ _
    | with_reducible apply Within.step modGroup_within rfl
    | with_reducible apply Within.step modQueue_within rfl
    | with_reducible apply Within.step runJob_within rfl
    | with_reducible apply Within.ite <;> intro _
    | with_reducible exact id
    | with_reducible exact Nat.le_refl _
    | (refine fun (p : Part) hp => ?_; cases p <;> first | (cases hp; done) | with_reducible rfl)
    | split
    | (dsimp only; split)
    | with_reducible apply Within.leaf

theorem retireJob_within {x0 x1 s} : Within [.flds, .regions, .jobs] s (retireJob x0 x1 s) := by
  unfold retireJob
  repeat' first
    | with_reducible assumption
    | with_reducible exact Within.refl _ _
    | with_reducible apply Within.step fbump_within rfl
    | with_reducible apply Within.step pinCopy_within rfl
    | with_reducible apply onlyIf_within
    | with_reducible apply forAll_within
    | with_reducible exact id
    | with_reducible exact Nat.le_refl _
    | (refine fun (p : Part) hp => ?_; cases p <;> first | (cases hp; done) | with_reducible rfl)
    | intro x t h
    | intro t h
    | with_reducible apply Within.leaf

theorem recordLost_within {x0 s} : Within [.hdrs, .flds, .regions, .queues, .jobs, .vecs] s (recordLost x0 s) := by
  unfold recordLost
  repeat' first
    | with_reducible exact Within.refl _ _
    | with_reducible apply Within.step retireJob_within rfl
    | with_reducible apply Within.step queueError_within rfl
    | with_reducible apply Within.ite <;> intro _

theorem completeJob_within {x0 x1 s} : Within [.hdrs, .flds, .regions, .queues, .jobs, .vecs] s (completeJob x0 x1 s) := by
  unfold completeJob
  repeat' first
    | with_reducible assumption
    | with_reducible exact Within.refl _ _
    | with_reducible apply Within.step pinCopy_within rfl
    | with_reducible apply Within.step recordLost_within rfl
    | with_reducible apply Within.step retireJob_within rfl
    | with_reducible apply Within.step modJob_within rfl
    | with_reducible apply forAll_within
    | with_reducible apply Within.ite <;> intro _
    | with_reducible exact id
    | with_reducible exact Nat.le_refl _
    | (refine fun (p : Part) hp => ?_; cases p <;> first | (cases hp; done) | with_reducible rfl)
    | intro x t h
    | intro t h
    | split
    | (dsimp only; split)
    | with_reducible apply Within.leaf

theorem passRecord_within {x0 x1 s} : Within [.hdrs, .flds, .links, .accs, .nextId, .chans, .recs, .regions, .queues, .jobs, .vecs, .groups, .ring] s (passRecord x0 x1 s) := by
  unfold passRecord
  repeat' first
    | with_reducible exact Within.refl _ _
    | with_reducible apply Within.step recordLost_within rfl
    | with_reducible apply Within.step retireJob_within rfl
    | with_reducible apply Within.step unitWrite_within rfl
    | with_reducible apply Within.step modQueue_within rfl
    | with_reducible apply Within.step fset_within rfl
    | with_reducible apply Within.step qEvt_within rfl
    | with_reducible apply Within.step fbump_within rfl
    | with_reducible apply Within.step trigger_within rfl
    | with_reducible apply Within.ite <;> intro _
    | with_reducible exact id
    | with_reducible exact Nat.le_refl _
    | (refine fun (p : Part) hp => ?_; cases p <;> first | (cases hp; done) | with_reducible rfl)
    | split
    | (dsimp only; split)
    | with_reducible apply Within.leaf

theorem dropFetch_within {x0 s} : Within [.accs, .regions] s (dropFetch x0 s) := by
  unfold dropFetch
  repeat' first
    | with_reducible assumption
    | with_reducible exact Within.refl _ _
    | with_reducible apply Within.step pinCopy_within rfl
    | with_reducible apply forAll_within
    | with_reducible apply onlyIf_within
    | with_reducible exact id
    | with_reducible exact Nat.le_refl _
    | (refine fun (p : Part) hp => ?_; cases p <;> first | (cases hp; done) | with_reducible rfl)
    | intro x t h
    | intro t h
    | with_reducible apply Within.leaf

theorem enableQueue_within {x0 s} : Within [.hdrs, .accs, .regions, .queues, .vecs] s (enableQueue x0 s) := by
  unfold enableQueue
  repeat' first
    | with_reducible exact Within.refl _ _
    | with_reducible apply Within.step setQueue_within rfl
    | with_reducible apply Within.step dropFetch_within rfl
    | with_reducible apply Within.step qEvt_within rfl
    | with_reducible apply Within.step modQueue_within rfl
    | with_reducible apply Within.ite <;> intro _
    | with_reducible exact id
    | with_reducible exact Nat.le_refl _
    | (refine fun (p : Part) hp => ?_; cases p <;> first | (cases hp; done) | with_reducible rfl)
    | with_reducible apply Within.leaf

theorem ctlEnable_within {x0 s} : Within [.hdrs, .accs, .regions, .queues, .vecs] s (ctlEnable x0 s) := by
  unfold ctlEnable
  repeat' first
    | with_reducible exact Within.refl _ _
    | with_reducible apply Within.step enableQueue_within rfl
    | with_reducible apply Within.step setQueue_within rfl
    | with_reducible apply Within.ite <;> intro _
    | with_reducible exact id
    | with_reducible exact Nat.le_refl _
    | (refine fun (p : Part) hp => ?_; cases p <;> first | (cases hp; done) | with_reducible rfl)
    | with_reducible apply Within.leaf

theorem ctlDisable_within {x0 s} : Within [.queues] s (ctlDisable x0 s) := by
  unfold ctlDisable
  repeat' first
    | with_reducible exact Within.refl _ _
    | with_reducible apply Within.step setQueue_within rfl
    | with_reducible apply Within.ite <;> intro _
    | with_reducible exact id
    | with_reducible exact Nat.le_refl _
    | (refine fun (p : Part) hp => ?_; cases p <;> first | (cases hp; done) | with_reducible rfl)
    | with_reducible apply Within.leaf

theorem ctlAbort_within {x0 s} : Within [.accs, .commits, .regions, .queues, .jobs, .groups] s (ctlAbort x0 s) := by
  unfold ctlAbort
  repeat' first
    | with_reducible assumption
    | with_reducible exact Within.refl _ _
    | with_reducible apply Within.step endJob_within rfl
    | with_reducible apply Within.step modQueue_within rfl
    | with_reducible apply forAll_within
    | with_reducible apply Within.ite <;> intro _
    | with_reducible exact id
    | with_reducible exact Nat.le_refl _
    | (refine fun (p : Part) hp => ?_; cases p <;> first | (cases hp; done) | with_reducible rfl)
    | intro x t h
    | intro t h
    | with_reducible apply Within.leaf

theorem ctlClrcnt_within {x0 s} : Within [.flds] s (ctlClrcnt x0 s) := by
  unfold ctlClrcnt
  repeat' first
    | with_reducible exact Within.refl _ _
    | with_reducible apply Within.step fclear_within rfl
    | with_reducible apply Within.ite <;> intro _

theorem queueDrained_within {x0 s} : Within [.hdrs, .accs, .regions, .queues, .vecs] s (queueDrained x0 s) := by
  unfold queueDrained
  repeat' first
    | with_reducible exact Within.refl _ _
    | with_reducible apply Within.step enableQueue_within rfl
    | with_reducible apply Within.step setQueue_within rfl
    | with_reducible apply Within.ite <;> intro _
    | with_reducible exact id
    | with_reducible exact Nat.le_refl _
    | (refine fun (p : Part) hp => ?_; cases p <;> first | (cases hp; done) | with_reducible rfl)
    | with_reducible apply Within.leaf

theorem writeQueueCfg_within {x0 x1 x2 s} : Within [.hdrs, .flds, .queues, .vecs] s (writeQueueCfg x0 x1 x2 s) := by
  unfold writeQueueCfg
  repeat' first
    | with_reducible assumption
    | with_reducible exact Within.refl _ _
    | with_reducible apply Within.step queueRefused_within rfl
    | with_reducible apply Within.step fset_within rfl
    | with_reducible apply foldl_within
    | with_reducible apply Within.ite <;> intro _
    | intro x t h
    | intro t h

theorem writeQpidx_within {x0 x1 s} : Within [.hdrs, .queues, .vecs] s (writeQpidx x0 x1 s) :=
  ringBell_within.mono rfl

theorem doorbell_within {x0 x1 x2 s} : Within [.hdrs, .flds, .queues, .bells, .vecs] s (doorbell x0 x1 x2 s) := by
  unfold doorbell
  repeat' first
    | with_reducible exact Within.refl _ _
    | with_reducible apply Within.step dropDoorbell_within rfl
    | with_reducible apply Within.step doorbellActs_within rfl
    | with_reducible apply Within.ite <;> intro _
    | with_reducible exact id
    | with_reducible exact Nat.le_refl _
    | (refine fun (p : Part) hp => ?_; cases p <;> first | (cases hp; done) | with_reducible rfl)
    | with_reducible apply Within.leaf

theorem execDoorbell_within {x0 x1 x2 s} : ∀ u, execDoorbell x0 x1 x2 s = .next u → Within [.hdrs, .flds, .links, .queues, .bells, .vecs] s u := by
  unfold execDoorbell
  refine fun _ h => Host.Outcome.next.inj h ▸ ?_
  repeat' first
    | with_reducible assumption
    | with_reducible exact Within.refl _ _
    | with_reducible apply Within.step doorbell_within rfl
    | with_reducible apply arrives_within ?_ rfl
    | intro x t h
    | intro t h

theorem execDescriptorFetch_within {x0 x1 s} : ∀ u, execDescriptorFetch x0 x1 s = .next u → Within [.hdrs, .flds, .links, .accs, .nextId, .commits, .chans, .recs, .regions, .queues, .jobs, .bells, .vecs, .groups, .pll, .ring, .safe] s u :=
  fun _ h => Host.Outcome.next.inj h ▸ fetchDescriptor_within.mono rfl

theorem execDescriptorStart_within {x0 s} : ∀ u, execDescriptorStart x0 s = .next u → Within [.flds, .accs, .nextId, .commits, .chans, .recs, .regions, .queues, .jobs, .groups] s u :=
  fun _ h => Host.Outcome.next.inj h ▸ startDescriptor_within.mono rfl

theorem execJobComplete_within {x0 x1 s} : ∀ u, execJobComplete x0 x1 s = .next u → Within [.hdrs, .flds, .regions, .queues, .jobs, .vecs] s u :=
  fun _ h => Host.Outcome.next.inj h ▸ completeJob_within.mono rfl

theorem execCompletionRecordPass_within {x0 x1 s} : ∀ u, execCompletionRecordPass x0 x1 s = .next u → Within [.hdrs, .flds, .links, .accs, .nextId, .chans, .recs, .regions, .queues, .jobs, .vecs, .groups, .ring] s u :=
  fun _ h => Host.Outcome.next.inj h ▸ passRecord_within.mono rfl

theorem execQpidxWrite_within {x0 x1 x2 s} : ∀ u, execQpidxWrite x0 x1 x2 s = .next u → Within [.hdrs, .flds, .queues, .vecs] s u := by
  unfold execQpidxWrite
  refine fun _ h => Host.Outcome.next.inj h ▸ ?_
  repeat' first
    | with_reducible assumption
    | with_reducible exact Within.refl _ _
    | with_reducible apply Within.step countRefused_within rfl
    | with_reducible apply Within.step writeQpidx_within rfl
    | with_reducible apply viaReg_within ?_ rfl (.inl rfl)
    | with_reducible apply viaReg_within ?_ rfl (.inl (sleeps_wq _))
    | with_reducible apply Within.ite <;> intro _
    | with_reducible exact id
    | with_reducible exact Nat.le_refl _
    | (refine fun (p : Part) hp => ?_; cases p <;> first | (cases hp; done) | with_reducible rfl)
    | intro x t h
    | intro t h
    | split
    | (dsimp only; split)
    | with_reducible apply Within.leaf

theorem execQueueEnable_within {x0 x1 s} : ∀ u, execQueueEnable x0 x1 s = .next u → Within [.hdrs, .flds, .accs, .regions, .queues, .vecs] s u := by
  unfold execQueueEnable
  refine fun _ h => Host.Outcome.next.inj h ▸ ?_
  repeat' first
    | with_reducible assumption
    | with_reducible exact Within.refl _ _
    | with_reducible apply Within.step ctlEnable_within rfl
    | with_reducible apply viaReg_within ?_ rfl (.inl rfl)
    | with_reducible apply viaReg_within ?_ rfl (.inl (sleeps_wq _))
    | intro x t h
    | intro t h

theorem execQueueDisable_within {x0 x1 s} : ∀ u, execQueueDisable x0 x1 s = .next u → Within [.hdrs, .flds, .queues, .vecs] s u := by
  unfold execQueueDisable
  refine fun _ h => Host.Outcome.next.inj h ▸ ?_
  repeat' first
    | with_reducible assumption
    | with_reducible exact Within.refl _ _
    | with_reducible apply Within.step ctlDisable_within rfl
    | with_reducible apply viaReg_within ?_ rfl (.inl rfl)
    | with_reducible apply viaReg_within ?_ rfl (.inl (sleeps_wq _))
    | intro x t h
    | intro t h

theorem execQueueAbort_within {x0 x1 s} : ∀ u, execQueueAbort x0 x1 s = .next u → Within [.hdrs, .flds, .accs, .commits, .regions, .queues, .jobs, .vecs, .groups] s u := by
  unfold execQueueAbort
  refine fun _ h => Host.Outcome.next.inj h ▸ ?_
  repeat' first
    | with_reducible assumption
    | with_reducible exact Within.refl _ _
    | with_reducible apply Within.step ctlAbort_within rfl
    | with_reducible apply viaReg_within ?_ rfl (.inl rfl)
    | with_reducible apply viaReg_within ?_ rfl (.inl (sleeps_wq _))
    | intro x t h
    | intro t h

theorem execQueueClrcnt_within {x0 x1 s} : ∀ u, execQueueClrcnt x0 x1 s = .next u → Within [.hdrs, .flds, .vecs] s u := by
  unfold execQueueClrcnt
  refine fun _ h => Host.Outcome.next.inj h ▸ ?_
  repeat' first
    | with_reducible assumption
    | with_reducible exact Within.refl _ _
    | with_reducible apply Within.step ctlClrcnt_within rfl
    | with_reducible apply viaReg_within ?_ rfl (.inl rfl)
    | with_reducible apply viaReg_within ?_ rfl (.inl (sleeps_wq _))
    | intro x t h
    | intro t h

theorem execQueueConfigWrite_within {x0 x1 x2 x3 s} : ∀ u, execQueueConfigWrite x0 x1 x2 x3 s = .next u → Within [.hdrs, .flds, .queues, .vecs] s u := by
  unfold execQueueConfigWrite
  refine fun _ h => Host.Outcome.next.inj h ▸ ?_
  repeat' first
    | with_reducible assumption
    | with_reducible exact Within.refl _ _
    | with_reducible apply Within.step writeQueueCfg_within rfl
    | with_reducible apply viaSealed_within ?_ rfl (.inl rfl)
    | with_reducible apply viaSealed_within ?_ rfl (.inl (sleeps_wq _))
    | intro x t h
    | intro t h

theorem execQueueDrained_within {x0 s} : ∀ u, execQueueDrained x0 s = .next u → Within [.hdrs, .accs, .regions, .queues, .vecs] s u :=
  fun _ h => Host.Outcome.next.inj h ▸ queueDrained_within.mono rfl

/-! ### Joiner -/

theorem setCacheLines_within {x0 x1 s} : Within [.groups] s (setCacheLines x0 x1 s) := by
  unfold setCacheLines
  repeat' first
    | with_reducible exact Within.refl _ _
    | with_reducible apply Within.step modGroup_within rfl
    | with_reducible apply Within.ite <;> intro _
    | with_reducible exact id
    | with_reducible exact Nat.le_refl _
    | (refine fun (p : Part) hp => ?_; cases p <;> first | (cases hp; done) | with_reducible rfl)
    | with_reducible apply Within.leaf

theorem askLines_within {x0 x1 x2 x3 s} : Within [.accs, .nextId] s (askLines x0 x1 x2 x3 s) := by
  unfold askLines
  repeat' first
    | with_reducible assumption
    | with_reducible exact Within.refl _ _
    | with_reducible apply Within.step askRead_within rfl
    | with_reducible apply forAll_within
    | intro x t h
    | intro t h

theorem outLost_within {x0 s} : Within [.jobs] s (outLost x0 s) :=
  modJob_within.mono rfl

theorem putPart_within {x0 x1 x2 x3 x4 s} : Within [.accs, .nextId, .jobs] s (putPart x0 x1 x2 x3 x4 s) := by
  unfold putPart
  repeat' first
    | with_reducible exact Within.refl _ _
    | with_reducible apply Within.step outLost_within rfl
    | with_reducible apply Within.step askWrite_within rfl
    | with_reducible apply Within.ite <;> intro _
    | with_reducible exact id
    | with_reducible exact Nat.le_refl _
    | (refine fun (p : Part) hp => ?_; cases p <;> first | (cases hp; done) | with_reducible rfl)
    | split
    | (dsimp only; split)
    | with_reducible apply Within.leaf

theorem putOutput_within {x0 x1 x2 s} : Within [.links, .accs, .nextId, .commits, .regions, .jobs, .groups] s (putOutput x0 x1 x2 s) := by
  unfold putOutput
  repeat' first
    | with_reducible assumption
    | with_reducible exact Within.refl _ _
    | with_reducible apply Within.step putPart_within rfl
    | with_reducible apply Within.step sendMsg_within rfl
    | with_reducible apply Within.step endJob_within rfl
    | with_reducible apply forAll_within
    | with_reducible apply Within.ite <;> intro _
    | intro x t h
    | intro t h

theorem askChunk_within {x0 x1 x2 x3 x4 s} : Within [.accs, .nextId] s (askChunk x0 x1 x2 x3 x4 s) := by
  unfold askChunk
  repeat' first
    | with_reducible exact Within.refl _ _
    | with_reducible apply Within.step askLines_within rfl
    | with_reducible apply Within.ite <;> intro _

theorem giveChunk_within {x0 x1 x2 x3 s} : Within [.accs, .nextId, .jobs, .groups] s (giveChunk x0 x1 x2 x3 s) := by
  unfold giveChunk
  repeat' first
    | with_reducible exact Within.refl _ _
    | with_reducible apply Within.step askChunk_within rfl
    | with_reducible apply Within.step modJob_within rfl
    | with_reducible apply Within.step modGroup_within rfl
    | with_reducible exact id
    | with_reducible exact Nat.le_refl _
    | (refine fun (p : Part) hp => ?_; cases p <;> first | (cases hp; done) | with_reducible rfl)
    | with_reducible apply Within.leaf

theorem takeChunk_within {x0 x1 s} : Within [.accs, .nextId, .jobs, .groups] s (takeChunk x0 x1 s) := by
  unfold takeChunk
  repeat' first
    | with_reducible exact Within.refl _ _
    | with_reducible apply Within.step giveChunk_within rfl
    | with_reducible apply Within.ite <;> intro _
    | with_reducible exact id
    | with_reducible exact Nat.le_refl _
    | (refine fun (p : Part) hp => ?_; cases p <;> first | (cases hp; done) | with_reducible rfl)
    | split
    | (dsimp only; split)
    | with_reducible apply Within.leaf

theorem dropWork_within {x0 x1 s} : Within [.accs, .groups] s (dropWork x0 x1 s) := by
  unfold dropWork
  repeat' first
    | with_reducible exact Within.refl _ _
    | with_reducible apply Within.step dropFetches_within rfl
    | with_reducible apply Within.step modGroup_within rfl
    | with_reducible exact id
    | with_reducible exact Nat.le_refl _
    | (refine fun (p : Part) hp => ?_; cases p <;> first | (cases hp; done) | with_reducible rfl)
    | with_reducible apply Within.leaf

theorem finishChunk_within {x0 x1 x2 x3 s} : Within [.hdrs, .flds, .links, .accs, .nextId, .commits, .chans, .recs, .regions, .queues, .jobs, .bells, .vecs, .groups, .pll, .ring, .safe] s (finishChunk x0 x1 x2 x3 s) := by
  unfold finishChunk
  dsimp only
  split
  · exact Within.refl _ _
  · rename_i t h
    exact Within.step putOutput_within rfl (Within.step modJob_within rfl (Within.step dropWork_within rfl
      (Within.step setCacheLines_within rfl ((takeReads_within t h).mono rfl))))

theorem storeErrors_within {x0 x1 x2 s} : Within [.flds, .groups] s (storeErrors x0 x1 x2 s) := by
  unfold storeErrors
  repeat' first
    | with_reducible exact Within.refl _ _
    | with_reducible apply Within.step setCacheLines_within rfl
    | with_reducible apply Within.step fadd_within rfl
    | with_reducible apply Within.step modGroup_within rfl
    | with_reducible exact id
    | with_reducible exact Nat.le_refl _
    | (refine fun (p : Part) hp => ?_; cases p <;> first | (cases hp; done) | with_reducible rfl)
    | split
    | (dsimp only; split)
    | with_reducible apply Within.leaf

theorem completeChunk_within {x0 x1 x2 s} : Within [.hdrs, .flds, .links, .accs, .nextId, .commits, .chans, .recs, .regions, .queues, .jobs, .bells, .vecs, .groups, .pll, .ring, .safe] s (completeChunk x0 x1 x2 s) := by
  unfold completeChunk
  repeat' first
    | with_reducible exact Within.refl _ _
    | with_reducible apply Within.step dropWork_within rfl
    | with_reducible apply Within.step groupFault_within rfl
    | with_reducible apply Within.step modGroup_within rfl
    | with_reducible apply Within.step askChunk_within rfl
    | with_reducible apply Within.step storeErrors_within rfl
    | with_reducible apply Within.step finishChunk_within rfl
    | with_reducible apply Within.ite <;> intro _
    | with_reducible exact id
    | with_reducible exact Nat.le_refl _
    | (refine fun (p : Part) hp => ?_; cases p <;> first | (cases hp; done) | with_reducible rfl)
    | split
    | (dsimp only; split)
    | with_reducible apply Within.leaf

theorem putPiece_within {P x0 x1 x2 f s} (hf : ∀ t, Within P t (f t)) (hm : [.links, .accs, .nextId, .chans, .recs, .regions, .jobs, .groups, .ring].all P.contains = true) :
    Within P s (putPiece x0 x1 x2 f s) := by
  unfold putPiece
  dsimp only
  split
  · exact (modJob_within (s := s)).mono (all_contains_trans (R := [.links, .accs, .nextId, .chans, .recs, .regions, .jobs, .groups, .ring]) rfl hm)
  · exact Within.step modJob_within (all_contains_trans (R := [.links, .accs, .nextId, .chans, .recs, .regions, .jobs, .groups, .ring]) rfl hm)
      (Within.step unitWrite_within (all_contains_trans (R := [.links, .accs, .nextId, .chans, .recs, .regions, .jobs, .groups, .ring]) rfl hm) (hf _))
  · exact Within.step modJob_within (all_contains_trans (R := [.links, .accs, .nextId, .chans, .recs, .regions, .jobs, .groups, .ring]) rfl hm) (hf _)
  · exact Within.step modJob_within (all_contains_trans (R := [.links, .accs, .nextId, .chans, .recs, .regions, .jobs, .groups, .ring]) rfl hm) (hf _)
  · exact Within.step modJob_within (all_contains_trans (R := [.links, .accs, .nextId, .chans, .recs, .regions, .jobs, .groups, .ring]) rfl hm) (hf _)

theorem movePiece_within {x0 x1 x2 s} : Within [.hdrs, .flds, .links, .accs, .nextId, .commits, .chans, .recs, .regions, .queues, .jobs, .bells, .vecs, .groups, .pll, .ring, .safe] s (movePiece x0 x1 x2 s) := by
  unfold movePiece
  split
  · exact Within.refl _ _
  · refine Within.ite (fun _ => Within.refl _ _) fun _ => Within.ite (fun _ => putPiece_within (fun t => Within.refl _ _) rfl) fun _ => ?_
    split
    · exact askRead_within.mono rfl
    · exact Within.ite (fun _ => Within.refl _ _) fun _ => putPiece_within (fun t => takeRead_within.mono rfl) rfl

theorem returnGroup_within {x0 s} : Within [.hdrs, .vecs, .groups] s (returnGroup x0 s) := by
  unfold returnGroup
  repeat' first
    | with_reducible exact Within.refl _ _
    | with_reducible apply Within.step jgEvt_within rfl
    | with_reducible apply Within.step setGroup_within rfl
    | with_reducible apply Within.ite <;> intro _
    | with_reducible exact id
    | with_reducible exact Nat.le_refl _
    | (refine fun (p : Part) hp => ?_; cases p <;> first | (cases hp; done) | with_reducible rfl)
    | with_reducible apply Within.leaf

theorem askImage_within {x0 x1 x2 s} : Within [.accs, .nextId] s (askImage x0 x1 x2 s) := by
  unfold askImage
  repeat' first
    | with_reducible assumption
    | with_reducible exact Within.refl _ _
    | with_reducible apply Within.step askRead_within rfl
    | with_reducible apply forAll_within
    | intro x t h
    | intro t h

theorem startLoad_within {x0 x1 s} : Within [.hdrs, .accs, .nextId, .vecs, .groups] s (startLoad x0 x1 s) := by
  unfold startLoad
  repeat' first
    | with_reducible exact Within.refl _ _
    | with_reducible apply Within.step jgEvt_within rfl
    | with_reducible apply Within.step setGroup_within rfl
    | with_reducible apply Within.step askImage_within rfl
    | with_reducible apply Within.ite <;> intro _
    | with_reducible exact id
    | with_reducible exact Nat.le_refl _
    | (refine fun (p : Part) hp => ?_; cases p <;> first | (cases hp; done) | with_reducible rfl)
    | split
    | (dsimp only; split)
    | with_reducible apply Within.leaf

theorem endLoad_within {x0 x1 s} : Within [.hdrs, .flds, .links, .accs, .nextId, .commits, .chans, .recs, .regions, .queues, .jobs, .bells, .vecs, .groups, .pll, .ring, .safe] s (endLoad x0 x1 s) := by
  unfold endLoad
  dsimp only
  split
  · exact Within.refl _ _
  · refine Within.ite (fun _ => Within.refl _ _) fun _ => ?_
    split
    · exact Within.refl _ _
    · rename_i u h
      have hu := (takeReads_within u h).mono (P := [.hdrs, .flds, .links, .accs, .nextId, .commits, .chans, .recs, .regions, .queues, .jobs, .bells, .vecs, .groups, .pll, .ring, .safe]) rfl
      split
      · exact Within.step jgEvt_within rfl (Within.step modGroup_within rfl (Within.step modGroup_within rfl hu))
      · exact Within.step jgEvt_within rfl (Within.step jgEvt_within rfl (Within.step modGroup_within rfl hu))

theorem markValid_within {x0 s} : Within [.hdrs, .vecs, .groups] s (markValid x0 s) := by
  unfold markValid
  repeat' first
    | with_reducible exact Within.refl _ _
    | with_reducible apply Within.step jgEvt_within rfl
    | with_reducible apply Within.step setGroup_within rfl
    | with_reducible apply Within.ite <;> intro _
    | with_reducible exact id
    | with_reducible exact Nat.le_refl _
    | (refine fun (p : Part) hp => ?_; cases p <;> first | (cases hp; done) | with_reducible rfl)
    | with_reducible apply Within.leaf

theorem stepWindow_within {x0 s} : Within [.flds] s (stepWindow x0 s) :=
  fset_within.mono rfl

theorem writeWindow_within {x0 x1 s} : Within [.hdrs, .flds, .vecs, .groups] s (writeWindow x0 x1 s) := by
  unfold writeWindow
  repeat' first
    | with_reducible exact Within.refl _ _
    | with_reducible apply Within.step jgEvt_within rfl
    | with_reducible apply Within.step stepWindow_within rfl
    | with_reducible apply Within.step modGroup_within rfl
    | with_reducible apply Within.ite <;> intro _
    | with_reducible exact id
    | with_reducible exact Nat.le_refl _
    | (refine fun (p : Part) hp => ?_; cases p <;> first | (cases hp; done) | with_reducible rfl)
    | with_reducible apply Within.leaf

theorem startUnfence_within {x0 x1 s} : Within [.hdrs, .vecs, .groups] s (startUnfence x0 x1 s) := by
  unfold startUnfence
  repeat' first
    | with_reducible exact Within.refl _ _
    | with_reducible apply Within.step jgEvt_within rfl
    | with_reducible apply Within.step setGroup_within rfl
    | with_reducible apply Within.ite <;> intro _
    | with_reducible exact id
    | with_reducible exact Nat.le_refl _
    | (refine fun (p : Part) hp => ?_; cases p <;> first | (cases hp; done) | with_reducible rfl)
    | with_reducible apply Within.leaf

theorem endBayTest_within {x0 s} : Within [.hdrs, .vecs, .groups] s (endBayTest x0 s) := by
  unfold endBayTest
  repeat' first
    | with_reducible exact Within.refl _ _
    | with_reducible apply Within.step returnGroup_within rfl
    | with_reducible apply Within.step setGroup_within rfl
    | with_reducible apply Within.ite <;> intro _
    | with_reducible exact id
    | with_reducible exact Nat.le_refl _
    | (refine fun (p : Part) hp => ?_; cases p <;> first | (cases hp; done) | with_reducible rfl)
    | with_reducible apply Within.leaf

theorem endPairTest_within {x0 x1 x2 s} : Within [.hdrs, .vecs, .groups] s (endPairTest x0 x1 x2 s) := by
  unfold endPairTest
  repeat' first
    | with_reducible exact Within.refl _ _
    | with_reducible apply Within.step setGroup_within rfl
    | with_reducible apply Within.step modGroup_within rfl
    | with_reducible apply Within.step jgEvt_within rfl
    | with_reducible apply Within.step fencePair_within rfl
    | with_reducible apply Within.step endBayTest_within rfl
    | with_reducible apply Within.ite <;> intro _
    | with_reducible exact id
    | with_reducible exact Nat.le_refl _
    | (refine fun (p : Part) hp => ?_; cases p <;> first | (cases hp; done) | with_reducible rfl)
    | with_reducible apply Within.leaf

theorem dropUnused_within {x0 s} : Within [.groups] s (dropUnused x0 s) := by
  unfold dropUnused
  repeat' first
    | with_reducible exact Within.refl _ _
    | with_reducible apply Within.step modGroup_within rfl
    | with_reducible apply Within.ite <;> intro _
    | with_reducible exact id
    | with_reducible exact Nat.le_refl _
    | (refine fun (p : Part) hp => ?_; cases p <;> first | (cases hp; done) | with_reducible rfl)
    | with_reducible apply Within.leaf

theorem clearGroupCounts_within {x0 s} : Within [.flds] s (clearGroupCounts x0 s) :=
  fclear_within.mono rfl

theorem execChunkTake_within {x0 x1 s} : ∀ u, execChunkTake x0 x1 s = .next u → Within [.accs, .nextId, .jobs, .groups] s u :=
  fun _ h => Host.Outcome.next.inj h ▸ takeChunk_within.mono rfl

theorem execChunkComplete_within {x0 x1 x2 s} : ∀ u, execChunkComplete x0 x1 x2 s = .next u → Within [.hdrs, .flds, .links, .accs, .nextId, .commits, .chans, .recs, .regions, .queues, .jobs, .bells, .vecs, .groups, .pll, .ring, .safe] s u :=
  fun _ h => Host.Outcome.next.inj h ▸ completeChunk_within.mono rfl

theorem execMovePiece_within {x0 x1 x2 s} : ∀ u, execMovePiece x0 x1 x2 s = .next u → Within [.hdrs, .flds, .links, .accs, .nextId, .commits, .chans, .recs, .regions, .queues, .jobs, .bells, .vecs, .groups, .pll, .ring, .safe] s u :=
  fun _ h => Host.Outcome.next.inj h ▸ movePiece_within.mono rfl

theorem execTableLoad_within {x0 x1 s} : ∀ u, execTableLoad x0 x1 s = .next u → Within [.freeCtr, .hdrs, .flds, .links, .accs, .nextId, .chans, .vecs, .groups, .power] s u := by
  unfold execTableLoad
  refine fun _ h => Host.Outcome.next.inj h ▸ ?_
  repeat' first
    | with_reducible assumption
    | with_reducible exact Within.refl _ _
    | with_reducible apply Within.step startLoad_within rfl
    | with_reducible apply Within.step wakeFor_within rfl
    | with_reducible apply viaReg_within ?_ rfl (.inr rfl)
    | intro x t h
    | intro t h

theorem execTableLoadDone_within {x0 x1 s} : ∀ u, execTableLoadDone x0 x1 s = .next u → Within [.hdrs, .flds, .links, .accs, .nextId, .commits, .chans, .recs, .regions, .queues, .jobs, .bells, .vecs, .groups, .pll, .ring, .safe] s u :=
  fun _ h => Host.Outcome.next.inj h ▸ endLoad_within.mono rfl

theorem execSetv_within {x0 x1 s} : ∀ u, execSetv x0 x1 s = .next u → Within [.freeCtr, .hdrs, .flds, .links, .chans, .vecs, .groups, .power] s u := by
  unfold execSetv
  refine fun _ h => Host.Outcome.next.inj h ▸ ?_
  repeat' first
    | with_reducible assumption
    | with_reducible exact Within.refl _ _
    | with_reducible apply Within.step markValid_within rfl
    | with_reducible apply Within.step wakeFor_within rfl
    | with_reducible apply viaReg_within ?_ rfl (.inr rfl)
    | intro x t h
    | intro t h

theorem execTwdataWrite_within {x0 x1 x2 s} : ∀ u, execTwdataWrite x0 x1 x2 s = .next u → Within [.freeCtr, .hdrs, .flds, .links, .chans, .vecs, .groups, .power] s u := by
  unfold execTwdataWrite
  refine fun _ h => Host.Outcome.next.inj h ▸ ?_
  repeat' first
    | with_reducible assumption
    | with_reducible exact Within.refl _ _
    | with_reducible apply Within.step writeWindow_within rfl
    | with_reducible apply Within.step wakeFor_within rfl
    | with_reducible apply viaReg_within ?_ rfl (.inr rfl)
    | intro x t h
    | intro t h

theorem execUnfence_within {x0 x1 x2 s} : ∀ u, execUnfence x0 x1 x2 s = .next u → Within [.freeCtr, .hdrs, .flds, .links, .chans, .vecs, .groups, .power] s u := by
  unfold execUnfence
  refine fun _ h => Host.Outcome.next.inj h ▸ ?_
  repeat' first
    | with_reducible assumption
    | with_reducible exact Within.refl _ _
    | with_reducible apply Within.step startUnfence_within rfl
    | with_reducible apply Within.step wakeFor_within rfl
    | with_reducible apply viaReg_within ?_ rfl (.inr rfl)
    | intro x t h
    | intro t h

theorem execCinval_within {x0 x1 s} : ∀ u, execCinval x0 x1 s = .next u → Within [.freeCtr, .hdrs, .flds, .links, .chans, .vecs, .groups, .power] s u := by
  unfold execCinval
  refine fun _ h => Host.Outcome.next.inj h ▸ ?_
  repeat' first
    | with_reducible assumption
    | with_reducible exact Within.refl _ _
    | with_reducible apply Within.step dropUnused_within rfl
    | with_reducible apply Within.step wakeFor_within rfl
    | with_reducible apply viaReg_within ?_ rfl (.inr rfl)
    | intro x t h
    | intro t h

theorem execJgClrcnt_within {x0 x1 s} : ∀ u, execJgClrcnt x0 x1 s = .next u → Within [.freeCtr, .hdrs, .flds, .links, .chans, .vecs, .power] s u := by
  unfold execJgClrcnt
  refine fun _ h => Host.Outcome.next.inj h ▸ ?_
  repeat' first
    | with_reducible assumption
    | with_reducible exact Within.refl _ _
    | with_reducible apply Within.step clearGroupCounts_within rfl
    | with_reducible apply Within.step wakeFor_within rfl
    | with_reducible apply viaReg_within ?_ rfl (.inr rfl)
    | intro x t h
    | intro t h

end Sys2Proof.Machine
end

