-- ==== Sys2Proof/Laws/WithinLink.lean ====
section
/-!
SUPPORT. What each operation may change: the links, the regions, the ring and time. One lemma per operation, named after it.
-/

namespace Sys2Proof.Machine

set_option linter.all false

/-! ### LinkOps -/

theorem standbyAck_within {x0 s} : Within [.freeCtr, .flds, .links] s (standbyAck x0 s) := by
  unfold standbyAck
  repeat' first
    | with_reducible exact Within.refl _ _
    | with_reducible apply Within.step fbump_within rfl
    | with_reducible apply Within.step modLink_within rfl
    | with_reducible apply Within.step completeRound_within rfl
    | with_reducible exact id
    | with_reducible exact Nat.le_refl _
    | (refine fun (p : Part) hp => ?_; cases p <;> first | (cases hp; done) | with_reducible rfl)
    | split
    | (dsimp only; split)
    | with_reducible apply Within.leaf

theorem dropRequests_within {x0 s} : Within [.accs, .commits, .regions, .bells] s (dropRequests x0 s) := by
  unfold dropRequests
  repeat' first
    | with_reducible assumption
    | with_reducible exact Within.refl _ _
    | with_reducible apply Within.step pinCopy_within rfl
    | with_reducible apply forAll_within
    | with_reducible apply Within.ite <;> intro _
    | with_reducible exact id
    | with_reducible exact Nat.le_refl _
    | (refine fun (p : Part) hp => ?_; cases p <;> first | (cases hp; done) | with_reducible rfl)
    | intro x t h
    | intro t h
    | with_reducible apply Within.leaf

theorem loseMsg_within {x0 s} : Within [.accs, .commits, .regions, .jobs, .vecs, .groups, .ring] s (loseMsg x0 s) := by
  unfold loseMsg
  repeat' first
    | with_reducible exact Within.refl _ _
    | with_reducible apply Within.step modVec_within rfl
    | with_reducible apply Within.step endJob_within rfl
    | with_reducible apply Within.step modJob_within rfl
    | with_reducible apply Within.step markDirty_within rfl
    | with_reducible apply Within.ite <;> intro _
    | with_reducible exact id
    | with_reducible exact Nat.le_refl _
    | (refine fun (p : Part) hp => ?_; cases p <;> first | (cases hp; done) | with_reducible rfl)
    | split
    | (dsimp only; split)
    | with_reducible apply Within.leaf

theorem waitingVectors_within {x0 s} : Within [.hdrs, .vecs] s (waitingVectors x0 s) := by
  unfold waitingVectors
  repeat' first
    | with_reducible assumption
    | with_reducible exact Within.refl _ _
    | with_reducible apply Within.step checkWait_within rfl
    | with_reducible apply forAll_within
    | intro x t h
    | intro t h

theorem interruptPort_within {x0 s} : Within [.links, .accs, .commits, .regions, .jobs, .bells, .vecs, .groups, .ring] s (interruptPort x0 s) := by
  unfold interruptPort
  repeat' first
    | with_reducible assumption
    | with_reducible exact Within.refl _ _
    | with_reducible apply Within.step loseMsg_within rfl
    | with_reducible apply Within.step dropRequests_within rfl
    | with_reducible apply Within.step modLink_within rfl
    | with_reducible apply forAll_within
    | with_reducible exact id
    | with_reducible exact Nat.le_refl _
    | (refine fun (p : Part) hp => ?_; cases p <;> first | (cases hp; done) | with_reducible rfl)
    | intro x t h
    | intro t h
    | with_reducible apply Within.leaf

theorem leaveActive_within {x0 x1 s} : Within [.links, .accs, .commits, .regions, .jobs, .bells, .vecs, .groups, .ring] s (leaveActive x0 x1 s) := by
  unfold leaveActive
  repeat' first
    | with_reducible assumption
    | with_reducible exact Within.refl _ _
    | with_reducible apply Within.step loseMsg_within rfl
    | with_reducible apply Within.step dropRequests_within rfl
    | with_reducible apply Within.step modLink_within rfl
    | with_reducible apply forAll_within
    | with_reducible apply Within.ite <;> intro _
    | with_reducible exact id
    | with_reducible exact Nat.le_refl _
    | (refine fun (p : Part) hp => ?_; cases p <;> first | (cases hp; done) | with_reducible rfl)
    | intro x t h
    | intro t h
    | with_reducible apply Within.leaf

theorem noteNamed_within {s} : Within [.ring] s (noteNamed s) := by
  unfold noteNamed
  repeat' first
    | with_reducible exact Within.refl _ _
    | with_reducible apply Within.ite <;> intro _
    | with_reducible exact id
    | with_reducible exact Nat.le_refl _
    | (refine fun (p : Part) hp => ?_; cases p <;> first | (cases hp; done) | with_reducible rfl)
    | split
    | (dsimp only; split)
    | with_reducible apply Within.leaf

theorem beginAttempt_within {x0 s} : Within [.links] s (beginAttempt x0 s) := by
  unfold beginAttempt
  repeat' first
    | with_reducible assumption
    | with_reducible exact Within.refl _ _
    | with_reducible apply Within.step sendBlock_within rfl
    | with_reducible apply Within.step modLink_within rfl
    | with_reducible apply forAll_within
    | with_reducible exact id
    | with_reducible exact Nat.le_refl _
    | (refine fun (p : Part) hp => ?_; cases p <;> first | (cases hp; done) | with_reducible rfl)
    | intro x t h
    | intro t h
    | with_reducible apply Within.leaf

theorem beginTraining_within {x0 s} : Within [.links] s (beginTraining x0 s) := by
  unfold beginTraining
  repeat' first
    | with_reducible exact Within.refl _ _
    | with_reducible apply Within.step beginAttempt_within rfl
    | with_reducible apply Within.step modLink_within rfl
    | with_reducible exact id
    | with_reducible exact Nat.le_refl _
    | (refine fun (p : Part) hp => ?_; cases p <;> first | (cases hp; done) | with_reducible rfl)
    | with_reducible apply Within.leaf

theorem enterListen_within {x0 s} : Within [.links] s (enterListen x0 s) := by
  unfold enterListen
  repeat' first
    | with_reducible exact Within.refl _ _
    | with_reducible apply Within.step modLink_within rfl
    | with_reducible exact id
    | with_reducible exact Nat.le_refl _
    | (refine fun (p : Part) hp => ?_; cases p <;> first | (cases hp; done) | with_reducible rfl)
    | with_reducible apply Within.leaf

theorem failAttempt_within {x0 s} : Within [.hdrs, .flds, .links, .vecs] s (failAttempt x0 s) := by
  unfold failAttempt
  repeat' first
    | with_reducible exact Within.refl _ _
    | with_reducible apply Within.step modLink_within rfl
    | with_reducible apply Within.step enterListen_within rfl
    | with_reducible apply Within.step fbump_within rfl
    | with_reducible apply Within.step lEvt_within rfl
    | with_reducible apply Within.step beginAttempt_within rfl
    | with_reducible apply Within.ite <;> intro _
    | with_reducible exact id
    | with_reducible exact Nat.le_refl _
    | (refine fun (p : Part) hp => ?_; cases p <;> first | (cases hp; done) | with_reducible rfl)
    | with_reducible apply Within.leaf

theorem waitsOver_within {x0 s} : Within [.vecs] s (waitsOver x0 s) := by
  unfold waitsOver
  repeat' first
    | with_reducible exact Within.refl _ _
    | with_reducible apply Within.ite <;> intro _
    | with_reducible exact id
    | with_reducible exact Nat.le_refl _
    | (refine fun (p : Part) hp => ?_; cases p <;> first | (cases hp; done) | with_reducible rfl)
    | with_reducible apply Within.leaf

theorem sendDiscards_within {x0 s} : Within [.flds, .links] s (sendDiscards x0 s) := by
  unfold sendDiscards
  repeat' first
    | with_reducible assumption
    | with_reducible exact Within.refl _ _
    | with_reducible apply Within.step sendMsg_within rfl
    | with_reducible apply Within.step countSent_within rfl
    | with_reducible apply Within.step modLink_within rfl
    | with_reducible apply forAll_within
    | with_reducible exact id
    | with_reducible exact Nat.le_refl _
    | (refine fun (p : Part) hp => ?_; cases p <;> first | (cases hp; done) | with_reducible rfl)
    | intro x t h
    | intro t h
    | with_reducible apply Within.leaf

theorem goActive_within {x0 x1 x2 s} : Within [.freeCtr, .hdrs, .flds, .links, .vecs, .ring] s (goActive x0 x1 x2 s) := by
  unfold goActive
  repeat' first
    | with_reducible assumption
    | with_reducible exact Within.refl _ _
    | with_reducible apply Within.step setLink_within rfl
    | with_reducible apply Within.step noteNamed_within rfl
    | with_reducible apply Within.step upEvt_within rfl
    | with_reducible apply Within.step sendGroup_within rfl
    | with_reducible apply Within.step waitsOver_within rfl
    | with_reducible apply Within.step modRlink_within rfl
    | with_reducible apply Within.step sendDiscards_within rfl
    | with_reducible apply onlyIf_within
    | with_reducible exact id
    | with_reducible exact Nat.le_refl _
    | (refine fun (p : Part) hp => ?_; cases p <;> first | (cases hp; done) | with_reducible rfl)
    | intro x t h
    | intro t h
    | with_reducible apply Within.leaf

theorem nextPhase_within {x0 s} : Within [.links] s (nextPhase x0 s) := by
  unfold nextPhase
  repeat' first
    | with_reducible exact Within.refl _ _
    | with_reducible apply Within.step setLink_within rfl
    | with_reducible apply Within.ite <;> intro _
    | with_reducible exact id
    | with_reducible exact Nat.le_refl _
    | (refine fun (p : Part) hp => ?_; cases p <;> first | (cases hp; done) | with_reducible rfl)
    | split
    | (dsimp only; split)
    | with_reducible apply Within.leaf

theorem checkPhase_within {x0 s} : Within [.links] s (checkPhase x0 s) := by
  unfold checkPhase
  repeat' first
    | with_reducible exact Within.refl _ _
    | with_reducible apply Within.step nextPhase_within rfl
    | with_reducible apply Within.ite <;> intro _

theorem tryConfig_within {x0 x1 s} : Within [.freeCtr, .hdrs, .flds, .links, .vecs, .ring] s (tryConfig x0 x1 s) := by
  unfold tryConfig
  repeat' first
    | with_reducible exact Within.refl _ _
    | with_reducible apply Within.step failAttempt_within rfl
    | with_reducible apply Within.step goActive_within rfl
    | with_reducible apply Within.ite <;> intro _

theorem dropToTraining_within {x0 s} : Within [.hdrs, .flds, .links, .accs, .commits, .regions, .jobs, .bells, .vecs, .groups, .ring] s (dropToTraining x0 s) := by
  unfold dropToTraining
  repeat' first
    | with_reducible exact Within.refl _ _
    | with_reducible apply Within.step fbump_within rfl
    | with_reducible apply Within.step downEvt_within rfl
    | with_reducible apply Within.step noteNamed_within rfl
    | with_reducible apply Within.step waitingVectors_within rfl
    | with_reducible apply Within.step beginTraining_within rfl
    | with_reducible apply Within.step leaveActive_within rfl

theorem portOff_within {x0 s} : Within [.hdrs, .links, .accs, .commits, .regions, .jobs, .bells, .vecs, .groups, .ring] s (portOff x0 s) := by
  unfold portOff
  repeat' first
    | with_reducible exact Within.refl _ _
    | with_reducible apply Within.step leaveActive_within rfl
    | with_reducible apply Within.step noteNamed_within rfl
    | with_reducible apply Within.step waitingVectors_within rfl
    | with_reducible apply Within.step modLink_within rfl
    | with_reducible exact id
    | with_reducible exact Nat.le_refl _
    | (refine fun (p : Part) hp => ?_; cases p <;> first | (cases hp; done) | with_reducible rfl)
    | with_reducible apply Within.leaf

theorem finishRetire_within {x0 x1 s} : Within [.freeCtr, .hdrs, .flds, .links, .vecs, .ring] s (finishRetire x0 x1 s) := by
  unfold finishRetire
  repeat' first
    | with_reducible assumption
    | with_reducible exact Within.refl _ _
    | with_reducible apply Within.step setLink_within rfl
    | with_reducible apply Within.step sendGroup_within rfl
    | with_reducible apply Within.step waitsOver_within rfl
    | with_reducible apply Within.step lEvt_within rfl
    | with_reducible apply Within.step fbump_within rfl
    | with_reducible apply Within.step modRlink_within rfl
    | with_reducible apply Within.step noteNamed_within rfl
    | with_reducible apply Within.step sendDiscards_within rfl
    | with_reducible apply onlyIf_within
    | with_reducible apply Within.ite <;> intro _
    | with_reducible exact id
    | with_reducible exact Nat.le_refl _
    | (refine fun (p : Part) hp => ?_; cases p <;> first | (cases hp; done) | with_reducible rfl)
    | intro x t h
    | intro t h
    | with_reducible apply Within.leaf

theorem beginRetire_within {x0 x1 s} : Within [.freeCtr, .hdrs, .flds, .links, .accs, .commits, .regions, .jobs, .bells, .vecs, .groups, .ring] s (beginRetire x0 x1 s) := by
  unfold beginRetire
  repeat' first
    | with_reducible exact Within.refl _ _
    | with_reducible apply Within.step dropToTraining_within rfl
    | with_reducible apply Within.step interruptPort_within rfl
    | with_reducible apply Within.step sendGroup_within rfl
    | with_reducible apply Within.step waitingVectors_within rfl
    | with_reducible apply Within.step noteNamed_within rfl
    | with_reducible apply Within.step modLink_within rfl
    | with_reducible apply Within.ite <;> intro _
    | with_reducible exact id
    | with_reducible exact Nat.le_refl _
    | (refine fun (p : Part) hp => ?_; cases p <;> first | (cases hp; done) | with_reducible rfl)
    | with_reducible apply Within.leaf

theorem lanesFaulty_within {x0 x1 s} : Within [.freeCtr, .hdrs, .flds, .links, .accs, .commits, .regions, .jobs, .bells, .vecs, .groups, .ring] s (lanesFaulty x0 x1 s) := by
  unfold lanesFaulty
  repeat' first
    | with_reducible exact Within.refl _ _
    | with_reducible apply Within.step beginRetire_within rfl
    | with_reducible apply Within.step setLink_within rfl
    | with_reducible exact id
    | with_reducible exact Nat.le_refl _
    | (refine fun (p : Part) hp => ?_; cases p <;> first | (cases hp; done) | with_reducible rfl)
    | with_reducible apply Within.leaf

theorem restartLink_within {x0 s} : Within [.freeCtr, .hdrs, .flds, .links, .accs, .commits, .regions, .jobs, .bells, .vecs, .groups, .ring] s (restartLink x0 s) := by
  unfold restartLink
  repeat' first
    | with_reducible exact Within.refl _ _
    | with_reducible apply Within.step beginRetire_within rfl
    | with_reducible apply Within.step wakePort_within rfl
    | with_reducible apply Within.ite <;> intro _

theorem portFault_within {x0 x1 x2 s} : Within [.freeCtr, .hdrs, .flds, .links, .accs, .commits, .regions, .jobs, .bells, .vecs, .groups, .ring, .safe] s (portFault x0 x1 x2 s) := by
  unfold portFault
  repeat' first
    | with_reducible assumption
    | with_reducible exact Within.refl _ _
    | with_reducible apply Within.step logEvent_within rfl
    | with_reducible apply Within.step restartLink_within rfl
    | with_reducible apply Within.step portFaultReport_within rfl
    | with_reducible apply forAll_within
    | with_reducible apply Within.ite <;> intro _
    | intro x t h
    | intro t h

theorem tryWiden_within {x0 s} : Within [.freeCtr, .links] s (tryWiden x0 s) := by
  unfold tryWiden
  repeat' first
    | with_reducible exact Within.refl _ _
    | with_reducible apply Within.step modLink_within rfl
    | with_reducible apply Within.step sendGroup_within rfl
    | with_reducible apply Within.ite <;> intro _
    | with_reducible exact id
    | with_reducible exact Nat.le_refl _
    | (refine fun (p : Part) hp => ?_; cases p <;> first | (cases hp; done) | with_reducible rfl)
    | with_reducible apply Within.leaf

theorem finishWiden_within {x0 x1 s} : Within [.freeCtr, .hdrs, .flds, .links, .vecs, .ring] s (finishWiden x0 x1 s) := by
  unfold finishWiden
  repeat' first
    | with_reducible assumption
    | with_reducible exact Within.refl _ _
    | with_reducible apply Within.step completeRound_within rfl
    | with_reducible apply Within.step setLink_within rfl
    | with_reducible apply Within.step lEvt_within rfl
    | with_reducible apply Within.step fbump_within rfl
    | with_reducible apply Within.step sendGroup_within rfl
    | with_reducible apply Within.step modRlink_within rfl
    | with_reducible apply onlyIf_within
    | with_reducible apply Within.ite <;> intro _
    | with_reducible exact id
    | with_reducible exact Nat.le_refl _
    | (refine fun (p : Part) hp => ?_; cases p <;> first | (cases hp; done) | with_reducible rfl)
    | intro x t h
    | intro t h
    | with_reducible apply Within.leaf

/-! ### LinkTx -/

theorem sendCodeword_within {x0 x1 x2 s} : Within [.links] s (sendCodeword x0 x1 x2 s) := by
  unfold sendCodeword
  repeat' first
    | with_reducible exact Within.refl _ _
    | with_reducible apply Within.step modLink_within rfl
    | with_reducible apply Within.step putWords_within rfl
    | with_reducible exact id
    | with_reducible exact Nat.le_refl _
    | (refine fun (p : Part) hp => ?_; cases p <;> first | (cases hp; done) | with_reducible rfl)
    | with_reducible apply Within.leaf

theorem resendFlit_within {x0 x1 s} : Within [.links] s (resendFlit x0 x1 s) := by
  unfold resendFlit
  repeat' first
    | with_reducible exact Within.refl _ _
    | with_reducible apply Within.step sendCodeword_within rfl
    | with_reducible apply Within.step setLink_within rfl
    | with_reducible apply Within.ite <;> intro _
    | with_reducible exact id
    | with_reducible exact Nat.le_refl _
    | (refine fun (p : Part) hp => ?_; cases p <;> first | (cases hp; done) | with_reducible rfl)
    | with_reducible apply Within.leaf

theorem sendNull_within {x0 s} : Within [.links] s (sendNull x0 s) := by
  unfold sendNull
  repeat' first
    | with_reducible exact Within.refl _ _
    | with_reducible apply Within.step sendCodeword_within rfl
    | with_reducible apply Within.step setLink_within rfl

theorem departed_within {x0 s} : Within [.jobs, .vecs] s (departed x0 s) := by
  unfold departed
  repeat' first
    | with_reducible exact Within.refl _ _
    | with_reducible apply Within.step modVec_within rfl
    | with_reducible apply Within.step modJob_within rfl
    | with_reducible exact id
    | with_reducible exact Nat.le_refl _
    | (refine fun (p : Part) hp => ?_; cases p <;> first | (cases hp; done) | with_reducible rfl)
    | split
    | (dsimp only; split)
    | with_reducible apply Within.leaf

theorem sendTx_within {x0 x1 s} : Within [.links, .jobs, .vecs] s (sendTx x0 x1 s) := by
  unfold sendTx
  repeat' first
    | with_reducible assumption
    | with_reducible exact Within.refl _ _
    | with_reducible apply Within.step sendCodeword_within rfl
    | with_reducible apply Within.step setLink_within rfl
    | with_reducible apply Within.step departed_within rfl
    | with_reducible apply forAll_within
    | with_reducible apply Within.ite <;> intro _
    | with_reducible exact id
    | with_reducible exact Nat.le_refl _
    | (refine fun (p : Part) hp => ?_; cases p <;> first | (cases hp; done) | with_reducible rfl)
    | intro x t h
    | intro t h
    | with_reducible apply Within.leaf

theorem sendFlit_within {x0 s} : Within [.links, .jobs, .vecs] s (sendFlit x0 s) := by
  unfold sendFlit
  repeat' first
    | with_reducible exact Within.refl _ _
    | with_reducible apply Within.step resendFlit_within rfl
    | with_reducible apply Within.step sendNull_within rfl
    | with_reducible apply Within.step setLink_within rfl
    | with_reducible apply Within.step sendTx_within rfl
    | with_reducible apply Within.ite <;> intro _
    | with_reducible exact id
    | with_reducible exact Nat.le_refl _
    | (refine fun (p : Part) hp => ?_; cases p <;> first | (cases hp; done) | with_reducible rfl)
    | split
    | (dsimp only; split)
    | with_reducible apply Within.leaf

theorem flitSend_within {x0 s} : Within [.freeCtr, .hdrs, .flds, .links, .chans, .jobs, .vecs, .power] s (flitSend x0 s) := by
  unfold flitSend
  repeat' first
    | with_reducible exact Within.refl _ _
    | with_reducible apply Within.step wakePort_within rfl
    | with_reducible apply Within.step wakeDevice_within rfl
    | with_reducible apply Within.step sendFlit_within rfl
    | with_reducible apply Within.step sendGroup_within rfl
    | with_reducible apply Within.ite <;> intro _
    | with_reducible exact id
    | with_reducible exact Nat.le_refl _
    | (refine fun (p : Part) hp => ?_; cases p <;> first | (cases hp; done) | with_reducible rfl)
    | split
    | (dsimp only; split)
    | with_reducible apply Within.leaf

theorem readyAcked_within {s} : Within [.ring] s (readyAcked s) := by
  unfold readyAcked
  repeat' first
    | with_reducible exact Within.refl _ _
    | with_reducible exact id
    | with_reducible exact Nat.le_refl _
    | (refine fun (p : Part) hp => ?_; cases p <;> first | (cases hp; done) | with_reducible rfl)
    | with_reducible apply Within.leaf

theorem freeUpTo_within {x0 x1 s} : Within [.links, .vecs, .ring] s (freeUpTo x0 x1 s) := by
  unfold freeUpTo
  repeat' first
    | with_reducible assumption
    | with_reducible exact Within.refl _ _
    | with_reducible apply Within.step setLink_within rfl
    | with_reducible apply Within.step readyAcked_within rfl
    | with_reducible apply Within.step modVec_within rfl
    | with_reducible apply onlyIf_within
    | with_reducible apply forAll_within
    | with_reducible apply Within.ite <;> intro _
    | with_reducible exact id
    | with_reducible exact Nat.le_refl _
    | (refine fun (p : Part) hp => ?_; cases p <;> first | (cases hp; done) | with_reducible rfl)
    | intro x t h
    | intro t h
    | split
    | (dsimp only; split)
    | with_reducible apply Within.leaf

theorem replayAll_within {x0 s} : Within [.hdrs, .flds, .links, .accs, .commits, .regions, .jobs, .bells, .vecs, .groups, .ring] s (replayAll x0 s) := by
  unfold replayAll
  repeat' first
    | with_reducible exact Within.refl _ _
    | with_reducible apply Within.step dropToTraining_within rfl
    | with_reducible apply Within.step hpEvt_within rfl
    | with_reducible apply Within.step fbump_within rfl
    | with_reducible apply Within.step setLink_within rfl
    | with_reducible apply Within.ite <;> intro _
    | with_reducible exact id
    | with_reducible exact Nat.le_refl _
    | (refine fun (p : Part) hp => ?_; cases p <;> first | (cases hp; done) | with_reducible rfl)
    | with_reducible apply Within.leaf

theorem recvNak_within {x0 x1 s} : Within [.hdrs, .flds, .links, .accs, .commits, .regions, .jobs, .bells, .vecs, .groups, .ring] s (recvNak x0 x1 s) := by
  unfold recvNak
  repeat' first
    | with_reducible exact Within.refl _ _
    | with_reducible apply Within.step freeUpTo_within rfl
    | with_reducible apply Within.step replayAll_within rfl
    | with_reducible apply Within.step setLink_within rfl
    | with_reducible apply Within.ite <;> intro _
    | with_reducible exact id
    | with_reducible exact Nat.le_refl _
    | (refine fun (p : Part) hp => ?_; cases p <;> first | (cases hp; done) | with_reducible rfl)
    | split
    | (dsimp only; split)
    | with_reducible apply Within.leaf

theorem ackTimer_within {x0 s} : Within [.now, .links, .time] s (ackTimer x0 s) := by
  unfold ackTimer
  repeat' first
    | with_reducible exact Within.refl _ _
    | with_reducible apply Within.step modLink_within rfl
    | with_reducible apply Within.step waitUntil_within rfl
    | with_reducible exact id
    | with_reducible exact Nat.le_refl _
    | (refine fun (p : Part) hp => ?_; cases p <;> first | (cases hp; done) | with_reducible rfl)
    | split
    | (dsimp only; split)
    | with_reducible apply Within.leaf

theorem replayTimeout_within {x0 s} : Within [.now, .hdrs, .flds, .links, .accs, .commits, .regions, .jobs, .bells, .vecs, .groups, .time, .ring] s (replayTimeout x0 s) := by
  unfold replayTimeout
  repeat' first
    | with_reducible exact Within.refl _ _
    | with_reducible apply Within.step replayAll_within rfl
    | with_reducible apply Within.step waitUntil_within rfl
    | with_reducible apply Within.ite <;> intro _
    | with_reducible exact id
    | with_reducible exact Nat.le_refl _
    | (refine fun (p : Part) hp => ?_; cases p <;> first | (cases hp; done) | with_reducible rfl)
    | split
    | (dsimp only; split)
    | with_reducible apply Within.leaf

theorem clearXcnt_within {x0 s} : Within [.flds] s (clearXcnt x0 s) :=
  fclear_within.mono rfl

theorem execAckTimer_within {x0 s} : ∀ u, execAckTimer x0 s = .next u → Within [.now, .links, .time] s u :=
  fun _ h => Host.Outcome.next.inj h ▸ ackTimer_within.mono rfl

theorem execReplayTimeout_within {x0 s} : ∀ u, execReplayTimeout x0 s = .next u → Within [.now, .hdrs, .flds, .links, .accs, .commits, .regions, .jobs, .bells, .vecs, .groups, .time, .ring] s u :=
  fun _ h => Host.Outcome.next.inj h ▸ replayTimeout_within.mono rfl

theorem execXcmdClrcnt_within {x0 x1 s} : ∀ u, execXcmdClrcnt x0 x1 s = .next u → Within [.freeCtr, .hdrs, .flds, .links, .chans, .vecs, .power] s u := by
  unfold execXcmdClrcnt
  refine fun _ h => Host.Outcome.next.inj h ▸ ?_
  repeat' first
    | with_reducible assumption
    | with_reducible exact Within.refl _ _
    | with_reducible apply Within.step clearXcnt_within rfl
    | with_reducible apply Within.step wakeFor_within rfl
    | with_reducible apply viaReg_within ?_ rfl (.inr rfl)
    | intro x t h
    | intro t h

theorem execMarkerGroupDue_within {x0 s} : ∀ u, execMarkerGroupDue x0 s = .next u → Within [.freeCtr, .links] s u := by
  unfold execMarkerGroupDue
  refine fun _ h => Host.Outcome.next.inj h ▸ ?_
  repeat' first
    | with_reducible exact Within.refl _ _
    | with_reducible apply Within.step sendGroup_within rfl
    | with_reducible apply Within.ite <;> intro _

/-! ### Links -/

theorem linkCfgErr_within {x0 x1 s} : Within [.hdrs, .vecs] s (linkCfgErr x0 x1 s) :=
  lEvt_within.mono rfl

theorem clearTests_within {x0 s} : Within [.flds] s (clearTests x0 s) := by
  unfold clearTests
  repeat' first
    | with_reducible assumption
    | with_reducible exact Within.refl _ _
    | with_reducible apply Within.step fclear_within rfl
    | with_reducible apply forAll_within
    | intro x t h
    | intro t h

theorem enablePort_within {x0 x1 s} : Within [.hdrs, .flds, .links, .vecs, .boot] s (enablePort x0 x1 s) := by
  unfold enablePort
  repeat' first
    | with_reducible assumption
    | with_reducible exact Within.refl _ _
    | with_reducible apply Within.step linkCfgErr_within rfl
    | with_reducible apply Within.step beginTraining_within rfl
    | with_reducible apply Within.step modLink_within rfl
    | with_reducible apply Within.step clearTests_within rfl
    | with_reducible apply Within.step fset_within rfl
    | with_reducible apply forAll_within
    | with_reducible apply Within.ite <;> intro _
    | with_reducible exact id
    | with_reducible exact Nat.le_refl _
    | (refine fun (p : Part) hp => ?_; cases p <;> first | (cases hp; done) | with_reducible rfl)
    | intro x t h
    | intro t h
    | with_reducible apply Within.leaf

theorem disablePort_within {x0 s} : Within [.hdrs, .flds, .links, .accs, .commits, .regions, .jobs, .bells, .vecs, .groups, .ring] s (disablePort x0 s) := by
  unfold disablePort
  repeat' first
    | with_reducible assumption
    | with_reducible exact Within.refl _ _
    | with_reducible apply Within.step portOff_within rfl
    | with_reducible apply Within.step fset_within rfl
    | with_reducible apply forAll_within
    | with_reducible apply Within.ite <;> intro _
    | intro x t h
    | intro t h

theorem retrainLink_within {x0 s} : Within [.hdrs, .flds, .links, .accs, .commits, .regions, .jobs, .bells, .vecs, .groups, .ring] s (retrainLink x0 s) := by
  unfold retrainLink
  repeat' first
    | with_reducible exact Within.refl _ _
    | with_reducible apply Within.step dropToTraining_within rfl
    | with_reducible apply Within.step beginTraining_within rfl
    | with_reducible apply Within.ite <;> intro _

theorem clearLaneCounts_within {x0 s} : Within [.flds] s (clearLaneCounts x0 s) := by
  unfold clearLaneCounts
  repeat' first
    | with_reducible assumption
    | with_reducible exact Within.refl _ _
    | with_reducible apply Within.step fclear_within rfl
    | with_reducible apply forAll_within
    | intro x t h
    | intro t h

theorem listenAttempt_within {x0 s} : Within [.links] s (listenAttempt x0 s) := by
  unfold listenAttempt
  repeat' first
    | with_reducible exact Within.refl _ _
    | with_reducible apply Within.step beginAttempt_within rfl
    | with_reducible apply Within.step modLink_within rfl
    | with_reducible exact id
    | with_reducible exact Nat.le_refl _
    | (refine fun (p : Part) hp => ?_; cases p <;> first | (cases hp; done) | with_reducible rfl)
    | with_reducible apply Within.leaf

theorem detectLane_within {x0 x1 s} : Within [.links] s (detectLane x0 x1 s) := by
  unfold detectLane
  repeat' first
    | with_reducible exact Within.refl _ _
    | with_reducible apply Within.step checkPhase_within rfl
    | with_reducible apply Within.step modLane_within rfl
    | with_reducible apply Within.ite <;> intro _
    | with_reducible exact id
    | with_reducible exact Nat.le_refl _
    | (refine fun (p : Part) hp => ?_; cases p <;> first | (cases hp; done) | with_reducible rfl)
    | with_reducible apply Within.leaf

theorem signalDetect_within {x0 x1 s} : Within [.freeCtr, .hdrs, .flds, .links, .chans, .vecs, .power] s (signalDetect x0 x1 s) := by
  unfold signalDetect
  repeat' first
    | with_reducible exact Within.refl _ _
    | with_reducible apply Within.step detectLane_within rfl
    | with_reducible apply Within.step listenAttempt_within rfl
    | with_reducible apply Within.step wakePort_within rfl
    | with_reducible apply Within.step wakeDevice_within rfl
    | with_reducible apply Within.step modLane_within rfl
    | with_reducible apply Within.ite <;> intro _
    | with_reducible exact id
    | with_reducible exact Nat.le_refl _
    | (refine fun (p : Part) hp => ?_; cases p <;> first | (cases hp; done) | with_reducible rfl)
    | split
    | (dsimp only; split)
    | with_reducible apply Within.leaf

theorem cdrLock_within {x0 x1 s} : Within [.links] s (cdrLock x0 x1 s) := by
  unfold cdrLock
  repeat' first
    | with_reducible exact Within.refl _ _
    | with_reducible apply Within.step checkPhase_within rfl
    | with_reducible apply Within.step modLane_within rfl
    | with_reducible apply Within.ite <;> intro _
    | with_reducible exact id
    | with_reducible exact Nat.le_refl _
    | (refine fun (p : Part) hp => ?_; cases p <;> first | (cases hp; done) | with_reducible rfl)
    | with_reducible apply Within.leaf

theorem trainLane_within {x0 x1 x2 s} : Within [.freeCtr, .hdrs, .flds, .links, .vecs, .ring] s (trainLane x0 x1 x2 s) := by
  unfold trainLane
  repeat' first
    | with_reducible exact Within.refl _ _
    | with_reducible apply Within.step checkPhase_within rfl
    | with_reducible apply Within.step modLane_within rfl
    | with_reducible apply Within.step modLink_within rfl
    | with_reducible apply Within.step failAttempt_within rfl
    | with_reducible apply Within.step tryConfig_within rfl
    | with_reducible apply Within.ite <;> intro _
    | with_reducible exact id
    | with_reducible exact Nat.le_refl _
    | (refine fun (p : Part) hp => ?_; cases p <;> first | (cases hp; done) | with_reducible rfl)
    | split
    | (dsimp only; split)
    | with_reducible apply Within.leaf

theorem retryBlock_within {x0 x1 x2 s} : Within [.links] s (retryBlock x0 x1 x2 s) := by
  unfold retryBlock
  repeat' first
    | with_reducible exact Within.refl _ _
    | with_reducible apply Within.step modLane_within rfl
    | with_reducible apply Within.ite <;> intro _
    | with_reducible exact id
    | with_reducible exact Nat.le_refl _
    | (refine fun (p : Part) hp => ?_; cases p <;> first | (cases hp; done) | with_reducible rfl)
    | with_reducible apply Within.leaf

theorem trainingBlock_within {x0 x1 x2 s} : Within [.freeCtr, .hdrs, .flds, .links, .vecs, .ring] s (trainingBlock x0 x1 x2 s) := by
  unfold trainingBlock
  repeat' first
    | with_reducible exact Within.refl _ _
    | with_reducible apply Within.step sendBlock_within rfl
    | with_reducible apply Within.step modLane_within rfl
    | with_reducible apply Within.step lEvt_within rfl
    | with_reducible apply Within.step retryBlock_within rfl
    | with_reducible apply Within.step trainLane_within rfl
    | with_reducible apply Within.ite <;> intro _

theorem dropLanes_within {x0 x1 s} : Within [.hdrs, .flds, .links, .vecs] s (dropLanes x0 x1 s) := by
  unfold dropLanes
  repeat' first
    | with_reducible exact Within.refl _ _
    | with_reducible apply Within.step modLink_within rfl
    | with_reducible apply Within.step failAttempt_within rfl
    | with_reducible apply Within.ite <;> intro _
    | with_reducible exact id
    | with_reducible exact Nat.le_refl _
    | (refine fun (p : Part) hp => ?_; cases p <;> first | (cases hp; done) | with_reducible rfl)
    | with_reducible apply Within.leaf

theorem phaseTimeout_within {x0 s} : Within [.now, .freeCtr, .hdrs, .flds, .links, .vecs, .time, .ring] s (phaseTimeout x0 s) := by
  unfold phaseTimeout
  repeat' first
    | with_reducible exact Within.refl _ _
    | with_reducible apply Within.step dropLanes_within rfl
    | with_reducible apply Within.step waitUntil_within rfl
    | with_reducible apply Within.step tryConfig_within rfl
    | with_reducible apply Within.step checkPhase_within rfl
    | with_reducible apply Within.ite <;> intro _

theorem listenPeriod_within {x0 s} : Within [.now, .links, .time] s (listenPeriod x0 s) := by
  unfold listenPeriod
  repeat' first
    | with_reducible exact Within.refl _ _
    | with_reducible apply Within.step listenAttempt_within rfl
    | with_reducible apply Within.step waitUntil_within rfl
    | with_reducible apply Within.ite <;> intro _

theorem slipLanes_within {x0 x1 s} : Within [.links] s (slipLanes x0 x1 s) := by
  unfold slipLanes
  repeat' first
    | with_reducible exact Within.refl _ _
    | with_reducible apply Within.step modLink_within rfl
    | with_reducible apply Within.ite <;> intro _
    | with_reducible exact id
    | with_reducible exact Nat.le_refl _
    | (refine fun (p : Part) hp => ?_; cases p <;> first | (cases hp; done) | with_reducible rfl)
    | with_reducible apply Within.leaf

theorem retryFailed_within {x0 x1 s} : Within [.hdrs, .links, .vecs] s (retryFailed x0 x1 s) := by
  unfold retryFailed
  repeat' first
    | with_reducible exact Within.refl _ _
    | with_reducible apply Within.step modLane_within rfl
    | with_reducible apply Within.step lEvt_within rfl
    | with_reducible apply Within.step modLink_within rfl
    | with_reducible apply Within.ite <;> intro _
    | with_reducible exact id
    | with_reducible exact Nat.le_refl _
    | (refine fun (p : Part) hp => ?_; cases p <;> first | (cases hp; done) | with_reducible rfl)
    | with_reducible apply Within.leaf

theorem algnDropLanes_within {x0 x1 s} : Within [.hdrs, .flds, .links, .vecs] s (algnDropLanes x0 x1 s) := by
  unfold algnDropLanes
  repeat' first
    | with_reducible assumption
    | with_reducible exact Within.refl _ _
    | with_reducible apply Within.step checkPhase_within rfl
    | with_reducible apply Within.step dropLanes_within rfl
    | with_reducible apply Within.step retryFailed_within rfl
    | with_reducible apply forAll_within
    | with_reducible apply Within.ite <;> intro _
    | intro x t h
    | intro t h

theorem laneFault_within {x0 x1 s} : Within [.freeCtr, .hdrs, .flds, .links, .accs, .commits, .regions, .jobs, .bells, .vecs, .groups, .ring] s (laneFault x0 x1 s) := by
  unfold laneFault
  repeat' first
    | with_reducible assumption
    | with_reducible exact Within.refl _ _
    | with_reducible apply Within.step modLane_within rfl
    | with_reducible apply Within.step nextFree_within rfl
    | with_reducible apply Within.step lanesFaulty_within rfl
    | with_reducible apply Within.step fbump_within rfl
    | with_reducible apply onlyIf_within
    | with_reducible apply Within.ite <;> intro _
    | with_reducible exact id
    | with_reducible exact Nat.le_refl _
    | (refine fun (p : Part) hp => ?_; cases p <;> first | (cases hp; done) | with_reducible rfl)
    | intro x t h
    | intro t h
    | with_reducible apply Within.leaf

theorem takeMarker_within {x0 x1 s} : Within [.links] s (takeMarker x0 x1 s) := by
  unfold takeMarker
  repeat' first
    | with_reducible exact Within.refl _ _
    | with_reducible apply Within.step modLink_within rfl
    | with_reducible exact id
    | with_reducible exact Nat.le_refl _
    | (refine fun (p : Part) hp => ?_; cases p <;> first | (cases hp; done) | with_reducible rfl)
    | split
    | (dsimp only; split)
    | with_reducible apply Within.leaf

theorem retireReq_within {x0 x1 s} : Within [.freeCtr, .hdrs, .flds, .links, .accs, .commits, .regions, .jobs, .bells, .vecs, .groups, .ring] s (retireReq x0 x1 s) := by
  unfold retireReq
  repeat' first
    | with_reducible assumption
    | with_reducible exact Within.refl _ _
    | with_reducible apply Within.step modLink_within rfl
    | with_reducible apply Within.step interruptPort_within rfl
    | with_reducible apply Within.step sendGroup_within rfl
    | with_reducible apply Within.step waitingVectors_within rfl
    | with_reducible apply Within.step dropToTraining_within rfl
    | with_reducible apply Within.step finishRetire_within rfl
    | with_reducible apply onlyIf_within
    | with_reducible apply Within.ite <;> intro _
    | with_reducible exact id
    | with_reducible exact Nat.le_refl _
    | (refine fun (p : Part) hp => ?_; cases p <;> first | (cases hp; done) | with_reducible rfl)
    | intro x t h
    | intro t h
    | split
    | (dsimp only; split)
    | with_reducible apply Within.leaf

theorem retireAck_within {x0 x1 s} : Within [.freeCtr, .hdrs, .flds, .links, .accs, .commits, .regions, .jobs, .bells, .vecs, .groups, .ring] s (retireAck x0 x1 s) := by
  unfold retireAck
  repeat' first
    | with_reducible assumption
    | with_reducible exact Within.refl _ _
    | with_reducible apply Within.step modLink_within rfl
    | with_reducible apply Within.step dropToTraining_within rfl
    | with_reducible apply Within.step finishRetire_within rfl
    | with_reducible apply onlyIf_within
    | with_reducible apply Within.ite <;> intro _
    | with_reducible exact id
    | with_reducible exact Nat.le_refl _
    | (refine fun (p : Part) hp => ?_; cases p <;> first | (cases hp; done) | with_reducible rfl)
    | intro x t h
    | intro t h
    | split
    | (dsimp only; split)
    | with_reducible apply Within.leaf

theorem retireRepeat_within {x0 s} : Within [.now, .freeCtr, .links, .time] s (retireRepeat x0 s) := by
  unfold retireRepeat
  repeat' first
    | with_reducible exact Within.refl _ _
    | with_reducible apply Within.step waitUntil_within rfl
    | with_reducible apply Within.step sendGroup_within rfl
    | with_reducible apply Within.step modLink_within rfl
    | with_reducible apply Within.ite <;> intro _
    | with_reducible exact id
    | with_reducible exact Nat.le_refl _
    | (refine fun (p : Part) hp => ?_; cases p <;> first | (cases hp; done) | with_reducible rfl)
    | split
    | (dsimp only; split)
    | with_reducible apply Within.leaf

theorem retireTimeout_within {x0 s} : Within [.now, .hdrs, .flds, .links, .accs, .commits, .regions, .jobs, .bells, .vecs, .groups, .time, .ring] s (retireTimeout x0 s) := by
  unfold retireTimeout
  repeat' first
    | with_reducible exact Within.refl _ _
    | with_reducible apply Within.step dropToTraining_within rfl
    | with_reducible apply Within.step lEvt_within rfl
    | with_reducible apply Within.step waitUntil_within rfl
    | with_reducible apply Within.ite <;> intro _
    | with_reducible exact id
    | with_reducible exact Nat.le_refl _
    | (refine fun (p : Part) hp => ?_; cases p <;> first | (cases hp; done) | with_reducible rfl)
    | split
    | (dsimp only; split)
    | with_reducible apply Within.leaf

theorem beginRetry_within {x0 x1 s} : Within [.hdrs, .links, .vecs] s (beginRetry x0 x1 s) := by
  unfold beginRetry
  repeat' first
    | with_reducible assumption
    | with_reducible exact Within.refl _ _
    | with_reducible apply Within.step retryFailed_within rfl
    | with_reducible apply Within.step modLane_within rfl
    | with_reducible apply onlyIf_within
    | with_reducible apply Within.ite <;> intro _
    | with_reducible exact id
    | with_reducible exact Nat.le_refl _
    | (refine fun (p : Part) hp => ?_; cases p <;> first | (cases hp; done) | with_reducible rfl)
    | intro x t h
    | intro t h
    | with_reducible apply Within.leaf

theorem retryPeriod_within {x0 s} : Within [.now, .freeCtr, .hdrs, .links, .vecs, .time] s (retryPeriod x0 s) := by
  unfold retryPeriod
  repeat' first
    | with_reducible assumption
    | with_reducible exact Within.refl _ _
    | with_reducible apply Within.step waitUntil_within rfl
    | with_reducible apply Within.step tryWiden_within rfl
    | with_reducible apply Within.step beginRetry_within rfl
    | with_reducible apply Within.step modLink_within rfl
    | with_reducible apply forAll_within
    | with_reducible apply Within.ite <;> intro _
    | with_reducible exact id
    | with_reducible exact Nat.le_refl _
    | (refine fun (p : Part) hp => ?_; cases p <;> first | (cases hp; done) | with_reducible rfl)
    | intro x t h
    | intro t h
    | with_reducible apply Within.leaf

theorem addSoakErrs_within {x0 x1 x2 s} : Within [.freeCtr, .flds] s (addSoakErrs x0 x1 x2 s) := by
  unfold addSoakErrs
  repeat' first
    | with_reducible exact Within.refl _ _
    | with_reducible apply Within.step fadd_within rfl
    | with_reducible apply Within.step nextFree_within rfl
    | with_reducible apply Within.ite <;> intro _

theorem soakEnd_within {x0 x1 x2 x3 s} : Within [.now, .freeCtr, .hdrs, .flds, .links, .vecs, .time] s (soakEnd x0 x1 x2 x3 s) := by
  unfold soakEnd
  repeat' first
    | with_reducible exact Within.refl _ _
    | with_reducible apply Within.step sendBlock_within rfl
    | with_reducible apply Within.step addSoakErrs_within rfl
    | with_reducible apply Within.step waitUntil_within rfl
    | with_reducible apply Within.step tryWiden_within rfl
    | with_reducible apply Within.step modLink_within rfl
    | with_reducible apply Within.step modLane_within rfl
    | with_reducible apply Within.step retryFailed_within rfl
    | with_reducible apply Within.ite <;> intro _
    | with_reducible exact id
    | with_reducible exact Nat.le_refl _
    | (refine fun (p : Part) hp => ?_; cases p <;> first | (cases hp; done) | with_reducible rfl)
    | with_reducible apply Within.leaf

theorem widenReq_within {x0 x1 s} : Within [.freeCtr, .hdrs, .flds, .links, .vecs, .ring] s (widenReq x0 x1 s) := by
  unfold widenReq
  repeat' first
    | with_reducible exact Within.refl _ _
    | with_reducible apply Within.step finishWiden_within rfl
    | with_reducible apply Within.step sendGroup_within rfl
    | with_reducible apply Within.step modLink_within rfl
    | with_reducible apply Within.ite <;> intro _

theorem widenAck_within {x0 x1 s} : Within [.freeCtr, .hdrs, .flds, .links, .vecs, .ring] s (widenAck x0 x1 s) := by
  unfold widenAck
  repeat' first
    | with_reducible exact Within.refl _ _
    | with_reducible apply Within.step finishWiden_within rfl
    | with_reducible apply Within.step modLink_within rfl
    | with_reducible apply Within.ite <;> intro _
    | with_reducible exact id
    | with_reducible exact Nat.le_refl _
    | (refine fun (p : Part) hp => ?_; cases p <;> first | (cases hp; done) | with_reducible rfl)
    | split
    | (dsimp only; split)
    | with_reducible apply Within.leaf

theorem widenTimeout_within {x0 s} : Within [.now, .links, .time] s (widenTimeout x0 s) := by
  unfold widenTimeout
  repeat' first
    | with_reducible exact Within.refl _ _
    | with_reducible apply Within.step modLink_within rfl
    | with_reducible apply Within.step waitUntil_within rfl
    | with_reducible exact id
    | with_reducible exact Nat.le_refl _
    | (refine fun (p : Part) hp => ?_; cases p <;> first | (cases hp; done) | with_reducible rfl)
    | split
    | (dsimp only; split)
    | with_reducible apply Within.leaf

theorem controlGroup_within {x0 x1 s} : Within [.freeCtr, .hdrs, .flds, .links, .accs, .commits, .regions, .jobs, .bells, .vecs, .groups, .ring] s (controlGroup x0 x1 s) := by
  unfold controlGroup
  repeat' first
    | with_reducible exact Within.refl _ _
    | with_reducible apply Within.step retireReq_within rfl
    | with_reducible apply Within.step retireAck_within rfl
    | with_reducible apply Within.step widenReq_within rfl
    | with_reducible apply Within.step widenAck_within rfl
    | with_reducible apply Within.step standbyAck_within rfl
    | with_reducible exact id
    | with_reducible exact Nat.le_refl _
    | (refine fun (p : Part) hp => ?_; cases p <;> first | (cases hp; done) | with_reducible rfl)
    | split
    | (dsimp only; split)
    | with_reducible apply Within.leaf

theorem markerGroup_within {x0 x1 s} : Within [.freeCtr, .hdrs, .flds, .links, .accs, .commits, .regions, .jobs, .bells, .vecs, .groups, .ring] s (markerGroup x0 x1 s) := by
  unfold markerGroup
  repeat' first
    | with_reducible assumption
    | with_reducible exact Within.refl _ _
    | with_reducible apply Within.step lEvt_within rfl
    | with_reducible apply Within.step controlGroup_within rfl
    | with_reducible apply Within.step takeMarker_within rfl
    | with_reducible apply Within.step lanesFaulty_within rfl
    | with_reducible apply forAll_within
    | with_reducible apply foldl_within
    | with_reducible apply Within.ite <;> intro _
    | with_reducible exact id
    | with_reducible exact Nat.le_refl _
    | (refine fun (p : Part) hp => ?_; cases p <;> first | (cases hp; done) | with_reducible rfl)
    | intro x t h
    | intro t h
    | split
    | (dsimp only; split)
    | with_reducible apply Within.leaf

theorem writeLyctl_within {x0 x1 x2 s} : Within [.hdrs, .flds, .links, .vecs] s (writeLyctl x0 x1 x2 s) := by
  unfold writeLyctl
  repeat' first
    | with_reducible exact Within.refl _ _
    | with_reducible apply Within.step fset_within rfl
    | with_reducible apply Within.step modLane_within rfl
    | with_reducible apply Within.step linkCfgErr_within rfl
    | with_reducible apply Within.step fclear_within rfl
    | with_reducible apply Within.step modLink_within rfl
    | with_reducible apply Within.ite <;> intro _
    | with_reducible exact id
    | with_reducible exact Nat.le_refl _
    | (refine fun (p : Part) hp => ?_; cases p <;> first | (cases hp; done) | with_reducible rfl)
    | with_reducible apply Within.leaf

theorem genSym_within {x0 x1 s} : Within [.links] s (genSym x0 x1 s) := by
  unfold genSym
  repeat' first
    | with_reducible exact Within.refl _ _
    | with_reducible apply Within.step modLane_within rfl
    | with_reducible apply Within.ite <;> intro _
    | with_reducible exact id
    | with_reducible exact Nat.le_refl _
    | (refine fun (p : Part) hp => ?_; cases p <;> first | (cases hp; done) | with_reducible rfl)
    | with_reducible apply Within.leaf

theorem checkSym_within {x0 x1 x2 s} : Within [.hdrs, .flds, .links, .vecs] s (checkSym x0 x1 x2 s) := by
  unfold checkSym
  repeat' first
    | with_reducible assumption
    | with_reducible exact Within.refl _ _
    | with_reducible apply Within.step fbump_within rfl
    | with_reducible apply Within.step modLane_within rfl
    | with_reducible apply Within.step fadd_within rfl
    | with_reducible apply Within.step lEvt_within rfl
    | with_reducible apply onlyIf_within
    | with_reducible apply Within.ite <;> intro _
    | with_reducible exact id
    | with_reducible exact Nat.le_refl _
    | (refine fun (p : Part) hp => ?_; cases p <;> first | (cases hp; done) | with_reducible rfl)
    | intro x t h
    | intro t h
    | with_reducible apply Within.leaf

theorem checkSyms_within {x0 x1 x2 s} : Within [.hdrs, .flds, .links, .vecs] s (checkSyms x0 x1 x2 s) := by
  unfold checkSyms
  repeat' first
    | with_reducible assumption
    | with_reducible exact Within.refl _ _
    | with_reducible apply Within.step checkSym_within rfl
    | with_reducible apply Within.step genSym_within rfl
    | with_reducible apply Within.step modLane_within rfl
    | with_reducible apply forAll_within
    | with_reducible exact id
    | with_reducible exact Nat.le_refl _
    | (refine fun (p : Part) hp => ?_; cases p <;> first | (cases hp; done) | with_reducible rfl)
    | intro x t h
    | intro t h
    | with_reducible apply Within.leaf

theorem execMarkerGroup_within {x0 x1 s} : ∀ u, execMarkerGroup x0 x1 s = .next u → Within [.freeCtr, .hdrs, .flds, .links, .accs, .commits, .regions, .jobs, .bells, .vecs, .groups, .ring] s u :=
  fun _ h => Host.Outcome.next.inj h ▸ markerGroup_within.mono rfl

theorem execLaneFault_within {x0 x1 s} : ∀ u, execLaneFault x0 x1 s = .next u → Within [.freeCtr, .hdrs, .flds, .links, .accs, .commits, .regions, .jobs, .bells, .vecs, .groups, .ring] s u :=
  fun _ h => Host.Outcome.next.inj h ▸ laneFault_within.mono rfl

theorem execRetireReq_within {x0 x1 s} : ∀ u, execRetireReq x0 x1 s = .next u → Within [.freeCtr, .hdrs, .flds, .links, .accs, .commits, .regions, .jobs, .bells, .vecs, .groups, .ring] s u :=
  fun _ h => Host.Outcome.next.inj h ▸ retireReq_within.mono rfl

theorem execRetireAck_within {x0 x1 s} : ∀ u, execRetireAck x0 x1 s = .next u → Within [.freeCtr, .hdrs, .flds, .links, .accs, .commits, .regions, .jobs, .bells, .vecs, .groups, .ring] s u :=
  fun _ h => Host.Outcome.next.inj h ▸ retireAck_within.mono rfl

theorem execRetireReqRepeat_within {x0 s} : ∀ u, execRetireReqRepeat x0 s = .next u → Within [.now, .freeCtr, .links, .time] s u :=
  fun _ h => Host.Outcome.next.inj h ▸ retireRepeat_within.mono rfl

theorem execRetireTo_within {x0 s} : ∀ u, execRetireTo x0 s = .next u → Within [.now, .hdrs, .flds, .links, .accs, .commits, .regions, .jobs, .bells, .vecs, .groups, .time, .ring] s u :=
  fun _ h => Host.Outcome.next.inj h ▸ retireTimeout_within.mono rfl

theorem execPortEnable_within {x0 x1 s} : ∀ u, execPortEnable x0 x1 s = .next u → Within [.freeCtr, .hdrs, .flds, .links, .chans, .vecs, .boot, .power] s u := by
  unfold execPortEnable
  refine fun _ h => Host.Outcome.next.inj h ▸ ?_
  repeat' first
    | with_reducible assumption
    | with_reducible exact Within.refl _ _
    | with_reducible apply Within.step enablePort_within rfl
    | with_reducible apply Within.step wakeFor_within rfl
    | with_reducible apply viaReg_within ?_ rfl (.inr rfl)
    | intro x t h
    | intro t h

theorem execPortDisable_within {x0 x1 s} : ∀ u, execPortDisable x0 x1 s = .next u → Within [.freeCtr, .hdrs, .flds, .links, .accs, .commits, .chans, .regions, .jobs, .bells, .vecs, .groups, .ring, .power] s u := by
  unfold execPortDisable
  refine fun _ h => Host.Outcome.next.inj h ▸ ?_
  repeat' first
    | with_reducible assumption
    | with_reducible exact Within.refl _ _
    | with_reducible apply Within.step disablePort_within rfl
    | with_reducible apply Within.step wakeFor_within rfl
    | with_reducible apply viaReg_within ?_ rfl (.inr rfl)
    | intro x t h
    | intro t h

theorem execRetrain_within {x0 x1 s} : ∀ u, execRetrain x0 x1 s = .next u → Within [.freeCtr, .hdrs, .flds, .links, .accs, .commits, .chans, .regions, .jobs, .bells, .vecs, .groups, .ring, .power] s u := by
  unfold execRetrain
  refine fun _ h => Host.Outcome.next.inj h ▸ ?_
  repeat' first
    | with_reducible assumption
    | with_reducible exact Within.refl _ _
    | with_reducible apply Within.step retrainLink_within rfl
    | with_reducible apply Within.step wakeFor_within rfl
    | with_reducible apply viaReg_within ?_ rfl (.inr rfl)
    | with_reducible apply forAll_within
    | intro x t h
    | intro t h

theorem execLaneClrcnt_within {x0 x1 s} : ∀ u, execLaneClrcnt x0 x1 s = .next u → Within [.freeCtr, .hdrs, .flds, .links, .chans, .vecs, .power] s u := by
  unfold execLaneClrcnt
  refine fun _ h => Host.Outcome.next.inj h ▸ ?_
  repeat' first
    | with_reducible assumption
    | with_reducible exact Within.refl _ _
    | with_reducible apply Within.step clearLaneCounts_within rfl
    | with_reducible apply Within.step wakeFor_within rfl
    | with_reducible apply viaReg_within ?_ rfl (.inr rfl)
    | intro x t h
    | intro t h

theorem execSignalDetect_within {x0 x1 s} : ∀ u, execSignalDetect x0 x1 s = .next u → Within [.freeCtr, .hdrs, .flds, .links, .chans, .vecs, .power] s u :=
  fun _ h => Host.Outcome.next.inj h ▸ signalDetect_within.mono rfl

theorem execCdrLock_within {x0 x1 s} : ∀ u, execCdrLock x0 x1 s = .next u → Within [.links] s u :=
  fun _ h => Host.Outcome.next.inj h ▸ cdrLock_within.mono rfl

theorem execTrainingBlock_within {x0 x1 x2 s} : ∀ u, execTrainingBlock x0 x1 x2 s = .next u → Within [.freeCtr, .hdrs, .flds, .links, .vecs, .ring] s u :=
  fun _ h => Host.Outcome.next.inj h ▸ trainingBlock_within.mono rfl

theorem execPhaseTimeout_within {x0 s} : ∀ u, execPhaseTimeout x0 s = .next u → Within [.now, .freeCtr, .hdrs, .flds, .links, .vecs, .time, .ring] s u :=
  fun _ h => Host.Outcome.next.inj h ▸ phaseTimeout_within.mono rfl

theorem execListenPeriod_within {x0 s} : ∀ u, execListenPeriod x0 s = .next u → Within [.now, .links, .time] s u :=
  fun _ h => Host.Outcome.next.inj h ▸ listenPeriod_within.mono rfl

theorem execAlgnSlip_within {x0 x1 x2 s} : ∀ u, execAlgnSlip x0 x1 x2 s = .next u → Within [.freeCtr, .hdrs, .flds, .links, .chans, .vecs, .power] s u := by
  unfold execAlgnSlip
  refine fun _ h => Host.Outcome.next.inj h ▸ ?_
  repeat' first
    | with_reducible assumption
    | with_reducible exact Within.refl _ _
    | with_reducible apply Within.step slipLanes_within rfl
    | with_reducible apply Within.step wakeFor_within rfl
    | with_reducible apply viaReg_within ?_ rfl (.inr rfl)
    | with_reducible apply forAll_within
    | intro x t h
    | intro t h

theorem execAlgnDrop_within {x0 x1 x2 s} : ∀ u, execAlgnDrop x0 x1 x2 s = .next u → Within [.freeCtr, .hdrs, .flds, .links, .chans, .vecs, .power] s u := by
  unfold execAlgnDrop
  refine fun _ h => Host.Outcome.next.inj h ▸ ?_
  repeat' first
    | with_reducible assumption
    | with_reducible exact Within.refl _ _
    | with_reducible apply Within.step algnDropLanes_within rfl
    | with_reducible apply Within.step wakeFor_within rfl
    | with_reducible apply viaReg_within ?_ rfl (.inr rfl)
    | with_reducible apply forAll_within
    | intro x t h
    | intro t h

theorem execRetryPeriod_within {x0 s} : ∀ u, execRetryPeriod x0 s = .next u → Within [.now, .freeCtr, .hdrs, .links, .vecs, .time] s u :=
  fun _ h => Host.Outcome.next.inj h ▸ retryPeriod_within.mono rfl

theorem execSoakEnd_within {x0 x1 x2 x3 s} : ∀ u, execSoakEnd x0 x1 x2 x3 s = .next u → Within [.now, .freeCtr, .hdrs, .flds, .links, .vecs, .time] s u :=
  fun _ h => Host.Outcome.next.inj h ▸ soakEnd_within.mono rfl

theorem execWidenReq_within {x0 x1 s} : ∀ u, execWidenReq x0 x1 s = .next u → Within [.freeCtr, .hdrs, .flds, .links, .vecs, .ring] s u :=
  fun _ h => Host.Outcome.next.inj h ▸ widenReq_within.mono rfl

theorem execWidenAck_within {x0 x1 s} : ∀ u, execWidenAck x0 x1 s = .next u → Within [.freeCtr, .hdrs, .flds, .links, .vecs, .ring] s u :=
  fun _ h => Host.Outcome.next.inj h ▸ widenAck_within.mono rfl

theorem execWidenAckTimeout_within {x0 s} : ∀ u, execWidenAckTimeout x0 s = .next u → Within [.now, .links, .time] s u :=
  fun _ h => Host.Outcome.next.inj h ▸ widenTimeout_within.mono rfl

theorem execLaneTest_within {x0 x1 x2 x3 s} : ∀ u, execLaneTest x0 x1 x2 x3 s = .next u → Within [.freeCtr, .hdrs, .flds, .links, .chans, .vecs, .power] s u := by
  unfold execLaneTest
  refine fun _ h => Host.Outcome.next.inj h ▸ ?_
  repeat' first
    | with_reducible assumption
    | with_reducible exact Within.refl _ _
    | with_reducible apply Within.step writeLyctl_within rfl
    | with_reducible apply Within.step wakeFor_within rfl
    | with_reducible apply viaReg_within ?_ rfl (.inr rfl)
    | intro x t h
    | intro t h

theorem execPrbsInject_within {x0 x1 x2 s} : ∀ u, execPrbsInject x0 x1 x2 s = .next u → Within [.freeCtr, .hdrs, .flds, .links, .chans, .vecs, .power] s u := by
  unfold execPrbsInject
  refine fun _ h => Host.Outcome.next.inj h ▸ ?_
  repeat' first
    | with_reducible assumption
    | with_reducible exact Within.refl _ _
    | with_reducible apply Within.step modLane_within rfl
    | with_reducible apply Within.step wakeFor_within rfl
    | with_reducible apply viaReg_within ?_ rfl (.inr rfl)
    | with_reducible apply onlyIf_within
    | with_reducible exact id
    | with_reducible exact Nat.le_refl _
    | (refine fun (p : Part) hp => ?_; cases p <;> first | (cases hp; done) | with_reducible rfl)
    | intro x t h
    | intro t h
    | with_reducible apply Within.leaf

theorem execCheckerLock_within {x0 x1 x2 s} : ∀ u, execCheckerLock x0 x1 x2 s = .next u → Within [.hdrs, .flds, .links, .vecs] s u :=
  fun _ h => Host.Outcome.next.inj h ▸ checkSyms_within.mono rfl

theorem execChkLoss_within {x0 x1 x2 s} : ∀ u, execChkLoss x0 x1 x2 s = .next u → Within [.hdrs, .flds, .links, .vecs] s u :=
  fun _ h => Host.Outcome.next.inj h ▸ checkSyms_within.mono rfl

/-! ### Mirror -/

theorem onRing_within {P r x0 f s} (hf : ∀ t, Within P r t → Within P r (f t)) (hm : [].all P.contains = true)
    (k : Within P r s) : Within P r (onRing x0 f s) := by
  unfold onRing
  repeat' first
    | with_reducible assumption
    | with_reducible exact Within.refl _ _
    | with_reducible apply hf
    | with_reducible apply onlyIf_within
    | intro x t h
    | intro t h

theorem recvKpw_within {x0 x1 s} : Within [.links, .accs, .nextId, .ring] s (recvKpw x0 x1 s) := by
  unfold recvKpw
  repeat' first
    | with_reducible exact Within.refl _ _
    | with_reducible apply Within.step ringReply_within rfl
    | with_reducible apply Within.step kpwSettle_within rfl
    | with_reducible apply Within.step askWrite_within rfl
    | with_reducible apply Within.ite <;> intro _

theorem recvKpack_within {x0 s} : Within [.flds, .links, .accs, .ring] s (recvKpack x0 s) := by
  unfold recvKpack
  repeat' first
    | with_reducible exact Within.refl _ _
    | with_reducible apply Within.step ackMirrored_within rfl
    | with_reducible apply Within.ite <;> intro _
    | with_reducible exact id
    | with_reducible exact Nat.le_refl _
    | (refine fun (p : Part) hp => ?_; cases p <;> first | (cases hp; done) | with_reducible rfl)
    | split
    | (dsimp only; split)
    | with_reducible apply Within.leaf

theorem sendRegionBlock_within {x0 x1 s} : Within [.hdrs, .flds, .links, .accs, .commits, .chans, .regions, .queues, .jobs, .bells, .vecs, .groups, .pll, .ring, .safe] s (sendRegionBlock x0 x1 s) := by
  unfold sendRegionBlock
  repeat' first
    | with_reducible exact Within.refl _ _
    | with_reducible apply Within.step BlockRead.promote_within rfl
    | with_reducible apply Within.step sendKpwAs_within rfl
    | with_reducible apply Within.step BlockRead.count_within rfl
    | with_reducible apply Within.step modMirror_within rfl
    | with_reducible apply Within.ite <;> intro _
    | with_reducible exact id
    | with_reducible exact Nat.le_refl _
    | (refine fun (p : Part) hp => ?_; cases p <;> first | (cases hp; done) | with_reducible rfl)
    | with_reducible apply Within.leaf

theorem sendRegion_within {x0 s} : Within [.hdrs, .flds, .links, .accs, .commits, .chans, .regions, .queues, .jobs, .bells, .vecs, .groups, .pll, .ring, .safe] s (sendRegion x0 s) := by
  unfold sendRegion
  repeat' first
    | with_reducible assumption
    | with_reducible exact Within.refl _ _
    | with_reducible apply Within.step modMirror_within rfl
    | with_reducible apply Within.step sendRegionBlock_within rfl
    | with_reducible apply forAll_within
    | with_reducible exact id
    | with_reducible exact Nat.le_refl _
    | (refine fun (p : Part) hp => ?_; cases p <;> first | (cases hp; done) | with_reducible rfl)
    | intro x t h
    | intro t h
    | with_reducible apply Within.leaf

theorem restartKpw_within {x0 x1 s} : Within [.ring] s (restartKpw x0 x1 s) := by
  unfold restartKpw
  repeat' first
    | with_reducible exact Within.refl _ _
    | with_reducible apply Within.ite <;> intro _
    | with_reducible exact id
    | with_reducible exact Nat.le_refl _
    | (refine fun (p : Part) hp => ?_; cases p <;> first | (cases hp; done) | with_reducible rfl)
    | with_reducible apply Within.leaf

theorem writeMcfg_within {x0 x1 x2 x3 s} : Within [.hdrs, .flds, .links, .accs, .vecs, .ring] s (writeMcfg x0 x1 x2 x3 s) := by
  unfold writeMcfg
  repeat' first
    | with_reducible exact Within.refl _ _
    | with_reducible apply Within.step linkCfgErr_within rfl
    | with_reducible apply Within.step setMirror_within rfl
    | with_reducible apply Within.step dropKpw_within rfl
    | with_reducible apply Within.step restartKpw_within rfl
    | with_reducible apply Within.ite <;> intro _
    | with_reducible exact id
    | with_reducible exact Nat.le_refl _
    | (refine fun (p : Part) hp => ?_; cases p <;> first | (cases hp; done) | with_reducible rfl)
    | with_reducible apply Within.leaf

theorem mirrorDetach_within {x0 s} : Within [.now, .hdrs, .flds, .links, .accs, .vecs, .time, .ring] s (mirrorDetach x0 s) := by
  unfold mirrorDetach
  repeat' first
    | with_reducible exact Within.refl _ _
    | with_reducible apply Within.step detachMirror_within rfl
    | with_reducible apply Within.step waitUntil_within rfl
    | with_reducible apply Within.ite <;> intro _
    | with_reducible exact id
    | with_reducible exact Nat.le_refl _
    | (refine fun (p : Part) hp => ?_; cases p <;> first | (cases hp; done) | with_reducible rfl)
    | split
    | (dsimp only; split)
    | with_reducible apply Within.leaf

theorem resyncDone_within {x0 s} : Within [.hdrs, .flds, .links, .accs, .commits, .chans, .regions, .queues, .jobs, .bells, .vecs, .groups, .pll, .ring, .safe] s (resyncDone x0 s) := by
  unfold resyncDone
  repeat' first
    | with_reducible exact Within.refl _ _
    | with_reducible apply Within.step sendRegion_within rfl
    | with_reducible apply Within.step ringEvt_within rfl
    | with_reducible apply Within.step setMirror_within rfl
    | with_reducible apply Within.ite <;> intro _
    | with_reducible exact id
    | with_reducible exact Nat.le_refl _
    | (refine fun (p : Part) hp => ?_; cases p <;> first | (cases hp; done) | with_reducible rfl)
    | with_reducible apply Within.leaf

theorem execKpw_within {x0 x1 s} : ∀ u, execKpw x0 x1 s = .next u → Within [.links, .accs, .nextId, .ring] s u := by
  unfold execKpw
  refine fun _ h => Host.Outcome.next.inj h ▸ ?_
  repeat' first
    | with_reducible assumption
    | with_reducible exact Within.refl _ _
    | with_reducible apply Within.step recvKpw_within rfl
    | with_reducible apply onRing_within ?_ rfl
    | intro x t h
    | intro t h

theorem execKpack_within {x0 x1 s} : ∀ u, execKpack x0 x1 s = .next u → Within [.flds, .links, .accs, .ring] s u := by
  unfold execKpack
  refine fun _ h => Host.Outcome.next.inj h ▸ ?_
  repeat' first
    | with_reducible assumption
    | with_reducible exact Within.refl _ _
    | with_reducible apply Within.step recvKpack_within rfl
    | with_reducible apply onRing_within ?_ rfl
    | intro x t h
    | intro t h

theorem execMirrorDetach_within {x0 s} : ∀ u, execMirrorDetach x0 s = .next u → Within [.now, .hdrs, .flds, .links, .accs, .vecs, .time, .ring] s u :=
  fun _ h => Host.Outcome.next.inj h ▸ mirrorDetach_within.mono rfl

theorem execMirrorEnable_within {x0 s} : ∀ u, execMirrorEnable x0 s = .next u → Within [.hdrs, .flds, .links, .accs, .vecs, .ring] s u := by
  unfold execMirrorEnable
  refine fun _ h => Host.Outcome.next.inj h ▸ ?_
  repeat' first
    | with_reducible assumption
    | with_reducible exact Within.refl _ _
    | with_reducible apply Within.step writeMcfg_within rfl
    | with_reducible apply viaReg_within ?_ rfl (.inl rfl)
    | with_reducible apply viaReg_within ?_ rfl (.inl (sleeps_wq _))
    | intro x t h
    | intro t h

theorem execMirrorResyncDone_within {x0 s} : ∀ u, execMirrorResyncDone x0 s = .next u → Within [.hdrs, .flds, .links, .accs, .commits, .chans, .regions, .queues, .jobs, .bells, .vecs, .groups, .pll, .ring, .safe] s u :=
  fun _ h => Host.Outcome.next.inj h ▸ resyncDone_within.mono rfl

/-! ### RegionCmd -/

theorem enableRegion_within {x0 s} : Within [.hdrs, .regions, .vecs] s (enableRegion x0 s) := by
  unfold enableRegion
  repeat' first
    | with_reducible assumption
    | with_reducible exact Within.refl _ _
    | with_reducible apply Within.step rgnEvt_within rfl
    | with_reducible apply Within.step setRegion_within rfl
    | with_reducible apply Within.step kpSingleOne_within rfl
    | with_reducible apply forAll_within
    | with_reducible apply Within.ite <;> intro _
    | with_reducible exact id
    | with_reducible exact Nat.le_refl _
    | (refine fun (p : Part) hp => ?_; cases p <;> first | (cases hp; done) | with_reducible rfl)
    | intro x t h
    | intro t h
    | with_reducible apply Within.leaf

theorem clearRegion_within {x0 s} : Within [.chans, .mem, .recs, .groups] s (clearRegion x0 s) := by
  unfold clearRegion
  repeat' first
    | with_reducible assumption
    | with_reducible exact Within.refl _ _
    | with_reducible apply Within.step putLine_within rfl
    | with_reducible apply Within.step dropCached_within rfl
    | with_reducible apply Within.step setRec_within rfl
    | with_reducible apply forAll_within
    | with_reducible exact id
    | with_reducible exact Nat.le_refl _
    | (refine fun (p : Part) hp => ?_; cases p <;> first | (cases hp; done) | with_reducible rfl)
    | intro x t h
    | intro t h
    | with_reducible apply Within.leaf

theorem initDone_within {x0 s} : Within [.hdrs, .chans, .mem, .recs, .regions, .vecs, .groups] s (initDone x0 s) := by
  unfold initDone
  repeat' first
    | with_reducible exact Within.refl _ _
    | with_reducible apply Within.step rgnEvt_within rfl
    | with_reducible apply Within.step modRegion_within rfl
    | with_reducible apply Within.step clearRegion_within rfl
    | with_reducible apply Within.ite <;> intro _
    | with_reducible exact id
    | with_reducible exact Nat.le_refl _
    | (refine fun (p : Part) hp => ?_; cases p <;> first | (cases hp; done) | with_reducible rfl)
    | with_reducible apply Within.leaf

theorem resyncRec_within {x0 x1 s} : Within [.chans, .recs, .regions] s (resyncRec x0 x1 s) := by
  unfold resyncRec
  repeat' first
    | with_reducible exact Within.refl _ _
    | with_reducible apply Within.step modRegion_within rfl
    | with_reducible apply Within.step putRec_within rfl
    | with_reducible apply Within.step touchRec_within rfl
    | with_reducible apply Within.ite <;> intro _
    | with_reducible exact id
    | with_reducible exact Nat.le_refl _
    | (refine fun (p : Part) hp => ?_; cases p <;> first | (cases hp; done) | with_reducible rfl)
    | with_reducible apply Within.leaf

theorem resyncLine_within {x0 x1 x2 s} : Within [.hdrs, .flds, .links, .accs, .nextId, .commits, .chans, .recs, .regions, .queues, .jobs, .bells, .vecs, .groups, .pll, .ring, .safe] s (resyncLine x0 x1 x2 s) := by
  unfold resyncLine
  repeat' first
    | with_reducible exact Within.refl _ _
    | with_reducible apply Within.step resyncRec_within rfl
    | with_reducible apply Within.step LineCopy.promote_within rfl
    | with_reducible apply Within.step modRegion_within rfl
    | with_reducible apply Within.step LineCopy.run_within rfl
    | with_reducible apply Within.ite <;> intro _
    | with_reducible exact id
    | with_reducible exact Nat.le_refl _
    | (refine fun (p : Part) hp => ?_; cases p <;> first | (cases hp; done) | with_reducible rfl)
    | with_reducible apply Within.leaf

theorem resyncBegin_within {x0 x1 s} : Within [.regions] s (resyncBegin x0 x1 s) := by
  unfold resyncBegin
  repeat' first
    | with_reducible exact Within.refl _ _
    | with_reducible apply Within.step setRegion_within rfl
    | with_reducible exact id
    | with_reducible exact Nat.le_refl _
    | (refine fun (p : Part) hp => ?_; cases p <;> first | (cases hp; done) | with_reducible rfl)
    | split
    | (dsimp only; split)
    | with_reducible apply Within.leaf

theorem kpResyncDone_within {x0 x1 s} : Within [.hdrs, .flds, .links, .accs, .nextId, .commits, .chans, .recs, .regions, .queues, .jobs, .bells, .vecs, .groups, .pll, .ring, .safe] s (kpResyncDone x0 x1 s) := by
  unfold kpResyncDone
  repeat' first
    | with_reducible assumption
    | with_reducible exact Within.refl _ _
    | with_reducible apply Within.step resyncBegin_within rfl
    | with_reducible apply Within.step resyncLine_within rfl
    | with_reducible apply Within.step modRegion_within rfl
    | with_reducible apply forAll_within
    | with_reducible apply Within.ite <;> intro _
    | with_reducible exact id
    | with_reducible exact Nat.le_refl _
    | (refine fun (p : Part) hp => ?_; cases p <;> first | (cases hp; done) | with_reducible rfl)
    | intro x t h
    | intro t h
    | with_reducible apply Within.leaf

theorem clearRegionCounts_within {x0 s} : Within [.regions] s (clearRegionCounts x0 s) := by
  unfold clearRegionCounts
  repeat' first
    | with_reducible exact Within.refl _ _
    | with_reducible apply Within.step modRegion_within rfl
    | with_reducible exact id
    | with_reducible exact Nat.le_refl _
    | (refine fun (p : Part) hp => ?_; cases p <;> first | (cases hp; done) | with_reducible rfl)
    | with_reducible apply Within.leaf

theorem buildSlots_within {s} : Within [.hdrs, .flds, .links, .accs, .commits, .chans, .regions, .slots, .built, .queues, .jobs, .bells, .vecs, .ring, .boot] s (buildSlots s) := by
  unfold buildSlots
  repeat' first
    | with_reducible exact Within.refl _ _
    | with_reducible apply Within.step rgnEvt_within rfl
    | with_reducible apply Within.step fset_within rfl
    | with_reducible apply Within.step disableAll_within rfl
    | with_reducible apply Within.ite <;> intro _
    | with_reducible exact id
    | with_reducible exact Nat.le_refl _
    | (refine fun (p : Part) hp => ?_; cases p <;> first | (cases hp; done) | with_reducible rfl)
    | with_reducible apply Within.leaf

theorem execRegionEnable_within {x0 s} : ∀ u, execRegionEnable x0 s = .next u → Within [.hdrs, .flds, .regions, .vecs] s u := by
  unfold execRegionEnable
  refine fun _ h => Host.Outcome.next.inj h ▸ ?_
  repeat' first
    | with_reducible assumption
    | with_reducible exact Within.refl _ _
    | with_reducible apply Within.step enableRegion_within rfl
    | with_reducible apply viaReg_within ?_ rfl (.inl rfl)
    | with_reducible apply viaReg_within ?_ rfl (.inl (sleeps_wq _))
    | intro x t h
    | intro t h

theorem execInitDone_within {x0 s} : ∀ u, execInitDone x0 s = .next u → Within [.hdrs, .chans, .mem, .recs, .regions, .vecs, .groups] s u :=
  fun _ h => Host.Outcome.next.inj h ▸ initDone_within.mono rfl

theorem execRegionDisable_within {x0 s} : ∀ u, execRegionDisable x0 s = .next u → Within [.hdrs, .flds, .links, .accs, .commits, .regions, .queues, .jobs, .bells, .vecs, .ring] s u := by
  unfold execRegionDisable
  refine fun _ h => Host.Outcome.next.inj h ▸ ?_
  repeat' first
    | with_reducible assumption
    | with_reducible exact Within.refl _ _
    | with_reducible apply Within.step disableRegion_within rfl
    | with_reducible apply viaReg_within ?_ rfl (.inl rfl)
    | with_reducible apply viaReg_within ?_ rfl (.inl (sleeps_wq _))
    | intro x t h
    | intro t h

theorem execRegionClrcnt_within {x0 s} : ∀ u, execRegionClrcnt x0 s = .next u → Within [.hdrs, .flds, .regions, .vecs] s u := by
  unfold execRegionClrcnt
  refine fun _ h => Host.Outcome.next.inj h ▸ ?_
  repeat' first
    | with_reducible assumption
    | with_reducible exact Within.refl _ _
    | with_reducible apply Within.step clearRegionCounts_within rfl
    | with_reducible apply viaReg_within ?_ rfl (.inl rfl)
    | with_reducible apply viaReg_within ?_ rfl (.inl (sleeps_wq _))
    | intro x t h
    | intro t h

theorem execSlotTableBuild_within {s} : ∀ u, execSlotTableBuild s = .next u → Within [.hdrs, .flds, .links, .accs, .commits, .chans, .regions, .slots, .built, .queues, .jobs, .bells, .vecs, .ring, .boot] s u :=
  fun _ h => Host.Outcome.next.inj h ▸ buildSlots_within.mono rfl

theorem execKpResyncDone_within {x0 x1 s} : ∀ u, execKpResyncDone x0 x1 s = .next u → Within [.hdrs, .flds, .links, .accs, .nextId, .commits, .chans, .recs, .regions, .queues, .jobs, .bells, .vecs, .groups, .pll, .ring, .safe] s u :=
  fun _ h => Host.Outcome.next.inj h ▸ kpResyncDone_within.mono rfl

/-! ### SelfRef -/

theorem drainFuel_within {x0 x1 s} : Within [.accs, .chans, .mem] s (drainFuel x0 x1 s) := by
  induction x1 generalizing s with
  | zero => exact Within.refl _ _
  | succ k ih =>
    unfold drainFuel
    split
    · exact Within.step ih rfl (issueColumn_within.mono rfl)
    · exact Within.refl _ _

theorem drainChan_within {x0 s} : Within [.accs, .chans, .mem] s (drainChan x0 s) := by
  unfold drainChan
  repeat' first
    | with_reducible exact Within.refl _ _
    | with_reducible apply Within.step modChan_within rfl
    | with_reducible apply Within.step drainFuel_within rfl
    | with_reducible exact id
    | with_reducible exact Nat.le_refl _
    | (refine fun (p : Part) hp => ?_; cases p <;> first | (cases hp; done) | with_reducible rfl)
    | with_reducible apply Within.leaf

theorem flushCaches_within {x0 s} : Within [.chans] s (flushCaches x0 s) := by
  unfold flushCaches
  repeat' first
    | with_reducible exact Within.refl _ _
    | with_reducible apply Within.step modChan_within rfl
    | with_reducible exact id
    | with_reducible exact Nat.le_refl _
    | (refine fun (p : Part) hp => ?_; cases p <;> first | (cases hp; done) | with_reducible rfl)
    | with_reducible apply Within.leaf

theorem enterSelfRefresh_within {x0 s} : Within [.accs, .chans, .mem] s (enterSelfRefresh x0 s) := by
  unfold enterSelfRefresh
  repeat' first
    | with_reducible exact Within.refl _ _
    | with_reducible apply Within.step modChan_within rfl
    | with_reducible apply Within.step flushCaches_within rfl
    | with_reducible apply Within.step drainChan_within rfl
    | with_reducible exact id
    | with_reducible exact Nat.le_refl _
    | (refine fun (p : Part) hp => ?_; cases p <;> first | (cases hp; done) | with_reducible rfl)
    | with_reducible apply Within.leaf

theorem exitSelfRefresh_within {x0 s} : Within [.chans] s (exitSelfRefresh x0 s) := by
  unfold exitSelfRefresh
  repeat' first
    | with_reducible exact Within.refl _ _
    | with_reducible apply Within.step modChan_within rfl
    | with_reducible exact id
    | with_reducible exact Nat.le_refl _
    | (refine fun (p : Part) hp => ?_; cases p <;> first | (cases hp; done) | with_reducible rfl)
    | with_reducible apply Within.leaf

/-! ### Pll -/

theorem clkEvt_within {x0 x1 x2 s} : Within [.hdrs, .vecs] s (clkEvt x0 x1 x2 s) :=
  raiseCaps_within.mono rfl

theorem clkCfgErr_within {s} : Within [.hdrs, .vecs] s (clkCfgErr s) :=
  clkEvt_within.mono rfl

theorem setPll_within {x0 s} : Within [.pll] s (setPll x0 s) := by
  unfold setPll
  repeat' first
    | with_reducible exact Within.refl _ _
    | with_reducible exact id
    | with_reducible exact Nat.le_refl _
    | (refine fun (p : Part) hp => ?_; cases p <;> first | (cases hp; done) | with_reducible rfl)
    | with_reducible apply Within.leaf

theorem endCoast_within {s} : Within [.flds, .pll] s (endCoast s) := by
  unfold endCoast
  repeat' first
    | with_reducible exact Within.refl _ _
    | with_reducible apply Within.step fset_within rfl
    | with_reducible exact id
    | with_reducible exact Nat.le_refl _
    | (refine fun (p : Part) hp => ?_; cases p <;> first | (cases hp; done) | with_reducible rfl)
    | split
    | (dsimp only; split)
    | with_reducible apply Within.leaf

theorem enterCoast_within {s} : Within [.hdrs, .flds, .vecs, .pll] s (enterCoast s) := by
  unfold enterCoast
  repeat' first
    | with_reducible exact Within.refl _ _
    | with_reducible apply Within.step clkEvt_within rfl
    | with_reducible apply Within.step fbump_within rfl
    | with_reducible apply Within.step setPll_within rfl
    | with_reducible exact id
    | with_reducible exact Nat.le_refl _
    | (refine fun (p : Part) hp => ?_; cases p <;> first | (cases hp; done) | with_reducible rfl)
    | with_reducible apply Within.leaf

theorem slewDone_within {s} : Within [.hdrs, .vecs, .pll] s (slewDone s) := by
  unfold slewDone
  repeat' first
    | with_reducible exact Within.refl _ _
    | with_reducible apply Within.step clkEvt_within rfl
    | with_reducible apply Within.step setPll_within rfl
    | with_reducible exact id
    | with_reducible exact Nat.le_refl _
    | (refine fun (p : Part) hp => ?_; cases p <;> first | (cases hp; done) | with_reducible rfl)
    | with_reducible apply Within.leaf

theorem startSlew_within {x0 s} : Within [.hdrs, .flds, .vecs, .pll] s (startSlew x0 s) := by
  unfold startSlew
  repeat' first
    | with_reducible exact Within.refl _ _
    | with_reducible apply Within.step endCoast_within rfl
    | with_reducible apply Within.step setPll_within rfl
    | with_reducible apply Within.step slewDone_within rfl
    | with_reducible apply Within.ite <;> intro _
    | with_reducible exact id
    | with_reducible exact Nat.le_refl _
    | (refine fun (p : Part) hp => ?_; cases p <;> first | (cases hp; done) | with_reducible rfl)
    | with_reducible apply Within.leaf

theorem slewEpoch_within {s} : Within [.hdrs, .vecs, .pll] s (slewEpoch s) := by
  unfold slewEpoch
  repeat' first
    | with_reducible exact Within.refl _ _
    | with_reducible apply Within.step setPll_within rfl
    | with_reducible apply Within.step slewDone_within rfl
    | with_reducible apply Within.ite <;> intro _
    | with_reducible exact id
    | with_reducible exact Nat.le_refl _
    | (refine fun (p : Part) hp => ?_; cases p <;> first | (cases hp; done) | with_reducible rfl)
    | with_reducible apply Within.leaf

theorem tryStep_within {s} : Within [.flds, .pll] s (tryStep s) := by
  unfold tryStep
  repeat' first
    | with_reducible exact Within.refl _ _
    | with_reducible apply Within.step endCoast_within rfl
    | with_reducible apply Within.step setPll_within rfl
    | with_reducible apply Within.ite <;> intro _
    | with_reducible exact id
    | with_reducible exact Nat.le_refl _
    | (refine fun (p : Part) hp => ?_; cases p <;> first | (cases hp; done) | with_reducible rfl)
    | with_reducible apply Within.leaf

theorem chooseStep_within {s} : Within [.hdrs, .flds, .vecs, .pll] s (chooseStep s) := by
  unfold chooseStep
  repeat' first
    | with_reducible exact Within.refl _ _
    | with_reducible apply Within.step tryStep_within rfl
    | with_reducible apply Within.step setPll_within rfl
    | with_reducible apply Within.step clkCfgErr_within rfl
    | with_reducible apply Within.ite <;> intro _
    | with_reducible exact id
    | with_reducible exact Nat.le_refl _
    | (refine fun (p : Part) hp => ?_; cases p <;> first | (cases hp; done) | with_reducible rfl)
    | with_reducible apply Within.leaf

theorem pjCommand_within {x0 x1 s} : Within [.hdrs, .flds, .vecs, .pll] s (pjCommand x0 x1 s) := by
  unfold pjCommand
  repeat' first
    | with_reducible exact Within.refl _ _
    | with_reducible apply Within.step clkCfgErr_within rfl
    | with_reducible apply Within.step chooseStep_within rfl
    | with_reducible apply Within.step startSlew_within rfl
    | with_reducible apply Within.ite <;> intro _

theorem phasePolicy_within {x0 s} : Within [.hdrs, .flds, .vecs, .pll] s (phasePolicy x0 s) := by
  unfold phasePolicy
  repeat' first
    | with_reducible exact Within.refl _ _
    | with_reducible apply Within.step setPll_within rfl
    | with_reducible apply Within.step startSlew_within rfl
    | with_reducible apply Within.step clkEvt_within rfl
    | with_reducible apply Within.step fbump_within rfl
    | with_reducible apply Within.step chooseStep_within rfl
    | with_reducible apply Within.ite <;> intro _
    | with_reducible exact id
    | with_reducible exact Nat.le_refl _
    | (refine fun (p : Part) hp => ?_; cases p <;> first | (cases hp; done) | with_reducible rfl)
    | split
    | (dsimp only; split)
    | with_reducible apply Within.leaf

theorem startRom_within {s} : Within [.boot, .safe] s (startRom s) := by
  unfold startRom
  repeat' first
    | with_reducible exact Within.refl _ _
    | with_reducible apply Within.ite <;> intro _
    | with_reducible exact id
    | with_reducible exact Nat.le_refl _
    | (refine fun (p : Part) hp => ?_; cases p <;> first | (cases hp; done) | with_reducible rfl)
    | with_reducible apply Within.leaf

theorem wakeChans_within {s} : Within [.chans] s (wakeChans s) := by
  unfold wakeChans
  repeat' first
    | with_reducible assumption
    | with_reducible exact Within.refl _ _
    | with_reducible apply Within.step exitSelfRefresh_within rfl
    | with_reducible apply onlyIf_within
    | with_reducible apply forAll_within
    | intro x t h
    | intro t h

theorem clockUp_within {s} : Within [.flds, .boot, .power, .safe] s (clockUp s) := by
  unfold clockUp
  repeat' first
    | with_reducible assumption
    | with_reducible exact Within.refl _ _
    | with_reducible apply Within.step startRom_within rfl
    | with_reducible apply Within.step fset_within rfl
    | with_reducible apply onlyIf_within
    | with_reducible exact id
    | with_reducible exact Nat.le_refl _
    | (refine fun (p : Part) hp => ?_; cases p <;> first | (cases hp; done) | with_reducible rfl)
    | intro x t h
    | intro t h
    | with_reducible apply Within.leaf

theorem writeOutEn_within {x0 x1 s} : Within [.hdrs, .flds, .vecs] s (writeOutEn x0 x1 s) := by
  unfold writeOutEn
  repeat' first
    | with_reducible exact Within.refl _ _
    | with_reducible apply Within.step clkCfgErr_within rfl
    | with_reducible apply Within.step fset_within rfl
    | with_reducible apply Within.ite <;> intro _

theorem putFine_within {x0 x1 s} : Within [.flds, .pll] s (putFine x0 x1 s) := by
  unfold putFine
  repeat' first
    | with_reducible exact Within.refl _ _
    | with_reducible apply Within.step fset_within rfl
    | with_reducible exact id
    | with_reducible exact Nat.le_refl _
    | (refine fun (p : Part) hp => ?_; cases p <;> first | (cases hp; done) | with_reducible rfl)
    | with_reducible apply Within.leaf

theorem writeFdly_within {x0 x1 s} : Within [.hdrs, .flds, .vecs, .pll] s (writeFdly x0 x1 s) := by
  unfold writeFdly
  repeat' first
    | with_reducible exact Within.refl _ _
    | with_reducible apply Within.step clkCfgErr_within rfl
    | with_reducible apply Within.step putFine_within rfl
    | with_reducible apply Within.ite <;> intro _

theorem writeDseed_within {x0 s} : Within [.flds, .pll] s (writeDseed x0 s) := by
  unfold writeDseed
  repeat' first
    | with_reducible exact Within.refl _ _
    | with_reducible apply Within.step fset_within rfl
    | with_reducible apply Within.step setPll_within rfl
    | with_reducible apply Within.ite <;> intro _
    | with_reducible exact id
    | with_reducible exact Nat.le_refl _
    | (refine fun (p : Part) hp => ?_; cases p <;> first | (cases hp; done) | with_reducible rfl)
    | with_reducible apply Within.leaf

theorem clearClk_within {s} : Within [.flds, .pll] s (clearClk s) := by
  unfold clearClk
  repeat' first
    | with_reducible exact Within.refl _ _
    | with_reducible apply Within.step fclear_within rfl
    | with_reducible apply Within.step setPll_within rfl
    | with_reducible exact id
    | with_reducible exact Nat.le_refl _
    | (refine fun (p : Part) hp => ?_; cases p <;> first | (cases hp; done) | with_reducible rfl)
    | with_reducible apply Within.leaf

theorem qualify_within {x0 s} : Within [.now, .pll, .time] s (qualify x0 s) := by
  unfold qualify
  repeat' first
    | with_reducible exact Within.refl _ _
    | with_reducible apply Within.step waitUntil_within rfl
    | with_reducible apply Within.step setPll_within rfl
    | with_reducible apply Within.ite <;> intro _
    | with_reducible exact id
    | with_reducible exact Nat.le_refl _
    | (refine fun (p : Part) hp => ?_; cases p <;> first | (cases hp; done) | with_reducible rfl)
    | with_reducible apply Within.leaf

theorem execRefclkQualified_within {x0 s} : ∀ u, execRefclkQualified x0 s = .next u → Within [.now, .pll, .time] s u := by
  unfold execRefclkQualified
  refine fun _ h => Host.Outcome.next.inj h ▸ ?_
  repeat' first
    | with_reducible exact Within.refl _ _
    | with_reducible apply Within.step setPll_within rfl
    | with_reducible apply Within.step qualify_within rfl
    | with_reducible exact id
    | with_reducible exact Nat.le_refl _
    | (refine fun (p : Part) hp => ?_; cases p <;> first | (cases hp; done) | with_reducible rfl)
    | split
    | (dsimp only; split)
    | with_reducible apply Within.leaf

theorem execFreerun_within {s} : ∀ u, execFreerun s = .next u → Within [.now, .hdrs, .flds, .vecs, .pll, .time, .boot, .power, .safe] s u := by
  unfold execFreerun
  refine fun _ h => Host.Outcome.next.inj h ▸ ?_
  repeat' first
    | with_reducible exact Within.refl _ _
    | with_reducible apply Within.step waitUntil_within rfl
    | with_reducible apply Within.step clockUp_within rfl
    | with_reducible apply Within.step clkEvt_within rfl
    | with_reducible apply Within.step setPll_within rfl
    | with_reducible apply Within.ite <;> intro _
    | with_reducible exact id
    | with_reducible exact Nat.le_refl _
    | (refine fun (p : Part) hp => ?_; cases p <;> first | (cases hp; done) | with_reducible rfl)
    | with_reducible apply Within.leaf

theorem execPllLock_within {s} : ∀ u, execPllLock s = .next u → Within [.hdrs, .flds, .chans, .vecs, .pll, .boot, .power, .safe] s u := by
  unfold execPllLock
  refine fun _ h => Host.Outcome.next.inj h ▸ ?_
  repeat' first
    | with_reducible exact Within.refl _ _
    | with_reducible apply Within.step wakeChans_within rfl
    | with_reducible apply Within.step clockUp_within rfl
    | with_reducible apply Within.step clkEvt_within rfl
    | with_reducible apply Within.step setPll_within rfl
    | with_reducible apply Within.ite <;> intro _
    | with_reducible exact id
    | with_reducible exact Nat.le_refl _
    | (refine fun (p : Part) hp => ?_; cases p <;> first | (cases hp; done) | with_reducible rfl)
    | with_reducible apply Within.leaf

theorem execRefclkLoss_within {s} : ∀ u, execRefclkLoss s = .next u → Within [.hdrs, .flds, .vecs, .pll] s u := by
  unfold execRefclkLoss
  refine fun _ h => Host.Outcome.next.inj h ▸ ?_
  repeat' first
    | with_reducible exact Within.refl _ _
    | with_reducible apply Within.step setPll_within rfl
    | with_reducible apply Within.step enterCoast_within rfl
    | with_reducible exact id
    | with_reducible exact Nat.le_refl _
    | (refine fun (p : Part) hp => ?_; cases p <;> first | (cases hp; done) | with_reducible rfl)
    | split
    | (dsimp only; split)
    | with_reducible apply Within.leaf

theorem execRefStep_within {s} : ∀ u, execRefStep s = .next u → Within [.hdrs, .flds, .vecs, .pll] s u := by
  unfold execRefStep
  refine fun _ h => Host.Outcome.next.inj h ▸ ?_
  repeat' first
    | with_reducible exact Within.refl _ _
    | with_reducible apply Within.step clkEvt_within rfl
    | with_reducible apply Within.step enterCoast_within rfl
    | with_reducible apply Within.ite <;> intro _

theorem execUnlock_within {s} : ∀ u, execUnlock s = .next u → Within [.hdrs, .flds, .vecs, .pll] s u := by
  unfold execUnlock
  refine fun _ h => Host.Outcome.next.inj h ▸ ?_
  repeat' first
    | with_reducible exact Within.refl _ _
    | with_reducible apply Within.step enterCoast_within rfl
    | with_reducible apply Within.step clkEvt_within rfl
    | with_reducible apply Within.ite <;> intro _

theorem execRelockRampStep_within {s} : ∀ u, execRelockRampStep s = .next u → Within [.now, .pll, .time] s u := by
  unfold execRelockRampStep
  refine fun _ h => Host.Outcome.next.inj h ▸ ?_
  repeat' first
    | with_reducible exact Within.refl _ _
    | with_reducible apply Within.step waitUntil_within rfl
    | with_reducible apply Within.step setPll_within rfl
    | with_reducible apply Within.ite <;> intro _
    | with_reducible exact id
    | with_reducible exact Nat.le_refl _
    | (refine fun (p : Part) hp => ?_; cases p <;> first | (cases hp; done) | with_reducible rfl)
    | with_reducible apply Within.leaf

theorem execPhaseMeasured_within {x0 s} : ∀ u, execPhaseMeasured x0 s = .next u → Within [.hdrs, .flds, .vecs, .pll] s u := by
  unfold execPhaseMeasured
  refine fun _ h => Host.Outcome.next.inj h ▸ ?_
  repeat' first
    | with_reducible exact Within.refl _ _
    | with_reducible apply Within.step phasePolicy_within rfl
    | with_reducible apply Within.ite <;> intro _

theorem execPjcmdSlew_within {x0 s} : ∀ u, execPjcmdSlew x0 s = .next u → Within [.hdrs, .flds, .vecs, .pll] s u := by
  unfold execPjcmdSlew
  refine fun _ h => Host.Outcome.next.inj h ▸ ?_
  repeat' first
    | with_reducible assumption
    | with_reducible exact Within.refl _ _
    | with_reducible apply Within.step pjCommand_within rfl
    | with_reducible apply viaReg_within ?_ rfl (.inl rfl)
    | with_reducible apply viaReg_within ?_ rfl (.inl (sleeps_wq _))
    | intro x t h
    | intro t h

theorem execPjcmdStep_within {x0 s} : ∀ u, execPjcmdStep x0 s = .next u → Within [.hdrs, .flds, .vecs, .pll] s u := by
  unfold execPjcmdStep
  refine fun _ h => Host.Outcome.next.inj h ▸ ?_
  repeat' first
    | with_reducible assumption
    | with_reducible exact Within.refl _ _
    | with_reducible apply Within.step pjCommand_within rfl
    | with_reducible apply viaReg_within ?_ rfl (.inl rfl)
    | with_reducible apply viaReg_within ?_ rfl (.inl (sleeps_wq _))
    | intro x t h
    | intro t h

theorem execStepDone_within {s} : ∀ u, execStepDone s = .next u → Within [.now, .hdrs, .flds, .vecs, .pll, .time] s u := by
  unfold execStepDone
  refine fun _ h => Host.Outcome.next.inj h ▸ ?_
  repeat' first
    | with_reducible exact Within.refl _ _
    | with_reducible apply Within.step waitUntil_within rfl
    | with_reducible apply Within.step setPll_within rfl
    | with_reducible apply Within.step clkEvt_within rfl
    | with_reducible apply Within.step enterCoast_within rfl
    | with_reducible apply Within.ite <;> intro _
    | with_reducible exact id
    | with_reducible exact Nat.le_refl _
    | (refine fun (p : Part) hp => ?_; cases p <;> first | (cases hp; done) | with_reducible rfl)
    | with_reducible apply Within.leaf

theorem execClockMonitorFail_within {x0 s} : ∀ u, execClockMonitorFail x0 s = .next u → Within [.hdrs, .flds, .links, .accs, .commits, .regions, .queues, .jobs, .bells, .vecs, .ring, .safe] s u := by
  unfold execClockMonitorFail
  refine fun _ h => Host.Outcome.next.inj h ▸ ?_
  repeat' first
    | with_reducible exact Within.refl _ _
    | with_reducible apply Within.step deviceFault_within rfl
    | with_reducible apply Within.step clkEvt_within rfl
    | with_reducible apply Within.step fset_within rfl
    | with_reducible apply Within.ite <;> intro _

theorem execClkOutputEnable_within {x0 x1 x2 s} : ∀ u, execClkOutputEnable x0 x1 x2 s = .next u → Within [.hdrs, .flds, .vecs] s u := by
  unfold execClkOutputEnable
  refine fun _ h => Host.Outcome.next.inj h ▸ ?_
  repeat' first
    | with_reducible assumption
    | with_reducible exact Within.refl _ _
    | with_reducible apply Within.step writeOutEn_within rfl
    | with_reducible apply viaReg_within ?_ rfl (.inl rfl)
    | with_reducible apply viaReg_within ?_ rfl (.inl (sleeps_wq _))
    | intro x t h
    | intro t h

theorem execFdlyWrite_within {x0 x1 x2 s} : ∀ u, execFdlyWrite x0 x1 x2 s = .next u → Within [.hdrs, .flds, .vecs, .pll] s u := by
  unfold execFdlyWrite
  refine fun _ h => Host.Outcome.next.inj h ▸ ?_
  repeat' first
    | with_reducible assumption
    | with_reducible exact Within.refl _ _
    | with_reducible apply Within.step writeFdly_within rfl
    | with_reducible apply viaReg_within ?_ rfl (.inl rfl)
    | with_reducible apply viaReg_within ?_ rfl (.inl (sleeps_wq _))
    | intro x t h
    | intro t h

theorem execDseedWrite_within {x0 x1 s} : ∀ u, execDseedWrite x0 x1 s = .next u → Within [.hdrs, .flds, .vecs, .pll] s u := by
  unfold execDseedWrite
  refine fun _ h => Host.Outcome.next.inj h ▸ ?_
  repeat' first
    | with_reducible assumption
    | with_reducible exact Within.refl _ _
    | with_reducible apply Within.step writeDseed_within rfl
    | with_reducible apply viaReg_within ?_ rfl (.inl rfl)
    | with_reducible apply viaReg_within ?_ rfl (.inl (sleeps_wq _))
    | intro x t h
    | intro t h

theorem execClkClrcnt_within {x0 s} : ∀ u, execClkClrcnt x0 s = .next u → Within [.hdrs, .flds, .vecs, .pll] s u := by
  unfold execClkClrcnt
  refine fun _ h => Host.Outcome.next.inj h ▸ ?_
  repeat' first
    | with_reducible assumption
    | with_reducible exact Within.refl _ _
    | with_reducible apply Within.step clearClk_within rfl
    | with_reducible apply viaReg_within ?_ rfl (.inl rfl)
    | with_reducible apply viaReg_within ?_ rfl (.inl (sleeps_wq _))
    | intro x t h
    | intro t h

theorem execSlewEpochWithoutPulse_within {s} : ∀ u, execSlewEpochWithoutPulse s = .next u → Within [.now, .hdrs, .vecs, .pll, .time] s u := by
  unfold execSlewEpochWithoutPulse
  refine fun _ h => Host.Outcome.next.inj h ▸ ?_
  repeat' first
    | with_reducible exact Within.refl _ _
    | with_reducible apply Within.step slewEpoch_within rfl
    | with_reducible apply Within.step waitUntil_within rfl
    | with_reducible apply Within.ite <;> intro _
    | with_reducible exact id
    | with_reducible exact Nat.le_refl _
    | (refine fun (p : Part) hp => ?_; cases p <;> first | (cases hp; done) | with_reducible rfl)
    | split
    | (dsimp only; split)
    | with_reducible apply Within.leaf

/-! ### Time -/

theorem setTime_within {x0 s} : Within [.time] s (setTime x0 s) := by
  unfold setTime
  repeat' first
    | with_reducible exact Within.refl _ _
    | with_reducible exact id
    | with_reducible exact Nat.le_refl _
    | (refine fun (p : Part) hp => ?_; cases p <;> first | (cases hp; done) | with_reducible rfl)
    | with_reducible apply Within.leaf

theorem timeEvt_within {x0 x1 x2 s} : Within [.hdrs, .vecs] s (timeEvt x0 x1 x2 s) :=
  raise_within.mono rfl

theorem timeCfgErr_within {s} : Within [.hdrs, .vecs] s (timeCfgErr s) :=
  timeEvt_within.mono rfl

theorem sendTimeGroup_within {x0 x1 s} : Within [.freeCtr, .links, .ring] s (sendTimeGroup x0 x1 s) := by
  unfold sendTimeGroup
  repeat' first
    | with_reducible assumption
    | with_reducible exact Within.refl _ _
    | with_reducible apply Within.step putWords_within rfl
    | with_reducible apply Within.step completeRound_within rfl
    | with_reducible apply Within.step putWord_within rfl
    | with_reducible apply Within.step nextFree_within rfl
    | with_reducible apply Within.step modRlink_within rfl
    | with_reducible apply forAll_within
    | with_reducible exact id
    | with_reducible exact Nat.le_refl _
    | (refine fun (p : Part) hp => ?_; cases p <;> first | (cases hp; done) | with_reducible rfl)
    | intro x t h
    | intro t h
    | with_reducible apply Within.leaf

theorem afterInterval_within {x0 s} : Within [.now, .time] s (afterInterval x0 s) := by
  unfold afterInterval
  repeat' first
    | with_reducible exact Within.refl _ _
    | with_reducible apply Within.step waitUntil_within rfl
    | with_reducible exact id
    | with_reducible exact Nat.le_refl _
    | (refine fun (p : Part) hp => ?_; cases p <;> first | (cases hp; done) | with_reducible rfl)
    | split
    | (dsimp only; split)
    | with_reducible apply Within.leaf

theorem sendLdly_within {x0 s} : Within [.freeCtr, .links, .ring] s (sendLdly x0 s) := by
  unfold sendLdly
  repeat' first
    | with_reducible exact Within.refl _ _
    | with_reducible apply Within.step sendTimeGroup_within rfl
    | with_reducible apply Within.step modRlink_within rfl
    | with_reducible exact id
    | with_reducible exact Nat.le_refl _
    | (refine fun (p : Part) hp => ?_; cases p <;> first | (cases hp; done) | with_reducible rfl)
    | with_reducible apply Within.leaf

theorem sendSync_within {s} : Within [.freeCtr, .links, .time, .ring] s (sendSync s) := by
  unfold sendSync
  repeat' first
    | with_reducible assumption
    | with_reducible exact Within.refl _ _
    | with_reducible apply Within.step sendTimeGroup_within rfl
    | with_reducible apply Within.step setTime_within rfl
    | with_reducible apply forAll_within
    | with_reducible apply Within.ite <;> intro _
    | with_reducible exact id
    | with_reducible exact Nat.le_refl _
    | (refine fun (p : Part) hp => ?_; cases p <;> first | (cases hp; done) | with_reducible rfl)
    | intro x t h
    | intro t h
    | split
    | (dsimp only; split)
    | with_reducible apply Within.leaf

theorem reach_within {x0 s} : Within [.now, .time] s (reach x0 s) := by
  unfold reach
  repeat' first
    | with_reducible assumption
    | with_reducible exact Within.refl _ _
    | with_reducible apply Within.step elapse_within rfl
    | with_reducible apply forAll_within
    | intro x t h
    | intro t h

theorem settleEpch_within {s} : Within [.merid] s (settleEpch s) := by
  unfold settleEpch
  repeat' first
    | with_reducible exact Within.refl _ _
    | with_reducible apply Within.ite <;> intro _
    | with_reducible exact id
    | with_reducible exact Nat.le_refl _
    | (refine fun (p : Part) hp => ?_; cases p <;> first | (cases hp; done) | with_reducible rfl)
    | with_reducible apply Within.leaf

theorem enterHold_within {x0 s} : Within [.time] s (enterHold x0 s) := by
  unfold enterHold
  repeat' first
    | with_reducible exact Within.refl _ _
    | with_reducible apply Within.step setTime_within rfl
    | with_reducible exact id
    | with_reducible exact Nat.le_refl _
    | (refine fun (p : Part) hp => ?_; cases p <;> first | (cases hp; done) | with_reducible rfl)
    | with_reducible apply Within.leaf

theorem pathHold_within {s} : Within [.time] s (pathHold s) := by
  unfold pathHold
  repeat' first
    | with_reducible exact Within.refl _ _
    | with_reducible apply Within.step enterHold_within rfl
    | with_reducible apply Within.step setTime_within rfl
    | with_reducible apply Within.ite <;> intro _
    | with_reducible exact id
    | with_reducible exact Nat.le_refl _
    | (refine fun (p : Part) hp => ?_; cases p <;> first | (cases hp; done) | with_reducible rfl)
    | with_reducible apply Within.leaf

theorem enterAsym_within {s} : Within [.hdrs, .flds, .vecs, .time] s (enterAsym s) := by
  unfold enterAsym
  repeat' first
    | with_reducible exact Within.refl _ _
    | with_reducible apply Within.step timeEvt_within rfl
    | with_reducible apply Within.step fbump_within rfl
    | with_reducible apply Within.step setTime_within rfl
    | with_reducible exact id
    | with_reducible exact Nat.le_refl _
    | (refine fun (p : Part) hp => ?_; cases p <;> first | (cases hp; done) | with_reducible rfl)
    | with_reducible apply Within.leaf

theorem toLocked_within {s} : Within [.time] s (toLocked s) := by
  unfold toLocked
  repeat' first
    | with_reducible exact Within.refl _ _
    | with_reducible apply Within.step setTime_within rfl
    | with_reducible exact id
    | with_reducible exact Nat.le_refl _
    | (refine fun (p : Part) hp => ?_; cases p <;> first | (cases hp; done) | with_reducible rfl)
    | with_reducible apply Within.leaf

theorem leaveAsym_within {s} : Within [.hdrs, .vecs, .time] s (leaveAsym s) := by
  unfold leaveAsym
  repeat' first
    | with_reducible exact Within.refl _ _
    | with_reducible apply Within.step timeEvt_within rfl
    | with_reducible apply Within.step toLocked_within rfl

theorem stepNow_within {s} : Within [.hdrs, .vecs, .time] s (stepNow s) := by
  unfold stepNow
  repeat' first
    | with_reducible exact Within.refl _ _
    | with_reducible apply Within.step timeEvt_within rfl
    | with_reducible apply Within.step setTime_within rfl

theorem tryTimeStep_within {s} : Within [.hdrs, .vecs, .time] s (tryTimeStep s) := by
  unfold tryTimeStep
  repeat' first
    | with_reducible exact Within.refl _ _
    | with_reducible apply Within.step stepNow_within rfl
    | with_reducible apply Within.ite <;> intro _

theorem chooseTimeStep_within {s} : Within [.hdrs, .vecs, .time] s (chooseTimeStep s) := by
  unfold chooseTimeStep
  repeat' first
    | with_reducible exact Within.refl _ _
    | with_reducible apply Within.step tryTimeStep_within rfl
    | with_reducible apply Within.step setTime_within rfl
    | with_reducible apply Within.step timeCfgErr_within rfl
    | with_reducible apply Within.ite <;> intro _
    | with_reducible exact id
    | with_reducible exact Nat.le_refl _
    | (refine fun (p : Part) hp => ?_; cases p <;> first | (cases hp; done) | with_reducible rfl)
    | with_reducible apply Within.leaf

theorem chooseTimeSlew_within {s} : Within [.time] s (chooseTimeSlew s) := by
  unfold chooseTimeSlew
  repeat' first
    | with_reducible exact Within.refl _ _
    | with_reducible apply Within.step setTime_within rfl
    | with_reducible exact id
    | with_reducible exact Nat.le_refl _
    | (refine fun (p : Part) hp => ?_; cases p <;> first | (cases hp; done) | with_reducible rfl)
    | with_reducible apply Within.leaf

theorem enterBigwait_within {x0 x1 s} : Within [.hdrs, .flds, .vecs, .time] s (enterBigwait x0 x1 s) := by
  unfold enterBigwait
  repeat' first
    | with_reducible exact Within.refl _ _
    | with_reducible apply Within.step timeEvt_within rfl
    | with_reducible apply Within.step fbump_within rfl
    | with_reducible apply Within.step setTime_within rfl
    | with_reducible apply Within.step chooseTimeSlew_within rfl
    | with_reducible apply Within.step chooseTimeStep_within rfl
    | with_reducible exact id
    | with_reducible exact Nat.le_refl _
    | (refine fun (p : Part) hp => ?_; cases p <;> first | (cases hp; done) | with_reducible rfl)
    | split
    | (dsimp only; split)
    | with_reducible apply Within.leaf

theorem leaveFree_within {x0 x1 s} : Within [.hdrs, .vecs, .merid, .time] s (leaveFree x0 x1 s) := by
  unfold leaveFree
  repeat' first
    | with_reducible exact Within.refl _ _
    | with_reducible apply Within.step setTime_within rfl
    | with_reducible apply Within.step timeEvt_within rfl
    | with_reducible apply Within.ite <;> intro _
    | with_reducible exact id
    | with_reducible exact Nat.le_refl _
    | (refine fun (p : Part) hp => ?_; cases p <;> first | (cases hp; done) | with_reducible rfl)
    | with_reducible apply Within.leaf

theorem actOn_within {x0 x1 s} : Within [.hdrs, .flds, .vecs, .merid, .time] s (actOn x0 x1 s) := by
  unfold actOn
  repeat' first
    | with_reducible exact Within.refl _ _
    | with_reducible apply Within.step leaveFree_within rfl
    | with_reducible apply Within.step enterBigwait_within rfl
    | with_reducible apply Within.step setTime_within rfl
    | with_reducible apply Within.ite <;> intro _
    | with_reducible exact id
    | with_reducible exact Nat.le_refl _
    | (refine fun (p : Part) hp => ?_; cases p <;> first | (cases hp; done) | with_reducible rfl)
    | split
    | (dsimp only; split)
    | with_reducible apply Within.leaf

theorem onPair_within {s} : Within [.hdrs, .flds, .vecs, .time] s (onPair s) := by
  unfold onPair
  repeat' first
    | with_reducible exact Within.refl _ _
    | with_reducible apply Within.step setTime_within rfl
    | with_reducible apply Within.step leaveAsym_within rfl
    | with_reducible apply Within.step enterAsym_within rfl
    | with_reducible apply Within.step toLocked_within rfl
    | with_reducible apply Within.ite <;> intro _
    | with_reducible exact id
    | with_reducible exact Nat.le_refl _
    | (refine fun (p : Part) hp => ?_; cases p <;> first | (cases hp; done) | with_reducible rfl)
    | split
    | (dsimp only; split)
    | with_reducible apply Within.leaf

theorem onSync_within {x0 s} : Within [.hdrs, .flds, .vecs, .merid, .time] s (onSync x0 s) := by
  unfold onSync
  repeat' first
    | with_reducible exact Within.refl _ _
    | with_reducible apply Within.step onPair_within rfl
    | with_reducible apply Within.step actOn_within rfl
    | with_reducible apply Within.step toLocked_within rfl
    | with_reducible apply Within.ite <;> intro _
    | with_reducible exact id
    | with_reducible exact Nat.le_refl _
    | (refine fun (p : Part) hp => ?_; cases p <;> first | (cases hp; done) | with_reducible rfl)
    | split
    | (dsimp only; split)
    | with_reducible apply Within.leaf

theorem takeSchedule_within {x0 x1 s} : Within [.time] s (takeSchedule x0 x1 s) := by
  unfold takeSchedule
  repeat' first
    | with_reducible exact Within.refl _ _
    | with_reducible apply Within.step setTime_within rfl
    | with_reducible apply Within.ite <;> intro _
    | with_reducible exact id
    | with_reducible exact Nat.le_refl _
    | (refine fun (p : Part) hp => ?_; cases p <;> first | (cases hp; done) | with_reducible rfl)
    | with_reducible apply Within.leaf

theorem forwardSync_within {x0 x1 x2 s} : Within [.freeCtr, .links, .ring] s (forwardSync x0 x1 x2 s) := by
  unfold forwardSync
  repeat' first
    | with_reducible exact Within.refl _ _
    | with_reducible apply Within.step sendTimeGroup_within rfl
    | with_reducible apply Within.ite <;> intro _

theorem useSync_within {x0 x1 x2 s} : Within [.hdrs, .flds, .vecs, .merid, .time] s (useSync x0 x1 x2 s) := by
  unfold useSync
  repeat' first
    | with_reducible exact Within.refl _ _
    | with_reducible apply Within.step takeSchedule_within rfl
    | with_reducible apply Within.step setTime_within rfl
    | with_reducible apply Within.step settleEpch_within rfl
    | with_reducible apply Within.step onSync_within rfl
    | with_reducible apply Within.step pathHold_within rfl
    | with_reducible apply Within.ite <;> intro _
    | with_reducible exact id
    | with_reducible exact Nat.le_refl _
    | (refine fun (p : Part) hp => ?_; cases p <;> first | (cases hp; done) | with_reducible rfl)
    | with_reducible apply Within.leaf

theorem timeArrives_within {P r x0 x1 f s} (hf : ∀ t, Within P r t → Within P r (f t)) (hm : [.now, .hdrs, .links, .vecs, .time].all P.contains = true)
    (k : Within P r s) : Within P r (timeArrives x0 x1 f s) := by
  unfold timeArrives
  repeat' first
    | with_reducible assumption
    | with_reducible exact Within.refl _ _
    | with_reducible apply hf
    | with_reducible apply Within.step reach_within (all_contains_trans (R := [.now, .hdrs, .links, .vecs, .time]) rfl hm)
    | with_reducible apply Within.step modLink_within (all_contains_trans (R := [.now, .hdrs, .links, .vecs, .time]) rfl hm)
    | with_reducible apply Within.step lEvt_within (all_contains_trans (R := [.now, .hdrs, .links, .vecs, .time]) rfl hm)
    | with_reducible apply Within.ite <;> intro _
    | intro x t h
    | intro t h

theorem recvSync_within {x0 x1 s} : Within [.freeCtr, .hdrs, .flds, .links, .vecs, .merid, .time, .ring] s (recvSync x0 x1 s) := by
  unfold recvSync
  repeat' first
    | with_reducible exact Within.refl _ _
    | with_reducible apply Within.step timeEvt_within rfl
    | with_reducible apply Within.step forwardSync_within rfl
    | with_reducible apply Within.step useSync_within rfl
    | with_reducible apply Within.ite <;> intro _

theorem newRt_within {x0 x1 s} : Within [.hdrs, .flds, .vecs, .time, .ring] s (newRt x0 x1 s) := by
  unfold newRt
  repeat' first
    | with_reducible assumption
    | with_reducible exact Within.refl _ _
    | with_reducible apply Within.step timeEvt_within rfl
    | with_reducible apply Within.step fbump_within rfl
    | with_reducible apply Within.step setRlink_within rfl
    | with_reducible apply Within.step pathHold_within rfl
    | with_reducible apply foldl_within
    | with_reducible apply Within.ite <;> intro _
    | with_reducible exact id
    | with_reducible exact Nat.le_refl _
    | (refine fun (p : Part) hp => ?_; cases p <;> first | (cases hp; done) | with_reducible rfl)
    | intro x t h
    | intro t h
    | with_reducible apply Within.leaf

theorem recvLdly_within {x0 x1 s} : Within [.hdrs, .flds, .vecs, .time, .ring] s (recvLdly x0 x1 s) := by
  unfold recvLdly
  repeat' first
    | with_reducible exact Within.refl _ _
    | with_reducible apply Within.step modRlink_within rfl
    | with_reducible apply Within.step newRt_within rfl
    | with_reducible apply Within.ite <;> intro _
    | with_reducible exact id
    | with_reducible exact Nat.le_refl _
    | (refine fun (p : Part) hp => ?_; cases p <;> first | (cases hp; done) | with_reducible rfl)
    | with_reducible apply Within.leaf

theorem timeSet_within {s} : Within [.hdrs, .vecs, .time, .ring] s (timeSet s) := by
  unfold timeSet
  repeat' first
    | with_reducible exact Within.refl _ _
    | with_reducible apply Within.step setTime_within rfl
    | with_reducible apply Within.step timeCfgErr_within rfl
    | with_reducible apply Within.ite <;> intro _
    | with_reducible exact id
    | with_reducible exact Nat.le_refl _
    | (refine fun (p : Part) hp => ?_; cases p <;> first | (cases hp; done) | with_reducible rfl)
    | with_reducible apply Within.leaf

theorem timeResume_within {s} : Within [.hdrs, .vecs, .time] s (timeResume s) := by
  unfold timeResume
  repeat' first
    | with_reducible exact Within.refl _ _
    | with_reducible apply Within.step setTime_within rfl
    | with_reducible apply Within.step timeCfgErr_within rfl
    | with_reducible apply Within.ite <;> intro _
    | with_reducible exact id
    | with_reducible exact Nat.le_refl _
    | (refine fun (p : Part) hp => ?_; cases p <;> first | (cases hp; done) | with_reducible rfl)
    | with_reducible apply Within.leaf

theorem setRole_within {x0 s} : Within [.flds, .merid, .time] s (setRole x0 s) := by
  unfold setRole
  repeat' first
    | with_reducible exact Within.refl _ _
    | with_reducible apply Within.step fset_within rfl
    | with_reducible apply Within.step settleEpch_within rfl
    | with_reducible apply Within.step setTime_within rfl
    | with_reducible apply Within.ite <;> intro _
    | with_reducible exact id
    | with_reducible exact Nat.le_refl _
    | (refine fun (p : Part) hp => ?_; cases p <;> first | (cases hp; done) | with_reducible rfl)
    | with_reducible apply Within.leaf

theorem writePerl_within {x0 s} : Within [.hdrs, .vecs, .time] s (writePerl x0 s) := by
  unfold writePerl
  repeat' first
    | with_reducible exact Within.refl _ _
    | with_reducible apply Within.step setTime_within rfl
    | with_reducible apply Within.step timeCfgErr_within rfl
    | with_reducible apply Within.ite <;> intro _
    | with_reducible exact id
    | with_reducible exact Nat.le_refl _
    | (refine fun (p : Part) hp => ?_; cases p <;> first | (cases hp; done) | with_reducible rfl)
    | with_reducible apply Within.leaf

theorem writePerh_within {x0 s} : Within [.hdrs, .vecs, .time] s (writePerh x0 s) := by
  unfold writePerh
  repeat' first
    | with_reducible exact Within.refl _ _
    | with_reducible apply Within.step timeCfgErr_within rfl
    | with_reducible apply Within.step setTime_within rfl
    | with_reducible apply Within.ite <;> intro _
    | with_reducible exact id
    | with_reducible exact Nat.le_refl _
    | (refine fun (p : Part) hp => ?_; cases p <;> first | (cases hp; done) | with_reducible rfl)
    | split
    | (dsimp only; split)
    | with_reducible apply Within.leaf

theorem fsyncEdge_within {s} : Within [.hdrs, .vecs, .time] s (fsyncEdge s) := by
  unfold fsyncEdge
  repeat' first
    | with_reducible exact Within.refl _ _
    | with_reducible apply Within.step timeEvt_within rfl
    | with_reducible apply Within.step setTime_within rfl
    | with_reducible apply Within.ite <;> intro _
    | with_reducible exact id
    | with_reducible exact Nat.le_refl _
    | (refine fun (p : Part) hp => ?_; cases p <;> first | (cases hp; done) | with_reducible rfl)
    | with_reducible apply Within.leaf

theorem readNowl_within {s} : Within [.time] s (readNowl s).2 := by
  unfold readNowl
  repeat' first
    | with_reducible exact Within.refl _ _
    | with_reducible apply Within.step setTime_within rfl
    | with_reducible exact id
    | with_reducible exact Nat.le_refl _
    | (refine fun (p : Part) hp => ?_; cases p <;> first | (cases hp; done) | with_reducible rfl)
    | split
    | (dsimp only; split)
    | with_reducible apply Within.leaf

theorem clearTime_within {s} : Within [.flds] s (clearTime s) :=
  fclear_within.mono rfl

theorem execLdlySend_within {x0 s} : ∀ u, execLdlySend x0 s = .next u → Within [.now, .freeCtr, .links, .time, .ring] s u := by
  unfold execLdlySend
  refine fun _ h => Host.Outcome.next.inj h ▸ ?_
  repeat' first
    | with_reducible exact Within.refl _ _
    | with_reducible apply Within.step sendLdly_within rfl
    | with_reducible apply Within.step afterInterval_within rfl
    | with_reducible apply Within.ite <;> intro _

theorem execLdly_within {x0 x1 s} : ∀ u, execLdly x0 x1 s = .next u → Within [.now, .hdrs, .flds, .links, .vecs, .time, .ring] s u := by
  unfold execLdly
  refine fun _ h => Host.Outcome.next.inj h ▸ ?_
  repeat' first
    | with_reducible assumption
    | with_reducible exact Within.refl _ _
    | with_reducible apply Within.step recvLdly_within rfl
    | with_reducible apply timeArrives_within ?_ rfl
    | intro x t h
    | intro t h

theorem execSyncSend_within {s} : ∀ u, execSyncSend s = .next u → Within [.now, .freeCtr, .links, .time, .ring] s u := by
  unfold execSyncSend
  refine fun _ h => Host.Outcome.next.inj h ▸ ?_
  repeat' first
    | with_reducible exact Within.refl _ _
    | with_reducible apply Within.step sendSync_within rfl
    | with_reducible apply Within.step afterInterval_within rfl
    | with_reducible apply Within.ite <;> intro _

theorem execSync_within {x0 x1 s} : ∀ u, execSync x0 x1 s = .next u → Within [.now, .freeCtr, .hdrs, .flds, .links, .vecs, .merid, .time, .ring] s u := by
  unfold execSync
  refine fun _ h => Host.Outcome.next.inj h ▸ ?_
  repeat' first
    | with_reducible assumption
    | with_reducible exact Within.refl _ _
    | with_reducible apply Within.step recvSync_within rfl
    | with_reducible apply timeArrives_within ?_ rfl
    | intro x t h
    | intro t h

theorem execSyncLoss_within {s} : ∀ u, execSyncLoss s = .next u → Within [.now, .hdrs, .flds, .vecs, .time] s u := by
  unfold execSyncLoss
  refine fun _ h => Host.Outcome.next.inj h ▸ ?_
  repeat' first
    | with_reducible exact Within.refl _ _
    | with_reducible apply Within.step timeEvt_within rfl
    | with_reducible apply Within.step fbump_within rfl
    | with_reducible apply Within.step enterHold_within rfl
    | with_reducible apply Within.step waitUntil_within rfl
    | with_reducible apply Within.ite <;> intro _

theorem execTimeSet_within {x0 s} : ∀ u, execTimeSet x0 s = .next u → Within [.hdrs, .flds, .vecs, .time, .ring] s u := by
  unfold execTimeSet
  refine fun _ h => Host.Outcome.next.inj h ▸ ?_
  repeat' first
    | with_reducible assumption
    | with_reducible exact Within.refl _ _
    | with_reducible apply Within.step timeSet_within rfl
    | with_reducible apply viaReg_within ?_ rfl (.inl rfl)
    | with_reducible apply viaReg_within ?_ rfl (.inl (sleeps_wq _))
    | intro x t h
    | intro t h

theorem execEpadopt_within {x0 s} : ∀ u, execEpadopt x0 s = .next u → Within [.hdrs, .flds, .vecs, .time] s u := by
  unfold execEpadopt
  refine fun _ h => Host.Outcome.next.inj h ▸ ?_
  repeat' first
    | with_reducible assumption
    | with_reducible exact Within.refl _ _
    | with_reducible apply Within.step setTime_within rfl
    | with_reducible apply viaReg_within ?_ rfl (.inl rfl)
    | with_reducible apply viaReg_within ?_ rfl (.inl (sleeps_wq _))
    | with_reducible exact id
    | with_reducible exact Nat.le_refl _
    | (refine fun (p : Part) hp => ?_; cases p <;> first | (cases hp; done) | with_reducible rfl)
    | intro x t h
    | intro t h
    | with_reducible apply Within.leaf

theorem execTimeStep_within {x0 s} : ∀ u, execTimeStep x0 s = .next u → Within [.hdrs, .flds, .vecs, .time] s u := by
  unfold execTimeStep
  refine fun _ h => Host.Outcome.next.inj h ▸ ?_
  repeat' first
    | with_reducible assumption
    | with_reducible exact Within.refl _ _
    | with_reducible apply Within.step chooseTimeStep_within rfl
    | with_reducible apply Within.step timeCfgErr_within rfl
    | with_reducible apply viaReg_within ?_ rfl (.inl rfl)
    | with_reducible apply viaReg_within ?_ rfl (.inl (sleeps_wq _))
    | with_reducible apply Within.ite <;> intro _
    | intro x t h
    | intro t h

theorem execTimeSlew_within {x0 s} : ∀ u, execTimeSlew x0 s = .next u → Within [.hdrs, .flds, .vecs, .time] s u := by
  unfold execTimeSlew
  refine fun _ h => Host.Outcome.next.inj h ▸ ?_
  repeat' first
    | with_reducible assumption
    | with_reducible exact Within.refl _ _
    | with_reducible apply Within.step chooseTimeSlew_within rfl
    | with_reducible apply Within.step timeCfgErr_within rfl
    | with_reducible apply viaReg_within ?_ rfl (.inl rfl)
    | with_reducible apply viaReg_within ?_ rfl (.inl (sleeps_wq _))
    | with_reducible apply Within.ite <;> intro _
    | intro x t h
    | intro t h

theorem execTimeSlewEnd_within {s} : ∀ u, execTimeSlewEnd s = .next u → Within [.now, .hdrs, .vecs, .time] s u := by
  unfold execTimeSlewEnd
  refine fun _ h => Host.Outcome.next.inj h ▸ ?_
  repeat' first
    | with_reducible exact Within.refl _ _
    | with_reducible apply Within.step timeEvt_within rfl
    | with_reducible apply Within.step toLocked_within rfl
    | with_reducible apply Within.step elapse_within rfl
    | with_reducible apply Within.ite <;> intro _

theorem execResume_within {x0 s} : ∀ u, execResume x0 s = .next u → Within [.hdrs, .flds, .vecs, .time] s u := by
  unfold execResume
  refine fun _ h => Host.Outcome.next.inj h ▸ ?_
  repeat' first
    | with_reducible assumption
    | with_reducible exact Within.refl _ _
    | with_reducible apply Within.step timeResume_within rfl
    | with_reducible apply viaReg_within ?_ rfl (.inl rfl)
    | with_reducible apply viaReg_within ?_ rfl (.inl (sleeps_wq _))
    | intro x t h
    | intro t h

theorem execTimeClrcnt_within {x0 s} : ∀ u, execTimeClrcnt x0 s = .next u → Within [.hdrs, .flds, .vecs] s u := by
  unfold execTimeClrcnt
  refine fun _ h => Host.Outcome.next.inj h ▸ ?_
  repeat' first
    | with_reducible assumption
    | with_reducible exact Within.refl _ _
    | with_reducible apply Within.step clearTime_within rfl
    | with_reducible apply viaReg_within ?_ rfl (.inl rfl)
    | with_reducible apply viaReg_within ?_ rfl (.inl (sleeps_wq _))
    | intro x t h
    | intro t h

theorem execRoleChange_within {x0 x1 s} : ∀ u, execRoleChange x0 x1 s = .next u → Within [.hdrs, .flds, .vecs, .merid, .time] s u := by
  unfold execRoleChange
  refine fun _ h => Host.Outcome.next.inj h ▸ ?_
  repeat' first
    | with_reducible assumption
    | with_reducible exact Within.refl _ _
    | with_reducible apply Within.step setRole_within rfl
    | with_reducible apply viaReg_within ?_ rfl (.inl rfl)
    | with_reducible apply viaReg_within ?_ rfl (.inl (sleeps_wq _))
    | intro x t h
    | intro t h

theorem execPerlWrite_within {x0 x1 s} : ∀ u, execPerlWrite x0 x1 s = .next u → Within [.hdrs, .flds, .vecs, .time] s u := by
  unfold execPerlWrite
  refine fun _ h => Host.Outcome.next.inj h ▸ ?_
  repeat' first
    | with_reducible assumption
    | with_reducible exact Within.refl _ _
    | with_reducible apply Within.step writePerl_within rfl
    | with_reducible apply viaReg_within ?_ rfl (.inl rfl)
    | with_reducible apply viaReg_within ?_ rfl (.inl (sleeps_wq _))
    | intro x t h
    | intro t h

theorem execPerhWrite_within {x0 x1 s} : ∀ u, execPerhWrite x0 x1 s = .next u → Within [.hdrs, .flds, .vecs, .time] s u := by
  unfold execPerhWrite
  refine fun _ h => Host.Outcome.next.inj h ▸ ?_
  repeat' first
    | with_reducible assumption
    | with_reducible exact Within.refl _ _
    | with_reducible apply Within.step writePerh_within rfl
    | with_reducible apply viaReg_within ?_ rfl (.inl rfl)
    | with_reducible apply viaReg_within ?_ rfl (.inl (sleeps_wq _))
    | intro x t h
    | intro t h

theorem execFsyncEdge_within {s} : ∀ u, execFsyncEdge s = .next u → Within [.hdrs, .vecs, .time] s u :=
  fun _ h => Host.Outcome.next.inj h ▸ fsyncEdge_within.mono rfl

theorem execNowlRead_within {x0 s} : ∀ u, execNowlRead x0 s = .next u → Within [.busResult, .flds, .time] s u := by
  unfold execNowlRead
  refine fun _ h => Host.Outcome.next.inj h ▸ ?_
  repeat' first
    | with_reducible assumption
    | with_reducible exact Within.refl _ _
    | with_reducible apply Within.step readNowl_within rfl
    | with_reducible apply viaRead_within ?_ rfl (.inl rfl)
    | with_reducible apply viaRead_within ?_ rfl (.inl (sleeps_wq _))
    | intro x t h
    | intro t h

/-! ### Handover -/

theorem setHo_within {x0 s} : Within [.ring] s (setHo x0 s) := by
  unfold setHo
  repeat' first
    | with_reducible exact Within.refl _ _
    | with_reducible exact id
    | with_reducible exact Nat.le_refl _
    | (refine fun (p : Part) hp => ?_; cases p <;> first | (cases hp; done) | with_reducible rfl)
    | with_reducible apply Within.leaf

theorem modHo_within {x0 s} : Within [.ring] s (modHo x0 s) :=
  setHo_within.mono rfl

theorem hoSent_within {x0 s} : Within [.ring] s (hoSent x0 s) := by
  unfold hoSent
  repeat' first
    | with_reducible exact Within.refl _ _
    | with_reducible apply Within.step modHo_within rfl
    | with_reducible exact id
    | with_reducible exact Nat.le_refl _
    | (refine fun (p : Part) hp => ?_; cases p <;> first | (cases hp; done) | with_reducible rfl)
    | with_reducible apply Within.leaf

theorem sendHoBlock_within {x0 s} : Within [.hdrs, .flds, .links, .accs, .commits, .chans, .regions, .queues, .jobs, .bells, .vecs, .groups, .pll, .ring, .safe] s (sendHoBlock x0 s) := by
  unfold sendHoBlock
  repeat' first
    | with_reducible exact Within.refl _ _
    | with_reducible apply Within.step hoSent_within rfl
    | with_reducible apply Within.step BlockRead.promote_within rfl
    | with_reducible apply Within.step ringSend_within rfl
    | with_reducible apply Within.step ringSendAs_within rfl
    | with_reducible apply Within.step BlockRead.count_within rfl
    | with_reducible apply Within.ite <;> intro _
    | with_reducible exact id
    | with_reducible exact Nat.le_refl _
    | (refine fun (p : Part) hp => ?_; cases p <;> first | (cases hp; done) | with_reducible rfl)
    | split
    | (dsimp only; split)
    | with_reducible apply Within.leaf

theorem startDirty_within {s} : Within [.ring] s (startDirty s) := by
  unfold startDirty
  repeat' first
    | with_reducible exact Within.refl _ _
    | with_reducible apply Within.step modHo_within rfl
    | with_reducible exact id
    | with_reducible exact Nat.le_refl _
    | (refine fun (p : Part) hp => ?_; cases p <;> first | (cases hp; done) | with_reducible rfl)
    | with_reducible apply Within.leaf

theorem copyDirty_within {s} : Within [.hdrs, .flds, .links, .accs, .commits, .chans, .regions, .queues, .jobs, .bells, .vecs, .groups, .pll, .ring, .safe] s (copyDirty s) := by
  unfold copyDirty
  repeat' first
    | with_reducible assumption
    | with_reducible exact Within.refl _ _
    | with_reducible apply Within.step startDirty_within rfl
    | with_reducible apply Within.step sendHoBlock_within rfl
    | with_reducible apply forAll_within
    | with_reducible apply Within.ite <;> intro _
    | intro x t h
    | intro t h

theorem copyLeft_within {s} : Within [.hdrs, .flds, .links, .accs, .commits, .chans, .regions, .queues, .jobs, .bells, .vecs, .groups, .pll, .ring, .safe] s (copyLeft s) := by
  unfold copyLeft
  repeat' first
    | with_reducible assumption
    | with_reducible exact Within.refl _ _
    | with_reducible apply Within.step sendHoBlock_within rfl
    | with_reducible apply forAll_within
    | with_reducible apply Within.ite <;> intro _
    | intro x t h
    | intro t h

theorem beginPass_within {s} : Within [.hdrs, .flds, .links, .accs, .commits, .chans, .regions, .queues, .jobs, .bells, .vecs, .groups, .pll, .ring, .safe] s (beginPass s) := by
  unfold beginPass
  repeat' first
    | with_reducible exact Within.refl _ _
    | with_reducible apply Within.step copyDirty_within rfl
    | with_reducible apply Within.step modHo_within rfl
    | with_reducible exact id
    | with_reducible exact Nat.le_refl _
    | (refine fun (p : Part) hp => ?_; cases p <;> first | (cases hp; done) | with_reducible rfl)
    | with_reducible apply Within.leaf

theorem hoArm_within {s} : Within [.hdrs, .vecs, .ring] s (hoArm s) := by
  unfold hoArm
  repeat' first
    | with_reducible exact Within.refl _ _
    | with_reducible apply Within.step noteNamed_within rfl
    | with_reducible apply Within.step setHo_within rfl
    | with_reducible apply Within.step linkCfgErr_within rfl
    | with_reducible apply Within.ite <;> intro _
    | with_reducible exact id
    | with_reducible exact Nat.le_refl _
    | (refine fun (p : Part) hp => ?_; cases p <;> first | (cases hp; done) | with_reducible rfl)
    | with_reducible apply Within.leaf

theorem hoStart_within {s} : Within [.hdrs, .flds, .links, .accs, .commits, .regions, .queues, .jobs, .bells, .vecs, .ring] s (hoStart s) := by
  unfold hoStart
  repeat' first
    | with_reducible assumption
    | with_reducible exact Within.refl _ _
    | with_reducible apply Within.step linkCfgErr_within rfl
    | with_reducible apply Within.step noteNamed_within rfl
    | with_reducible apply Within.step setHo_within rfl
    | with_reducible apply Within.step detachMirror_within rfl
    | with_reducible apply Within.step hoAbort_within rfl
    | with_reducible apply Within.step ringSend_within rfl
    | with_reducible apply forAll_within
    | with_reducible apply Within.ite <;> intro _
    | with_reducible exact id
    | with_reducible exact Nat.le_refl _
    | (refine fun (p : Part) hp => ?_; cases p <;> first | (cases hp; done) | with_reducible rfl)
    | intro x t h
    | intro t h
    | with_reducible apply Within.leaf

theorem hoHostAbort_within {s} : Within [.hdrs, .flds, .links, .accs, .commits, .regions, .queues, .jobs, .bells, .vecs, .ring] s (hoHostAbort s) :=
  hoAbort_within.mono rfl

theorem hoPassEnd_within {s} : Within [.hdrs, .flds, .links, .accs, .commits, .chans, .regions, .queues, .jobs, .bells, .vecs, .groups, .pll, .ring, .safe] s (hoPassEnd s) := by
  unfold hoPassEnd
  repeat' first
    | with_reducible exact Within.refl _ _
    | with_reducible apply Within.step copyDirty_within rfl
    | with_reducible apply Within.step copyLeft_within rfl
    | with_reducible apply Within.step modHo_within rfl
    | with_reducible apply Within.step beginPass_within rfl
    | with_reducible apply Within.ite <;> intro _
    | with_reducible exact id
    | with_reducible exact Nat.le_refl _
    | (refine fun (p : Part) hp => ?_; cases p <;> first | (cases hp; done) | with_reducible rfl)
    | split
    | (dsimp only; split)
    | with_reducible apply Within.leaf

theorem hoFreeze_within {s} : Within [.now, .hdrs, .flds, .links, .accs, .commits, .chans, .regions, .queues, .jobs, .bells, .vecs, .groups, .pll, .time, .ring, .safe] s (hoFreeze s) := by
  unfold hoFreeze
  repeat' first
    | with_reducible exact Within.refl _ _
    | with_reducible apply Within.step copyDirty_within rfl
    | with_reducible apply Within.step modHo_within rfl
    | with_reducible apply Within.step reach_within rfl
    | with_reducible apply Within.ite <;> intro _
    | with_reducible exact id
    | with_reducible exact Nat.le_refl _
    | (refine fun (p : Part) hp => ?_; cases p <;> first | (cases hp; done) | with_reducible rfl)
    | split
    | (dsimp only; split)
    | with_reducible apply Within.leaf

theorem hoFinal_within {s} : Within [.now, .hdrs, .flds, .links, .chans, .recs, .regions, .vecs, .time, .ring] s (hoFinal s) := by
  unfold hoFinal
  repeat' first
    | with_reducible assumption
    | with_reducible exact Within.refl _ _
    | with_reducible apply Within.step reach_within rfl
    | with_reducible apply Within.step modHo_within rfl
    | with_reducible apply Within.step ringSend_within rfl
    | with_reducible apply forAll_within
    | with_reducible apply Within.ite <;> intro _
    | with_reducible exact id
    | with_reducible exact Nat.le_refl _
    | (refine fun (p : Part) hp => ?_; cases p <;> first | (cases hp; done) | with_reducible rfl)
    | intro x t h
    | intro t h
    | split
    | (dsimp only; split)
    | with_reducible apply Within.leaf

theorem hoPostpone_within {s} : Within [.hdrs, .flds, .links, .accs, .commits, .regions, .queues, .jobs, .bells, .vecs, .ring] s (hoPostpone s) := by
  unfold hoPostpone
  repeat' first
    | with_reducible exact Within.refl _ _
    | with_reducible apply Within.step ringEvt_within rfl
    | with_reducible apply Within.step modHo_within rfl
    | with_reducible apply Within.step hoAbort_within rfl
    | with_reducible apply Within.ite <;> intro _
    | with_reducible exact id
    | with_reducible exact Nat.le_refl _
    | (refine fun (p : Part) hp => ?_; cases p <;> first | (cases hp; done) | with_reducible rfl)
    | with_reducible apply Within.leaf

theorem applyState_within {x0 x1 s} : Within [.regions] s (applyState x0 x1 s) := by
  unfold applyState
  repeat' first
    | with_reducible exact Within.refl _ _
    | with_reducible apply Within.step modRegion_within rfl
    | with_reducible apply Within.ite <;> intro _
    | with_reducible exact id
    | with_reducible exact Nat.le_refl _
    | (refine fun (p : Part) hp => ?_; cases p <;> first | (cases hp; done) | with_reducible rfl)
    | with_reducible apply Within.leaf

theorem hoSwitch_within {s} : Within [.hdrs, .flds, .links, .accs, .commits, .regions, .queues, .jobs, .bells, .vecs, .ring] s (hoSwitch s) := by
  unfold hoSwitch
  repeat' first
    | with_reducible assumption
    | with_reducible exact Within.refl _ _
    | with_reducible apply Within.step disableAll_within rfl
    | with_reducible apply Within.step applyState_within rfl
    | with_reducible apply Within.step ringSend_within rfl
    | with_reducible apply Within.step ringEvt_within rfl
    | with_reducible apply Within.step modHo_within rfl
    | with_reducible apply forAll_within
    | with_reducible apply Within.ite <;> intro _
    | with_reducible exact id
    | with_reducible exact Nat.le_refl _
    | (refine fun (p : Part) hp => ?_; cases p <;> first | (cases hp; done) | with_reducible rfl)
    | intro x t h
    | intro t h
    | with_reducible apply Within.leaf

theorem hoAtPulse_within {x0 s} : Within [.hdrs, .flds, .links, .accs, .commits, .regions, .queues, .jobs, .bells, .vecs, .ring] s (hoAtPulse x0 s) := by
  unfold hoAtPulse
  repeat' first
    | with_reducible exact Within.refl _ _
    | with_reducible apply Within.step hoSwitch_within rfl
    | with_reducible apply Within.step hoPostpone_within rfl
    | with_reducible apply Within.ite <;> intro _

theorem hoReset_within {s} : Within [.hdrs, .flds, .links, .accs, .commits, .regions, .queues, .jobs, .bells, .vecs, .ring] s (hoReset s) := by
  unfold hoReset
  repeat' first
    | with_reducible exact Within.refl _ _
    | with_reducible apply Within.step hoSwitch_within rfl
    | with_reducible apply Within.step hoAbort_within rfl
    | with_reducible apply Within.ite <;> intro _

theorem recvStart_within {s} : Within [.hdrs, .flds, .links, .accs, .commits, .regions, .queues, .jobs, .bells, .vecs, .ring] s (recvStart s) := by
  unfold recvStart
  repeat' first
    | with_reducible exact Within.refl _ _
    | with_reducible apply Within.step ringSend_within rfl
    | with_reducible apply Within.step hoAbort_within rfl
    | with_reducible apply Within.step modHo_within rfl
    | with_reducible apply Within.ite <;> intro _
    | with_reducible exact id
    | with_reducible exact Nat.le_refl _
    | (refine fun (p : Part) hp => ?_; cases p <;> first | (cases hp; done) | with_reducible rfl)
    | with_reducible apply Within.leaf

theorem recvArmed_within {s} : Within [.hdrs, .flds, .links, .accs, .commits, .chans, .regions, .queues, .jobs, .bells, .vecs, .groups, .pll, .ring, .safe] s (recvArmed s) := by
  unfold recvArmed
  repeat' first
    | with_reducible exact Within.refl _ _
    | with_reducible apply Within.step beginPass_within rfl
    | with_reducible apply Within.ite <;> intro _

theorem recvHoreg_within {x0 s} : Within [.hdrs, .flds, .links, .accs, .commits, .regions, .queues, .jobs, .bells, .vecs, .ring] s (recvHoreg x0 s) := by
  unfold recvHoreg
  repeat' first
    | with_reducible exact Within.refl _ _
    | with_reducible apply Within.step modHo_within rfl
    | with_reducible apply Within.step hoAbort_within rfl
    | with_reducible apply Within.ite <;> intro _
    | with_reducible exact id
    | with_reducible exact Nat.le_refl _
    | (refine fun (p : Part) hp => ?_; cases p <;> first | (cases hp; done) | with_reducible rfl)
    | with_reducible apply Within.leaf

theorem hoReceiving_within {P r f s} (hf : ∀ t, Within P r t → Within P r (f t)) (hm : [.hdrs, .flds, .links, .accs, .commits, .regions, .queues, .jobs, .bells, .vecs, .ring].all P.contains = true)
    (k : Within P r s) : Within P r (hoReceiving f s) := by
  unfold hoReceiving
  repeat' first
    | with_reducible assumption
    | with_reducible exact Within.refl _ _
    | with_reducible apply hf
    | with_reducible apply Within.step modHo_within (all_contains_trans (R := [.hdrs, .flds, .links, .accs, .commits, .regions, .queues, .jobs, .bells, .vecs, .ring]) rfl hm)
    | with_reducible apply Within.step hoAbort_within (all_contains_trans (R := [.hdrs, .flds, .links, .accs, .commits, .regions, .queues, .jobs, .bells, .vecs, .ring]) rfl hm)
    | with_reducible apply Within.ite <;> intro _
    | with_reducible exact id
    | with_reducible exact Nat.le_refl _
    | (refine fun (p : Part) hp => ?_; cases p <;> first | (cases hp; done) | with_reducible rfl)
    | intro x t h
    | intro t h
    | with_reducible apply Within.leaf

theorem recvHodata_within {x0 s} : Within [.accs, .nextId] s (recvHodata x0 s) := by
  unfold recvHodata
  repeat' first
    | with_reducible exact Within.refl _ _
    | with_reducible apply Within.step askWrite_within rfl
    | with_reducible exact id
    | with_reducible exact Nat.le_refl _
    | (refine fun (p : Part) hp => ?_; cases p <;> first | (cases hp; done) | with_reducible rfl)
    | split
    | (dsimp only; split)
    | with_reducible apply Within.leaf

theorem recvHorec_within {x0 s} : Within [.accs, .recs] s (recvHorec x0 s) := by
  unfold recvHorec
  repeat' first
    | with_reducible exact Within.refl _ _
    | with_reducible apply Within.step setBlockRec_within rfl
    | with_reducible apply Within.ite <;> intro _
    | with_reducible exact id
    | with_reducible exact Nat.le_refl _
    | (refine fun (p : Part) hp => ?_; cases p <;> first | (cases hp; done) | with_reducible rfl)
    | split
    | (dsimp only; split)
    | with_reducible apply Within.leaf

theorem recvHostate_within {x0 s} : Within [.ring] s (recvHostate x0 s) := by
  unfold recvHostate
  repeat' first
    | with_reducible exact Within.refl _ _
    | with_reducible apply Within.step modHo_within rfl
    | with_reducible exact id
    | with_reducible exact Nat.le_refl _
    | (refine fun (p : Part) hp => ?_; cases p <;> first | (cases hp; done) | with_reducible rfl)
    | with_reducible apply Within.leaf

theorem recvSwitch_within {x0 s} : Within [.links, .ring] s (recvSwitch x0 s) := by
  unfold recvSwitch
  repeat' first
    | with_reducible exact Within.refl _ _
    | with_reducible apply Within.step ringSend_within rfl
    | with_reducible apply Within.step modHo_within rfl
    | with_reducible apply Within.ite <;> intro _
    | with_reducible exact id
    | with_reducible exact Nat.le_refl _
    | (refine fun (p : Part) hp => ?_; cases p <;> first | (cases hp; done) | with_reducible rfl)
    | with_reducible apply Within.leaf

theorem recvReady_within {x0 s} : Within [.ring] s (recvReady x0 s) := by
  unfold recvReady
  repeat' first
    | with_reducible exact Within.refl _ _
    | with_reducible apply Within.step modHo_within rfl
    | with_reducible apply Within.ite <;> intro _
    | with_reducible exact id
    | with_reducible exact Nat.le_refl _
    | (refine fun (p : Part) hp => ?_; cases p <;> first | (cases hp; done) | with_reducible rfl)
    | split
    | (dsimp only; split)
    | with_reducible apply Within.leaf

theorem recvAbort_within {x0 s} : Within [.hdrs, .flds, .links, .accs, .commits, .regions, .queues, .jobs, .bells, .vecs, .ring] s (recvAbort x0 s) := by
  unfold recvAbort
  repeat' first
    | with_reducible exact Within.refl _ _
    | with_reducible apply Within.step hoAbortLocal_within rfl
    | with_reducible apply Within.ite <;> intro _

theorem recvDone_within {s} : Within [.hdrs, .flds, .links, .accs, .commits, .regions, .queues, .jobs, .bells, .vecs, .ring] s (recvDone s) := by
  unfold recvDone
  repeat' first
    | with_reducible exact Within.refl _ _
    | with_reducible apply Within.step hoSwitch_within rfl
    | with_reducible apply Within.ite <;> intro _

theorem hoLinkTimeout_within {s} : Within [.now, .hdrs, .flds, .links, .accs, .commits, .regions, .queues, .jobs, .bells, .vecs, .time, .ring] s (hoLinkTimeout s) := by
  unfold hoLinkTimeout
  repeat' first
    | with_reducible exact Within.refl _ _
    | with_reducible apply Within.step hoAbort_within rfl
    | with_reducible apply Within.step waitUntil_within rfl
    | with_reducible apply Within.ite <;> intro _
    | with_reducible exact id
    | with_reducible exact Nat.le_refl _
    | (refine fun (p : Part) hp => ?_; cases p <;> first | (cases hp; done) | with_reducible rfl)
    | split
    | (dsimp only; split)
    | with_reducible apply Within.leaf

theorem execHocmdArm_within {x0 s} : ∀ u, execHocmdArm x0 s = .next u → Within [.hdrs, .flds, .vecs, .ring] s u := by
  unfold execHocmdArm
  refine fun _ h => Host.Outcome.next.inj h ▸ ?_
  repeat' first
    | with_reducible assumption
    | with_reducible exact Within.refl _ _
    | with_reducible apply Within.step hoArm_within rfl
    | with_reducible apply viaReg_within ?_ rfl (.inl rfl)
    | with_reducible apply viaReg_within ?_ rfl (.inl (sleeps_wq _))
    | intro x t h
    | intro t h

theorem execHocmdStart_within {x0 s} : ∀ u, execHocmdStart x0 s = .next u → Within [.hdrs, .flds, .links, .accs, .commits, .regions, .queues, .jobs, .bells, .vecs, .ring] s u := by
  unfold execHocmdStart
  refine fun _ h => Host.Outcome.next.inj h ▸ ?_
  repeat' first
    | with_reducible assumption
    | with_reducible exact Within.refl _ _
    | with_reducible apply Within.step hoStart_within rfl
    | with_reducible apply viaReg_within ?_ rfl (.inl rfl)
    | with_reducible apply viaReg_within ?_ rfl (.inl (sleeps_wq _))
    | intro x t h
    | intro t h

theorem execHocmdAbort_within {x0 s} : ∀ u, execHocmdAbort x0 s = .next u → Within [.hdrs, .flds, .links, .accs, .commits, .regions, .queues, .jobs, .bells, .vecs, .ring] s u := by
  unfold execHocmdAbort
  refine fun _ h => Host.Outcome.next.inj h ▸ ?_
  repeat' first
    | with_reducible assumption
    | with_reducible exact Within.refl _ _
    | with_reducible apply Within.step hoHostAbort_within rfl
    | with_reducible apply viaReg_within ?_ rfl (.inl rfl)
    | with_reducible apply viaReg_within ?_ rfl (.inl (sleeps_wq _))
    | intro x t h
    | intro t h

theorem execHodata_within {x0 x1 s} : ∀ u, execHodata x0 x1 s = .next u → Within [.hdrs, .flds, .links, .accs, .nextId, .commits, .regions, .queues, .jobs, .bells, .vecs, .ring] s u := by
  unfold execHodata
  refine fun _ h => Host.Outcome.next.inj h ▸ ?_
  repeat' first
    | with_reducible assumption
    | with_reducible exact Within.refl _ _
    | with_reducible apply Within.step recvHodata_within rfl
    | with_reducible apply onRing_within ?_ rfl
    | with_reducible apply hoReceiving_within ?_ rfl
    | intro x t h
    | intro t h

theorem execHorec_within {x0 x1 s} : ∀ u, execHorec x0 x1 s = .next u → Within [.hdrs, .flds, .links, .accs, .commits, .recs, .regions, .queues, .jobs, .bells, .vecs, .ring] s u := by
  unfold execHorec
  refine fun _ h => Host.Outcome.next.inj h ▸ ?_
  repeat' first
    | with_reducible assumption
    | with_reducible exact Within.refl _ _
    | with_reducible apply Within.step recvHorec_within rfl
    | with_reducible apply onRing_within ?_ rfl
    | with_reducible apply hoReceiving_within ?_ rfl
    | intro x t h
    | intro t h

theorem execHoreg_within {x0 x1 s} : ∀ u, execHoreg x0 x1 s = .next u → Within [.hdrs, .flds, .links, .accs, .commits, .regions, .queues, .jobs, .bells, .vecs, .ring] s u := by
  unfold execHoreg
  refine fun _ h => Host.Outcome.next.inj h ▸ ?_
  repeat' first
    | with_reducible assumption
    | with_reducible exact Within.refl _ _
    | with_reducible apply Within.step recvHoreg_within rfl
    | with_reducible apply onRing_within ?_ rfl
    | intro x t h
    | intro t h

theorem execHostate_within {x0 x1 s} : ∀ u, execHostate x0 x1 s = .next u → Within [.hdrs, .flds, .links, .accs, .commits, .regions, .queues, .jobs, .bells, .vecs, .ring] s u := by
  unfold execHostate
  refine fun _ h => Host.Outcome.next.inj h ▸ ?_
  repeat' first
    | with_reducible assumption
    | with_reducible exact Within.refl _ _
    | with_reducible apply Within.step recvHostate_within rfl
    | with_reducible apply onRing_within ?_ rfl
    | with_reducible apply hoReceiving_within ?_ rfl
    | intro x t h
    | intro t h

theorem execHoctlStart_within {x0 x1 s} : ∀ u, execHoctlStart x0 x1 s = .next u → Within [.hdrs, .flds, .links, .accs, .commits, .regions, .queues, .jobs, .bells, .vecs, .ring] s u := by
  unfold execHoctlStart
  refine fun _ h => Host.Outcome.next.inj h ▸ ?_
  repeat' first
    | with_reducible assumption
    | with_reducible exact Within.refl _ _
    | with_reducible apply Within.step recvStart_within rfl
    | with_reducible apply onRing_within ?_ rfl
    | intro x t h
    | intro t h

theorem execHoctlArmed_within {x0 x1 s} : ∀ u, execHoctlArmed x0 x1 s = .next u → Within [.hdrs, .flds, .links, .accs, .commits, .chans, .regions, .queues, .jobs, .bells, .vecs, .groups, .pll, .ring, .safe] s u := by
  unfold execHoctlArmed
  refine fun _ h => Host.Outcome.next.inj h ▸ ?_
  repeat' first
    | with_reducible assumption
    | with_reducible exact Within.refl _ _
    | with_reducible apply Within.step recvArmed_within rfl
    | with_reducible apply onRing_within ?_ rfl
    | intro x t h
    | intro t h

theorem execHoctlSwitch_within {x0 x1 s} : ∀ u, execHoctlSwitch x0 x1 s = .next u → Within [.hdrs, .flds, .links, .accs, .commits, .regions, .queues, .jobs, .bells, .vecs, .ring] s u := by
  unfold execHoctlSwitch
  refine fun _ h => Host.Outcome.next.inj h ▸ ?_
  repeat' first
    | with_reducible assumption
    | with_reducible exact Within.refl _ _
    | with_reducible apply Within.step recvSwitch_within rfl
    | with_reducible apply onRing_within ?_ rfl
    | with_reducible apply hoReceiving_within ?_ rfl
    | intro x t h
    | intro t h

theorem execHoctlReady_within {x0 x1 s} : ∀ u, execHoctlReady x0 x1 s = .next u → Within [.ring] s u := by
  unfold execHoctlReady
  refine fun _ h => Host.Outcome.next.inj h ▸ ?_
  repeat' first
    | with_reducible assumption
    | with_reducible exact Within.refl _ _
    | with_reducible apply Within.step recvReady_within rfl
    | with_reducible apply onRing_within ?_ rfl
    | intro x t h
    | intro t h

theorem execHoctlAbort_within {x0 x1 s} : ∀ u, execHoctlAbort x0 x1 s = .next u → Within [.hdrs, .flds, .links, .accs, .commits, .regions, .queues, .jobs, .bells, .vecs, .ring] s u := by
  unfold execHoctlAbort
  refine fun _ h => Host.Outcome.next.inj h ▸ ?_
  repeat' first
    | with_reducible assumption
    | with_reducible exact Within.refl _ _
    | with_reducible apply Within.step recvAbort_within rfl
    | with_reducible apply onRing_within ?_ rfl
    | intro x t h
    | intro t h

theorem execHoctlDone_within {x0 x1 s} : ∀ u, execHoctlDone x0 x1 s = .next u → Within [.hdrs, .flds, .links, .accs, .commits, .regions, .queues, .jobs, .bells, .vecs, .ring] s u := by
  unfold execHoctlDone
  refine fun _ h => Host.Outcome.next.inj h ▸ ?_
  repeat' first
    | with_reducible assumption
    | with_reducible exact Within.refl _ _
    | with_reducible apply Within.step recvDone_within rfl
    | with_reducible apply onRing_within ?_ rfl
    | intro x t h
    | intro t h

theorem execHandoverPassEnd_within {s} : ∀ u, execHandoverPassEnd s = .next u → Within [.hdrs, .flds, .links, .accs, .commits, .chans, .regions, .queues, .jobs, .bells, .vecs, .groups, .pll, .ring, .safe] s u :=
  fun _ h => Host.Outcome.next.inj h ▸ hoPassEnd_within.mono rfl

theorem execHandoverFreeze_within {s} : ∀ u, execHandoverFreeze s = .next u → Within [.now, .hdrs, .flds, .links, .accs, .commits, .chans, .regions, .queues, .jobs, .bells, .vecs, .groups, .pll, .time, .ring, .safe] s u :=
  fun _ h => Host.Outcome.next.inj h ▸ hoFreeze_within.mono rfl

theorem execHandoverFinalCheck_within {s} : ∀ u, execHandoverFinalCheck s = .next u → Within [.now, .hdrs, .flds, .links, .chans, .recs, .regions, .vecs, .time, .ring] s u :=
  fun _ h => Host.Outcome.next.inj h ▸ hoFinal_within.mono rfl

theorem execHandoverLinkTimeout_within {s} : ∀ u, execHandoverLinkTimeout s = .next u → Within [.now, .hdrs, .flds, .links, .accs, .commits, .regions, .queues, .jobs, .bells, .vecs, .time, .ring] s u :=
  fun _ h => Host.Outcome.next.inj h ▸ hoLinkTimeout_within.mono rfl

end Sys2Proof.Machine
end

