-- ==== Sys2Proof/Laws/WithinUnits.lean ====
section
/-!
SUPPORT. What each operation may change: training, power, the safety monitor and the mailbox. One lemma per operation, named after it.
-/

namespace Sys2Proof.Machine

set_option linter.all false

/-! ### Almanac -/

theorem loadEntry_within {x0 x1 s} : Within [.chans] s (loadEntry x0 x1 s) := by
  unfold loadEntry
  repeat' first
    | with_reducible assumption
    | with_reducible exact Within.refl _ _
    | with_reducible apply Within.step modChan_within rfl
    | with_reducible apply foldl_within
    | with_reducible exact id
    | with_reducible exact Nat.le_refl _
    | (refine fun (p : Part) hp => ?_; cases p <;> first | (cases hp; done) | with_reducible rfl)
    | intro x t h
    | intro t h
    | with_reducible apply Within.leaf

theorem reloadRedirects_within {x0 s} : Within [.chans] s (reloadRedirects x0 s) := by
  unfold reloadRedirects
  repeat' first
    | with_reducible exact Within.refl _ _
    | with_reducible apply Within.step modChan_within rfl
    | with_reducible exact id
    | with_reducible exact Nat.le_refl _
    | (refine fun (p : Part) hp => ?_; cases p <;> first | (cases hp; done) | with_reducible rfl)
    | split
    | (dsimp only; split)
    | with_reducible apply Within.leaf

theorem almDone_within {x0 s} : Within [.chans, .flash] s (almDone x0 s) := by
  unfold almDone
  repeat' first
    | with_reducible exact Within.refl _ _
    | with_reducible exact id
    | with_reducible exact Nat.le_refl _
    | (refine fun (p : Part) hp => ?_; cases p <;> first | (cases hp; done) | with_reducible rfl)
    | exact flash_wf_of rfl
    | with_reducible apply Within.leaf

theorem almGo_within {s} : Within [.hdrs, .chans, .vecs, .boot, .flash] s (almGo s) := by
  unfold almGo
  repeat' first
    | with_reducible exact Within.refl _ _
    | with_reducible apply Within.step flshEvt_within rfl
    | with_reducible apply Within.step startLogical_within rfl
    | with_reducible apply Within.step almDone_within rfl
    | with_reducible apply Within.step almAdvance_within rfl
    | with_reducible apply Within.step startFlash_within rfl
    | with_reducible apply Within.ite <;> intro _
    | with_reducible exact id
    | with_reducible exact Nat.le_refl _
    | (refine fun (p : Part) hp => ?_; cases p <;> first | (cases hp; done) | with_reducible rfl)
    | exact flash_wf_of rfl
    | split
    | (dsimp only; split)
    | with_reducible apply Within.leaf

theorem writeAlmanac_within {s} : Within [.hdrs, .chans, .vecs, .boot, .flash] s (writeAlmanac s) := by
  unfold writeAlmanac
  repeat' first
    | with_reducible exact Within.refl _ _
    | with_reducible apply Within.step almGo_within rfl
    | with_reducible apply Within.ite <;> intro _
    | with_reducible exact id
    | with_reducible exact Nat.le_refl _
    | (refine fun (p : Part) hp => ?_; cases p <;> first | (cases hp; done) | with_reducible rfl)
    | exact flash_wf_of rfl
    | with_reducible apply Within.leaf

/-! ### Train -/

theorem chCfgErr_within {x0 s} : Within [.hdrs, .vecs] s (chCfgErr x0 s) :=
  chEvt_within.mono rfl

theorem driveDrst_within {x0 x1 s} : Within [.boot] s (driveDrst x0 x1 s) := by
  unfold driveDrst
  repeat' first
    | with_reducible assumption
    | with_reducible exact Within.refl _ _
    | with_reducible apply onlyIf_within
    | with_reducible exact id
    | with_reducible exact Nat.le_refl _
    | (refine fun (p : Part) hp => ?_; cases p <;> first | (cases hp; done) | with_reducible rfl)
    | intro x t h
    | intro t h
    | with_reducible apply Within.leaf

theorem beginCamp_within {x0 x1 s} : Within [.flds, .chans, .boot] s (beginCamp x0 x1 s) := by
  unfold beginCamp
  repeat' first
    | with_reducible exact Within.refl _ _
    | with_reducible apply Within.step modChan_within rfl
    | with_reducible apply Within.step driveDrst_within rfl
    | with_reducible apply Within.step fset_within rfl
    | with_reducible apply Within.ite <;> intro _
    | with_reducible exact id
    | with_reducible exact Nat.le_refl _
    | (refine fun (p : Part) hp => ?_; cases p <;> first | (cases hp; done) | with_reducible rfl)
    | with_reducible apply Within.leaf

theorem newCamp_within {x0 x1 s} : Within [.flds, .chans, .boot] s (newCamp x0 x1 s) := by
  unfold newCamp
  repeat' first
    | with_reducible exact Within.refl _ _
    | with_reducible apply Within.step beginCamp_within rfl
    | with_reducible apply Within.step fset_within rfl

theorem startCampaign_within {x0 x1 s} : Within [.flds, .chans, .boot] s (startCampaign x0 x1 s) := by
  unfold startCampaign
  repeat' first
    | with_reducible exact Within.refl _ _
    | with_reducible apply Within.step beginCamp_within rfl
    | with_reducible apply Within.step newCamp_within rfl
    | with_reducible apply Within.ite <;> intro _
    | with_reducible exact id
    | with_reducible exact Nat.le_refl _
    | (refine fun (p : Part) hp => ?_; cases p <;> first | (cases hp; done) | with_reducible rfl)
    | split
    | (dsimp only; split)
    | with_reducible apply Within.leaf

theorem programRepair_within {x0 s} : Within [.chans, .boot] s (programRepair x0 s) := by
  unfold programRepair
  repeat' first
    | with_reducible exact Within.refl _ _
    | with_reducible apply Within.step wantAlmanac_within rfl
    | with_reducible apply Within.step modChan_within rfl
    | with_reducible exact id
    | with_reducible exact Nat.le_refl _
    | (refine fun (p : Part) hp => ?_; cases p <;> first | (cases hp; done) | with_reducible rfl)
    | split
    | (dsimp only; split)
    | with_reducible apply Within.leaf

theorem reports_within {x0 x1 s} : Within [.chans] s (reports x0 x1 s) := by
  unfold reports
  repeat' first
    | with_reducible exact Within.refl _ _
    | with_reducible apply Within.step modChan_within rfl
    | with_reducible apply Within.ite <;> intro _
    | with_reducible exact id
    | with_reducible exact Nat.le_refl _
    | (refine fun (p : Part) hp => ?_; cases p <;> first | (cases hp; done) | with_reducible rfl)
    | with_reducible apply Within.leaf

theorem passChan_within {x0 x1 s} : Within [.flds, .chans] s (passChan x0 x1 s) := by
  unfold passChan
  repeat' first
    | with_reducible assumption
    | with_reducible exact Within.refl _ _
    | with_reducible apply Within.step modChan_within rfl
    | with_reducible apply Within.step fset_within rfl
    | with_reducible apply onlyIf_within
    | with_reducible apply Within.ite <;> intro _
    | with_reducible exact id
    | with_reducible exact Nat.le_refl _
    | (refine fun (p : Part) hp => ?_; cases p <;> first | (cases hp; done) | with_reducible rfl)
    | intro x t h
    | intro t h
    | with_reducible apply Within.leaf

theorem failCampaign_within {x0 x1 x2 x3 s} : Within [.hdrs, .flds, .links, .accs, .commits, .chans, .regions, .queues, .jobs, .bells, .vecs, .groups, .pll, .ring, .boot, .safe] s (failCampaign x0 x1 x2 x3 s) := by
  unfold failCampaign
  repeat' first
    | with_reducible assumption
    | with_reducible exact Within.refl _ _
    | with_reducible apply Within.step fset_within rfl
    | with_reducible apply Within.step beginCamp_within rfl
    | with_reducible apply Within.step modChan_within rfl
    | with_reducible apply Within.step dspFailed_within rfl
    | with_reducible apply Within.step failChannel_within rfl
    | with_reducible apply onlyIf_within
    | with_reducible apply Within.ite <;> intro _
    | with_reducible exact id
    | with_reducible exact Nat.le_refl _
    | (refine fun (p : Part) hp => ?_; cases p <;> first | (cases hp; done) | with_reducible rfl)
    | intro x t h
    | intro t h
    | split
    | (dsimp only; split)
    | with_reducible apply Within.leaf

theorem countCamp_within {x0 x1 s} : Within [.flds] s (countCamp x0 x1 s) := by
  unfold countCamp
  repeat' first
    | with_reducible exact Within.refl _ _
    | with_reducible apply Within.step fbump_within rfl
    | with_reducible exact id
    | with_reducible exact Nat.le_refl _
    | (refine fun (p : Part) hp => ?_; cases p <;> first | (cases hp; done) | with_reducible rfl)
    | split
    | (dsimp only; split)
    | with_reducible apply Within.leaf

theorem endFast_within {x0 x1 x2 s} : Within [.hdrs, .flds, .links, .accs, .commits, .chans, .regions, .queues, .jobs, .bells, .vecs, .groups, .pll, .ring, .boot, .safe] s (endFast x0 x1 x2 s) := by
  unfold endFast
  repeat' first
    | with_reducible assumption
    | with_reducible exact Within.refl _ _
    | with_reducible apply Within.step beginCamp_within rfl
    | with_reducible apply Within.step failCampaign_within rfl
    | with_reducible apply Within.step passChan_within rfl
    | with_reducible apply Within.step reloadRedirects_within rfl
    | with_reducible apply Within.step loadEntry_within rfl
    | with_reducible apply onlyIf_within
    | with_reducible apply Within.ite <;> intro _
    | with_reducible exact id
    | with_reducible exact Nat.le_refl _
    | (refine fun (p : Part) hp => ?_; cases p <;> first | (cases hp; done) | with_reducible rfl)
    | intro x t h
    | intro t h
    | split
    | (dsimp only; split)
    | with_reducible apply Within.leaf

theorem endFull_within {x0 x1 x2 s} : Within [.hdrs, .flds, .links, .accs, .commits, .chans, .regions, .queues, .jobs, .bells, .vecs, .groups, .pll, .ring, .boot, .safe] s (endFull x0 x1 x2 s) := by
  unfold endFull
  repeat' first
    | with_reducible assumption
    | with_reducible exact Within.refl _ _
    | with_reducible apply Within.step failCampaign_within rfl
    | with_reducible apply Within.step wantAlmanac_within rfl
    | with_reducible apply Within.step loadEntry_within rfl
    | with_reducible apply Within.step modChan_within rfl
    | with_reducible apply Within.step reloadRedirects_within rfl
    | with_reducible apply Within.step passChan_within rfl
    | with_reducible apply Within.step programRepair_within rfl
    | with_reducible apply onlyIf_within
    | with_reducible exact id
    | with_reducible exact Nat.le_refl _
    | (refine fun (p : Part) hp => ?_; cases p <;> first | (cases hp; done) | with_reducible rfl)
    | intro x t h
    | intro t h
    | split
    | (dsimp only; split)
    | with_reducible apply Within.leaf

theorem endCampaign_within {x0 x1 s} : Within [.hdrs, .flds, .links, .accs, .commits, .chans, .regions, .queues, .jobs, .bells, .vecs, .groups, .pll, .ring, .boot, .safe] s (endCampaign x0 x1 s) := by
  unfold endCampaign
  repeat' first
    | with_reducible assumption
    | with_reducible exact Within.refl _ _
    | with_reducible apply Within.step countCamp_within rfl
    | with_reducible apply Within.step reports_within rfl
    | with_reducible apply Within.step failCampaign_within rfl
    | with_reducible apply Within.step endFast_within rfl
    | with_reducible apply Within.step endFull_within rfl
    | with_reducible apply Within.step dspAdvance_within rfl
    | with_reducible apply onlyIf_within
    | with_reducible apply Within.ite <;> intro _
    | with_reducible exact id
    | with_reducible exact Nat.le_refl _
    | (refine fun (p : Part) hp => ?_; cases p <;> first | (cases hp; done) | with_reducible rfl)
    | intro x t h
    | intro t h
    | split
    | (dsimp only; split)
    | with_reducible apply Within.leaf

theorem noResponse_within {x0 s} : Within [.now, .hdrs, .flds, .links, .accs, .commits, .chans, .regions, .queues, .jobs, .bells, .vecs, .groups, .pll, .time, .ring, .boot, .safe] s (noResponse x0 s) := by
  unfold noResponse
  repeat' first
    | with_reducible assumption
    | with_reducible exact Within.refl _ _
    | with_reducible apply Within.step countCamp_within rfl
    | with_reducible apply Within.step waitUntil_within rfl
    | with_reducible apply Within.step dspAdvance_within rfl
    | with_reducible apply Within.step failCampaign_within rfl
    | with_reducible apply onlyIf_within
    | with_reducible apply Within.ite <;> intro _
    | with_reducible exact id
    | with_reducible exact Nat.le_refl _
    | (refine fun (p : Part) hp => ?_; cases p <;> first | (cases hp; done) | with_reducible rfl)
    | intro x t h
    | intro t h
    | split
    | (dsimp only; split)
    | with_reducible apply Within.leaf

theorem switchDram_within {x0 s} : Within [.accs, .chans, .mem] s (switchDram x0 s) := by
  unfold switchDram
  repeat' first
    | with_reducible exact Within.refl _ _
    | with_reducible apply Within.step enterSelfRefresh_within rfl
    | with_reducible apply Within.ite <;> intro _
    | with_reducible exact id
    | with_reducible exact Nat.le_refl _
    | (refine fun (p : Part) hp => ?_; cases p <;> first | (cases hp; done) | with_reducible rfl)
    | split
    | (dsimp only; split)
    | with_reducible apply Within.leaf

theorem switchChan_within {x0 x1 s} : Within [.flds, .accs, .chans, .mem, .boot] s (switchChan x0 x1 s) := by
  unfold switchChan
  repeat' first
    | with_reducible exact Within.refl _ _
    | with_reducible apply Within.step switchDram_within rfl
    | with_reducible apply Within.step modChan_within rfl
    | with_reducible apply Within.step beginCamp_within rfl
    | with_reducible apply Within.ite <;> intro _
    | with_reducible exact id
    | with_reducible exact Nat.le_refl _
    | (refine fun (p : Part) hp => ?_; cases p <;> first | (cases hp; done) | with_reducible rfl)
    | split
    | (dsimp only; split)
    | with_reducible apply Within.leaf

theorem startChange_within {x0 s} : Within [.flds, .accs, .chans, .mem, .pll, .boot] s (startChange x0 s) := by
  unfold startChange
  repeat' first
    | with_reducible assumption
    | with_reducible exact Within.refl _ _
    | with_reducible apply Within.step fset_within rfl
    | with_reducible apply Within.step dspAdvance_within rfl
    | with_reducible apply Within.step switchChan_within rfl
    | with_reducible apply forAll_within
    | with_reducible exact id
    | with_reducible exact Nat.le_refl _
    | (refine fun (p : Part) hp => ?_; cases p <;> first | (cases hp; done) | with_reducible rfl)
    | intro x t h
    | intro t h
    | with_reducible apply Within.leaf

theorem abandonAll_within {s} : Within [.flds] s (abandonAll s) := by
  unfold abandonAll
  repeat' first
    | with_reducible assumption
    | with_reducible exact Within.refl _ _
    | with_reducible apply Within.step fbump_within rfl
    | with_reducible apply Within.step fset_within rfl
    | with_reducible apply forAll_within
    | intro x t h
    | intro t h

theorem dspRequest_within {x0 s} : Within [.hdrs, .flds, .accs, .chans, .mem, .vecs, .pll, .boot] s (dspRequest x0 s) := by
  unfold dspRequest
  repeat' first
    | with_reducible exact Within.refl _ _
    | with_reducible apply Within.step fset_within rfl
    | with_reducible apply Within.step dspEvt_within rfl
    | with_reducible apply Within.step startChange_within rfl
    | with_reducible apply Within.ite <;> intro _

theorem deferredStart_within {s} : Within [.flds, .accs, .chans, .mem, .pll, .boot] s (deferredStart s) := by
  unfold deferredStart
  repeat' first
    | with_reducible exact Within.refl _ _
    | with_reducible apply Within.step startChange_within rfl
    | with_reducible apply Within.step abandonAll_within rfl
    | with_reducible apply Within.ite <;> intro _

theorem endChange_within {s} : Within [.hdrs, .flds, .vecs, .boot] s (endChange s) := by
  unfold endChange
  repeat' first
    | with_reducible exact Within.refl _ _
    | with_reducible apply Within.step wantAlmanac_within rfl
    | with_reducible apply Within.step dspEvt_within rfl
    | with_reducible apply Within.step fset_within rfl
    | with_reducible apply Within.ite <;> intro _

theorem moveCommon_within {x0 x1 s} : Within [.chans] s (moveCommon x0 x1 s) := by
  unfold moveCommon
  repeat' first
    | with_reducible exact Within.refl _ _
    | with_reducible apply Within.step modChan_within rfl
    | with_reducible exact id
    | with_reducible exact Nat.le_refl _
    | (refine fun (p : Part) hp => ?_; cases p <;> first | (cases hp; done) | with_reducible rfl)
    | with_reducible apply Within.leaf

theorem noteMoved_within {x0 s} : Within [.chans, .boot] s (noteMoved x0 s) := by
  unfold noteMoved
  repeat' first
    | with_reducible exact Within.refl _ _
    | with_reducible apply Within.step wantAlmanac_within rfl
    | with_reducible apply Within.step modChan_within rfl
    | with_reducible exact id
    | with_reducible exact Nat.le_refl _
    | (refine fun (p : Part) hp => ?_; cases p <;> first | (cases hp; done) | with_reducible rfl)
    | split
    | (dsimp only; split)
    | with_reducible apply Within.leaf

theorem shortDone_within {x0 x1 x2 s} : Within [.hdrs, .flds, .links, .accs, .commits, .chans, .regions, .queues, .jobs, .bells, .vecs, .groups, .pll, .ring, .boot, .safe] s (shortDone x0 x1 x2 s) := by
  unfold shortDone
  repeat' first
    | with_reducible exact Within.refl _ _
    | with_reducible apply Within.step noteMoved_within rfl
    | with_reducible apply Within.step modChan_within rfl
    | with_reducible apply Within.step moveCommon_within rfl
    | with_reducible apply Within.step kpReturn_within rfl
    | with_reducible apply Within.step countCamp_within rfl
    | with_reducible apply Within.step failChannel_within rfl
    | with_reducible apply Within.ite <;> intro _
    | with_reducible exact id
    | with_reducible exact Nat.le_refl _
    | (refine fun (p : Part) hp => ?_; cases p <;> first | (cases hp; done) | with_reducible rfl)
    | split
    | (dsimp only; split)
    | with_reducible apply Within.leaf

theorem sweepStart_within {x0 s} : Within [.hdrs, .flds, .chans, .vecs] s (sweepStart x0 s) := by
  unfold sweepStart
  repeat' first
    | with_reducible exact Within.refl _ _
    | with_reducible apply Within.step chCfgErr_within rfl
    | with_reducible apply Within.step modChan_within rfl
    | with_reducible apply Within.step fclear_within rfl
    | with_reducible apply Within.ite <;> intro _
    | with_reducible exact id
    | with_reducible exact Nat.le_refl _
    | (refine fun (p : Part) hp => ?_; cases p <;> first | (cases hp; done) | with_reducible rfl)
    | split
    | (dsimp only; split)
    | with_reducible apply Within.leaf

theorem sweepEnd_within {x0 x1 x2 s} : Within [.flds, .chans] s (sweepEnd x0 x1 x2 s) := by
  unfold sweepEnd
  repeat' first
    | with_reducible assumption
    | with_reducible exact Within.refl _ _
    | with_reducible apply Within.step modChan_within rfl
    | with_reducible apply Within.step fset_within rfl
    | with_reducible apply foldl_within
    | with_reducible exact id
    | with_reducible exact Nat.le_refl _
    | (refine fun (p : Part) hp => ?_; cases p <;> first | (cases hp; done) | with_reducible rfl)
    | intro x t h
    | intro t h
    | split
    | (dsimp only; split)
    | with_reducible apply Within.leaf

theorem trainWrite_within {P r x0 x1 x2 f s} (hf : ∀ t, Within P r t → Within P r (f t)) (hm : [.freeCtr, .hdrs, .flds, .links, .chans, .vecs, .power].all P.contains = true)
    (k : Within P r s) : Within P r (trainWrite x0 x1 x2 f s) := by
  unfold trainWrite
  repeat' first
    | with_reducible assumption
    | with_reducible exact Within.refl _ _
    | with_reducible apply hf
    | with_reducible apply Within.step wakeFor_within (all_contains_trans (R := [.freeCtr, .hdrs, .flds, .links, .chans, .vecs, .power]) rfl hm)
    | with_reducible apply Within.step chCfgErr_within (all_contains_trans (R := [.freeCtr, .hdrs, .flds, .links, .chans, .vecs, .power]) rfl hm)
    | with_reducible apply Within.step countRefused_within (all_contains_trans (R := [.freeCtr, .hdrs, .flds, .links, .chans, .vecs, .power]) rfl hm)
    | with_reducible apply Within.step sbRefused_within (all_contains_trans (R := [.freeCtr, .hdrs, .flds, .links, .chans, .vecs, .power]) rfl hm)
    | with_reducible apply Within.ite <;> intro _
    | with_reducible exact id
    | with_reducible exact Nat.le_refl _
    | (refine fun (p : Part) hp => ?_; cases p <;> first | (cases hp; done) | with_reducible rfl)
    | intro x t h
    | intro t h
    | split
    | (dsimp only; split)
    | with_reducible apply Within.leaf

theorem urNext_within {x0 s} : Within [.flds] s (urNext x0 s) :=
  fset_within.mono rfl

theorem urRead_within {x0 s} : Within [.flds] s (urRead x0 s).2 := by
  unfold urRead
  repeat' first
    | with_reducible exact Within.refl _ _
    | with_reducible apply Within.step urNext_within rfl
    | split
    | (dsimp only; split)

theorem urWrite_within {x0 x1 s} : Within [.flds, .chans] s (urWrite x0 x1 s) := by
  unfold urWrite
  repeat' first
    | with_reducible exact Within.refl _ _
    | with_reducible apply Within.step urNext_within rfl
    | with_reducible apply Within.step modChan_within rfl
    | with_reducible exact id
    | with_reducible exact Nat.le_refl _
    | (refine fun (p : Part) hp => ?_; cases p <;> first | (cases hp; done) | with_reducible rfl)
    | with_reducible apply Within.leaf

theorem execTrainingCampaign_within {x0 x1 s} : ∀ u, execTrainingCampaign x0 x1 s = .next u → Within [.flds, .chans, .boot] s u :=
  fun _ h => Host.Outcome.next.inj h ▸ startCampaign_within.mono rfl

theorem execCampaignEnd_within {x0 x1 s} : ∀ u, execCampaignEnd x0 x1 s = .next u → Within [.hdrs, .flds, .links, .accs, .commits, .chans, .regions, .queues, .jobs, .bells, .vecs, .groups, .pll, .ring, .boot, .safe] s u :=
  fun _ h => Host.Outcome.next.inj h ▸ endCampaign_within.mono rfl

theorem execChannelNoresp_within {x0 s} : ∀ u, execChannelNoresp x0 s = .next u → Within [.now, .hdrs, .flds, .links, .accs, .commits, .chans, .regions, .queues, .jobs, .bells, .vecs, .groups, .pll, .time, .ring, .boot, .safe] s u :=
  fun _ h => Host.Outcome.next.inj h ▸ noResponse_within.mono rfl

theorem execSweepGo_within {x0 x1 s} : ∀ u, execSweepGo x0 x1 s = .next u → Within [.freeCtr, .hdrs, .flds, .links, .chans, .vecs, .power] s u := by
  unfold execSweepGo
  refine fun _ h => Host.Outcome.next.inj h ▸ ?_
  repeat' first
    | with_reducible assumption
    | with_reducible exact Within.refl _ _
    | with_reducible apply Within.step sweepStart_within rfl
    | with_reducible apply trainWrite_within ?_ rfl
    | intro x t h
    | intro t h

theorem execSweepAbort_within {x0 x1 x2 s} : ∀ u, execSweepAbort x0 x1 x2 s = .next u → Within [.freeCtr, .hdrs, .flds, .links, .chans, .vecs, .power] s u := by
  unfold execSweepAbort
  refine fun _ h => Host.Outcome.next.inj h ▸ ?_
  repeat' first
    | with_reducible assumption
    | with_reducible exact Within.refl _ _
    | with_reducible apply Within.step sweepEnd_within rfl
    | with_reducible apply trainWrite_within ?_ rfl
    | intro x t h
    | intro t h

theorem sweepOver_within {x0 x1 s} : Within [.now, .flds, .chans, .time] s (sweepOver x0 x1 s) := by
  unfold sweepOver
  repeat' first
    | with_reducible exact Within.refl _ _
    | with_reducible apply Within.step sweepEnd_within rfl
    | with_reducible apply Within.step waitUntil_within rfl
    | with_reducible apply Within.ite <;> intro _
    | with_reducible exact id
    | with_reducible exact Nat.le_refl _
    | (refine fun (p : Part) hp => ?_; cases p <;> first | (cases hp; done) | with_reducible rfl)
    | split
    | (dsimp only; split)
    | with_reducible apply Within.leaf

theorem execSweepDone_within {x0 x1 s} : ∀ u, execSweepDone x0 x1 s = .next u → Within [.now, .flds, .chans, .time] s u :=
  fun _ h => Host.Outcome.next.inj h ▸ sweepOver_within.mono rfl

theorem execSweepTruncate_within {x0 x1 s} : ∀ u, execSweepTruncate x0 x1 s = .next u → Within [.now, .flds, .chans, .time] s u := by
  unfold execSweepTruncate
  refine fun _ h => Host.Outcome.next.inj h ▸ ?_
  repeat' first
    | with_reducible exact Within.refl _ _
    | with_reducible apply Within.step sweepEnd_within rfl
    | with_reducible apply Within.step waitUntil_within rfl
    | with_reducible exact id
    | with_reducible exact Nat.le_refl _
    | (refine fun (p : Part) hp => ?_; cases p <;> first | (cases hp; done) | with_reducible rfl)
    | split
    | (dsimp only; split)
    | with_reducible apply Within.leaf

theorem execUrdataAccess_within {x0 x1 x2 s} : ∀ u, execUrdataAccess x0 x1 x2 s = .next u → Within [.freeCtr, .busResult, .hdrs, .flds, .links, .chans, .vecs, .power] s u := by
  unfold execUrdataAccess
  refine fun _ h => Host.Outcome.next.inj h ▸ ?_
  repeat' first
    | with_reducible assumption
    | with_reducible exact Within.refl _ _
    | with_reducible apply Within.step urWrite_within rfl
    | with_reducible apply Within.step urRead_within rfl
    | with_reducible apply Within.step wakeFor_within rfl
    | with_reducible apply trainWrite_within ?_ rfl
    | with_reducible apply viaRead_within ?_ rfl (.inr rfl)
    | with_reducible exact id
    | with_reducible exact Nat.le_refl _
    | (refine fun (p : Part) hp => ?_; cases p <;> first | (cases hp; done) | with_reducible rfl)
    | intro x t h
    | intro t h
    | split
    | (dsimp only; split)
    | with_reducible apply Within.leaf

theorem execDspreq_within {x0 x1 s} : ∀ u, execDspreq x0 x1 s = .next u → Within [.hdrs, .flds, .accs, .chans, .mem, .vecs, .pll, .boot] s u := by
  unfold execDspreq
  refine fun _ h => Host.Outcome.next.inj h ▸ ?_
  repeat' first
    | with_reducible assumption
    | with_reducible exact Within.refl _ _
    | with_reducible apply Within.step dspRequest_within rfl
    | with_reducible apply viaReg_within ?_ rfl (.inl rfl)
    | with_reducible apply viaReg_within ?_ rfl (.inl (sleeps_wq _))
    | intro x t h
    | intro t h

theorem execSetPointChangeStart_within {s} : ∀ u, execSetPointChangeStart s = .next u → Within [.flds, .accs, .chans, .mem, .pll, .boot] s u :=
  fun _ h => Host.Outcome.next.inj h ▸ deferredStart_within.mono rfl

theorem execAlmanacWrite_within {s} : ∀ u, execAlmanacWrite s = .next u → Within [.hdrs, .chans, .vecs, .boot, .flash] s u :=
  fun _ h => Host.Outcome.next.inj h ▸ writeAlmanac_within.mono rfl

theorem execShortRetrainDone_within {x0 x1 x2 s} : ∀ u, execShortRetrainDone x0 x1 x2 s = .next u → Within [.hdrs, .flds, .links, .accs, .commits, .chans, .regions, .queues, .jobs, .bells, .vecs, .groups, .pll, .ring, .boot, .safe] s u :=
  fun _ h => Host.Outcome.next.inj h ▸ shortDone_within.mono rfl

/-! ### Power -/

theorem setPower_within {x0 s} : Within [.power] s (setPower x0 s) := by
  unfold setPower
  repeat' first
    | with_reducible exact Within.refl _ _
    | with_reducible exact id
    | with_reducible exact Nat.le_refl _
    | (refine fun (p : Part) hp => ?_; cases p <;> first | (cases hp; done) | with_reducible rfl)
    | with_reducible apply Within.leaf

theorem pwrEvt_within {x0 x1 s} : Within [.hdrs, .vecs] s (pwrEvt x0 x1 s) :=
  raise_within.mono rfl

theorem standbyStart_within {x0 s} : Within [.now, .freeCtr, .links, .time] s (standbyStart x0 s) := by
  unfold standbyStart
  repeat' first
    | with_reducible exact Within.refl _ _
    | with_reducible apply Within.step waitUntil_within rfl
    | with_reducible apply Within.step sendGroup_within rfl
    | with_reducible apply Within.step modLink_within rfl
    | with_reducible apply Within.ite <;> intro _
    | with_reducible exact id
    | with_reducible exact Nat.le_refl _
    | (refine fun (p : Part) hp => ?_; cases p <;> first | (cases hp; done) | with_reducible rfl)
    | with_reducible apply Within.leaf

theorem standbyTimeout_within {x0 s} : Within [.now, .flds, .links, .time] s (standbyTimeout x0 s) := by
  unfold standbyTimeout
  repeat' first
    | with_reducible exact Within.refl _ _
    | with_reducible apply Within.step standbyRefused_within rfl
    | with_reducible apply Within.step waitUntil_within rfl
    | with_reducible exact id
    | with_reducible exact Nat.le_refl _
    | (refine fun (p : Part) hp => ?_; cases p <;> first | (cases hp; done) | with_reducible rfl)
    | split
    | (dsimp only; split)
    | with_reducible apply Within.leaf

theorem wakeLocked_within {x0 x1 s} : Within [.freeCtr, .links] s (wakeLocked x0 x1 s) := by
  unfold wakeLocked
  repeat' first
    | with_reducible exact Within.refl _ _
    | with_reducible apply Within.step modLink_within rfl
    | with_reducible apply Within.step sendGroup_within rfl
    | with_reducible apply Within.ite <;> intro _
    | with_reducible exact id
    | with_reducible exact Nat.le_refl _
    | (refine fun (p : Part) hp => ?_; cases p <;> first | (cases hp; done) | with_reducible rfl)
    | with_reducible apply Within.leaf

theorem fillPorts_within {s} : Within [.freeCtr, .links, .power] s (fillPorts s) := by
  unfold fillPorts
  repeat' first
    | with_reducible assumption
    | with_reducible exact Within.refl _ _
    | with_reducible apply Within.step sendFill_within rfl
    | with_reducible apply Within.step setPower_within rfl
    | with_reducible apply forAll_within
    | with_reducible apply Within.ite <;> intro _
    | with_reducible exact id
    | with_reducible exact Nat.le_refl _
    | (refine fun (p : Part) hp => ?_; cases p <;> first | (cases hp; done) | with_reducible rfl)
    | intro x t h
    | intro t h
    | with_reducible apply Within.leaf

theorem portWake_within {x0 x1 s} : Within [.freeCtr, .hdrs, .flds, .links, .chans, .vecs, .power] s (portWake x0 x1 s) := by
  unfold portWake
  repeat' first
    | with_reducible exact Within.refl _ _
    | with_reducible apply Within.step fillPorts_within rfl
    | with_reducible apply Within.step wakePort_within rfl
    | with_reducible apply Within.step wakeDevice_within rfl
    | with_reducible apply Within.step wakeLocked_within rfl
    | with_reducible apply Within.ite <;> intro _
    | with_reducible exact id
    | with_reducible exact Nat.le_refl _
    | (refine fun (p : Part) hp => ?_; cases p <;> first | (cases hp; done) | with_reducible rfl)
    | split
    | (dsimp only; split)
    | with_reducible apply Within.leaf

theorem wakeTimeout_within {x0 x1 s} : Within [.now, .freeCtr, .hdrs, .flds, .links, .accs, .commits, .regions, .jobs, .bells, .vecs, .groups, .time, .ring] s (wakeTimeout x0 x1 s) := by
  unfold wakeTimeout
  repeat' first
    | with_reducible exact Within.refl _ _
    | with_reducible apply Within.step lanesFaulty_within rfl
    | with_reducible apply Within.step waitUntil_within rfl
    | with_reducible apply Within.ite <;> intro _
    | with_reducible exact id
    | with_reducible exact Nat.le_refl _
    | (refine fun (p : Part) hp => ?_; cases p <;> first | (cases hp; done) | with_reducible rfl)
    | split
    | (dsimp only; split)
    | with_reducible apply Within.leaf

theorem takeLevel_within {x0 s} : Within [.now, .chans, .time, .power] s (takeLevel x0 s) := by
  unfold takeLevel
  repeat' first
    | with_reducible assumption
    | with_reducible exact Within.refl _ _
    | with_reducible apply Within.step setPower_within rfl
    | with_reducible apply Within.step powerDown_within rfl
    | with_reducible apply onlyIf_within
    | with_reducible apply forAll_within
    | with_reducible apply Within.ite <;> intro _
    | with_reducible exact id
    | with_reducible exact Nat.le_refl _
    | (refine fun (p : Part) hp => ?_; cases p <;> first | (cases hp; done) | with_reducible rfl)
    | intro x t h
    | intro t h
    | with_reducible apply Within.leaf

theorem powerEntry_within {s} : Within [.now, .chans, .time, .power] s (powerEntry s) := by
  unfold powerEntry
  repeat' first
    | with_reducible exact Within.refl _ _
    | with_reducible apply Within.step waitUntil_within rfl
    | with_reducible apply Within.step takeLevel_within rfl
    | with_reducible apply Within.ite <;> intro _

theorem deviceWake_within {x0 s} : Within [.freeCtr, .hdrs, .flds, .links, .chans, .vecs, .power] s (deviceWake x0 s) := by
  unfold deviceWake
  repeat' first
    | with_reducible exact Within.refl _ _
    | with_reducible apply Within.step wakeDevice_within rfl
    | with_reducible exact id
    | with_reducible exact Nat.le_refl _
    | (refine fun (p : Part) hp => ?_; cases p <;> first | (cases hp; done) | with_reducible rfl)
    | split
    | (dsimp only; split)
    | with_reducible apply Within.leaf

theorem resumeErases_within {s} : Within [.flash] s (resumeErases s) := by
  unfold resumeErases
  repeat' first
    | with_reducible assumption
    | with_reducible exact Within.refl _ _
    | with_reducible apply Within.step setFbank_within rfl
    | with_reducible apply forAll_within
    | with_reducible exact id
    | with_reducible exact Nat.le_refl _
    | (refine fun (p : Part) hp => ?_; cases p <;> first | (cases hp; done) | with_reducible rfl)
    | intro x t h
    | intro t h
    | exact flash_wf_of rfl
    | split
    | (dsimp only; split)
    | with_reducible apply Within.leaf

theorem retain_within {s} : Within [.hdrs, .vecs, .power, .flash] s (retain s) := by
  unfold retain
  repeat' first
    | with_reducible exact Within.refl _ _
    | with_reducible apply Within.step pwrEvt_within rfl
    | with_reducible apply Within.step resumeErases_within rfl
    | with_reducible apply Within.step setPower_within rfl
    | with_reducible apply Within.ite <;> intro _
    | with_reducible exact id
    | with_reducible exact Nat.le_refl _
    | (refine fun (p : Part) hp => ?_; cases p <;> first | (cases hp; done) | with_reducible rfl)
    | exact flash_wf_of rfl
    | with_reducible apply Within.leaf

theorem beginExit_within {s} : Within [.links, .pll, .power] s (beginExit s) := by
  unfold beginExit
  repeat' first
    | with_reducible exact Within.refl _ _
    | with_reducible apply Within.step setPower_within rfl
    | with_reducible apply Within.ite <;> intro _
    | with_reducible exact id
    | with_reducible exact Nat.le_refl _
    | (refine fun (p : Part) hp => ?_; cases p <;> first | (cases hp; done) | with_reducible rfl)
    | with_reducible apply Within.leaf

theorem retentionEntered_within {s} : Within [.flds, .links, .accs, .chans, .mem, .groups, .merid, .pll, .time, .ring, .power, .flash] s (retentionEntered s) := by
  unfold retentionEntered
  repeat' first
    | with_reducible assumption
    | with_reducible exact Within.refl _ _
    | with_reducible apply Within.step resumeErases_within rfl
    | with_reducible apply Within.step enterSelfRefresh_within rfl
    | with_reducible apply Within.step endCoast_within rfl
    | with_reducible apply Within.step fbump_within rfl
    | with_reducible apply Within.step fset_within rfl
    | with_reducible apply Within.step beginExit_within rfl
    | with_reducible apply forAll_within
    | with_reducible apply Within.ite <;> intro _
    | with_reducible exact id
    | with_reducible exact Nat.le_refl _
    | (refine fun (p : Part) hp => ?_; cases p <;> first | (cases hp; done) | with_reducible rfl)
    | intro x t h
    | intro t h
    | exact flash_wf_of rfl
    | with_reducible apply Within.leaf

theorem retainAbandon_within {s} : Within [.now, .hdrs, .vecs, .time, .power] s (retainAbandon s) := by
  unfold retainAbandon
  repeat' first
    | with_reducible exact Within.refl _ _
    | with_reducible apply Within.step waitUntil_within rfl
    | with_reducible apply Within.step pwrEvt_within rfl
    | with_reducible apply Within.step setPower_within rfl
    | with_reducible apply Within.ite <;> intro _
    | with_reducible exact id
    | with_reducible exact Nat.le_refl _
    | (refine fun (p : Part) hp => ?_; cases p <;> first | (cases hp; done) | with_reducible rfl)
    | with_reducible apply Within.leaf

theorem retentionWake_within {s} : Within [.links, .pll, .sb, .power] s (retentionWake s) := by
  unfold retentionWake
  repeat' first
    | with_reducible exact Within.refl _ _
    | with_reducible apply Within.step beginExit_within rfl
    | with_reducible apply Within.step setPower_within rfl
    | with_reducible exact id
    | with_reducible exact Nat.le_refl _
    | (refine fun (p : Part) hp => ?_; cases p <;> first | (cases hp; done) | with_reducible rfl)
    | split
    | (dsimp only; split)
    | with_reducible apply Within.leaf

theorem retentionExit_within {s} : Within [.now, .freeCtr, .hdrs, .flds, .links, .chans, .vecs, .merid, .time, .power] s (retentionExit s) := by
  unfold retentionExit
  repeat' first
    | with_reducible assumption
    | with_reducible exact Within.refl _ _
    | with_reducible apply Within.step sendGroup_within rfl
    | with_reducible apply Within.step setLink_within rfl
    | with_reducible apply Within.step fillPorts_within rfl
    | with_reducible apply Within.step pwrEvt_within rfl
    | with_reducible apply Within.step fset_within rfl
    | with_reducible apply Within.step fbump_within rfl
    | with_reducible apply Within.step settleEpch_within rfl
    | with_reducible apply Within.step takeLevel_within rfl
    | with_reducible apply Within.step setPower_within rfl
    | with_reducible apply forAll_within
    | with_reducible apply Within.ite <;> intro _
    | with_reducible exact id
    | with_reducible exact Nat.le_refl _
    | (refine fun (p : Part) hp => ?_; cases p <;> first | (cases hp; done) | with_reducible rfl)
    | intro x t h
    | intro t h
    | with_reducible apply Within.leaf

theorem partnerSilent_within {x0 s} : Within [.now, .freeCtr, .hdrs, .flds, .links, .accs, .commits, .regions, .jobs, .bells, .vecs, .groups, .time, .ring, .power] s (partnerSilent x0 s) := by
  unfold partnerSilent
  repeat' first
    | with_reducible exact Within.refl _ _
    | with_reducible apply Within.step fillPorts_within rfl
    | with_reducible apply Within.step dropToTraining_within rfl
    | with_reducible apply Within.step waitUntil_within rfl
    | with_reducible apply Within.step setPower_within rfl
    | with_reducible apply Within.ite <;> intro _
    | with_reducible exact id
    | with_reducible exact Nat.le_refl _
    | (refine fun (p : Part) hp => ?_; cases p <;> first | (cases hp; done) | with_reducible rfl)
    | split
    | (dsimp only; split)
    | with_reducible apply Within.leaf

theorem execPortStandbyStart_within {x0 s} : ∀ u, execPortStandbyStart x0 s = .next u → Within [.now, .freeCtr, .links, .time] s u :=
  fun _ h => Host.Outcome.next.inj h ▸ standbyStart_within.mono rfl

theorem execStbyAck_within {x0 s} : ∀ u, execStbyAck x0 s = .next u → Within [.freeCtr, .flds, .links] s u :=
  fun _ h => Host.Outcome.next.inj h ▸ standbyAck_within.mono rfl

theorem execStbyTimeout_within {x0 s} : ∀ u, execStbyTimeout x0 s = .next u → Within [.now, .flds, .links, .time] s u :=
  fun _ h => Host.Outcome.next.inj h ▸ standbyTimeout_within.mono rfl

theorem execPortWake_within {x0 x1 s} : ∀ u, execPortWake x0 x1 s = .next u → Within [.freeCtr, .hdrs, .flds, .links, .chans, .vecs, .power] s u :=
  fun _ h => Host.Outcome.next.inj h ▸ portWake_within.mono rfl

theorem execWakeLockTimeout_within {x0 x1 s} : ∀ u, execWakeLockTimeout x0 x1 s = .next u → Within [.now, .freeCtr, .hdrs, .flds, .links, .accs, .commits, .regions, .jobs, .bells, .vecs, .groups, .time, .ring] s u :=
  fun _ h => Host.Outcome.next.inj h ▸ wakeTimeout_within.mono rfl

theorem execPowerStateEntry_within {s} : ∀ u, execPowerStateEntry s = .next u → Within [.now, .chans, .time, .power] s u :=
  fun _ h => Host.Outcome.next.inj h ▸ powerEntry_within.mono rfl

theorem execDeviceWake_within {x0 s} : ∀ u, execDeviceWake x0 s = .next u → Within [.freeCtr, .hdrs, .flds, .links, .chans, .vecs, .power] s u :=
  fun _ h => Host.Outcome.next.inj h ▸ deviceWake_within.mono rfl

theorem execRetain_within {x0 s} : ∀ u, execRetain x0 s = .next u → Within [.hdrs, .flds, .vecs, .power, .flash] s u := by
  unfold execRetain
  refine fun _ h => Host.Outcome.next.inj h ▸ ?_
  repeat' first
    | with_reducible assumption
    | with_reducible exact Within.refl _ _
    | with_reducible apply Within.step retain_within rfl
    | with_reducible apply viaReg_within ?_ rfl (.inl rfl)
    | with_reducible apply viaReg_within ?_ rfl (.inl (sleeps_wq _))
    | intro x t h
    | intro t h

theorem execRetentionEntered_within {s} : ∀ u, execRetentionEntered s = .next u → Within [.flds, .links, .accs, .chans, .mem, .groups, .merid, .pll, .time, .ring, .power, .flash] s u :=
  fun _ h => Host.Outcome.next.inj h ▸ retentionEntered_within.mono rfl

theorem execRetainAbandon_within {s} : ∀ u, execRetainAbandon s = .next u → Within [.now, .hdrs, .vecs, .time, .power] s u :=
  fun _ h => Host.Outcome.next.inj h ▸ retainAbandon_within.mono rfl

theorem execRetentionWake_within {s} : ∀ u, execRetentionWake s = .next u → Within [.links, .pll, .sb, .power] s u :=
  fun _ h => Host.Outcome.next.inj h ▸ retentionWake_within.mono rfl

theorem execRetentionExitDone_within {s} : ∀ u, execRetentionExitDone s = .next u → Within [.now, .freeCtr, .hdrs, .flds, .links, .chans, .vecs, .merid, .time, .power] s u :=
  fun _ h => Host.Outcome.next.inj h ▸ retentionExit_within.mono rfl

theorem execPartnerNoAnswer_within {x0 s} : ∀ u, execPartnerNoAnswer x0 s = .next u → Within [.now, .freeCtr, .hdrs, .flds, .links, .accs, .commits, .regions, .jobs, .bells, .vecs, .groups, .time, .ring, .power] s u :=
  fun _ h => Host.Outcome.next.inj h ▸ partnerSilent_within.mono rfl

/-! ### SafeState -/

theorem setSafe_within {x0 s} : Within [.safe] s (setSafe x0 s) := by
  unfold setSafe
  repeat' first
    | with_reducible exact Within.refl _ _
    | with_reducible exact id
    | with_reducible exact Nat.le_refl _
    | (refine fun (p : Part) hp => ?_; cases p <;> first | (cases hp; done) | with_reducible rfl)
    | with_reducible apply Within.leaf

theorem groupScope_within {x0 x1 s} : Within [.hdrs, .flds, .accs, .commits, .regions, .jobs, .vecs, .groups, .safe] s (groupScope x0 x1 s) := by
  unfold groupScope
  repeat' first
    | with_reducible exact Within.refl _ _
    | with_reducible apply Within.step logEvent_within rfl
    | with_reducible apply Within.step discardGroup_within rfl
    | with_reducible apply Within.step modGroup_within rfl
    | with_reducible apply Within.step scopeReport_within rfl
    | with_reducible apply Within.ite <;> intro _
    | with_reducible exact id
    | with_reducible exact Nat.le_refl _
    | (refine fun (p : Part) hp => ?_; cases p <;> first | (cases hp; done) | with_reducible rfl)
    | with_reducible apply Within.leaf

theorem bayScope_within {x0 x1 s} : Within [.hdrs, .flds, .links, .accs, .commits, .chans, .regions, .queues, .jobs, .bells, .vecs, .groups, .pll, .ring, .safe] s (bayScope x0 x1 s) := by
  unfold bayScope
  repeat' first
    | with_reducible assumption
    | with_reducible exact Within.refl _ _
    | with_reducible apply Within.step logEvent_within rfl
    | with_reducible apply Within.step scopeReport_within rfl
    | with_reducible apply Within.step bayFault_within rfl
    | with_reducible apply Within.step failChannel_within rfl
    | with_reducible apply Within.step discardGroup_within rfl
    | with_reducible apply Within.step modGroup_within rfl
    | with_reducible apply forAll_within
    | with_reducible apply Within.ite <;> intro _
    | with_reducible exact id
    | with_reducible exact Nat.le_refl _
    | (refine fun (p : Part) hp => ?_; cases p <;> first | (cases hp; done) | with_reducible rfl)
    | intro x t h
    | intro t h
    | with_reducible apply Within.leaf

theorem pageParity_within {x0 s} : Within [.freeCtr, .hdrs, .flds, .links, .accs, .commits, .chans, .regions, .queues, .jobs, .bells, .vecs, .groups, .pll, .ring, .safe] s (pageParity x0 s) := by
  unfold pageParity
  repeat' first
    | with_reducible exact Within.refl _ _
    | with_reducible apply Within.step portFault_within rfl
    | with_reducible apply Within.step failChannel_within rfl
    | with_reducible apply Within.step groupScope_within rfl
    | with_reducible apply Within.step bayScope_within rfl
    | with_reducible apply Within.step deviceFault_within rfl
    | with_reducible exact id
    | with_reducible exact Nat.le_refl _
    | (refine fun (p : Part) hp => ?_; cases p <;> first | (cases hp; done) | with_reducible rfl)
    | split
    | (dsimp only; split)
    | with_reducible apply Within.leaf

theorem safeCommand_within {x0 s} : Within [.hdrs, .flds, .links, .accs, .commits, .regions, .queues, .jobs, .bells, .vecs, .ring, .safe] s (safeCommand x0 s) := by
  unfold safeCommand
  repeat' first
    | with_reducible exact Within.refl _ _
    | with_reducible apply Within.step safeFault_within rfl
    | with_reducible apply Within.step safeEvt_within rfl
    | with_reducible apply Within.ite <;> intro _

theorem discardOpen_within {s} : Within [.flds, .links, .accs, .commits, .regions] s (discardOpen s) := by
  unfold discardOpen
  repeat' first
    | with_reducible assumption
    | with_reducible exact Within.refl _ _
    | with_reducible apply Within.step discardAcc_within rfl
    | with_reducible apply Within.step complete_within rfl
    | with_reducible apply forAll_within
    | with_reducible exact id
    | with_reducible exact Nat.le_refl _
    | (refine fun (p : Part) hp => ?_; cases p <;> first | (cases hp; done) | with_reducible rfl)
    | intro x t h
    | intro t h
    | split
    | (dsimp only; split)
    | with_reducible apply Within.leaf

theorem safeEntryDone_within {s} : Within [.hdrs, .flds, .links, .accs, .commits, .chans, .mem, .regions, .bells, .vecs, .groups, .safe] s (safeEntryDone s) := by
  unfold safeEntryDone
  repeat' first
    | with_reducible assumption
    | with_reducible exact Within.refl _ _
    | with_reducible apply Within.step enterSelfRefresh_within rfl
    | with_reducible apply Within.step discardOpen_within rfl
    | with_reducible apply Within.step safeEvt_within rfl
    | with_reducible apply Within.step fbump_within rfl
    | with_reducible apply forAll_within
    | with_reducible apply Within.ite <;> intro _
    | with_reducible exact id
    | with_reducible exact Nat.le_refl _
    | (refine fun (p : Part) hp => ?_; cases p <;> first | (cases hp; done) | with_reducible rfl)
    | intro x t h
    | intro t h
    | with_reducible apply Within.leaf

theorem scanPass_within {x0 s} : Within [.hdrs, .flds, .links, .accs, .commits, .regions, .queues, .jobs, .bells, .vecs, .ring, .safe] s (scanPass x0 s) := by
  unfold scanPass
  repeat' first
    | with_reducible assumption
    | with_reducible exact Within.refl _ _
    | with_reducible apply Within.step fset_within rfl
    | with_reducible apply Within.step safeFault_within rfl
    | with_reducible apply forAll_within
    | with_reducible exact id
    | with_reducible exact Nat.le_refl _
    | (refine fun (p : Part) hp => ?_; cases p <;> first | (cases hp; done) | with_reducible rfl)
    | intro x t h
    | intro t h
    | with_reducible apply Within.leaf

theorem sensorFails_within {x0 s} : Within [.hdrs, .vecs, .safe] s (sensorFails x0 s) := by
  unfold sensorFails
  repeat' first
    | with_reducible exact Within.refl _ _
    | with_reducible apply Within.step logEvent_within rfl
    | with_reducible apply Within.step safeEvt_within rfl
    | with_reducible exact id
    | with_reducible exact Nat.le_refl _
    | (refine fun (p : Part) hp => ?_; cases p <;> first | (cases hp; done) | with_reducible rfl)
    | with_reducible apply Within.leaf

theorem tempSample_within {x0 s} : Within [.hdrs, .flds, .links, .accs, .commits, .regions, .queues, .jobs, .bells, .vecs, .ring, .safe] s (tempSample x0 s) := by
  unfold tempSample
  repeat' first
    | with_reducible assumption
    | with_reducible exact Within.refl _ _
    | with_reducible apply Within.step sensorFails_within rfl
    | with_reducible apply Within.step logEvent_within rfl
    | with_reducible apply Within.step safeEvt_within rfl
    | with_reducible apply Within.step deviceFault_within rfl
    | with_reducible apply forAll_within
    | with_reducible apply Within.ite <;> intro _
    | with_reducible exact id
    | with_reducible exact Nat.le_refl _
    | (refine fun (p : Part) hp => ?_; cases p <;> first | (cases hp; done) | with_reducible rfl)
    | intro x t h
    | intro t h
    | with_reducible apply Within.leaf

theorem ltFailed_within {x0 x1 s} : Within [.hdrs, .flds, .links, .accs, .commits, .chans, .regions, .queues, .jobs, .bells, .vecs, .groups, .pll, .ring, .safe] s (ltFailed x0 x1 s) := by
  unfold ltFailed
  repeat' first
    | with_reducible assumption
    | with_reducible exact Within.refl _ _
    | with_reducible apply Within.step logEvent_within rfl
    | with_reducible apply Within.step failChannel_within rfl
    | with_reducible apply Within.step rgnEvt_within rfl
    | with_reducible apply Within.step modRegion_within rfl
    | with_reducible apply Within.step groupEmpty_within rfl
    | with_reducible apply Within.step fencePair_within rfl
    | with_reducible apply Within.step deviceFault_within rfl
    | with_reducible apply Within.step safeEvt_within rfl
    | with_reducible apply forAll_within
    | with_reducible apply Within.ite <;> intro _
    | with_reducible exact id
    | with_reducible exact Nat.le_refl _
    | (refine fun (p : Part) hp => ?_; cases p <;> first | (cases hp; done) | with_reducible rfl)
    | intro x t h
    | intro t h
    | split
    | (dsimp only; split)
    | with_reducible apply Within.leaf

theorem ltRound_within {x0 s} : Within [.now, .hdrs, .flds, .links, .accs, .commits, .chans, .regions, .queues, .jobs, .bells, .vecs, .groups, .pll, .time, .ring, .safe] s (ltRound x0 s) := by
  unfold ltRound
  repeat' first
    | with_reducible assumption
    | with_reducible exact Within.refl _ _
    | with_reducible apply Within.step waitUntil_within rfl
    | with_reducible apply Within.step ltFailed_within rfl
    | with_reducible apply forAll_within
    | with_reducible apply Within.ite <;> intro _
    | with_reducible exact id
    | with_reducible exact Nat.le_refl _
    | (refine fun (p : Part) hp => ?_; cases p <;> first | (cases hp; done) | with_reducible rfl)
    | intro x t h
    | intro t h
    | with_reducible apply Within.leaf

theorem ltLate_within {s} : Within [.now, .hdrs, .vecs, .time, .safe] s (ltLate s) := by
  unfold ltLate
  repeat' first
    | with_reducible assumption
    | with_reducible exact Within.refl _ _
    | with_reducible apply Within.step waitUntil_within rfl
    | with_reducible apply Within.step logEvent_within rfl
    | with_reducible apply Within.step safeEvt_within rfl
    | with_reducible apply foldl_within
    | with_reducible exact id
    | with_reducible exact Nat.le_refl _
    | (refine fun (p : Part) hp => ?_; cases p <;> first | (cases hp; done) | with_reducible rfl)
    | intro x t h
    | intro t h
    | split
    | (dsimp only; split)
    | with_reducible apply Within.leaf

theorem diagLost_within {s} : Within [.now, .hdrs, .vecs, .time, .safe] s (diagLost s) := by
  unfold diagLost
  repeat' first
    | with_reducible exact Within.refl _ _
    | with_reducible apply Within.step logEvent_within rfl
    | with_reducible apply Within.step safeEvt_within rfl
    | with_reducible apply Within.step waitUntil_within rfl
    | with_reducible apply Within.ite <;> intro _

theorem startupTests_within {x0 x1 x2 s} : Within [.hdrs, .flds, .links, .accs, .commits, .chans, .regions, .queues, .jobs, .bells, .vecs, .groups, .pll, .ring, .boot, .safe] s (startupTests x0 x1 x2 s) := by
  unfold startupTests
  repeat' first
    | with_reducible assumption
    | with_reducible exact Within.refl _ _
    | with_reducible apply Within.step groupEmpty_within rfl
    | with_reducible apply Within.step fencePair_within rfl
    | with_reducible apply Within.step failChannel_within rfl
    | with_reducible apply Within.step safeFault_within rfl
    | with_reducible apply forAll_within
    | with_reducible apply Within.ite <;> intro _
    | with_reducible exact id
    | with_reducible exact Nat.le_refl _
    | (refine fun (p : Part) hp => ?_; cases p <;> first | (cases hp; done) | with_reducible rfl)
    | intro x t h
    | intro t h
    | split
    | (dsimp only; split)
    | with_reducible apply Within.leaf

theorem fnCheck_within {x0 s} : Within [.hdrs, .flds, .links, .accs, .commits, .regions, .queues, .jobs, .bells, .vecs, .ring, .safe] s (fnCheck x0 s) := by
  unfold fnCheck
  repeat' first
    | with_reducible exact Within.refl _ _
    | with_reducible apply Within.step logEvent_within rfl
    | with_reducible apply Within.step safeEvt_within rfl
    | with_reducible apply Within.step deviceFault_within rfl
    | with_reducible apply Within.ite <;> intro _
    | with_reducible exact id
    | with_reducible exact Nat.le_refl _
    | (refine fun (p : Part) hp => ?_; cases p <;> first | (cases hp; done) | with_reducible rfl)
    | with_reducible apply Within.leaf

theorem clearSafe_within {s} : Within [.flds] s (clearSafe s) :=
  fclear_within.mono rfl

theorem setLogJob_within {x0 s} : Within [.flash] s (setLogJob x0 s) := by
  unfold setLogJob
  repeat' first
    | with_reducible exact Within.refl _ _
    | with_reducible exact id
    | with_reducible exact Nat.le_refl _
    | (refine fun (p : Part) hp => ?_; cases p <;> first | (cases hp; done) | with_reducible rfl)
    | exact flash_wf_of rfl
    | with_reducible apply Within.leaf

theorem logFinish_within {x0 x1 s} : Within [.flds, .flash, .safe] s (logFinish x0 x1 s) := by
  unfold logFinish
  repeat' first
    | with_reducible exact Within.refl _ _
    | with_reducible apply Within.step fset_within rfl
    | with_reducible exact id
    | with_reducible exact Nat.le_refl _
    | (refine fun (p : Part) hp => ?_; cases p <;> first | (cases hp; done) | with_reducible rfl)
    | exact flash_wf_of rfl
    | with_reducible apply Within.leaf

theorem logBegin_within {x0 x1 s} : Within [.hdrs, .vecs, .boot, .flash] s (logBegin x0 x1 s) := by
  unfold logBegin
  repeat' first
    | with_reducible exact Within.refl _ _
    | with_reducible apply Within.step setLogJob_within rfl
    | with_reducible apply Within.step flshEvt_within rfl
    | with_reducible apply Within.step startLogical_within rfl
    | with_reducible apply Within.ite <;> intro _
    | with_reducible exact id
    | with_reducible exact Nat.le_refl _
    | (refine fun (p : Part) hp => ?_; cases p <;> first | (cases hp; done) | with_reducible rfl)
    | exact flash_wf_of rfl
    | split
    | (dsimp only; split)
    | with_reducible apply Within.leaf

theorem logStep_within {s} : Within [.hdrs, .flds, .vecs, .boot, .flash, .safe] s (logStep s) := by
  unfold logStep
  repeat' first
    | with_reducible exact Within.refl _ _
    | with_reducible apply Within.step logFinish_within rfl
    | with_reducible apply Within.step logBegin_within rfl
    | with_reducible apply Within.step setLogJob_within rfl
    | with_reducible apply Within.step startFlash_within rfl
    | with_reducible apply Within.ite <;> intro _
    | with_reducible exact id
    | with_reducible exact Nat.le_refl _
    | (refine fun (p : Part) hp => ?_; cases p <;> first | (cases hp; done) | with_reducible rfl)
    | exact flash_wf_of rfl
    | split
    | (dsimp only; split)
    | with_reducible apply Within.leaf

theorem logGo_within {s} : Within [.hdrs, .flds, .vecs, .boot, .flash, .safe] s (logGo s) := by
  unfold logGo
  repeat' first
    | with_reducible assumption
    | with_reducible exact Within.refl _ _
    | with_reducible apply Within.step logStep_within rfl
    | with_reducible apply forAll_within
    | intro x t h
    | intro t h

theorem faultLogWrite_within {s} : Within [.hdrs, .flds, .vecs, .boot, .flash, .safe] s (faultLogWrite s) := by
  unfold faultLogWrite
  repeat' first
    | with_reducible exact Within.refl _ _
    | with_reducible apply Within.step logGo_within rfl
    | with_reducible apply Within.step setLogJob_within rfl
    | with_reducible apply Within.ite <;> intro _
    | with_reducible exact id
    | with_reducible exact Nat.le_refl _
    | (refine fun (p : Part) hp => ?_; cases p <;> first | (cases hp; done) | with_reducible rfl)
    | exact flash_wf_of rfl
    | split
    | (dsimp only; split)
    | with_reducible apply Within.leaf

theorem execSafeEnter_within {x0 s} : ∀ u, execSafeEnter x0 s = .next u → Within [.freeCtr, .hdrs, .flds, .links, .accs, .commits, .chans, .regions, .queues, .jobs, .bells, .vecs, .groups, .pll, .ring, .power, .safe] s u := by
  unfold execSafeEnter
  refine fun _ h => Host.Outcome.next.inj h ▸ ?_
  repeat' first
    | with_reducible assumption
    | with_reducible exact Within.refl _ _
    | with_reducible apply Within.step safeCommand_within rfl
    | with_reducible apply Within.step pageParity_within rfl
    | with_reducible apply Within.step deviceFault_within rfl
    | with_reducible apply Within.step wakeFor_within rfl
    | with_reducible apply viaReg_within ?_ rfl (.inr rfl)
    | with_reducible exact id
    | with_reducible exact Nat.le_refl _
    | (refine fun (p : Part) hp => ?_; cases p <;> first | (cases hp; done) | with_reducible rfl)
    | intro x t h
    | intro t h
    | split
    | (dsimp only; split)
    | with_reducible apply Within.leaf

theorem execSafeEntryDone_within {s} : ∀ u, execSafeEntryDone s = .next u → Within [.hdrs, .flds, .links, .accs, .commits, .chans, .mem, .regions, .bells, .vecs, .groups, .safe] s u :=
  fun _ h => Host.Outcome.next.inj h ▸ safeEntryDone_within.mono rfl

theorem execScanPass_within {x0 s} : ∀ u, execScanPass x0 s = .next u → Within [.hdrs, .flds, .links, .accs, .commits, .regions, .queues, .jobs, .bells, .vecs, .ring, .safe] s u :=
  fun _ h => Host.Outcome.next.inj h ▸ scanPass_within.mono rfl

theorem execTempSample_within {x0 s} : ∀ u, execTempSample x0 s = .next u → Within [.hdrs, .flds, .links, .accs, .commits, .regions, .queues, .jobs, .bells, .vecs, .ring, .safe] s u :=
  fun _ h => Host.Outcome.next.inj h ▸ tempSample_within.mono rfl

theorem execLatentTestRound_within {x0 s} : ∀ u, execLatentTestRound x0 s = .next u → Within [.now, .hdrs, .flds, .links, .accs, .commits, .chans, .regions, .queues, .jobs, .bells, .vecs, .groups, .pll, .time, .ring, .safe] s u :=
  fun _ h => Host.Outcome.next.inj h ▸ ltRound_within.mono rfl

theorem execLtrun_within {x0 s} : ∀ u, execLtrun x0 s = .next u → Within [.hdrs, .flds, .vecs, .safe] s u := by
  unfold execLtrun
  refine fun _ h => Host.Outcome.next.inj h ▸ ?_
  repeat' first
    | with_reducible assumption
    | with_reducible exact Within.refl _ _
    | with_reducible apply viaReg_within ?_ rfl (.inl rfl)
    | with_reducible apply viaReg_within ?_ rfl (.inl (sleeps_wq _))
    | with_reducible exact id
    | with_reducible exact Nat.le_refl _
    | (refine fun (p : Part) hp => ?_; cases p <;> first | (cases hp; done) | with_reducible rfl)
    | intro x t h
    | intro t h
    | with_reducible apply Within.leaf

theorem execLtOverdue_within {s} : ∀ u, execLtOverdue s = .next u → Within [.now, .hdrs, .vecs, .time, .safe] s u :=
  fun _ h => Host.Outcome.next.inj h ▸ ltLate_within.mono rfl

theorem execDiagLost_within {s} : ∀ u, execDiagLost s = .next u → Within [.now, .hdrs, .vecs, .time, .safe] s u :=
  fun _ h => Host.Outcome.next.inj h ▸ diagLost_within.mono rfl

theorem execMonitorSelfCompare_within {s} : ∀ u, execMonitorSelfCompare s = .next u → Within [.hdrs, .flds, .links, .accs, .commits, .regions, .queues, .jobs, .bells, .vecs, .ring, .safe] s u :=
  fun _ h => Host.Outcome.next.inj h ▸ deviceFault_within.mono rfl

theorem execFnMismatch_within {x0 s} : ∀ u, execFnMismatch x0 s = .next u → Within [.hdrs, .flds, .links, .accs, .commits, .regions, .queues, .jobs, .bells, .vecs, .ring, .safe] s u := by
  unfold execFnMismatch
  refine fun _ h => Host.Outcome.next.inj h ▸ ?_
  repeat' first
    | with_reducible exact Within.refl _ _
    | with_reducible apply Within.step fnCheck_within rfl
    | split
    | (dsimp only; split)

theorem execSafeClrcnt_within {x0 s} : ∀ u, execSafeClrcnt x0 s = .next u → Within [.hdrs, .flds, .vecs] s u := by
  unfold execSafeClrcnt
  refine fun _ h => Host.Outcome.next.inj h ▸ ?_
  repeat' first
    | with_reducible assumption
    | with_reducible exact Within.refl _ _
    | with_reducible apply Within.step clearSafe_within rfl
    | with_reducible apply viaReg_within ?_ rfl (.inl rfl)
    | with_reducible apply viaReg_within ?_ rfl (.inl (sleeps_wq _))
    | intro x t h
    | intro t h

theorem execStartupTestsDone_within {x0 x1 x2 s} : ∀ u, execStartupTestsDone x0 x1 x2 s = .next u → Within [.hdrs, .flds, .links, .accs, .commits, .chans, .regions, .queues, .jobs, .bells, .vecs, .groups, .pll, .ring, .boot, .safe] s u :=
  fun _ h => Host.Outcome.next.inj h ▸ startupTests_within.mono rfl

theorem execFaultLogWrite_within {s} : ∀ u, execFaultLogWrite s = .next u → Within [.hdrs, .flds, .vecs, .boot, .flash, .safe] s u :=
  fun _ h => Host.Outcome.next.inj h ▸ faultLogWrite_within.mono rfl

/-! ### Flash -/

theorem mboxVia_within {x0 x1 s} : Within [.hdrs, .flds, .vecs, .boot, .flash] s (mboxVia x0 x1 s) := by
  unfold mboxVia
  repeat' first
    | with_reducible assumption
    | with_reducible exact Within.refl _ _
    | with_reducible apply Within.step mboxWrite_within rfl
    | with_reducible apply viaReg_within ?_ rfl (.inl rfl)
    | with_reducible apply viaReg_within ?_ rfl (.inl (sleeps_wq _))
    | intro x t h
    | intro t h

theorem rotate_within {x0 s} : Within [.boot, .flash] s (rotate x0 s) := by
  unfold rotate
  repeat' first
    | with_reducible exact Within.refl _ _
    | with_reducible apply Within.step moveTail_within rfl
    | with_reducible apply Within.step startFlash_within rfl
    | with_reducible apply Within.ite <;> intro _
    | with_reducible exact id
    | with_reducible exact Nat.le_refl _
    | (refine fun (p : Part) hp => ?_; cases p <;> first | (cases hp; done) | with_reducible rfl)
    | exact flash_wf_of rfl
    | split
    | (dsimp only; split)
    | with_reducible apply Within.leaf

theorem refreshRead_within {x0 x1 s} : Within [.hdrs, .flds, .vecs, .flash] s (refreshRead x0 x1 s) := by
  unfold refreshRead
  repeat' first
    | with_reducible assumption
    | with_reducible exact Within.refl _ _
    | with_reducible apply Within.step ownRead_within rfl
    | with_reducible apply forAll_within
    | with_reducible apply Within.ite <;> intro _
    | with_reducible exact id
    | with_reducible exact Nat.le_refl _
    | (refine fun (p : Part) hp => ?_; cases p <;> first | (cases hp; done) | with_reducible rfl)
    | intro x t h
    | intro t h
    | exact flash_wf_of rfl
    | with_reducible apply Within.leaf

theorem execMboxRead_within {x0 s} : ∀ u, execMboxRead x0 s = .next u → Within [.hdrs, .flds, .vecs, .boot, .flash] s u :=
  fun _ h => Host.Outcome.next.inj h ▸ mboxVia_within.mono rfl

theorem execMboxProgram_within {x0 s} : ∀ u, execMboxProgram x0 s = .next u → Within [.hdrs, .flds, .vecs, .boot, .flash] s u :=
  fun _ h => Host.Outcome.next.inj h ▸ mboxVia_within.mono rfl

theorem execMboxErase_within {x0 s} : ∀ u, execMboxErase x0 s = .next u → Within [.hdrs, .flds, .vecs, .boot, .flash] s u :=
  fun _ h => Host.Outcome.next.inj h ▸ mboxVia_within.mono rfl

theorem execMboxSuspend_within {x0 s} : ∀ u, execMboxSuspend x0 s = .next u → Within [.hdrs, .flds, .vecs, .boot, .flash] s u :=
  fun _ h => Host.Outcome.next.inj h ▸ mboxVia_within.mono rfl

theorem execMboxResume_within {x0 s} : ∀ u, execMboxResume x0 s = .next u → Within [.hdrs, .flds, .vecs, .boot, .flash] s u :=
  fun _ h => Host.Outcome.next.inj h ▸ mboxVia_within.mono rfl

theorem execMboxDone_within {x0 s} : ∀ u, execMboxDone x0 s = .next u → Within [.hdrs, .flds, .vecs, .boot, .flash] s u :=
  fun _ h => Host.Outcome.next.inj h ▸ mboxEnd_within.mono rfl

theorem execFlashOperationDone_within {x0 x1 s} : ∀ u, execFlashOperationDone x0 x1 s = .next u → Within [.freeCtr, .hdrs, .flds, .chans, .vecs, .boot, .flash, .safe] s u := by
  unfold execFlashOperationDone
  refine fun _ h => Host.Outcome.next.inj h ▸ ?_
  repeat' first
    | with_reducible exact Within.refl _ _
    | with_reducible apply Within.step logGo_within rfl
    | with_reducible apply Within.step almGo_within rfl
    | with_reducible apply Within.step flashDone_within rfl

theorem execRwdataRead_within {x0 x1 s} : ∀ u, execRwdataRead x0 x1 s = .next u → Within [.busResult, .hdrs, .flds, .vecs, .sb, .flash] s u := by
  intro u h
  have hv : Within [.busResult, .hdrs, .flds, .vecs, .sb, .flash] s (viaRead x0 Pg.flsh (windowRead x1) s) := by
    apply viaRead_within ?_ rfl (.inl rfl) (Within.refl _ _)
    intro t ht
    exact Within.step windowRead_within rfl ht
  unfold execRwdataRead at h
  split at h
  · split at h
    · cases h
      exact Within.ite (fun _ => Within.refl _ _) fun _ => Within.ite (fun _ => Within.step countRefused_within rfl (Within.refl _ _))
        fun _ => Within.step countRefused_within rfl (Within.refl _ _)
    · cases h
      refine Within.step sbEvt_within rfl (Within.step fbump_within rfl ?_)
      refine Within.leaf (Within.refl _ _) ?_ (Nat.le_refl _) (Nat.le_refl _) id id
      intro p hp
      cases p <;> first | (cases hp; done) | with_reducible rfl
    · cases h
  · cases h
    exact hv

theorem execRotationStep_within {x0 s} : ∀ u, execRotationStep x0 s = .next u → Within [.boot, .flash] s u :=
  fun _ h => Host.Outcome.next.inj h ▸ rotate_within.mono rfl

theorem execOpenSectorErase_within {x0 s} : ∀ u, execOpenSectorErase x0 s = .next u → Within [.boot, .flash] s u := by
  unfold execOpenSectorErase
  refine fun _ h => Host.Outcome.next.inj h ▸ ?_
  repeat' first
    | with_reducible exact Within.refl _ _
    | with_reducible apply Within.step startFlash_within rfl
    | with_reducible apply Within.ite <;> intro _

theorem execFlashRefreshRead_within {x0 x1 s} : ∀ u, execFlashRefreshRead x0 x1 s = .next u → Within [.hdrs, .flds, .vecs, .flash] s u :=
  fun _ h => Host.Outcome.next.inj h ▸ refreshRead_within.mono rfl

theorem execFlashClrcnt_within {x0 s} : ∀ u, execFlashClrcnt x0 s = .next u → Within [.hdrs, .flds, .vecs] s u := by
  unfold execFlashClrcnt
  refine fun _ h => Host.Outcome.next.inj h ▸ ?_
  repeat' first
    | with_reducible assumption
    | with_reducible exact Within.refl _ _
    | with_reducible apply Within.step fclear_within rfl
    | with_reducible apply viaReg_within ?_ rfl (.inl rfl)
    | with_reducible apply viaReg_within ?_ rfl (.inl (sleeps_wq _))
    | intro x t h
    | intro t h

/-! ### Pulse -/

theorem reportNumber_within {x0 s} : Within [.hdrs, .vecs, .time] s (reportNumber x0 s) := by
  unfold reportNumber
  repeat' first
    | with_reducible exact Within.refl _ _
    | with_reducible apply Within.step setTime_within rfl
    | with_reducible apply Within.step timeEvt_within rfl
    | with_reducible apply Within.ite <;> intro _
    | with_reducible exact id
    | with_reducible exact Nat.le_refl _
    | (refine fun (p : Part) hp => ?_; cases p <;> first | (cases hp; done) | with_reducible rfl)
    | with_reducible apply Within.leaf

theorem takePeriod_within {x0 x1 s} : Within [.time] s (takePeriod x0 x1 s) := by
  unfold takePeriod
  repeat' first
    | with_reducible exact Within.refl _ _
    | with_reducible apply Within.step setTime_within rfl
    | with_reducible exact id
    | with_reducible exact Nat.le_refl _
    | (refine fun (p : Part) hp => ?_; cases p <;> first | (cases hp; done) | with_reducible rfl)
    | split
    | (dsimp only; split)
    | with_reducible apply Within.leaf

theorem takeEpch_within {x0 s} : Within [.hdrs, .vecs, .merid] s (takeEpch x0 s) := by
  unfold takeEpch
  repeat' first
    | with_reducible assumption
    | with_reducible exact Within.refl _ _
    | with_reducible apply Within.step epchEvt_within rfl
    | with_reducible apply onlyIf_within
    | with_reducible exact id
    | with_reducible exact Nat.le_refl _
    | (refine fun (p : Part) hp => ?_; cases p <;> first | (cases hp; done) | with_reducible rfl)
    | intro x t h
    | intro t h
    | with_reducible apply Within.leaf

theorem windowWork_within {s} : Within [.hdrs, .flds, .vecs, .pll, .time] s (windowWork s) := by
  unfold windowWork
  repeat' first
    | with_reducible exact Within.refl _ _
    | with_reducible apply Within.step tryTimeStep_within rfl
    | with_reducible apply Within.step tryStep_within rfl

theorem pulseEffects_within {x0 x1 s} : Within [.hdrs, .flds, .links, .accs, .nextId, .commits, .chans, .recs, .regions, .queues, .jobs, .bells, .vecs, .groups, .merid, .pll, .time, .ring] s (pulseEffects x0 x1 s) := by
  unfold pulseEffects
  repeat' first
    | with_reducible assumption
    | with_reducible exact Within.refl _ _
    | with_reducible apply Within.step reportNumber_within rfl
    | with_reducible apply Within.step hoAtPulse_within rfl
    | with_reducible apply Within.step flipAll_within rfl
    | with_reducible apply Within.step takeEpch_within rfl
    | with_reducible apply Within.step takePeriod_within rfl
    | with_reducible apply Within.step epchEvt_within rfl
    | with_reducible apply Within.step trigger_within rfl
    | with_reducible apply Within.step windowWork_within rfl
    | with_reducible apply Within.step slewEpoch_within rfl
    | with_reducible apply Within.step presentDue_within rfl
    | with_reducible apply forAll_within
    | with_reducible exact id
    | with_reducible exact Nat.le_refl _
    | (refine fun (p : Part) hp => ?_; cases p <;> first | (cases hp; done) | with_reducible rfl)
    | intro x t h
    | intro t h
    | with_reducible apply Within.leaf

theorem meridianPulse_within {s} : Within [.now, .hdrs, .flds, .links, .accs, .nextId, .commits, .chans, .recs, .regions, .queues, .jobs, .bells, .vecs, .groups, .merid, .pll, .time, .ring] s (meridianPulse s) := by
  unfold meridianPulse
  repeat' first
    | with_reducible exact Within.refl _ _
    | with_reducible apply Within.step reach_within rfl
    | with_reducible apply Within.step elapse_within rfl
    | with_reducible apply Within.step pulseEffects_within rfl
    | with_reducible exact id
    | with_reducible exact Nat.le_refl _
    | (refine fun (p : Part) hp => ?_; cases p <;> first | (cases hp; done) | with_reducible rfl)
    | split
    | (dsimp only; split)
    | with_reducible apply Within.leaf

theorem openWindow_within {s} : Within [.now, .hdrs, .flds, .vecs, .merid, .pll, .time] s (openWindow s) := by
  unfold openWindow
  repeat' first
    | with_reducible exact Within.refl _ _
    | with_reducible apply Within.step reach_within rfl
    | with_reducible apply Within.step windowWork_within rfl
    | with_reducible apply Within.ite <;> intro _
    | with_reducible exact id
    | with_reducible exact Nat.le_refl _
    | (refine fun (p : Part) hp => ?_; cases p <;> first | (cases hp; done) | with_reducible rfl)
    | split
    | (dsimp only; split)
    | with_reducible apply Within.leaf

theorem clearEpch_within {s} : Within [.flds] s (clearEpch s) :=
  fclear_within.mono rfl

theorem execMeridianPulse_within {s} : ∀ u, execMeridianPulse s = .next u → Within [.now, .hdrs, .flds, .links, .accs, .nextId, .commits, .chans, .recs, .regions, .queues, .jobs, .bells, .vecs, .groups, .merid, .pll, .time, .ring] s u :=
  fun _ h => Host.Outcome.next.inj h ▸ meridianPulse_within.mono rfl

theorem execBlankingWindowOpen_within {s} : ∀ u, execBlankingWindowOpen s = .next u → Within [.now, .hdrs, .flds, .vecs, .merid, .pll, .time] s u :=
  fun _ h => Host.Outcome.next.inj h ▸ openWindow_within.mono rfl

theorem execEpchClrcnt_within {x0 s} : ∀ u, execEpchClrcnt x0 s = .next u → Within [.hdrs, .flds, .vecs] s u := by
  unfold execEpchClrcnt
  refine fun _ h => Host.Outcome.next.inj h ▸ ?_
  repeat' first
    | with_reducible assumption
    | with_reducible exact Within.refl _ _
    | with_reducible apply Within.step clearEpch_within rfl
    | with_reducible apply viaReg_within ?_ rfl (.inl rfl)
    | with_reducible apply viaReg_within ?_ rfl (.inl (sleeps_wq _))
    | intro x t h
    | intro t h

end Sys2Proof.Machine
end

