-- ==== Sys2Proof/Laws/WithinSystem.lean ====
section
/-!
SUPPORT. What each operation may change: resets, registers and messages. One lemma per operation, named after it.
-/

namespace Sys2Proof.Machine

set_option linter.all false

/-! ### Reset -/

theorem setBoot_within {x0 s} : Within [.boot] s (setBoot x0 s) := by
  unfold setBoot
  repeat' first
    | with_reducible exact Within.refl _ _
    | with_reducible exact id
    | with_reducible exact Nat.le_refl _
    | (refine fun (p : Part) hp => ?_; cases p <;> first | (cases hp; done) | with_reducible rfl)
    | with_reducible apply Within.leaf

theorem bootEvt_within {x0 x1 x2 x3 s} : Within [.hdrs, .vecs] s (bootEvt x0 x1 x2 x3 s) :=
  raise_within.mono rfl

theorem bootCfgErr_within {s} : Within [.hdrs, .vecs] s (bootCfgErr s) :=
  bootEvt_within.mono rfl

theorem coreOnly_within {P r x0 x1 f s} (hf : ∀ t, Within P r t → Within P r (f t)) (hm : [.hdrs, .flds, .vecs].all P.contains = true)
    (k : Within P r s) : Within P r (coreOnly x0 x1 f s) := by
  unfold coreOnly
  repeat' first
    | with_reducible assumption
    | with_reducible exact Within.refl _ _
    | with_reducible apply hf
    | with_reducible apply Within.step bootCfgErr_within (all_contains_trans (R := [.hdrs, .flds, .vecs]) rfl hm)
    | with_reducible apply Within.step sbRefused_within (all_contains_trans (R := [.hdrs, .flds, .vecs]) rfl hm)
    | with_reducible apply viaReg_within ?_ (all_contains_trans (R := [.hdrs, .flds, .vecs]) rfl hm) (.inl rfl)
    | with_reducible apply viaReg_within ?_ (all_contains_trans (R := [.hdrs, .flds, .vecs]) rfl hm) (.inl (sleeps_wq _))
    | with_reducible exact id
    | with_reducible exact Nat.le_refl _
    | (refine fun (p : Part) hp => ?_; cases p <;> first | (cases hp; done) | with_reducible rfl)
    | intro x t h
    | intro t h
    | split
    | (dsimp only; split)
    | with_reducible apply Within.leaf

theorem coldReset_within {x0 s} : Within [.freeCtr, .busResult, .hdrs, .flds, .links, .accs, .nextId, .commits, .chans, .mem, .recs, .regions, .slots, .built, .queues, .jobs, .bells, .vecs, .groups, .merid, .pll, .time, .ring, .sb, .boot, .power, .flash, .safe, .tap] s (coldReset x0 s) := by
  unfold coldReset
  refine Within.step fset_within rfl ?_
  refine Within.leaf (t := flashAbort (hoReset s)) (Within.step flashAbort_within rfl (hoReset_within.mono rfl)) ?_ (Nat.le_refl _)
    (Nat.le_refl _) (fun _ => rfl) (flash_wf_of rfl)
  intro p hp
  cases p <;> first | (cases hp; done) | with_reducible rfl

theorem coldRelease_within {x0 s} : Within [.flds, .pll, .boot] s (coldRelease x0 s) := by
  unfold coldRelease
  repeat' first
    | with_reducible assumption
    | with_reducible exact Within.refl _ _
    | with_reducible apply Within.step setBoot_within rfl
    | with_reducible apply Within.step fset_within rfl
    | with_reducible apply onlyIf_within
    | with_reducible apply Within.ite <;> intro _
    | with_reducible exact id
    | with_reducible exact Nat.le_refl _
    | (refine fun (p : Part) hp => ?_; cases p <;> first | (cases hp; done) | with_reducible rfl)
    | intro x t h
    | intro t h
    | with_reducible apply Within.leaf

theorem warmReset_within {s} : Within [.freeCtr, .busResult, .hdrs, .flds, .links, .accs, .commits, .chans, .mem, .regions, .queues, .jobs, .bells, .vecs, .groups, .ring, .sb, .boot, .power, .flash, .safe] s (warmReset s) := by
  unfold warmReset
  repeat' first
    | with_reducible assumption
    | with_reducible exact Within.refl _ _
    | with_reducible apply Within.step flashAbort_within rfl
    | with_reducible apply Within.step hoReset_within rfl
    | with_reducible apply Within.step enterSelfRefresh_within rfl
    | with_reducible apply Within.step fbump_within rfl
    | with_reducible apply Within.step fset_within rfl
    | with_reducible apply forAll_within
    | with_reducible apply Within.ite <;> intro _
    | with_reducible exact id
    | with_reducible exact Nat.le_refl _
    | with_reducible exact Nat.le_add_right _ _
    | (refine fun (p : Part) hp => ?_; cases p <;> first | (cases hp; done) | with_reducible rfl)
    | intro x t h
    | intro t h
    | exact flash_wf_of rfl
    | with_reducible apply Within.leaf

theorem coreReset_within {x0 s} : Within [.freeCtr, .hdrs, .flds, .chans, .vecs, .boot, .flash, .safe] s (coreReset x0 s) := by
  unfold coreReset
  repeat' first
    | with_reducible assumption
    | with_reducible exact Within.refl _ _
    | with_reducible apply Within.step flashAbort_within rfl
    | with_reducible apply Within.step freset_within rfl
    | with_reducible apply Within.step setHdr_within rfl
    | with_reducible apply Within.step fbump_within rfl
    | with_reducible apply Within.step fset_within rfl
    | with_reducible apply Within.step bootEvt_within rfl
    | with_reducible apply Within.step startRom_within rfl
    | with_reducible apply onlyIf_within
    | with_reducible apply Within.ite <;> intro _
    | with_reducible exact id
    | with_reducible exact Nat.le_refl _
    | (refine fun (p : Part) hp => ?_; cases p <;> first | (cases hp; done) | with_reducible rfl)
    | intro x t h
    | intro t h
    | exact flash_wf_of rfl
    | split
    | (dsimp only; split)
    | with_reducible apply Within.leaf

theorem expire_within {s} : Within [.freeCtr, .hdrs, .flds, .chans, .vecs, .boot, .flash, .safe] s (expire s) := by
  unfold expire
  repeat' first
    | with_reducible exact Within.refl _ _
    | with_reducible apply Within.step coreReset_within rfl
    | with_reducible apply Within.step fbump_within rfl
    | with_reducible apply Within.step setBoot_within rfl
    | with_reducible apply Within.step logEvent_within rfl
    | with_reducible apply Within.step bootEvt_within rfl
    | with_reducible exact id
    | with_reducible exact Nat.le_refl _
    | (refine fun (p : Part) hp => ?_; cases p <;> first | (cases hp; done) | with_reducible rfl)
    | exact flash_wf_of rfl
    | with_reducible apply Within.leaf

theorem kick_within {x0 s} : Within [.freeCtr, .hdrs, .flds, .chans, .vecs, .boot, .flash, .safe] s (kick x0 s) := by
  unfold kick
  repeat' first
    | with_reducible exact Within.refl _ _
    | with_reducible apply Within.step setBoot_within rfl
    | with_reducible apply Within.step expire_within rfl
    | with_reducible apply Within.ite <;> intro _
    | with_reducible exact id
    | with_reducible exact Nat.le_refl _
    | (refine fun (p : Part) hp => ?_; cases p <;> first | (cases hp; done) | with_reducible rfl)
    | exact flash_wf_of rfl
    | with_reducible apply Within.leaf

theorem flashCheck_within {x0 s} : Within [.now, .hdrs, .flds, .vecs, .time, .boot, .flash] s (flashCheck x0 s) := by
  unfold flashCheck
  repeat' first
    | with_reducible assumption
    | with_reducible exact Within.refl _ _
    | with_reducible apply Within.step waitUntil_within rfl
    | with_reducible apply Within.step ownRead_within rfl
    | with_reducible apply Within.step buildWindow_within rfl
    | with_reducible apply Within.step fset_within rfl
    | with_reducible apply Within.step setBoot_within rfl
    | with_reducible apply forAll_within
    | with_reducible apply Within.ite <;> intro _
    | with_reducible exact id
    | with_reducible exact Nat.le_refl _
    | (refine fun (p : Part) hp => ?_; cases p <;> first | (cases hp; done) | with_reducible rfl)
    | intro x t h
    | intro t h
    | exact flash_wf_of rfl
    | with_reducible apply Within.leaf

theorem noteSlot_within {x0 x1 s} : Within [.hdrs, .flds, .vecs] s (noteSlot x0 x1 s) := by
  unfold noteSlot
  repeat' first
    | with_reducible assumption
    | with_reducible exact Within.refl _ _
    | with_reducible apply Within.step fset_within rfl
    | with_reducible apply Within.step bootEvt_within rfl
    | with_reducible apply onlyIf_within
    | with_reducible apply Within.ite <;> intro _
    | intro x t h
    | intro t h

theorem bootSlot_within {x0 s} : Within [.hdrs, .vecs, .boot] s (bootSlot x0 s) := by
  unfold bootSlot
  repeat' first
    | with_reducible exact Within.refl _ _
    | with_reducible apply Within.step setBoot_within rfl
    | with_reducible apply Within.step bootEvt_within rfl
    | with_reducible apply Within.ite <;> intro _
    | with_reducible exact id
    | with_reducible exact Nat.le_refl _
    | (refine fun (p : Part) hp => ?_; cases p <;> first | (cases hp; done) | with_reducible rfl)
    | split
    | (dsimp only; split)
    | with_reducible apply Within.leaf

theorem noImage_within {x0 s} : Within [.hdrs, .flds, .vecs, .boot] s (noImage x0 s) := by
  unfold noImage
  repeat' first
    | with_reducible exact Within.refl _ _
    | with_reducible apply Within.step setBoot_within rfl
    | with_reducible apply Within.step bootEvt_within rfl
    | with_reducible apply Within.step freset_within rfl
    | with_reducible apply Within.ite <;> intro _
    | with_reducible exact id
    | with_reducible exact Nat.le_refl _
    | (refine fun (p : Part) hp => ?_; cases p <;> first | (cases hp; done) | with_reducible rfl)
    | with_reducible apply Within.leaf

theorem noSlot_within {s} : Within [.hdrs, .flds, .vecs, .boot] s (noSlot s) := by
  unfold noSlot
  repeat' first
    | with_reducible exact Within.refl _ _
    | with_reducible apply Within.step bootEvt_within rfl
    | with_reducible apply Within.step setBoot_within rfl
    | with_reducible apply Within.step noImage_within rfl
    | with_reducible apply Within.ite <;> intro _
    | with_reducible exact id
    | with_reducible exact Nat.le_refl _
    | (refine fun (p : Part) hp => ?_; cases p <;> first | (cases hp; done) | with_reducible rfl)
    | with_reducible apply Within.leaf

theorem readImage_within {x0 x1 s} : Within [.hdrs, .flds, .vecs, .flash] s (readImage x0 x1 s) := by
  unfold readImage
  repeat' first
    | with_reducible assumption
    | with_reducible exact Within.refl _ _
    | with_reducible apply Within.step ownRead_within rfl
    | with_reducible apply onlyIf_within
    | with_reducible apply forAll_within
    | intro x t h
    | intro t h

theorem trySlots_within {x0 x1 s} : Within [.hdrs, .flds, .vecs, .boot, .flash] s (trySlots x0 x1 s) := by
  induction x1 generalizing s with
  | nil => exact noSlot_within.mono rfl
  | cons x xs ih =>
    have hn (c : Nat) : Within [.hdrs, .flds, .vecs, .boot, .flash] s (noteSlot x c (readImage x x0 s)) := Within.step noteSlot_within rfl (readImage_within.mono rfl)
    unfold trySlots
    exact Within.ite (fun _ => Within.step bootSlot_within rfl (hn _)) fun _ => Within.step ih rfl (hn _)

theorem selectImage_within {x0 s} : Within [.hdrs, .flds, .vecs, .boot, .flash] s (selectImage x0 s) := by
  unfold selectImage
  repeat' first
    | with_reducible exact Within.refl _ _
    | with_reducible apply Within.step noImage_within rfl
    | with_reducible apply Within.step trySlots_within rfl
    | with_reducible apply Within.ite <;> intro _

theorem sealNow_within {s} : Within [.hdrs, .vecs, .boot] s (sealNow s) := by
  unfold sealNow
  repeat' first
    | with_reducible exact Within.refl _ _
    | with_reducible apply Within.step bootEvt_within rfl
    | with_reducible apply Within.step setBoot_within rfl
    | with_reducible apply Within.ite <;> intro _
    | with_reducible exact id
    | with_reducible exact Nat.le_refl _
    | (refine fun (p : Part) hp => ?_; cases p <;> first | (cases hp; done) | with_reducible rfl)
    | with_reducible apply Within.leaf

theorem runNow_within {s} : Within [.boot] s (runNow s) := by
  unfold runNow
  repeat' first
    | with_reducible exact Within.refl _ _
    | with_reducible apply Within.step setBoot_within rfl
    | with_reducible exact id
    | with_reducible exact Nat.le_refl _
    | (refine fun (p : Part) hp => ?_; cases p <;> first | (cases hp; done) | with_reducible rfl)
    | with_reducible apply Within.leaf

theorem enterReady_within {s} : Within [.hdrs, .flds, .links, .accs, .commits, .regions, .queues, .jobs, .bells, .vecs, .ring, .boot, .safe] s (enterReady s) := by
  unfold enterReady
  repeat' first
    | with_reducible exact Within.refl _ _
    | with_reducible apply Within.step safeFault_within rfl
    | with_reducible apply Within.step fset_within rfl
    | with_reducible apply Within.step setBoot_within rfl
    | with_reducible apply Within.step bootEvt_within rfl
    | with_reducible apply Within.ite <;> intro _
    | with_reducible exact id
    | with_reducible exact Nat.le_refl _
    | (refine fun (p : Part) hp => ?_; cases p <;> first | (cases hp; done) | with_reducible rfl)
    | with_reducible apply Within.leaf

theorem countPart_within {s} : Within [.flds] s (countPart s) :=
  fbump_within.mono rfl

theorem resetPort_within {x0 s} : Within [.hdrs, .flds, .links, .accs, .commits, .regions, .jobs, .bells, .vecs, .groups, .ring] s (resetPort x0 s) := by
  unfold resetPort
  repeat' first
    | with_reducible assumption
    | with_reducible exact Within.refl _ _
    | with_reducible apply Within.step modRlink_within rfl
    | with_reducible apply Within.step setLink_within rfl
    | with_reducible apply Within.step portOff_within rfl
    | with_reducible apply Within.step countPart_within rfl
    | with_reducible apply Within.step setHdr_within rfl
    | with_reducible apply Within.step freset_within rfl
    | with_reducible apply Within.step beginTraining_within rfl
    | with_reducible apply Within.step bootEvt_within rfl
    | with_reducible apply forAll_within
    | with_reducible apply onlyIf_within
    | with_reducible apply Within.ite <;> intro _
    | intro x t h
    | intro t h

theorem poisonRecs_within {x0 x1 s} : Within [.recs] s (poisonRecs x0 x1 s) := by
  unfold poisonRecs
  repeat' first
    | with_reducible assumption
    | with_reducible exact Within.refl _ _
    | with_reducible apply Within.step setRec_within rfl
    | with_reducible apply forAll_within
    | with_reducible exact id
    | with_reducible exact Nat.le_refl _
    | (refine fun (p : Part) hp => ?_; cases p <;> first | (cases hp; done) | with_reducible rfl)
    | intro x t h
    | intro t h
    | with_reducible apply Within.leaf

theorem poisonCached_within {x0 x1 s} : Within [.mem, .recs] s (poisonCached x0 x1 s) := by
  unfold poisonCached
  repeat' first
    | with_reducible assumption
    | with_reducible exact Within.refl _ _
    | with_reducible apply Within.step putPoison_within rfl
    | with_reducible apply Within.step poisonRecs_within rfl
    | with_reducible apply forAll_within
    | with_reducible apply Within.ite <;> intro _
    | intro x t h
    | intro t h

theorem keepWrites_within {x0 x1 s} : Within [.chans, .mem, .recs] s (keepWrites x0 x1 s) := by
  unfold keepWrites
  repeat' first
    | with_reducible assumption
    | with_reducible exact Within.refl _ _
    | with_reducible apply Within.step poisonCached_within rfl
    | with_reducible apply Within.step modChan_within rfl
    | with_reducible apply forAll_within
    | with_reducible apply Within.ite <;> intro _
    | with_reducible exact id
    | with_reducible exact Nat.le_refl _
    | (refine fun (p : Part) hp => ?_; cases p <;> first | (cases hp; done) | with_reducible rfl)
    | intro x t h
    | intro t h
    | with_reducible apply Within.leaf

theorem beginChanReset_within {x0 x1 s} : Within [.hdrs, .flds, .links, .accs, .commits, .chans, .mem, .recs, .regions, .queues, .jobs, .bells, .vecs, .groups, .ring] s (beginChanReset x0 x1 s) := by
  unfold beginChanReset
  repeat' first
    | with_reducible assumption
    | with_reducible exact Within.refl _ _
    | with_reducible apply Within.step kpSingle_within rfl
    | with_reducible apply Within.step discardReads_within rfl
    | with_reducible apply Within.step setChan_within rfl
    | with_reducible apply Within.step hoAbort_within rfl
    | with_reducible apply Within.step keepWrites_within rfl
    | with_reducible apply onlyIf_within
    | with_reducible apply Within.ite <;> intro _
    | with_reducible exact id
    | with_reducible exact Nat.le_refl _
    | (refine fun (p : Part) hp => ?_; cases p <;> first | (cases hp; done) | with_reducible rfl)
    | intro x t h
    | intro t h
    | with_reducible apply Within.leaf

theorem resetChan_within {x0 x1 s} : Within [.hdrs, .flds, .links, .accs, .commits, .chans, .mem, .recs, .regions, .queues, .jobs, .bells, .vecs, .groups, .ring, .boot] s (resetChan x0 x1 s) := by
  unfold resetChan
  repeat' first
    | with_reducible exact Within.refl _ _
    | with_reducible apply Within.step bootCfgErr_within rfl
    | with_reducible apply Within.step countPart_within rfl
    | with_reducible apply Within.step setBoot_within rfl
    | with_reducible apply Within.step beginChanReset_within rfl
    | with_reducible apply Within.ite <;> intro _
    | with_reducible exact id
    | with_reducible exact Nat.le_refl _
    | (refine fun (p : Part) hp => ?_; cases p <;> first | (cases hp; done) | with_reducible rfl)
    | with_reducible apply Within.leaf

theorem poisonWalk_within {x0 s} : Within [.mem, .recs] s (poisonWalk x0 s) := by
  unfold poisonWalk
  repeat' first
    | with_reducible assumption
    | with_reducible exact Within.refl _ _
    | with_reducible apply Within.step putPoison_within rfl
    | with_reducible apply forAll_within
    | with_reducible apply Within.ite <;> intro _
    | with_reducible exact id
    | with_reducible exact Nat.le_refl _
    | (refine fun (p : Part) hp => ?_; cases p <;> first | (cases hp; done) | with_reducible rfl)
    | intro x t h
    | intro t h
    | with_reducible apply Within.leaf

theorem checkBay_within {x0 s} : Within [.hdrs, .vecs, .boot] s (checkBay x0 s) := by
  unfold checkBay
  repeat' first
    | with_reducible exact Within.refl _ _
    | with_reducible apply Within.step bootEvt_within rfl
    | with_reducible apply Within.step bayEvt_within rfl
    | with_reducible apply Within.step setBoot_within rfl
    | with_reducible apply Within.ite <;> intro _
    | with_reducible exact id
    | with_reducible exact Nat.le_refl _
    | (refine fun (p : Part) hp => ?_; cases p <;> first | (cases hp; done) | with_reducible rfl)
    | with_reducible apply Within.leaf

theorem endChanReset_within {x0 x1 s} : Within [.hdrs, .accs, .chans, .mem, .recs, .regions, .vecs, .boot] s (endChanReset x0 x1 s) := by
  unfold endChanReset
  repeat' first
    | with_reducible assumption
    | with_reducible exact Within.refl _ _
    | with_reducible apply Within.step drainChan_within rfl
    | with_reducible apply Within.step poisonWalk_within rfl
    | with_reducible apply Within.step kpReturn_within rfl
    | with_reducible apply Within.step modChan_within rfl
    | with_reducible apply Within.step checkBay_within rfl
    | with_reducible apply Within.step bootEvt_within rfl
    | with_reducible apply onlyIf_within
    | with_reducible apply Within.ite <;> intro _
    | with_reducible exact id
    | with_reducible exact Nat.le_refl _
    | (refine fun (p : Part) hp => ?_; cases p <;> first | (cases hp; done) | with_reducible rfl)
    | intro x t h
    | intro t h
    | with_reducible apply Within.leaf

theorem dropImage_within {x0 s} : Within [.accs, .regions] s (dropImage x0 s) := by
  unfold dropImage
  repeat' first
    | with_reducible assumption
    | with_reducible exact Within.refl _ _
    | with_reducible apply Within.step pinCopy_within rfl
    | with_reducible apply forAll_within
    | with_reducible apply onlyIf_within
    | with_reducible exact id
    | with_reducible exact Nat.le_refl _
    | (refine fun (p : Part) hp => ?_; cases p <;> first | (cases hp; done) | with_reducible rfl)
    | intro x t h
    | intro t h
    | with_reducible apply Within.leaf

theorem resetGroup_within {x0 s} : Within [.hdrs, .accs, .commits, .regions, .jobs, .vecs, .groups] s (resetGroup x0 s) := by
  unfold resetGroup
  repeat' first
    | with_reducible exact Within.refl _ _
    | with_reducible apply Within.step discardGroup_within rfl
    | with_reducible apply Within.step setGroup_within rfl
    | with_reducible apply Within.step dropImage_within rfl
    | with_reducible apply Within.step jgEvt_within rfl
    | with_reducible exact id
    | with_reducible exact Nat.le_refl _
    | (refine fun (p : Part) hp => ?_; cases p <;> first | (cases hp; done) | with_reducible rfl)
    | split
    | (dsimp only; split)
    | with_reducible apply Within.leaf

theorem resetBay_within {x0 x1 s} : Within [.hdrs, .flds, .links, .accs, .commits, .chans, .mem, .recs, .regions, .queues, .jobs, .bells, .vecs, .groups, .ring, .boot] s (resetBay x0 x1 s) := by
  unfold resetBay
  repeat' first
    | with_reducible assumption
    | with_reducible exact Within.refl _ _
    | with_reducible apply Within.step setBoot_within rfl
    | with_reducible apply Within.step resetGroup_within rfl
    | with_reducible apply Within.step fbump_within rfl
    | with_reducible apply Within.step countPart_within rfl
    | with_reducible apply Within.step beginChanReset_within rfl
    | with_reducible apply forAll_within
    | with_reducible apply Within.ite <;> intro _
    | with_reducible exact id
    | with_reducible exact Nat.le_refl _
    | (refine fun (p : Part) hp => ?_; cases p <;> first | (cases hp; done) | with_reducible rfl)
    | intro x t h
    | intro t h
    | with_reducible apply Within.leaf

theorem runWaiting_within {s} : Within [.hdrs, .flds, .links, .accs, .commits, .chans, .mem, .recs, .regions, .queues, .jobs, .bells, .vecs, .groups, .ring, .boot] s (runWaiting s) := by
  unfold runWaiting
  repeat' first
    | with_reducible assumption
    | with_reducible exact Within.refl _ _
    | with_reducible apply Within.step beginChanReset_within rfl
    | with_reducible apply Within.step setBoot_within rfl
    | with_reducible apply forAll_within
    | with_reducible apply Within.ite <;> intro _
    | with_reducible exact id
    | with_reducible exact Nat.le_refl _
    | (refine fun (p : Part) hp => ?_; cases p <;> first | (cases hp; done) | with_reducible rfl)
    | intro x t h
    | intro t h
    | with_reducible apply Within.leaf

theorem resetCommand_within {x0 s} : Within [.freeCtr, .busResult, .hdrs, .flds, .links, .accs, .nextId, .commits, .chans, .mem, .recs, .regions, .slots, .built, .queues, .jobs, .bells, .vecs, .groups, .merid, .pll, .time, .ring, .sb, .boot, .power, .flash, .safe, .tap] s (resetCommand x0 s) := by
  unfold resetCommand
  repeat' first
    | with_reducible exact Within.refl _ _
    | with_reducible apply Within.step bootCfgErr_within rfl
    | with_reducible apply Within.step coreReset_within rfl
    | with_reducible apply Within.step warmReset_within rfl
    | with_reducible apply Within.step coldReset_within rfl
    | with_reducible apply Within.ite <;> intro _
    | with_reducible exact id
    | with_reducible exact Nat.le_refl _
    | (refine fun (p : Part) hp => ?_; cases p <;> first | (cases hp; done) | with_reducible rfl)
    | exact flash_wf_of rfl
    | split
    | (dsimp only; split)
    | with_reducible apply Within.leaf

theorem execColdReset_within {x0 s} : ∀ u, execColdReset x0 s = .next u → Within [.freeCtr, .busResult, .hdrs, .flds, .links, .accs, .nextId, .commits, .chans, .mem, .recs, .regions, .slots, .built, .queues, .jobs, .bells, .vecs, .groups, .merid, .pll, .time, .ring, .sb, .boot, .power, .flash, .safe, .tap] s u := by
  unfold execColdReset
  refine fun _ h => Host.Outcome.next.inj h ▸ ?_
  repeat' first
    | with_reducible exact Within.refl _ _
    | with_reducible apply Within.step coldReset_within rfl
    | with_reducible exact id
    | with_reducible exact Nat.le_refl _
    | (refine fun (p : Part) hp => ?_; cases p <;> first | (cases hp; done) | with_reducible rfl)
    | exact flash_wf_of rfl
    | split
    | (dsimp only; split)
    | with_reducible apply Within.leaf

theorem execColdResetRelease_within {x0 s} : ∀ u, execColdResetRelease x0 s = .next u → Within [.flds, .pll, .boot] s u :=
  fun _ h => Host.Outcome.next.inj h ▸ coldRelease_within.mono rfl

theorem execRailTrip_within {x0 s} : ∀ u, execRailTrip x0 s = .next u → Within [.freeCtr, .busResult, .hdrs, .flds, .links, .accs, .nextId, .commits, .chans, .mem, .recs, .regions, .slots, .built, .queues, .jobs, .bells, .vecs, .groups, .merid, .pll, .time, .ring, .sb, .boot, .power, .flash, .safe, .tap] s u := by
  unfold execRailTrip
  refine fun _ h => Host.Outcome.next.inj h ▸ ?_
  repeat' first
    | with_reducible exact Within.refl _ _
    | with_reducible apply Within.step coldReset_within rfl
    | with_reducible apply Within.ite <;> intro _

theorem execRstcmdCold_within {x0 s} : ∀ u, execRstcmdCold x0 s = .next u → Within [.freeCtr, .busResult, .hdrs, .flds, .links, .accs, .nextId, .commits, .chans, .mem, .recs, .regions, .slots, .built, .queues, .jobs, .bells, .vecs, .groups, .merid, .pll, .time, .ring, .sb, .boot, .power, .flash, .safe, .tap] s u := by
  unfold execRstcmdCold
  refine fun _ h => Host.Outcome.next.inj h ▸ ?_
  repeat' first
    | with_reducible assumption
    | with_reducible exact Within.refl _ _
    | with_reducible apply Within.step resetCommand_within rfl
    | with_reducible apply viaReg_within ?_ rfl (.inr rfl)
    | intro x t h
    | intro t h

theorem execRstcmdWarm_within {x0 s} : ∀ u, execRstcmdWarm x0 s = .next u → Within [.freeCtr, .busResult, .hdrs, .flds, .links, .accs, .nextId, .commits, .chans, .mem, .recs, .regions, .slots, .built, .queues, .jobs, .bells, .vecs, .groups, .merid, .pll, .time, .ring, .sb, .boot, .power, .flash, .safe, .tap] s u := by
  unfold execRstcmdWarm
  refine fun _ h => Host.Outcome.next.inj h ▸ ?_
  repeat' first
    | with_reducible assumption
    | with_reducible exact Within.refl _ _
    | with_reducible apply Within.step resetCommand_within rfl
    | with_reducible apply viaReg_within ?_ rfl (.inr rfl)
    | intro x t h
    | intro t h

theorem execRstcmdCore_within {x0 s} : ∀ u, execRstcmdCore x0 s = .next u → Within [.freeCtr, .busResult, .hdrs, .flds, .links, .accs, .nextId, .commits, .chans, .mem, .recs, .regions, .slots, .built, .queues, .jobs, .bells, .vecs, .groups, .merid, .pll, .time, .ring, .sb, .boot, .power, .flash, .safe, .tap] s u := by
  unfold execRstcmdCore
  refine fun _ h => Host.Outcome.next.inj h ▸ ?_
  repeat' first
    | with_reducible assumption
    | with_reducible exact Within.refl _ _
    | with_reducible apply Within.step resetCommand_within rfl
    | with_reducible apply viaReg_within ?_ rfl (.inr rfl)
    | intro x t h
    | intro t h

theorem execPortReset_within {x0 x1 s} : ∀ u, execPortReset x0 x1 s = .next u → Within [.hdrs, .flds, .links, .accs, .commits, .regions, .jobs, .bells, .vecs, .groups, .ring] s u := by
  unfold execPortReset
  refine fun _ h => Host.Outcome.next.inj h ▸ ?_
  repeat' first
    | with_reducible assumption
    | with_reducible exact Within.refl _ _
    | with_reducible apply Within.step resetPort_within rfl
    | with_reducible apply viaReg_within ?_ rfl (.inl rfl)
    | with_reducible apply viaReg_within ?_ rfl (.inl (sleeps_wq _))
    | intro x t h
    | intro t h

theorem execChannelReset_within {x0 x1 x2 s} : ∀ u, execChannelReset x0 x1 x2 s = .next u → Within [.hdrs, .flds, .links, .accs, .commits, .chans, .mem, .recs, .regions, .queues, .jobs, .bells, .vecs, .groups, .ring, .boot] s u := by
  unfold execChannelReset
  refine fun _ h => Host.Outcome.next.inj h ▸ ?_
  repeat' first
    | with_reducible assumption
    | with_reducible exact Within.refl _ _
    | with_reducible apply Within.step resetChan_within rfl
    | with_reducible apply viaReg_within ?_ rfl (.inl rfl)
    | with_reducible apply viaReg_within ?_ rfl (.inl (sleeps_wq _))
    | intro x t h
    | intro t h

theorem execChannelResetDone_within {x0 x1 s} : ∀ u, execChannelResetDone x0 x1 s = .next u → Within [.hdrs, .accs, .chans, .mem, .recs, .regions, .vecs, .boot] s u :=
  fun _ h => Host.Outcome.next.inj h ▸ endChanReset_within.mono rfl

theorem execBayReset_within {x0 x1 x2 s} : ∀ u, execBayReset x0 x1 x2 s = .next u → Within [.hdrs, .flds, .links, .accs, .commits, .chans, .mem, .recs, .regions, .queues, .jobs, .bells, .vecs, .groups, .ring, .boot] s u := by
  unfold execBayReset
  refine fun _ h => Host.Outcome.next.inj h ▸ ?_
  repeat' first
    | with_reducible assumption
    | with_reducible exact Within.refl _ _
    | with_reducible apply Within.step resetBay_within rfl
    | with_reducible apply viaReg_within ?_ rfl (.inl rfl)
    | with_reducible apply viaReg_within ?_ rfl (.inl (sleeps_wq _))
    | intro x t h
    | intro t h

theorem execGroupReturn_within {x0 s} : ∀ u, execGroupReturn x0 s = .next u → Within [.hdrs, .vecs, .groups, .boot] s u := by
  unfold execGroupReturn
  refine fun _ h => Host.Outcome.next.inj h ▸ ?_
  repeat' first
    | with_reducible exact Within.refl _ _
    | with_reducible apply Within.step checkBay_within rfl
    | with_reducible apply Within.step returnGroup_within rfl

theorem execUnfenceTestDone_within {x0 x1 x2 s} : ∀ u, execUnfenceTestDone x0 x1 x2 s = .next u → Within [.hdrs, .vecs, .groups, .boot] s u := by
  unfold execUnfenceTestDone
  refine fun _ h => Host.Outcome.next.inj h ▸ ?_
  repeat' first
    | with_reducible exact Within.refl _ _
    | with_reducible apply Within.step checkBay_within rfl
    | with_reducible apply Within.step endPairTest_within rfl

theorem execSetPointChangeEnd_within {s} : ∀ u, execSetPointChangeEnd s = .next u → Within [.hdrs, .flds, .links, .accs, .commits, .chans, .mem, .recs, .regions, .queues, .jobs, .bells, .vecs, .groups, .ring, .boot] s u := by
  unfold execSetPointChangeEnd
  refine fun _ h => Host.Outcome.next.inj h ▸ ?_
  repeat' first
    | with_reducible exact Within.refl _ _
    | with_reducible apply Within.step runWaiting_within rfl
    | with_reducible apply Within.step endChange_within rfl

theorem execFlashCheckDone_within {x0 s} : ∀ u, execFlashCheckDone x0 s = .next u → Within [.now, .hdrs, .flds, .vecs, .time, .boot, .flash] s u :=
  fun _ h => Host.Outcome.next.inj h ▸ flashCheck_within.mono rfl

theorem execImageSelect_within {x0 s} : ∀ u, execImageSelect x0 s = .next u → Within [.hdrs, .flds, .vecs, .boot, .flash] s u :=
  fun _ h => Host.Outcome.next.inj h ▸ selectImage_within.mono rfl

theorem execBcmdSeal_within {x0 s} : ∀ u, execBcmdSeal x0 s = .next u → Within [.hdrs, .flds, .vecs, .boot] s u := by
  unfold execBcmdSeal
  refine fun _ h => Host.Outcome.next.inj h ▸ ?_
  repeat' first
    | with_reducible assumption
    | with_reducible exact Within.refl _ _
    | with_reducible apply Within.step sealNow_within rfl
    | with_reducible apply coreOnly_within ?_ rfl
    | intro x t h
    | intro t h

theorem execBcmdRun_within {x0 s} : ∀ u, execBcmdRun x0 s = .next u → Within [.hdrs, .flds, .vecs, .boot] s u := by
  unfold execBcmdRun
  refine fun _ h => Host.Outcome.next.inj h ▸ ?_
  repeat' first
    | with_reducible assumption
    | with_reducible exact Within.refl _ _
    | with_reducible apply Within.step runNow_within rfl
    | with_reducible apply coreOnly_within ?_ rfl
    | intro x t h
    | intro t h

theorem execReady_within {s} : ∀ u, execReady s = .next u → Within [.hdrs, .flds, .links, .accs, .commits, .regions, .queues, .jobs, .bells, .vecs, .ring, .boot, .safe] s u :=
  fun _ h => Host.Outcome.next.inj h ▸ enterReady_within.mono rfl

theorem execWdkick_within {x0 x1 s} : ∀ u, execWdkick x0 x1 s = .next u → Within [.freeCtr, .hdrs, .flds, .chans, .vecs, .boot, .flash, .safe] s u := by
  unfold execWdkick
  refine fun _ h => Host.Outcome.next.inj h ▸ ?_
  repeat' first
    | with_reducible assumption
    | with_reducible exact Within.refl _ _
    | with_reducible apply Within.step kick_within rfl
    | with_reducible apply coreOnly_within ?_ rfl
    | intro x t h
    | intro t h

theorem execWatchdogExpire_within {s} : ∀ u, execWatchdogExpire s = .next u → Within [.now, .freeCtr, .hdrs, .flds, .chans, .vecs, .time, .boot, .flash, .safe] s u := by
  unfold execWatchdogExpire
  refine fun _ h => Host.Outcome.next.inj h ▸ ?_
  repeat' first
    | with_reducible exact Within.refl _ _
    | with_reducible apply Within.step expire_within rfl
    | with_reducible apply Within.step waitUntil_within rfl
    | with_reducible apply Within.ite <;> intro _

theorem execTapInstruction_within {x0 s} : ∀ u, execTapInstruction x0 s = .next u → Within [.tap] s u := by
  unfold execTapInstruction
  refine fun _ h => Host.Outcome.next.inj h ▸ ?_
  repeat' first
    | with_reducible exact Within.refl _ _
    | with_reducible exact id
    | with_reducible exact Nat.le_refl _
    | (refine fun (p : Part) hp => ?_; cases p <;> first | (cases hp; done) | with_reducible rfl)
    | with_reducible apply Within.leaf

/-! ### Vector -/

theorem sendIrq_within {x0 s} : Within [.hdrs, .links, .vecs] s (sendIrq x0 s) := by
  unfold sendIrq
  repeat' first
    | with_reducible exact Within.refl _ _
    | with_reducible apply Within.step checkWait_within rfl
    | with_reducible apply Within.step setVec_within rfl
    | with_reducible apply Within.step sendMsg_within rfl
    | with_reducible apply Within.ite <;> intro _
    | with_reducible exact id
    | with_reducible exact Nat.le_refl _
    | (refine fun (p : Part) hp => ?_; cases p <;> first | (cases hp; done) | with_reducible rfl)
    | with_reducible apply Within.leaf

theorem holdExpire_within {x0 s} : Within [.now, .vecs, .time] s (holdExpire x0 s) := by
  unfold holdExpire
  repeat' first
    | with_reducible exact Within.refl _ _
    | with_reducible apply Within.step modVec_within rfl
    | with_reducible apply Within.step waitUntil_within rfl
    | with_reducible exact id
    | with_reducible exact Nat.le_refl _
    | (refine fun (p : Part) hp => ?_; cases p <;> first | (cases hp; done) | with_reducible rfl)
    | split
    | (dsimp only; split)
    | with_reducible apply Within.leaf

theorem clearPending_within {x0 s} : Within [.vecs] s (clearPending x0 s) := by
  unfold clearPending
  repeat' first
    | with_reducible exact Within.refl _ _
    | with_reducible apply Within.step modVec_within rfl
    | with_reducible exact id
    | with_reducible exact Nat.le_refl _
    | (refine fun (p : Part) hp => ?_; cases p <;> first | (cases hp; done) | with_reducible rfl)
    | with_reducible apply Within.leaf

theorem execIrqSend_within {x0 s} : ∀ u, execIrqSend x0 s = .next u → Within [.hdrs, .links, .vecs] s u :=
  fun _ h => Host.Outcome.next.inj h ▸ sendIrq_within.mono rfl

theorem execHoldExpire_within {x0 s} : ∀ u, execHoldExpire x0 s = .next u → Within [.now, .vecs, .time] s u :=
  fun _ h => Host.Outcome.next.inj h ▸ holdExpire_within.mono rfl

theorem execVectorFire_within {x0 s} : ∀ u, execVectorFire x0 s = .next u → Within [.hdrs, .flds, .vecs] s u := by
  unfold execVectorFire
  refine fun _ h => Host.Outcome.next.inj h ▸ ?_
  repeat' first
    | with_reducible assumption
    | with_reducible exact Within.refl _ _
    | with_reducible apply Within.step trigger_within rfl
    | with_reducible apply viaReg_within ?_ rfl (.inl rfl)
    | with_reducible apply viaReg_within ?_ rfl (.inl (sleeps_wq _))
    | intro x t h
    | intro t h

theorem execVectorClrpend_within {x0 s} : ∀ u, execVectorClrpend x0 s = .next u → Within [.hdrs, .flds, .vecs] s u := by
  unfold execVectorClrpend
  refine fun _ h => Host.Outcome.next.inj h ▸ ?_
  repeat' first
    | with_reducible assumption
    | with_reducible exact Within.refl _ _
    | with_reducible apply Within.step clearPending_within rfl
    | with_reducible apply viaReg_within ?_ rfl (.inl rfl)
    | with_reducible apply viaReg_within ?_ rfl (.inl (sleeps_wq _))
    | intro x t h
    | intro t h

/-! ### RegRead -/

theorem readTrstat_within {x0 s} : Within [.freeCtr, .flds] s (readTrstat x0 s).2 := by
  unfold readTrstat
  repeat' first
    | with_reducible exact Within.refl _ _
    | with_reducible apply Within.step nextFree_within rfl
    | with_reducible apply Within.ite <;> intro _
    | with_reducible exact id
    | with_reducible exact Nat.le_refl _
    | (refine fun (p : Part) hp => ?_; cases p <;> first | (cases hp; done) | with_reducible rfl)
    | split
    | (dsimp only; split)
    | with_reducible apply Within.leaf

theorem regRead_within {x0 x1 x2 s} : Within [.freeCtr, .hdrs, .flds, .vecs, .time, .flash] s (regRead x0 x1 x2 s).2 := by
  unfold regRead
  repeat' first
    | with_reducible exact Within.refl _ _
    | with_reducible apply Within.step readNowl_within rfl
    | with_reducible apply Within.step windowRead_within rfl
    | with_reducible apply Within.step nextFree_within rfl
    | with_reducible apply Within.step readTrstat_within rfl
    | with_reducible apply Within.step urRead_within rfl
    | with_reducible apply Within.step stepWindow_within rfl
    | with_reducible apply Within.ite <;> intro _
    | split
    | (dsimp only; split)

theorem execTwdataRead_within {x0 x1 s} : ∀ u, execTwdataRead x0 x1 s = .next u → Within [.freeCtr, .busResult, .hdrs, .flds, .links, .chans, .vecs, .time, .power, .flash] s u := by
  unfold execTwdataRead
  refine fun _ h => Host.Outcome.next.inj h ▸ ?_
  repeat' first
    | with_reducible assumption
    | with_reducible exact Within.refl _ _
    | with_reducible apply Within.step regRead_within rfl
    | with_reducible apply Within.step wakeFor_within rfl
    | with_reducible apply viaRead_within ?_ rfl (.inr rfl)
    | intro x t h
    | intro t h

/-! ### RegWrite -/

theorem putField_within {x0 x1 x2 s} : Within [.flds] s (putField x0 x1 x2 s) := by
  unfold putField
  repeat' first
    | with_reducible exact Within.refl _ _
    | with_reducible apply Within.step fset_within rfl
    | with_reducible exact id
    | with_reducible exact Nat.le_refl _
    | (refine fun (p : Part) hp => ?_; cases p <;> first | (cases hp; done) | with_reducible rfl)
    | split
    | (dsimp only; split)
    | with_reducible apply Within.leaf

theorem putFields_within {x0 x1 x2 s} : Within [.flds] s (putFields x0 x1 x2 s) := by
  unfold putFields
  repeat' first
    | with_reducible assumption
    | with_reducible exact Within.refl _ _
    | with_reducible apply Within.step putField_within rfl
    | with_reducible apply forAll_within
    | with_reducible apply Within.ite <;> intro _
    | with_reducible exact id
    | with_reducible exact Nat.le_refl _
    | (refine fun (p : Part) hp => ?_; cases p <;> first | (cases hp; done) | with_reducible rfl)
    | intro x t h
    | intro t h
    | split
    | (dsimp only; split)
    | with_reducible apply Within.leaf

theorem wrClk_within {x0 x1 s} : Within [.hdrs, .flds, .accs, .chans, .mem, .vecs, .pll, .boot] s (wrClk x0 x1 s) := by
  unfold wrClk
  repeat' first
    | with_reducible assumption
    | with_reducible exact Within.refl _ _
    | with_reducible apply Within.step clkCfgErr_within rfl
    | with_reducible apply Within.step putFields_within rfl
    | with_reducible apply Within.step writeDseed_within rfl
    | with_reducible apply Within.step pjCommand_within rfl
    | with_reducible apply Within.step writeFdly_within rfl
    | with_reducible apply Within.step writeOutEn_within rfl
    | with_reducible apply Within.step clearClk_within rfl
    | with_reducible apply Within.step dspRequest_within rfl
    | with_reducible apply onlyIf_within
    | with_reducible apply Within.ite <;> intro _
    | intro x t h
    | intro t h

theorem wrBoot_within {x0 x1 x2 s} : Within [.freeCtr, .busResult, .hdrs, .flds, .links, .accs, .nextId, .commits, .chans, .mem, .recs, .regions, .slots, .built, .queues, .jobs, .bells, .vecs, .groups, .merid, .pll, .time, .ring, .sb, .boot, .power, .flash, .safe, .tap] s (wrBoot x0 x1 x2 s) := by
  unfold wrBoot
  repeat' first
    | with_reducible assumption
    | with_reducible exact Within.refl _ _
    | with_reducible apply Within.step bootCfgErr_within rfl
    | with_reducible apply Within.step sealNow_within rfl
    | with_reducible apply Within.step runNow_within rfl
    | with_reducible apply Within.step resetCommand_within rfl
    | with_reducible apply Within.step resetPort_within rfl
    | with_reducible apply Within.step resetChan_within rfl
    | with_reducible apply Within.step resetBay_within rfl
    | with_reducible apply Within.step putFields_within rfl
    | with_reducible apply Within.step kick_within rfl
    | with_reducible apply onlyIf_within
    | with_reducible apply forAll_within
    | with_reducible apply Within.ite <;> intro _
    | intro x t h
    | intro t h

theorem wrPwr_within {x0 x1 s} : Within [.hdrs, .flds, .vecs, .power, .flash] s (wrPwr x0 x1 s) := by
  unfold wrPwr
  repeat' first
    | with_reducible assumption
    | with_reducible exact Within.refl _ _
    | with_reducible apply Within.step putFields_within rfl
    | with_reducible apply Within.step retain_within rfl
    | with_reducible apply onlyIf_within
    | with_reducible apply Within.ite <;> intro _
    | intro x t h
    | intro t h

theorem wrSafe_within {x0 x1 s} : Within [.hdrs, .flds, .links, .accs, .commits, .regions, .queues, .jobs, .bells, .vecs, .ring, .safe] s (wrSafe x0 x1 s) := by
  unfold wrSafe
  repeat' first
    | with_reducible assumption
    | with_reducible exact Within.refl _ _
    | with_reducible apply Within.step putFields_within rfl
    | with_reducible apply Within.step safeCommand_within rfl
    | with_reducible apply Within.step clearSafe_within rfl
    | with_reducible apply onlyIf_within
    | with_reducible apply Within.ite <;> intro _
    | with_reducible exact id
    | with_reducible exact Nat.le_refl _
    | (refine fun (p : Part) hp => ?_; cases p <;> first | (cases hp; done) | with_reducible rfl)
    | intro x t h
    | intro t h
    | with_reducible apply Within.leaf

theorem wrFlsh_within {x0 x1 x2 s} : Within [.hdrs, .flds, .vecs, .boot, .flash] s (wrFlsh x0 x1 x2 s) := by
  unfold wrFlsh
  repeat' first
    | with_reducible assumption
    | with_reducible exact Within.refl _ _
    | with_reducible apply Within.step putFields_within rfl
    | with_reducible apply Within.step mboxWrite_within rfl
    | with_reducible apply Within.step fclear_within rfl
    | with_reducible apply onlyIf_within
    | with_reducible apply Within.ite <;> intro _
    | intro x t h
    | intro t h

theorem clearSbnd_within {s} : Within [.flds] s (clearSbnd s) :=
  fclear_within.mono rfl

theorem wrSbnd_within {x0 x1 s} : Within [.flds] s (wrSbnd x0 x1 s) := by
  unfold wrSbnd
  repeat' first
    | with_reducible assumption
    | with_reducible exact Within.refl _ _
    | with_reducible apply Within.step putFields_within rfl
    | with_reducible apply Within.step clearSbnd_within rfl
    | with_reducible apply onlyIf_within
    | with_reducible apply Within.ite <;> intro _
    | intro x t h
    | intro t h

theorem wrVec_within {x0 x1 s} : Within [.hdrs, .flds, .vecs] s (wrVec x0 x1 s) := by
  unfold wrVec
  repeat' first
    | with_reducible assumption
    | with_reducible exact Within.refl _ _
    | with_reducible apply Within.step raise_within rfl
    | with_reducible apply Within.step putFields_within rfl
    | with_reducible apply Within.step modVec_within rfl
    | with_reducible apply Within.step checkWait_within rfl
    | with_reducible apply Within.step trigger_within rfl
    | with_reducible apply Within.step clearPending_within rfl
    | with_reducible apply onlyIf_within
    | with_reducible apply Within.ite <;> intro _
    | with_reducible exact id
    | with_reducible exact Nat.le_refl _
    | (refine fun (p : Part) hp => ?_; cases p <;> first | (cases hp; done) | with_reducible rfl)
    | intro x t h
    | intro t h
    | with_reducible apply Within.leaf

theorem timeCommand_within {x0 s} : Within [.hdrs, .flds, .vecs, .time, .ring] s (timeCommand x0 s) := by
  unfold timeCommand
  repeat' first
    | with_reducible assumption
    | with_reducible exact Within.refl _ _
    | with_reducible apply Within.step setTime_within rfl
    | with_reducible apply Within.step timeSet_within rfl
    | with_reducible apply Within.step clearTime_within rfl
    | with_reducible apply Within.step timeCfgErr_within rfl
    | with_reducible apply Within.step timeResume_within rfl
    | with_reducible apply Within.step chooseTimeSlew_within rfl
    | with_reducible apply Within.step chooseTimeStep_within rfl
    | with_reducible apply onlyIf_within
    | with_reducible apply Within.ite <;> intro _
    | with_reducible exact id
    | with_reducible exact Nat.le_refl _
    | (refine fun (p : Part) hp => ?_; cases p <;> first | (cases hp; done) | with_reducible rfl)
    | intro x t h
    | intro t h
    | with_reducible apply Within.leaf

theorem wrTime_within {x0 x1 s} : Within [.hdrs, .flds, .vecs, .merid, .time, .ring] s (wrTime x0 x1 s) := by
  unfold wrTime
  repeat' first
    | with_reducible exact Within.refl _ _
    | with_reducible apply Within.step setRole_within rfl
    | with_reducible apply Within.step putFields_within rfl
    | with_reducible apply Within.step writePerl_within rfl
    | with_reducible apply Within.step writePerh_within rfl
    | with_reducible apply Within.step timeCommand_within rfl
    | with_reducible apply Within.ite <;> intro _

theorem wrRegion_within {x0 s} : Within [.hdrs, .regions, .vecs] s (wrRegion x0 s) := by
  unfold wrRegion
  repeat' first
    | with_reducible exact Within.refl _ _
    | with_reducible apply Within.step rgnEvt_within rfl
    | with_reducible apply Within.step modRegion_within rfl
    | with_reducible apply Within.ite <;> intro _

theorem wrRgn_within {x0 x1 s} : Within [.hdrs, .flds, .links, .accs, .commits, .regions, .queues, .jobs, .bells, .vecs, .ring] s (wrRgn x0 x1 s) := by
  unfold wrRgn
  repeat' first
    | with_reducible assumption
    | with_reducible exact Within.refl _ _
    | with_reducible apply Within.step wrRegion_within rfl
    | with_reducible apply Within.step modRegion_within rfl
    | with_reducible apply Within.step rgnEvt_within rfl
    | with_reducible apply Within.step enableRegion_within rfl
    | with_reducible apply Within.step disableRegion_within rfl
    | with_reducible apply Within.step clearRegionCounts_within rfl
    | with_reducible apply Within.step putFields_within rfl
    | with_reducible apply onlyIf_within
    | with_reducible apply Within.ite <;> intro _
    | with_reducible exact id
    | with_reducible exact Nat.le_refl _
    | (refine fun (p : Part) hp => ?_; cases p <;> first | (cases hp; done) | with_reducible rfl)
    | intro x t h
    | intro t h
    | with_reducible apply Within.leaf

theorem wrEpch_within {x0 x1 s} : Within [.hdrs, .flds, .vecs, .merid] s (wrEpch x0 x1 s) := by
  unfold wrEpch
  repeat' first
    | with_reducible assumption
    | with_reducible exact Within.refl _ _
    | with_reducible apply Within.step settleEpch_within rfl
    | with_reducible apply Within.step epchEvt_within rfl
    | with_reducible apply Within.step putFields_within rfl
    | with_reducible apply Within.step clearEpch_within rfl
    | with_reducible apply onlyIf_within
    | with_reducible apply Within.ite <;> intro _
    | intro x t h
    | intro t h

theorem wrPort_within {x0 x1 x2 x3 s} : Within [.hdrs, .flds, .links, .accs, .commits, .regions, .jobs, .bells, .vecs, .groups, .ring, .boot] s (wrPort x0 x1 x2 x3 s) := by
  unfold wrPort
  repeat' first
    | with_reducible assumption
    | with_reducible exact Within.refl _ _
    | with_reducible apply Within.step putFields_within rfl
    | with_reducible apply Within.step enablePort_within rfl
    | with_reducible apply Within.step disablePort_within rfl
    | with_reducible apply Within.step slipLanes_within rfl
    | with_reducible apply Within.step algnDropLanes_within rfl
    | with_reducible apply Within.step retrainLink_within rfl
    | with_reducible apply Within.step clearLaneCounts_within rfl
    | with_reducible apply Within.step clearXcnt_within rfl
    | with_reducible apply Within.step writeLyctl_within rfl
    | with_reducible apply onlyIf_within
    | with_reducible apply forAll_within
    | with_reducible apply Within.ite <;> intro _
    | intro x t h
    | intro t h

theorem wrHp_within {x0 x1 x2 x3 s} : Within [.hdrs, .flds, .links, .accs, .commits, .regions, .jobs, .bells, .vecs, .groups, .ring, .boot] s (wrHp x0 x1 x2 x3 s) := by
  unfold wrHp
  repeat' first
    | with_reducible exact Within.refl _ _
    | with_reducible apply Within.step linkCfgErr_within rfl
    | with_reducible apply Within.step putFields_within rfl
    | with_reducible apply Within.step wrPort_within rfl
    | with_reducible apply Within.ite <;> intro _

theorem wrRing_within {x0 x1 x2 x3 s} : Within [.hdrs, .flds, .links, .accs, .commits, .regions, .queues, .jobs, .bells, .vecs, .groups, .ring, .boot] s (wrRing x0 x1 x2 x3 s) := by
  unfold wrRing
  repeat' first
    | with_reducible assumption
    | with_reducible exact Within.refl _ _
    | with_reducible apply Within.step linkCfgErr_within rfl
    | with_reducible apply Within.step putFields_within rfl
    | with_reducible apply Within.step wrPort_within rfl
    | with_reducible apply Within.step hoStart_within rfl
    | with_reducible apply Within.step hoArm_within rfl
    | with_reducible apply Within.step hoHostAbort_within rfl
    | with_reducible apply Within.step writeMcfg_within rfl
    | with_reducible apply onlyIf_within
    | with_reducible apply Within.ite <;> intro _
    | intro x t h
    | intro t h

theorem wrTraining_within {x0 x1 x2 s} : Within [.hdrs, .flds, .chans, .vecs] s (wrTraining x0 x1 x2 s) := by
  unfold wrTraining
  repeat' first
    | with_reducible assumption
    | with_reducible exact Within.refl _ _
    | with_reducible apply Within.step urWrite_within rfl
    | with_reducible apply Within.step putFields_within rfl
    | with_reducible apply Within.step sweepStart_within rfl
    | with_reducible apply Within.step sweepEnd_within rfl
    | with_reducible apply Within.step modChan_within rfl
    | with_reducible apply onlyIf_within
    | with_reducible apply Within.ite <;> intro _
    | with_reducible exact id
    | with_reducible exact Nat.le_refl _
    | (refine fun (p : Part) hp => ?_; cases p <;> first | (cases hp; done) | with_reducible rfl)
    | intro x t h
    | intro t h
    | with_reducible apply Within.leaf

theorem wrCh_within {x0 x1 x2 x3 s} : Within [.freeCtr, .hdrs, .flds, .links, .chans, .vecs, .power] s (wrCh x0 x1 x2 x3 s) := by
  unfold wrCh
  repeat' first
    | with_reducible assumption
    | with_reducible exact Within.refl _ _
    | with_reducible apply Within.step wrTraining_within rfl
    | with_reducible apply Within.step chCfgErr_within rfl
    | with_reducible apply Within.step putFields_within rfl
    | with_reducible apply Within.step snapRequest_within rfl
    | with_reducible apply Within.step clearChan_within rfl
    | with_reducible apply trainWrite_within ?_ rfl
    | with_reducible apply onlyIf_within
    | with_reducible apply Within.ite <;> intro _
    | with_reducible exact id
    | with_reducible exact Nat.le_refl _
    | (refine fun (p : Part) hp => ?_; cases p <;> first | (cases hp; done) | with_reducible rfl)
    | intro x t h
    | intro t h
    | split
    | (dsimp only; split)
    | with_reducible apply Within.leaf

theorem wrJg_within {x0 x1 x2 x3 s} : Within [.hdrs, .flds, .accs, .nextId, .vecs, .groups] s (wrJg x0 x1 x2 x3 s) := by
  unfold wrJg
  repeat' first
    | with_reducible assumption
    | with_reducible exact Within.refl _ _
    | with_reducible apply Within.step jgEvt_within rfl
    | with_reducible apply Within.step startLoad_within rfl
    | with_reducible apply Within.step markValid_within rfl
    | with_reducible apply Within.step putFields_within rfl
    | with_reducible apply Within.step writeWindow_within rfl
    | with_reducible apply Within.step startUnfence_within rfl
    | with_reducible apply Within.step dropUnused_within rfl
    | with_reducible apply Within.step clearGroupCounts_within rfl
    | with_reducible apply onlyIf_within
    | with_reducible apply Within.ite <;> intro _
    | intro x t h
    | intro t h

theorem queueControl_within {x0 x1 s} : Within [.hdrs, .flds, .accs, .commits, .regions, .queues, .jobs, .vecs, .groups] s (queueControl x0 x1 s) := by
  unfold queueControl
  repeat' first
    | with_reducible assumption
    | with_reducible exact Within.refl _ _
    | with_reducible apply Within.step queueRefused_within rfl
    | with_reducible apply Within.step ctlAbort_within rfl
    | with_reducible apply Within.step ctlDisable_within rfl
    | with_reducible apply Within.step ctlEnable_within rfl
    | with_reducible apply Within.step ctlClrcnt_within rfl
    | with_reducible apply onlyIf_within
    | with_reducible apply Within.ite <;> intro _
    | intro x t h
    | intro t h

theorem wrWq_within {x0 x1 x2 s} : Within [.hdrs, .flds, .accs, .commits, .regions, .queues, .jobs, .vecs, .groups] s (wrWq x0 x1 x2 s) := by
  unfold wrWq
  repeat' first
    | with_reducible exact Within.refl _ _
    | with_reducible apply Within.step writeQueueCfg_within rfl
    | with_reducible apply Within.step queueControl_within rfl
    | with_reducible apply Within.step writeQpidx_within rfl
    | with_reducible apply Within.ite <;> intro _

theorem wrBlock_within {x0 x1 x2 x3 s} : Within [.freeCtr, .busResult, .hdrs, .flds, .links, .accs, .nextId, .commits, .chans, .mem, .recs, .regions, .slots, .built, .queues, .jobs, .bells, .vecs, .groups, .merid, .pll, .time, .ring, .sb, .boot, .power, .flash, .safe, .tap] s (wrBlock x0 x1 x2 x3 s) := by
  unfold wrBlock
  repeat' first
    | with_reducible exact Within.refl _ _
    | with_reducible apply Within.step wrClk_within rfl
    | with_reducible apply Within.step wrBoot_within rfl
    | with_reducible apply Within.step wrPwr_within rfl
    | with_reducible apply Within.step wrSafe_within rfl
    | with_reducible apply Within.step wrFlsh_within rfl
    | with_reducible apply Within.step wrSbnd_within rfl
    | with_reducible apply Within.step wrVec_within rfl
    | with_reducible apply Within.step wrTime_within rfl
    | with_reducible apply Within.step wrRgn_within rfl
    | with_reducible apply Within.step wrEpch_within rfl
    | with_reducible apply Within.step wrHp_within rfl
    | with_reducible apply Within.step wrCh_within rfl
    | with_reducible apply Within.step wrJg_within rfl
    | with_reducible apply Within.step wrWq_within rfl
    | with_reducible apply Within.step wrRing_within rfl
    | with_reducible apply Within.step putFields_within rfl
    | with_reducible exact id
    | with_reducible exact Nat.le_refl _
    | (refine fun (p : Part) hp => ?_; cases p <;> first | (cases hp; done) | with_reducible rfl)
    | exact flash_wf_of rfl
    | split
    | (dsimp only; split)
    | with_reducible apply Within.leaf

theorem clearCaps_within {x0 s} : Within [.hdrs] s (clearCaps x0 s) := by
  unfold clearCaps
  repeat' first
    | with_reducible exact Within.refl _ _
    | with_reducible apply Within.step modHdr_within rfl
    | with_reducible exact id
    | with_reducible exact Nat.le_refl _
    | (refine fun (p : Part) hp => ?_; cases p <;> first | (cases hp; done) | with_reducible rfl)
    | with_reducible apply Within.leaf

theorem forceOne_within {x0 x1 s} : Within [.hdrs, .vecs] s (forceOne x0 x1 s) :=
  raise_within.mono rfl

theorem forceEvents_within {x0 x1 s} : Within [.hdrs, .vecs, .safe] s (forceEvents x0 x1 s) := by
  unfold forceEvents
  repeat' first
    | with_reducible assumption
    | with_reducible exact Within.refl _ _
    | with_reducible apply Within.step logEvent_within rfl
    | with_reducible apply Within.step forceOne_within rfl
    | with_reducible apply forAll_within
    | intro x t h
    | intro t h

theorem wrHeader_within {x0 x1 x2 s} : Within [.hdrs, .vecs, .safe] s (wrHeader x0 x1 x2 s) := by
  unfold wrHeader
  repeat' first
    | with_reducible assumption
    | with_reducible exact Within.refl _ _
    | with_reducible apply Within.step clearCaps_within rfl
    | with_reducible apply Within.step clearEvt_within rfl
    | with_reducible apply Within.step modHdr_within rfl
    | with_reducible apply Within.step forceEvents_within rfl
    | with_reducible apply onlyIf_within
    | with_reducible apply Within.ite <;> intro _
    | with_reducible exact id
    | with_reducible exact Nat.le_refl _
    | (refine fun (p : Part) hp => ?_; cases p <;> first | (cases hp; done) | with_reducible rfl)
    | intro x t h
    | intro t h
    | with_reducible apply Within.leaf

theorem ignoredEvt_within {x0 x1 x2 s} : Within [.hdrs, .vecs] s (ignoredEvt x0 x1 x2 s) := by
  unfold ignoredEvt
  repeat' first
    | with_reducible exact Within.refl _ _
    | with_reducible apply Within.step raise_within rfl
    | with_reducible apply Within.step clkCfgErr_within rfl
    | with_reducible apply Within.step bootCfgErr_within rfl
    | with_reducible apply Within.step pwrEvt_within rfl
    | with_reducible apply Within.step safeEvt_within rfl
    | with_reducible apply Within.step sbEvt_within rfl
    | with_reducible apply Within.step timeCfgErr_within rfl
    | with_reducible apply Within.ite <;> intro _
    | with_reducible exact id
    | with_reducible exact Nat.le_refl _
    | (refine fun (p : Part) hp => ?_; cases p <;> first | (cases hp; done) | with_reducible rfl)
    | split
    | (dsimp only; split)
    | with_reducible apply Within.leaf

theorem performWrite_within {x0 x1 x2 x3 s} : Within [.freeCtr, .busResult, .hdrs, .flds, .links, .accs, .nextId, .commits, .chans, .mem, .recs, .regions, .slots, .built, .queues, .jobs, .bells, .vecs, .groups, .merid, .pll, .time, .ring, .sb, .boot, .power, .flash, .safe, .tap] s (performWrite x0 x1 x2 x3 s) := by
  unfold performWrite
  repeat' first
    | with_reducible exact Within.refl _ _
    | with_reducible apply Within.step wakeFor_within rfl
    | with_reducible apply Within.step ignoredEvt_within rfl
    | with_reducible apply Within.step wrHeader_within rfl
    | with_reducible apply Within.step wrBlock_within rfl
    | with_reducible apply Within.ite <;> intro _

/-! ### Sideband -/

theorem setSb_within {x0 s} : Within [.sb] s (setSb x0 s) := by
  unfold setSb
  repeat' first
    | with_reducible exact Within.refl _ _
    | with_reducible exact id
    | with_reducible exact Nat.le_refl _
    | (refine fun (p : Part) hp => ?_; cases p <;> first | (cases hp; done) | with_reducible rfl)
    | with_reducible apply Within.leaf

theorem sbError_within {x0 x1 x2 x3 s} : Within [.hdrs, .flds, .vecs] s (sbError x0 x1 x2 x3 s) := by
  unfold sbError
  repeat' first
    | with_reducible exact Within.refl _ _
    | with_reducible apply Within.step sbEvt_within rfl
    | with_reducible apply Within.step fbump_within rfl

theorem posError_within {x0 s} : Within [.hdrs, .flds, .vecs] s (posError x0 s) := by
  unfold posError
  repeat' first
    | with_reducible assumption
    | with_reducible exact Within.refl _ _
    | with_reducible apply Within.step sbError_within rfl
    | with_reducible apply onlyIf_within
    | intro x t h
    | intro t h

theorem sbStart_within {x0 s} : Within [.hdrs, .flds, .vecs, .sb] s (sbStart x0 s) := by
  unfold sbStart
  repeat' first
    | with_reducible exact Within.refl _ _
    | with_reducible apply Within.step posError_within rfl
    | with_reducible apply Within.step setSb_within rfl
    | with_reducible apply Within.ite <;> intro _
    | with_reducible exact id
    | with_reducible exact Nat.le_refl _
    | (refine fun (p : Part) hp => ?_; cases p <;> first | (cases hp; done) | with_reducible rfl)
    | with_reducible apply Within.leaf

theorem sbStop_within {x0 s} : Within [.hdrs, .flds, .vecs, .sb] s (sbStop x0 s) := by
  unfold sbStop
  repeat' first
    | with_reducible assumption
    | with_reducible exact Within.refl _ _
    | with_reducible apply Within.step sbError_within rfl
    | with_reducible apply Within.step posError_within rfl
    | with_reducible apply Within.step setSb_within rfl
    | with_reducible apply onlyIf_within
    | with_reducible apply Within.ite <;> intro _
    | with_reducible exact id
    | with_reducible exact Nat.le_refl _
    | (refine fun (p : Part) hp => ?_; cases p <;> first | (cases hp; done) | with_reducible rfl)
    | intro x t h
    | intro t h
    | with_reducible apply Within.leaf

theorem sbNack_within {x0 s} : Within [.sb] s (sbNack x0 s) := by
  unfold sbNack
  repeat' first
    | with_reducible exact Within.refl _ _
    | with_reducible apply Within.step setSb_within rfl
    | with_reducible exact id
    | with_reducible exact Nat.le_refl _
    | (refine fun (p : Part) hp => ?_; cases p <;> first | (cases hp; done) | with_reducible rfl)
    | with_reducible apply Within.leaf

theorem sbBusyNak_within {x0 x1 x2 s} : Within [.hdrs, .flds, .vecs, .sb] s (sbBusyNak x0 x1 x2 s) := by
  unfold sbBusyNak
  repeat' first
    | with_reducible exact Within.refl _ _
    | with_reducible apply Within.step sbEvt_within rfl
    | with_reducible apply Within.step fbump_within rfl
    | with_reducible apply Within.step sbNack_within rfl

theorem sbFetch_within {x0 x1 s} : Within [.freeCtr, .hdrs, .flds, .links, .chans, .vecs, .time, .sb, .power, .flash] s (sbFetch x0 x1 s) := by
  unfold sbFetch
  repeat' first
    | with_reducible exact Within.refl _ _
    | with_reducible apply Within.step regRead_within rfl
    | with_reducible apply Within.step wakeFor_within rfl
    | with_reducible apply Within.step fbump_within rfl
    | with_reducible apply Within.step setSb_within rfl
    | with_reducible exact id
    | with_reducible exact Nat.le_refl _
    | (refine fun (p : Part) hp => ?_; cases p <;> first | (cases hp; done) | with_reducible rfl)
    | exact flash_wf_of rfl
    | with_reducible apply Within.leaf

theorem sbOwn_within {x0 x1 x2 s} : Within [.freeCtr, .hdrs, .flds, .links, .chans, .vecs, .time, .sb, .power, .flash] s (sbOwn x0 x1 x2 s) := by
  unfold sbOwn
  repeat' first
    | with_reducible exact Within.refl _ _
    | with_reducible apply Within.step sbFetch_within rfl
    | with_reducible apply Within.step setSb_within rfl
    | with_reducible apply Within.step sbBusyNak_within rfl
    | with_reducible apply Within.step sbError_within rfl
    | with_reducible apply Within.step sbNack_within rfl
    | with_reducible apply Within.ite <;> intro _
    | with_reducible exact id
    | with_reducible exact Nat.le_refl _
    | (refine fun (p : Part) hp => ?_; cases p <;> first | (cases hp; done) | with_reducible rfl)
    | exact flash_wf_of rfl
    | with_reducible apply Within.leaf

theorem sbDevice_within {x0 x1 s} : Within [.freeCtr, .hdrs, .flds, .links, .chans, .vecs, .pll, .time, .sb, .power, .flash] s (sbDevice x0 x1 s) := by
  unfold sbDevice
  repeat' first
    | with_reducible exact Within.refl _ _
    | with_reducible apply Within.step setSb_within rfl
    | with_reducible apply Within.step retentionWake_within rfl
    | with_reducible apply Within.step sbNack_within rfl
    | with_reducible apply Within.step sbOwn_within rfl
    | with_reducible apply Within.ite <;> intro _

theorem sbAddrByte_within {x0 s} : Within [.hdrs, .flds, .vecs, .sb] s (sbAddrByte x0 s) := by
  unfold sbAddrByte
  repeat' first
    | with_reducible exact Within.refl _ _
    | with_reducible apply Within.step setSb_within rfl
    | with_reducible apply Within.step sbError_within rfl
    | with_reducible apply Within.step sbNack_within rfl
    | with_reducible apply Within.ite <;> intro _
    | with_reducible exact id
    | with_reducible exact Nat.le_refl _
    | (refine fun (p : Part) hp => ?_; cases p <;> first | (cases hp; done) | with_reducible rfl)
    | with_reducible apply Within.leaf

theorem sbAddress_within {x0 x1 s} : Within [.freeCtr, .hdrs, .flds, .links, .chans, .vecs, .pll, .time, .sb, .power, .flash] s (sbAddress x0 x1 s) := by
  unfold sbAddress
  repeat' first
    | with_reducible exact Within.refl _ _
    | with_reducible apply Within.step sbDevice_within rfl
    | with_reducible apply Within.step sbAddrByte_within rfl
    | with_reducible apply Within.ite <;> intro _

theorem sbWrite_within {x0 x1 x2 s} : Within [.freeCtr, .busResult, .hdrs, .flds, .links, .accs, .nextId, .commits, .chans, .mem, .recs, .regions, .slots, .built, .queues, .jobs, .bells, .vecs, .groups, .merid, .pll, .time, .ring, .sb, .boot, .power, .flash, .safe, .tap] s (sbWrite x0 x1 x2 s) := by
  unfold sbWrite
  repeat' first
    | with_reducible exact Within.refl _ _
    | with_reducible apply Within.step sbRefused_within rfl
    | with_reducible apply Within.step bootCfgErr_within rfl
    | with_reducible apply Within.step chCfgErr_within rfl
    | with_reducible apply Within.step noteDeny_within rfl
    | with_reducible apply Within.step performWrite_within rfl
    | with_reducible apply Within.ite <;> intro _

theorem sbCommit_within {x0 s} : Within [.freeCtr, .busResult, .hdrs, .flds, .links, .accs, .nextId, .commits, .chans, .mem, .recs, .regions, .slots, .built, .queues, .jobs, .bells, .vecs, .groups, .merid, .pll, .time, .ring, .sb, .boot, .power, .flash, .safe, .tap] s (sbCommit x0 s) := by
  unfold sbCommit
  repeat' first
    | with_reducible exact Within.refl _ _
    | with_reducible apply Within.step sbWrite_within rfl
    | with_reducible apply Within.step fbump_within rfl
    | with_reducible apply Within.step setSb_within rfl
    | with_reducible exact id
    | with_reducible exact Nat.le_refl _
    | (refine fun (p : Part) hp => ?_; cases p <;> first | (cases hp; done) | with_reducible rfl)
    | exact flash_wf_of rfl
    | with_reducible apply Within.leaf

theorem sbWriteByte_within {x0 x1 s} : Within [.freeCtr, .busResult, .hdrs, .flds, .links, .accs, .nextId, .commits, .chans, .mem, .recs, .regions, .slots, .built, .queues, .jobs, .bells, .vecs, .groups, .merid, .pll, .time, .ring, .sb, .boot, .power, .flash, .safe, .tap] s (sbWriteByte x0 x1 s) := by
  unfold sbWriteByte
  repeat' first
    | with_reducible exact Within.refl _ _
    | with_reducible apply Within.step sbBusyNak_within rfl
    | with_reducible apply Within.step setSb_within rfl
    | with_reducible apply Within.step sbCommit_within rfl
    | with_reducible apply Within.step sbEvt_within rfl
    | with_reducible apply Within.step fbump_within rfl
    | with_reducible apply Within.step sbNack_within rfl
    | with_reducible apply Within.ite <;> intro _
    | with_reducible exact id
    | with_reducible exact Nat.le_refl _
    | (refine fun (p : Part) hp => ?_; cases p <;> first | (cases hp; done) | with_reducible rfl)
    | exact flash_wf_of rfl
    | with_reducible apply Within.leaf

theorem sbWriteWord_within {x0 x1 s} : Within [.freeCtr, .busResult, .hdrs, .flds, .links, .accs, .nextId, .commits, .chans, .mem, .recs, .regions, .slots, .built, .queues, .jobs, .bells, .vecs, .groups, .merid, .pll, .time, .ring, .sb, .boot, .power, .flash, .safe, .tap] s (sbWriteWord x0 x1 s) := by
  unfold sbWriteWord
  repeat' first
    | with_reducible assumption
    | with_reducible exact Within.refl _ _
    | with_reducible apply Within.step sbWriteByte_within rfl
    | with_reducible apply forAll_within
    | intro x t h
    | intro t h

theorem sbNextWord_within {x0 s} : Within [.freeCtr, .hdrs, .flds, .links, .chans, .vecs, .time, .sb, .power, .flash] s (sbNextWord x0 s) := by
  unfold sbNextWord
  repeat' first
    | with_reducible exact Within.refl _ _
    | with_reducible apply Within.step setSb_within rfl
    | with_reducible apply Within.step sbEvt_within rfl
    | with_reducible apply Within.step sbFetch_within rfl
    | with_reducible apply Within.ite <;> intro _
    | with_reducible exact id
    | with_reducible exact Nat.le_refl _
    | (refine fun (p : Part) hp => ?_; cases p <;> first | (cases hp; done) | with_reducible rfl)
    | exact flash_wf_of rfl
    | with_reducible apply Within.leaf

theorem sbReadWord_within {x0 x1 x2 s} : Within [.freeCtr, .busResult, .hdrs, .flds, .links, .chans, .vecs, .time, .sb, .power, .flash] s (sbReadWord x0 x1 x2 s) := by
  unfold sbReadWord
  repeat' first
    | with_reducible exact Within.refl _ _
    | with_reducible apply Within.step setSb_within rfl
    | with_reducible apply Within.step sbNextWord_within rfl
    | with_reducible apply Within.ite <;> intro _
    | with_reducible exact id
    | with_reducible exact Nat.le_refl _
    | (refine fun (p : Part) hp => ?_; cases p <;> first | (cases hp; done) | with_reducible rfl)
    | exact flash_wf_of rfl
    | with_reducible apply Within.leaf

theorem busMoves_within {P r f s} (hf : ∀ t, Within P r t → Within P r (f t)) (hm : [.sb].all P.contains = true)
    (k : Within P r s) : Within P r (busMoves f s) := by
  unfold busMoves
  repeat' first
    | with_reducible assumption
    | with_reducible exact Within.refl _ _
    | with_reducible apply hf
    | with_reducible apply Within.step setSb_within (all_contains_trans (R := [.sb]) rfl hm)
    | with_reducible apply Within.ite <;> intro _
    | with_reducible exact id
    | with_reducible exact Nat.le_refl _
    | (refine fun (p : Part) hp => ?_; cases p <;> first | (cases hp; done) | with_reducible rfl)
    | intro x t h
    | intro t h
    | with_reducible apply Within.leaf

theorem sbTimeout_within {x0 x1 x2 s} : Within [.now, .hdrs, .flds, .vecs, .time, .sb] s (sbTimeout x0 x1 x2 s) := by
  unfold sbTimeout
  repeat' first
    | with_reducible exact Within.refl _ _
    | with_reducible apply Within.step waitUntil_within rfl
    | with_reducible apply Within.step sbError_within rfl
    | with_reducible apply Within.step setSb_within rfl
    | with_reducible exact id
    | with_reducible exact Nat.le_refl _
    | (refine fun (p : Part) hp => ?_; cases p <;> first | (cases hp; done) | with_reducible rfl)
    | with_reducible apply Within.leaf

theorem execSbStart_within {x0 s} : ∀ u, execSbStart x0 s = .next u → Within [.hdrs, .flds, .vecs, .sb] s u := by
  unfold execSbStart
  refine fun _ h => Host.Outcome.next.inj h ▸ ?_
  repeat' first
    | with_reducible assumption
    | with_reducible exact Within.refl _ _
    | with_reducible apply Within.step sbStart_within rfl
    | with_reducible apply busMoves_within ?_ rfl
    | intro x t h
    | intro t h

theorem execSbStop_within {x0 s} : ∀ u, execSbStop x0 s = .next u → Within [.hdrs, .flds, .vecs, .sb] s u := by
  unfold execSbStop
  refine fun _ h => Host.Outcome.next.inj h ▸ ?_
  repeat' first
    | with_reducible assumption
    | with_reducible exact Within.refl _ _
    | with_reducible apply Within.step sbStop_within rfl
    | with_reducible apply busMoves_within ?_ rfl
    | intro x t h
    | intro t h

theorem execSbAddress_within {x0 x1 s} : ∀ u, execSbAddress x0 x1 s = .next u → Within [.freeCtr, .hdrs, .flds, .links, .chans, .vecs, .pll, .time, .sb, .power, .flash] s u := by
  unfold execSbAddress
  refine fun _ h => Host.Outcome.next.inj h ▸ ?_
  repeat' first
    | with_reducible assumption
    | with_reducible exact Within.refl _ _
    | with_reducible apply Within.step sbAddress_within rfl
    | with_reducible apply busMoves_within ?_ rfl
    | intro x t h
    | intro t h

theorem execSbWriteWord_within {x0 x1 s} : ∀ u, execSbWriteWord x0 x1 s = .next u → Within [.freeCtr, .busResult, .hdrs, .flds, .links, .accs, .nextId, .commits, .chans, .mem, .recs, .regions, .slots, .built, .queues, .jobs, .bells, .vecs, .groups, .merid, .pll, .time, .ring, .sb, .boot, .power, .flash, .safe, .tap] s u := by
  unfold execSbWriteWord
  refine fun _ h => Host.Outcome.next.inj h ▸ ?_
  repeat' first
    | with_reducible assumption
    | with_reducible exact Within.refl _ _
    | with_reducible apply Within.step sbWriteWord_within rfl
    | with_reducible apply busMoves_within ?_ rfl
    | intro x t h
    | intro t h

theorem execSbReadWord_within {x0 x1 s} : ∀ u, execSbReadWord x0 x1 s = .next u → Within [.freeCtr, .busResult, .hdrs, .flds, .links, .chans, .vecs, .time, .sb, .power, .flash] s u := by
  unfold execSbReadWord
  refine fun _ h => Host.Outcome.next.inj h ▸ ?_
  repeat' first
    | with_reducible assumption
    | with_reducible exact Within.refl _ _
    | with_reducible apply Within.step sbReadWord_within rfl
    | with_reducible apply busMoves_within ?_ rfl
    | intro x t h
    | intro t h

theorem execSdaTo_within {s} : ∀ u, execSdaTo s = .next u → Within [.now, .hdrs, .flds, .vecs, .time, .sb] s u := by
  unfold execSdaTo
  refine fun _ h => Host.Outcome.next.inj h ▸ ?_
  repeat' first
    | with_reducible exact Within.refl _ _
    | with_reducible apply Within.step sbTimeout_within rfl
    | with_reducible apply Within.ite <;> intro _

theorem execSclTo_within {s} : ∀ u, execSclTo s = .next u → Within [.now, .hdrs, .flds, .vecs, .time, .sb] s u := by
  unfold execSclTo
  refine fun _ h => Host.Outcome.next.inj h ▸ ?_
  repeat' first
    | with_reducible exact Within.refl _ _
    | with_reducible apply Within.step sbTimeout_within rfl
    | with_reducible apply Within.ite <;> intro _

theorem execBusHeld_within {s} : ∀ u, execBusHeld s = .next u → Within [.now, .hdrs, .flds, .vecs, .time, .sb] s u := by
  unfold execBusHeld
  refine fun _ h => Host.Outcome.next.inj h ▸ ?_
  repeat' first
    | with_reducible exact Within.refl _ _
    | with_reducible apply Within.step sbTimeout_within rfl
    | with_reducible apply Within.step setSb_within rfl
    | with_reducible apply Within.ite <;> intro _
    | with_reducible exact id
    | with_reducible exact Nat.le_refl _
    | (refine fun (p : Part) hp => ?_; cases p <;> first | (cases hp; done) | with_reducible rfl)
    | with_reducible apply Within.leaf

theorem execSbClrcnt_within {x0 s} : ∀ u, execSbClrcnt x0 s = .next u → Within [.hdrs, .flds, .vecs] s u := by
  unfold execSbClrcnt
  refine fun _ h => Host.Outcome.next.inj h ▸ ?_
  repeat' first
    | with_reducible assumption
    | with_reducible exact Within.refl _ _
    | with_reducible apply Within.step clearSbnd_within rfl
    | with_reducible apply viaReg_within ?_ rfl (.inl rfl)
    | with_reducible apply viaReg_within ?_ rfl (.inl (sleeps_wq _))
    | intro x t h
    | intro t h

/-! ### RegCmd -/

theorem regAddrEvt_within {x0 x1 s} : Within [.hdrs, .vecs] s (regAddrEvt x0 x1 s) :=
  raise_within.mono rfl

theorem noteRefusal_within {x0 x1 x2 s} : Within [.hdrs, .vecs] s (noteRefusal x0 x1 x2 s) := by
  unfold noteRefusal
  repeat' first
    | with_reducible exact Within.refl _ _
    | with_reducible apply Within.step regAddrEvt_within rfl
    | with_reducible apply Within.step noteDeny_within rfl
    | with_reducible apply Within.ite <;> intro _

theorem withParity_within {P r x0 x1 x2 x3 f s} (hf : ∀ t, Within P r t → Within P r (f t)) (hm : [.freeCtr, .hdrs, .flds, .links, .accs, .commits, .chans, .regions, .queues, .jobs, .bells, .vecs, .groups, .pll, .ring, .safe].all P.contains = true)
    (k : Within P r s) : Within P r (withParity x0 x1 x2 x3 f s) := by
  unfold withParity
  repeat' first
    | with_reducible assumption
    | with_reducible exact Within.refl _ _
    | with_reducible apply hf
    | with_reducible apply Within.step pageParity_within (all_contains_trans (R := [.freeCtr, .hdrs, .flds, .links, .accs, .commits, .chans, .regions, .queues, .jobs, .bells, .vecs, .groups, .pll, .ring, .safe]) rfl hm)
    | with_reducible apply Within.step refuseNP_within (all_contains_trans (R := [.freeCtr, .hdrs, .flds, .links, .accs, .commits, .chans, .regions, .queues, .jobs, .bells, .vecs, .groups, .pll, .ring, .safe]) rfl hm)
    | with_reducible apply Within.ite <;> intro _
    | with_reducible exact id
    | with_reducible exact Nat.le_refl _
    | (refine fun (p : Part) hp => ?_; cases p <;> first | (cases hp; done) | with_reducible rfl)
    | intro x t h
    | intro t h
    | with_reducible apply Within.leaf

theorem hostReg_within {P r x0 x1 x2 x3 x4 x5 f s} (hf : ∀ t, Within P r t → Within P r (f t)) (hm : [.hdrs, .flds, .links, .vecs].all P.contains = true)
    (k : Within P r s) : Within P r (hostReg x0 x1 x2 x3 x4 x5 f s) := by
  unfold hostReg
  repeat' first
    | with_reducible assumption
    | with_reducible exact Within.refl _ _
    | with_reducible apply hf
    | with_reducible apply Within.step tagError_within (all_contains_trans (R := [.hdrs, .flds, .links, .vecs]) rfl hm)
    | with_reducible apply Within.step useTag_within (all_contains_trans (R := [.hdrs, .flds, .links, .vecs]) rfl hm)
    | with_reducible apply Within.step refuseNP_within (all_contains_trans (R := [.hdrs, .flds, .links, .vecs]) rfl hm)
    | with_reducible apply Within.step noteRefusal_within (all_contains_trans (R := [.hdrs, .flds, .links, .vecs]) rfl hm)
    | with_reducible apply Within.ite <;> intro _
    | with_reducible exact id
    | with_reducible exact Nat.le_refl _
    | (refine fun (p : Part) hp => ?_; cases p <;> first | (cases hp; done) | with_reducible rfl)
    | intro x t h
    | intro t h
    | split
    | (dsimp only; split)
    | with_reducible apply Within.leaf

theorem readFor_within {x0 x1 x2 x3 s} : Within [.freeCtr, .hdrs, .flds, .links, .vecs, .time, .flash] s (readFor x0 x1 x2 x3 s) := by
  unfold readFor
  repeat' first
    | with_reducible exact Within.refl _ _
    | with_reducible apply Within.step regRead_within rfl
    | with_reducible apply Within.step completeReg_within rfl

theorem writeFor_within {x0 x1 x2 x3 s} : Within [.freeCtr, .busResult, .hdrs, .flds, .links, .accs, .nextId, .commits, .chans, .mem, .recs, .regions, .slots, .built, .queues, .jobs, .bells, .vecs, .groups, .merid, .pll, .time, .ring, .sb, .boot, .power, .flash, .safe, .tap] s (writeFor x0 x1 x2 x3 s) := by
  unfold writeFor
  repeat' first
    | with_reducible exact Within.refl _ _
    | with_reducible apply Within.step complete_within rfl
    | with_reducible apply Within.step setBoot_within rfl
    | with_reducible apply Within.step performWrite_within rfl
    | with_reducible apply Within.ite <;> intro _
    | with_reducible exact id
    | with_reducible exact Nat.le_refl _
    | (refine fun (p : Part) hp => ?_; cases p <;> first | (cases hp; done) | with_reducible rfl)
    | exact flash_wf_of rfl
    | with_reducible apply Within.leaf

theorem hostRegRd_within {x0 x1 x2 x3 x4 s} : Within [.freeCtr, .hdrs, .flds, .links, .accs, .commits, .chans, .regions, .queues, .jobs, .bells, .vecs, .groups, .pll, .time, .ring, .flash, .safe] s (hostRegRd x0 x1 x2 x3 x4 s) := by
  unfold hostRegRd
  repeat' first
    | with_reducible assumption
    | with_reducible exact Within.refl _ _
    | with_reducible apply Within.step readFor_within rfl
    | with_reducible apply hostReg_within ?_ rfl
    | with_reducible apply withParity_within ?_ rfl
    | intro x t h
    | intro t h

theorem hostRegWr_within {x0 x1 x2 x3 x4 s} : Within [.freeCtr, .busResult, .hdrs, .flds, .links, .accs, .nextId, .commits, .chans, .mem, .recs, .regions, .slots, .built, .queues, .jobs, .bells, .vecs, .groups, .merid, .pll, .time, .ring, .sb, .boot, .power, .flash, .safe, .tap] s (hostRegWr x0 x1 x2 x3 x4 s) := by
  unfold hostRegWr
  repeat' first
    | with_reducible assumption
    | with_reducible exact Within.refl _ _
    | with_reducible apply Within.step writeFor_within rfl
    | with_reducible apply hostReg_within ?_ rfl
    | with_reducible apply withParity_within ?_ rfl
    | intro x t h
    | intro t h

theorem hostWrite_within {x0 x1 x2 s} : Within [.freeCtr, .busResult, .hdrs, .flds, .links, .accs, .nextId, .commits, .chans, .mem, .recs, .regions, .slots, .built, .queues, .jobs, .bells, .vecs, .groups, .merid, .pll, .time, .ring, .sb, .boot, .power, .flash, .safe, .tap] s (hostWrite x0 x1 x2 s) := by
  unfold hostWrite
  repeat' first
    | with_reducible exact Within.refl _ _
    | with_reducible apply Within.step countRefused_within rfl
    | with_reducible apply Within.step noteRefusal_within rfl
    | with_reducible apply Within.step performWrite_within rfl
    | with_reducible apply Within.ite <;> intro _
    | with_reducible exact id
    | with_reducible exact Nat.le_refl _
    | (refine fun (p : Part) hp => ?_; cases p <;> first | (cases hp; done) | with_reducible rfl)
    | exact flash_wf_of rfl
    | split
    | (dsimp only; split)
    | with_reducible apply Within.leaf

theorem writeBy_within {x0 x1 x2 s} : ∀ u, writeBy x0 x1 x2 s = .next u → Within [.freeCtr, .busResult, .hdrs, .flds, .links, .accs, .nextId, .commits, .chans, .mem, .recs, .regions, .slots, .built, .queues, .jobs, .bells, .vecs, .groups, .merid, .pll, .time, .ring, .sb, .boot, .power, .flash, .safe, .tap] s u := by
  intro u h
  unfold writeBy at h
  cases x0 with
  | host p => cases h; exact hostWrite_within.mono rfl
  | sideband =>
    cases h
    refine Within.ite (fun _ => sbWrite_within.mono rfl) fun _ => Within.step sbError_within rfl (setSb_within.mono rfl)
  | core =>
    dsimp only at h
    split at h
    · cases h
      exact Within.ite (fun _ => Within.refl _ _) fun _ => performWrite_within.mono rfl
    · cases h

theorem execRegRd_within {x0 x1 x2 x3 x4 s} : ∀ u, execRegRd x0 x1 x2 x3 x4 s = .next u → Within [.freeCtr, .hdrs, .flds, .links, .accs, .commits, .chans, .regions, .queues, .jobs, .bells, .vecs, .groups, .pll, .time, .ring, .flash, .safe] s u := by
  unfold execRegRd
  refine fun _ h => Host.Outcome.next.inj h ▸ ?_
  repeat' first
    | with_reducible assumption
    | with_reducible exact Within.refl _ _
    | with_reducible apply Within.step hostRegRd_within rfl
    | with_reducible apply arrives_within ?_ rfl
    | intro x t h
    | intro t h

theorem execRegWr_within {x0 x1 x2 x3 x4 s} : ∀ u, execRegWr x0 x1 x2 x3 x4 s = .next u → Within [.freeCtr, .busResult, .hdrs, .flds, .links, .accs, .nextId, .commits, .chans, .mem, .recs, .regions, .slots, .built, .queues, .jobs, .bells, .vecs, .groups, .merid, .pll, .time, .ring, .sb, .boot, .power, .flash, .safe, .tap] s u := by
  unfold execRegWr
  refine fun _ h => Host.Outcome.next.inj h ▸ ?_
  repeat' first
    | with_reducible assumption
    | with_reducible exact Within.refl _ _
    | with_reducible apply Within.step hostRegWr_within rfl
    | with_reducible apply arrives_within ?_ rfl
    | intro x t h
    | intro t h

theorem execRegisterWrite_within {x0 x1 x2 x3 s} : ∀ u, execRegisterWrite x0 x1 x2 x3 s = .next u → Within [.freeCtr, .busResult, .hdrs, .flds, .links, .accs, .nextId, .commits, .chans, .mem, .recs, .regions, .slots, .built, .queues, .jobs, .bells, .vecs, .groups, .merid, .pll, .time, .ring, .sb, .boot, .power, .flash, .safe, .tap] s u := by
  intro u h
  unfold execRegisterWrite thenParity at h
  split at h
  · rename_i t ht
    cases h
    have hw := (writeBy_within t ht).mono (P := [.freeCtr, .busResult, .hdrs, .flds, .links, .accs, .nextId, .commits, .chans, .mem, .recs, .regions, .slots, .built, .queues, .jobs, .bells, .vecs, .groups, .merid, .pll, .time, .ring, .sb, .boot, .power, .flash, .safe, .tap]) rfl
    exact onlyIf_within (fun v hv => Within.step pageParity_within rfl hv) hw
  · rename_i x hx
    cases x <;> first | exact absurd h (hx _) | cases h

theorem execEvtForce_within {x0 x1 x2 s} : ∀ u, execEvtForce x0 x1 x2 s = .next u → Within [.freeCtr, .busResult, .hdrs, .flds, .links, .accs, .nextId, .commits, .chans, .mem, .recs, .regions, .slots, .built, .queues, .jobs, .bells, .vecs, .groups, .merid, .pll, .time, .ring, .sb, .boot, .power, .flash, .safe, .tap] s u := fun u h => writeBy_within u h

theorem execEvtClr_within {x0 x1 s} : ∀ u, execEvtClr x0 x1 s = .next u → Within [.freeCtr, .busResult, .hdrs, .flds, .links, .accs, .nextId, .commits, .chans, .mem, .recs, .regions, .slots, .built, .queues, .jobs, .bells, .vecs, .groups, .merid, .pll, .time, .ring, .sb, .boot, .power, .flash, .safe, .tap] s u := fun u h => writeBy_within u h

theorem execCapClr_within {x0 x1 s} : ∀ u, execCapClr x0 x1 s = .next u → Within [.freeCtr, .busResult, .hdrs, .flds, .links, .accs, .nextId, .commits, .chans, .mem, .recs, .regions, .slots, .built, .queues, .jobs, .bells, .vecs, .groups, .merid, .pll, .time, .ring, .sb, .boot, .power, .flash, .safe, .tap] s u := fun u h => writeBy_within u h

theorem runLater_within {x0 s} : Within [.now, .freeCtr, .busResult, .hdrs, .flds, .links, .accs, .nextId, .commits, .chans, .mem, .recs, .regions, .slots, .built, .queues, .jobs, .bells, .vecs, .groups, .merid, .pll, .time, .ring, .sb, .boot, .power, .flash, .safe, .tap] s (runLater x0 s) := by
  unfold runLater
  repeat' first
    | with_reducible assumption
    | with_reducible exact Within.refl _ _
    | with_reducible apply Within.step waitUntil_within rfl
    | with_reducible apply Within.step setBoot_within rfl
    | with_reducible apply Within.step wrBoot_within rfl
    | with_reducible apply forAll_within
    | with_reducible apply Within.ite <;> intro _
    | with_reducible exact id
    | with_reducible exact Nat.le_refl _
    | with_reducible exact Nat.le_add_right _ _
    | (refine fun (p : Part) hp => ?_; cases p <;> first | (cases hp; done) | with_reducible rfl)
    | intro x t h
    | intro t h
    | exact flash_wf_of rfl
    | with_reducible apply Within.leaf

theorem execFlitSend_within {x0 s} : ∀ u, execFlitSend x0 s = .next u → Within [.now, .freeCtr, .busResult, .hdrs, .flds, .links, .accs, .nextId, .commits, .chans, .mem, .recs, .regions, .slots, .built, .queues, .jobs, .bells, .vecs, .groups, .merid, .pll, .time, .ring, .sb, .boot, .power, .flash, .safe, .tap] s u := by
  unfold execFlitSend
  refine fun _ h => Host.Outcome.next.inj h ▸ ?_
  repeat' first
    | with_reducible exact Within.refl _ _
    | with_reducible apply Within.step runLater_within rfl
    | with_reducible apply Within.step flitSend_within rfl

/-! ### Flit -/

theorem protoError_within {x0 x1 x2 s} : Within [.hdrs, .flds, .links, .accs, .commits, .regions, .jobs, .bells, .vecs, .groups, .ring] s (protoError x0 x1 x2 s) := by
  unfold protoError
  repeat' first
    | with_reducible exact Within.refl _ _
    | with_reducible apply Within.step dropToTraining_within rfl
    | with_reducible apply Within.step hpEvt_within rfl

theorem hostMessage_within {x0 x1 x2 s} : Within [.freeCtr, .busResult, .hdrs, .flds, .links, .accs, .nextId, .commits, .chans, .mem, .recs, .regions, .slots, .built, .queues, .jobs, .bells, .vecs, .groups, .merid, .pll, .time, .ring, .sb, .boot, .power, .flash, .safe, .tap] s (hostMessage x0 x1 x2 s) := by
  unfold hostMessage
  repeat' first
    | with_reducible exact Within.refl _ _
    | with_reducible apply Within.step hostRd_within rfl
    | with_reducible apply Within.step hostWrAck_within rfl
    | with_reducible apply Within.step hostWrPost_within rfl
    | with_reducible apply Within.step hostCommit_within rfl
    | with_reducible apply Within.step hostRegRd_within rfl
    | with_reducible apply Within.step hostRegWr_within rfl
    | with_reducible apply Within.step doorbell_within rfl
    | with_reducible apply Within.step hpEvt_within rfl
    | with_reducible exact id
    | with_reducible exact Nat.le_refl _
    | (refine fun (p : Part) hp => ?_; cases p <;> first | (cases hp; done) | with_reducible rfl)
    | exact flash_wf_of rfl
    | split
    | (dsimp only; split)
    | with_reducible apply Within.leaf

theorem hoctlMessage_within {x0 s} : Within [.hdrs, .flds, .links, .accs, .commits, .chans, .regions, .queues, .jobs, .bells, .vecs, .groups, .pll, .ring, .safe] s (hoctlMessage x0 s) := by
  unfold hoctlMessage
  repeat' first
    | with_reducible assumption
    | with_reducible exact Within.refl _ _
    | with_reducible apply Within.step recvStart_within rfl
    | with_reducible apply Within.step recvArmed_within rfl
    | with_reducible apply Within.step recvSwitch_within rfl
    | with_reducible apply Within.step recvReady_within rfl
    | with_reducible apply Within.step recvAbort_within rfl
    | with_reducible apply Within.step recvDone_within rfl
    | with_reducible apply hoReceiving_within ?_ rfl
    | with_reducible exact id
    | with_reducible exact Nat.le_refl _
    | (refine fun (p : Part) hp => ?_; cases p <;> first | (cases hp; done) | with_reducible rfl)
    | intro x t h
    | intro t h
    | split
    | (dsimp only; split)
    | with_reducible apply Within.leaf

theorem ringMessage_within {x0 x1 s} : Within [.hdrs, .flds, .links, .accs, .nextId, .commits, .chans, .recs, .regions, .queues, .jobs, .bells, .vecs, .groups, .pll, .ring, .safe] s (ringMessage x0 x1 s) := by
  unfold ringMessage
  repeat' first
    | with_reducible assumption
    | with_reducible exact Within.refl _ _
    | with_reducible apply Within.step recvKpw_within rfl
    | with_reducible apply Within.step recvKpack_within rfl
    | with_reducible apply Within.step recvHodata_within rfl
    | with_reducible apply Within.step recvHorec_within rfl
    | with_reducible apply Within.step hoctlMessage_within rfl
    | with_reducible apply Within.step recvHoreg_within rfl
    | with_reducible apply Within.step recvHostate_within rfl
    | with_reducible apply hoReceiving_within ?_ rfl
    | with_reducible exact id
    | with_reducible exact Nat.le_refl _
    | (refine fun (p : Part) hp => ?_; cases p <;> first | (cases hp; done) | with_reducible rfl)
    | intro x t h
    | intro t h
    | split
    | (dsimp only; split)
    | with_reducible apply Within.leaf

theorem deliverMsg_within {x0 x1 x2 s} : Within [.freeCtr, .busResult, .hdrs, .flds, .links, .accs, .nextId, .commits, .chans, .mem, .recs, .regions, .slots, .built, .queues, .jobs, .bells, .vecs, .groups, .merid, .pll, .time, .ring, .sb, .boot, .power, .flash, .safe, .tap] s (deliverMsg x0 x1 x2 s) := by
  unfold deliverMsg
  repeat' first
    | with_reducible exact Within.refl _ _
    | with_reducible apply Within.step modLink_within rfl
    | with_reducible apply Within.step hostMessage_within rfl
    | with_reducible apply Within.step ringMessage_within rfl
    | with_reducible apply Within.ite <;> intro _
    | with_reducible exact id
    | with_reducible exact Nat.le_refl _
    | (refine fun (p : Part) hp => ?_; cases p <;> first | (cases hp; done) | with_reducible rfl)
    | exact flash_wf_of rfl
    | with_reducible apply Within.leaf

theorem beginRx_within {x0 x1 s} : Within [.freeCtr, .busResult, .hdrs, .flds, .links, .accs, .nextId, .commits, .chans, .mem, .recs, .regions, .slots, .built, .queues, .jobs, .bells, .vecs, .groups, .merid, .pll, .time, .ring, .sb, .boot, .power, .flash, .safe, .tap] s (beginRx x0 x1 s) := by
  unfold beginRx
  repeat' first
    | with_reducible exact Within.refl _ _
    | with_reducible apply Within.step protoError_within rfl
    | with_reducible apply Within.step setLink_within rfl
    | with_reducible apply Within.step deliverMsg_within rfl
    | with_reducible apply Within.ite <;> intro _
    | with_reducible exact id
    | with_reducible exact Nat.le_refl _
    | (refine fun (p : Part) hp => ?_; cases p <;> first | (cases hp; done) | with_reducible rfl)
    | exact flash_wf_of rfl
    | split
    | (dsimp only; split)
    | with_reducible apply Within.leaf

theorem takeSlot_within {x0 x1 s} : Within [.freeCtr, .busResult, .hdrs, .flds, .links, .accs, .nextId, .commits, .chans, .mem, .recs, .regions, .slots, .built, .queues, .jobs, .bells, .vecs, .groups, .merid, .pll, .time, .ring, .sb, .boot, .power, .flash, .safe, .tap] s (takeSlot x0 x1 s) := by
  unfold takeSlot
  repeat' first
    | with_reducible exact Within.refl _ _
    | with_reducible apply Within.step beginRx_within rfl
    | with_reducible apply Within.step deliverMsg_within rfl
    | with_reducible apply Within.step setLink_within rfl
    | with_reducible apply Within.ite <;> intro _
    | with_reducible exact id
    | with_reducible exact Nat.le_refl _
    | (refine fun (p : Part) hp => ?_; cases p <;> first | (cases hp; done) | with_reducible rfl)
    | exact flash_wf_of rfl
    | with_reducible apply Within.leaf

theorem nakFlit_within {x0 s} : Within [.flds, .links] s (nakFlit x0 s) := by
  unfold nakFlit
  repeat' first
    | with_reducible exact Within.refl _ _
    | with_reducible apply Within.step modLink_within rfl
    | with_reducible apply Within.step fbump_within rfl
    | with_reducible apply Within.ite <;> intro _
    | with_reducible exact id
    | with_reducible exact Nat.le_refl _
    | (refine fun (p : Part) hp => ?_; cases p <;> first | (cases hp; done) | with_reducible rfl)
    | with_reducible apply Within.leaf

theorem takeAck_within {x0 x1 x2 s} : Within [.hdrs, .flds, .links, .accs, .commits, .regions, .jobs, .bells, .vecs, .groups, .ring] s (takeAck x0 x1 x2 s) := by
  unfold takeAck
  repeat' first
    | with_reducible exact Within.refl _ _
    | with_reducible apply Within.step protoError_within rfl
    | with_reducible apply Within.step freeUpTo_within rfl
    | with_reducible apply Within.step recvNak_within rfl
    | with_reducible apply Within.ite <;> intro _
    | with_reducible exact id
    | with_reducible exact Nat.le_refl _
    | (refine fun (p : Part) hp => ?_; cases p <;> first | (cases hp; done) | with_reducible rfl)
    | split
    | (dsimp only; split)
    | with_reducible apply Within.leaf

theorem acceptTx_within {x0 x1 s} : Within [.freeCtr, .busResult, .hdrs, .flds, .links, .accs, .nextId, .commits, .chans, .mem, .recs, .regions, .slots, .built, .queues, .jobs, .bells, .vecs, .groups, .merid, .pll, .time, .ring, .sb, .boot, .power, .flash, .safe, .tap] s (acceptTx x0 x1 s) := by
  unfold acceptTx
  repeat' first
    | with_reducible assumption
    | with_reducible exact Within.refl _ _
    | with_reducible apply Within.step modLink_within rfl
    | with_reducible apply Within.step protoError_within rfl
    | with_reducible apply Within.step takeSlot_within rfl
    | with_reducible apply forAll_within
    | with_reducible apply Within.ite <;> intro _
    | with_reducible exact id
    | with_reducible exact Nat.le_refl _
    | (refine fun (p : Part) hp => ?_; cases p <;> first | (cases hp; done) | with_reducible rfl)
    | intro x t h
    | intro t h
    | exact flash_wf_of rfl
    | split
    | (dsimp only; split)
    | with_reducible apply Within.leaf

theorem goodFlit_within {x0 x1 s} : Within [.freeCtr, .busResult, .hdrs, .flds, .links, .accs, .nextId, .commits, .chans, .mem, .recs, .regions, .slots, .built, .queues, .jobs, .bells, .vecs, .groups, .merid, .pll, .time, .ring, .sb, .boot, .power, .flash, .safe, .tap] s (goodFlit x0 x1 s) := by
  unfold goodFlit
  repeat' first
    | with_reducible exact Within.refl _ _
    | with_reducible apply Within.step takeAck_within rfl
    | with_reducible apply Within.step heard_within rfl
    | with_reducible apply Within.step acceptTx_within rfl
    | with_reducible apply Within.step nakFlit_within rfl
    | with_reducible apply Within.ite <;> intro _

theorem takeFlit_within {x0 x1 s} : Within [.freeCtr, .busResult, .hdrs, .flds, .links, .accs, .nextId, .commits, .chans, .mem, .recs, .regions, .slots, .built, .queues, .jobs, .bells, .vecs, .groups, .merid, .pll, .time, .ring, .sb, .boot, .power, .flash, .safe, .tap] s (takeFlit x0 x1 s) := by
  unfold takeFlit
  repeat' first
    | with_reducible exact Within.refl _ _
    | with_reducible apply Within.step nakFlit_within rfl
    | with_reducible apply Within.step fbump_within rfl
    | with_reducible apply Within.step goodFlit_within rfl
    | with_reducible apply Within.ite <;> intro _

theorem countFixed_within {x0 x1 x2 x3 s} : Within [.flds] s (countFixed x0 x1 x2 x3 s) := by
  unfold countFixed
  repeat' first
    | with_reducible assumption
    | with_reducible exact Within.refl _ _
    | with_reducible apply Within.step fbump_within rfl
    | with_reducible apply forAll_within
    | intro x t h
    | intro t h

theorem recvCodeword_within {x0 x1 s} : Within [.freeCtr, .busResult, .hdrs, .flds, .links, .accs, .nextId, .commits, .chans, .mem, .recs, .regions, .slots, .built, .queues, .jobs, .bells, .vecs, .groups, .merid, .pll, .time, .ring, .sb, .boot, .power, .flash, .safe, .tap] s (recvCodeword x0 x1 s) := by
  unfold recvCodeword
  repeat' first
    | with_reducible assumption
    | with_reducible exact Within.refl _ _
    | with_reducible apply Within.step setLink_within rfl
    | with_reducible apply Within.step nakFlit_within rfl
    | with_reducible apply Within.step fbump_within rfl
    | with_reducible apply Within.step takeFlit_within rfl
    | with_reducible apply Within.step countFixed_within rfl
    | with_reducible apply foldl_within
    | with_reducible apply Within.ite <;> intro _
    | with_reducible exact id
    | with_reducible exact Nat.le_refl _
    | (refine fun (p : Part) hp => ?_; cases p <;> first | (cases hp; done) | with_reducible rfl)
    | intro x t h
    | intro t h
    | exact flash_wf_of rfl
    | split
    | (dsimp only; split)
    | with_reducible apply Within.leaf

theorem flitReceive_within {x0 x1 x2 s} : Within [.freeCtr, .busResult, .hdrs, .flds, .links, .accs, .nextId, .commits, .chans, .mem, .recs, .regions, .slots, .built, .queues, .jobs, .bells, .vecs, .groups, .merid, .pll, .time, .ring, .sb, .boot, .power, .flash, .safe, .tap] s (flitReceive x0 x1 x2 s) := by
  unfold flitReceive
  repeat' first
    | with_reducible assumption
    | with_reducible exact Within.refl _ _
    | with_reducible apply Within.step portFault_within rfl
    | with_reducible apply Within.step recvCodeword_within rfl
    | with_reducible apply onlyIf_within
    | with_reducible apply Within.ite <;> intro _
    | intro x t h
    | intro t h

theorem execFlitReceive_within {x0 x1 x2 s} : ∀ u, execFlitReceive x0 x1 x2 s = .next u → Within [.freeCtr, .busResult, .hdrs, .flds, .links, .accs, .nextId, .commits, .chans, .mem, .recs, .regions, .slots, .built, .queues, .jobs, .bells, .vecs, .groups, .merid, .pll, .time, .ring, .sb, .boot, .power, .flash, .safe, .tap] s u :=
  fun _ h => Host.Outcome.next.inj h ▸ flitReceive_within.mono rfl

end Sys2Proof.Machine
end

