-- ==== Sys2Proof/Laws/PerInstr.lean ====
section
/-!
SUPPORT. The family Keeps: whatever next state a command answers, the queue of waiting commands and the values of manufacture are as
before, the clock has not run back, and the stored bytes keep their canonical form. One lemma per constructor.
-/

namespace Sys2Proof.Laws

open Sys2Proof.Machine

/-- Every part of the state but the queue of waiting commands and the values of manufacture. -/
abbrev Keeps.rest : List Part := [.now, .freeCtr, .busResult, .hdrs, .flds, .links, .accs, .nextId, .commits, .chans, .mem, .recs, .regions,
  .slots, .built, .queues, .jobs, .bells, .vecs, .groups, .merid, .pll, .time, .ring, .sb, .boot, .power, .flash, .safe, .tap]

/-- What the family says of a command. -/
def Keeps.Statement (i : Instr) : Prop := StaysWithin Keeps.rest i

theorem Keeps.registerWrite (src : Src) (addr : RegAddr) (val : Word) (parity : Bool) : Keeps.Statement (.registerWrite src addr val parity) := fun _ _ h => (execRegisterWrite_within _ h).mono rfl
theorem Keeps.evtForce (src : Src) (page : Fin 256) (mask : Word) : Keeps.Statement (.evtForce src page mask) := fun _ _ h => (execEvtForce_within _ h).mono rfl
theorem Keeps.evtClr (src : Src) (page : Fin 256) : Keeps.Statement (.evtClr src page) := fun _ _ h => (execEvtClr_within _ h).mono rfl
theorem Keeps.capClr (src : Src) (page : Fin 256) : Keeps.Statement (.capClr src page) := fun _ _ h => (execCapClr_within _ h).mono rfl
theorem Keeps.meridianPulse : Keeps.Statement (.meridianPulse) := fun _ _ h => (execMeridianPulse_within _ h).mono rfl
theorem Keeps.blankingWindowOpen : Keeps.Statement (.blankingWindowOpen) := fun _ _ h => (execBlankingWindowOpen_within _ h).mono rfl
theorem Keeps.rd (port : Fin 16) (tag : Fin 512) (len : Fin 64) (tc : BitVec 2) (maxage : BitVec 8) (addr : BitVec 40) : Keeps.Statement (.rd port tag len tc maxage addr) := fun _ _ h => (execRd_within (x3 := tc) _ h).mono rfl
theorem Keeps.wrAck (port : Fin 16) (tag : Fin 512) (len : Fin 64) (tc : BitVec 2) (addr : BitVec 40) (data : List Byte) : Keeps.Statement (.wrAck port tag len tc addr data) := fun _ _ h => (execWrAck_within (x3 := tc) _ h).mono rfl
theorem Keeps.wrPost (port : Fin 16) (len : Fin 64) (tc : BitVec 2) (addr : BitVec 40) (data : List Byte) : Keeps.Statement (.wrPost port len tc addr data) := fun _ _ h => (execWrPost_within (x2 := tc) _ h).mono rfl
theorem Keeps.commit (port : Fin 16) (tag : Fin 512) (touch : Bool) (region : Fin 256) (frame : BitVec 16) : Keeps.Statement (.commit port tag touch region frame) := fun _ _ h => (execCommit_within _ h).mono rfl
theorem Keeps.commitAccept (region : Fin 256) : Keeps.Statement (.commitAccept region) := fun _ _ h => (execCommitAccept_within _ h).mono rfl
theorem Keeps.fillForwardDone (region : Fin 256) (bad : List (Nat × Nat)) : Keeps.Statement (.fillForwardDone region bad) := fun _ _ h => (execFillForwardDone_within _ h).mono rfl
theorem Keeps.regRd (port : Fin 16) (tag : Fin 512) (raddr : RegAddr) (parity : Bool) (rd : FlashIn) : Keeps.Statement (.regRd port tag raddr parity rd) := fun _ _ h => (execRegRd_within _ h).mono rfl
theorem Keeps.regWr (port : Fin 16) (tag : Fin 512) (raddr : RegAddr) (data : Word) (parity : Bool) : Keeps.Statement (.regWr port tag raddr data parity) := fun _ _ h => (execRegWr_within _ h).mono rfl
theorem Keeps.doorbell (port : Fin 16) (queue : Fin 256) (pidx : BitVec 16) : Keeps.Statement (.doorbell port queue pidx) := fun _ _ h => (execDoorbell_within _ h).mono rfl
theorem Keeps.orderingPointPass (access : Nat) : Keeps.Statement (.orderingPointPass access) := fun _ _ h => (execOrderingPointPass_within _ h).mono rfl
theorem Keeps.schedulerSlot (ch : Fin 64) (slot : SlotIn) : Keeps.Statement (.schedulerSlot ch slot) := fun _ _ h => (execSchedulerSlot_within _ h).mono rfl
theorem Keeps.readComplete (access : Nat) (errs : List RdErr) : Keeps.Statement (.readComplete access errs) := fun _ _ h => (execReadComplete_within _ h).mono rfl
theorem Keeps.phyFault (ch : Fin 64) (canDrive : Bool) : Keeps.Statement (.phyFault ch canDrive) := fun _ _ h => (execPhyFault_within _ h).mono rfl
theorem Keeps.refreshTick (ch : Fin 64) (rank : Fin 2) : Keeps.Statement (.refreshTick ch rank) := fun _ _ h => (execRefreshTick_within _ h).mono rfl
theorem Keeps.backgroundDue (ch : Fin 64) (act : BgAct) : Keeps.Statement (.backgroundDue ch act) := fun _ _ h => (execBackgroundDue_within _ h).mono rfl
theorem Keeps.backgroundSlackOut (ch : Fin 64) (act : BgAct) : Keeps.Statement (.backgroundSlackOut ch act) := fun _ _ h => (execBackgroundSlackOut_within _ h).mono rfl
theorem Keeps.oscMeasureDone (ch : Fin 64) (drift : Int) : Keeps.Statement (.oscMeasureDone ch drift) := fun _ _ h => (execOscMeasureDone_within _ h).mono rfl
theorem Keeps.mr4ReadDone (ch : Fin 64) (rank : Fin 2) (mult : RefMult) : Keeps.Statement (.mr4ReadDone ch rank mult) := fun _ _ h => (execMr4ReadDone_within _ h).mono rfl
theorem Keeps.scrubPassDeadline (ch : Fin 64) : Keeps.Statement (.scrubPassDeadline ch) := fun _ _ h => (execScrubPassDeadline_within _ h).mono rfl
theorem Keeps.telemetrySnap (src : Src) (ch : Fin 64) : Keeps.Statement (.telemetrySnap src ch) := fun _ _ h => (execTelemetrySnap_within _ h).mono rfl
theorem Keeps.chClrcnt (src : Src) (ch : Fin 64) : Keeps.Statement (.chClrcnt src ch) := fun _ _ h => (execChClrcnt_within _ h).mono rfl
theorem Keeps.powerdownEntry (ch : Fin 64) : Keeps.Statement (.powerdownEntry ch) := fun _ _ h => (execPowerdownEntry_within _ h).mono rfl
theorem Keeps.rowRedirect (ch : Fin 64) (errs : List RdErr) : Keeps.Statement (.rowRedirect ch errs) := fun _ _ h => (execRowRedirect_within _ h).mono rfl
theorem Keeps.redirectDone (ch : Fin 64) : Keeps.Statement (.redirectDone ch) := fun _ _ h => (execRedirectDone_within _ h).mono rfl
theorem Keeps.descriptorFetch (queue : Fin 256) (errs : List RdErr) : Keeps.Statement (.descriptorFetch queue errs) := fun _ _ h => (execDescriptorFetch_within _ h).mono rfl
theorem Keeps.descriptorStart (queue : Fin 256) : Keeps.Statement (.descriptorStart queue) := fun _ _ h => (execDescriptorStart_within _ h).mono rfl
theorem Keeps.chunkTake (group : Fin 8) (unit : Fin 16) : Keeps.Statement (.chunkTake group unit) := fun _ _ h => (execChunkTake_within _ h).mono rfl
theorem Keeps.chunkComplete (group : Fin 8) (unit : Fin 16) (faults : ChunkIn) : Keeps.Statement (.chunkComplete group unit faults) := fun _ _ h => (execChunkComplete_within _ h).mono rfl
theorem Keeps.groupReturn (group : Fin 8) : Keeps.Statement (.groupReturn group) := fun _ _ h => (execGroupReturn_within _ h).mono rfl
theorem Keeps.movePiece (queue : Fin 256) (idx : BitVec 16) (errs : List RdErr) : Keeps.Statement (.movePiece queue idx errs) := fun _ _ h => (execMovePiece_within _ h).mono rfl
theorem Keeps.jobComplete (queue : Fin 256) (idx : BitVec 16) : Keeps.Statement (.jobComplete queue idx) := fun _ _ h => (execJobComplete_within _ h).mono rfl
theorem Keeps.completionRecordPass (queue : Fin 256) (idx : BitVec 16) : Keeps.Statement (.completionRecordPass queue idx) := fun _ _ h => (execCompletionRecordPass_within _ h).mono rfl
theorem Keeps.qpidxWrite (src : Src) (queue : Fin 256) (pidx : BitVec 16) : Keeps.Statement (.qpidxWrite src queue pidx) := fun _ _ h => (execQpidxWrite_within _ h).mono rfl
theorem Keeps.queueEnable (src : Src) (queue : Fin 256) : Keeps.Statement (.queueEnable src queue) := fun _ _ h => (execQueueEnable_within _ h).mono rfl
theorem Keeps.queueDisable (src : Src) (queue : Fin 256) : Keeps.Statement (.queueDisable src queue) := fun _ _ h => (execQueueDisable_within _ h).mono rfl
theorem Keeps.queueAbort (src : Src) (queue : Fin 256) : Keeps.Statement (.queueAbort src queue) := fun _ _ h => (execQueueAbort_within _ h).mono rfl
theorem Keeps.queueClrcnt (src : Src) (queue : Fin 256) : Keeps.Statement (.queueClrcnt src queue) := fun _ _ h => (execQueueClrcnt_within _ h).mono rfl
theorem Keeps.queueConfigWrite (src : Src) (queue : Fin 256) (reg : QReg) (val : Word) : Keeps.Statement (.queueConfigWrite src queue reg val) := fun _ _ h => (execQueueConfigWrite_within _ h).mono rfl
theorem Keeps.queueDrained (queue : Fin 256) : Keeps.Statement (.queueDrained queue) := fun _ _ h => (execQueueDrained_within _ h).mono rfl
theorem Keeps.irqSend (vec : Fin 512) : Keeps.Statement (.irqSend vec) := fun _ _ h => (execIrqSend_within _ h).mono rfl
theorem Keeps.holdExpire (vec : Fin 512) : Keeps.Statement (.holdExpire vec) := fun _ _ h => (execHoldExpire_within _ h).mono rfl
theorem Keeps.vectorFire (src : Src) : Keeps.Statement (.vectorFire src) := fun _ _ h => (execVectorFire_within _ h).mono rfl
theorem Keeps.vectorClrpend (src : Src) : Keeps.Statement (.vectorClrpend src) := fun _ _ h => (execVectorClrpend_within _ h).mono rfl
theorem Keeps.regionEnable (src : Src) : Keeps.Statement (.regionEnable src) := fun _ _ h => (execRegionEnable_within _ h).mono rfl
theorem Keeps.initDone (region : Fin 256) : Keeps.Statement (.initDone region) := fun _ _ h => (execInitDone_within _ h).mono rfl
theorem Keeps.regionDisable (src : Src) : Keeps.Statement (.regionDisable src) := fun _ _ h => (execRegionDisable_within _ h).mono rfl
theorem Keeps.regionClrcnt (src : Src) : Keeps.Statement (.regionClrcnt src) := fun _ _ h => (execRegionClrcnt_within _ h).mono rfl
theorem Keeps.slotTableBuild : Keeps.Statement (.slotTableBuild) := fun _ _ h => (execSlotTableBuild_within _ h).mono rfl
theorem Keeps.kpResyncDone (region : Fin 256) (bad : List (Nat × Nat)) : Keeps.Statement (.kpResyncDone region bad) := fun _ _ h => (execKpResyncDone_within _ h).mono rfl
theorem Keeps.epchClrcnt (src : Src) : Keeps.Statement (.epchClrcnt src) := fun _ _ h => (execEpchClrcnt_within _ h).mono rfl
theorem Keeps.flitReceive (link : Fin 20) (words : List (Fin 4 × BitVec 128)) (parity : Bool) : Keeps.Statement (.flitReceive link words parity) := fun _ _ h => (execFlitReceive_within _ h).mono rfl
theorem Keeps.flitSend (link : Fin 20) : Keeps.Statement (.flitSend link) := fun _ _ h => (execFlitSend_within _ h).mono rfl
theorem Keeps.ackTimer (link : Fin 20) : Keeps.Statement (.ackTimer link) := fun _ _ h => (execAckTimer_within _ h).mono rfl
theorem Keeps.replayTimeout (link : Fin 20) : Keeps.Statement (.replayTimeout link) := fun _ _ h => (execReplayTimeout_within _ h).mono rfl
theorem Keeps.xcmdClrcnt (src : Src) (link : Fin 20) : Keeps.Statement (.xcmdClrcnt src link) := fun _ _ h => (execXcmdClrcnt_within _ h).mono rfl
theorem Keeps.markerGroup (link : Fin 20) (words : List (Option (Fin 4 × BitVec 128))) : Keeps.Statement (.markerGroup link words) := fun _ _ h => (execMarkerGroup_within _ h).mono rfl
theorem Keeps.markerGroupDue (link : Fin 20) : Keeps.Statement (.markerGroupDue link) := fun _ _ h => (execMarkerGroupDue_within _ h).mono rfl
theorem Keeps.laneFault (link : Fin 20) (lane : Fin 8) : Keeps.Statement (.laneFault link lane) := fun _ _ h => (execLaneFault_within _ h).mono rfl
theorem Keeps.retireReq (link : Fin 20) (mask : BitVec 8) : Keeps.Statement (.retireReq link mask) := fun _ _ h => (execRetireReq_within _ h).mono rfl
theorem Keeps.retireAck (link : Fin 20) (mask : BitVec 8) : Keeps.Statement (.retireAck link mask) := fun _ _ h => (execRetireAck_within _ h).mono rfl
theorem Keeps.retireReqRepeat (link : Fin 20) : Keeps.Statement (.retireReqRepeat link) := fun _ _ h => (execRetireReqRepeat_within _ h).mono rfl
theorem Keeps.retireTo (link : Fin 20) : Keeps.Statement (.retireTo link) := fun _ _ h => (execRetireTo_within _ h).mono rfl
theorem Keeps.portEnable (src : Src) (link : Fin 20) : Keeps.Statement (.portEnable src link) := fun _ _ h => (execPortEnable_within _ h).mono rfl
theorem Keeps.portDisable (src : Src) (link : Fin 20) : Keeps.Statement (.portDisable src link) := fun _ _ h => (execPortDisable_within _ h).mono rfl
theorem Keeps.retrain (src : Src) (link : Fin 20) : Keeps.Statement (.retrain src link) := fun _ _ h => (execRetrain_within _ h).mono rfl
theorem Keeps.laneClrcnt (src : Src) (link : Fin 20) : Keeps.Statement (.laneClrcnt src link) := fun _ _ h => (execLaneClrcnt_within _ h).mono rfl
theorem Keeps.signalDetect (link : Fin 20) (lane : Fin 8) : Keeps.Statement (.signalDetect link lane) := fun _ _ h => (execSignalDetect_within _ h).mono rfl
theorem Keeps.cdrLock (link : Fin 20) (lane : Fin 8) : Keeps.Statement (.cdrLock link lane) := fun _ _ h => (execCdrLock_within _ h).mono rfl
theorem Keeps.trainingBlock (link : Fin 20) (lane : Fin 8) (block : TrainIn) : Keeps.Statement (.trainingBlock link lane block) := fun _ _ h => (execTrainingBlock_within _ h).mono rfl
theorem Keeps.phaseTimeout (link : Fin 20) : Keeps.Statement (.phaseTimeout link) := fun _ _ h => (execPhaseTimeout_within _ h).mono rfl
theorem Keeps.listenPeriod (link : Fin 20) : Keeps.Statement (.listenPeriod link) := fun _ _ h => (execListenPeriod_within _ h).mono rfl
theorem Keeps.algnSlip (src : Src) (link : Fin 20) (mask : BitVec 8) : Keeps.Statement (.algnSlip src link mask) := fun _ _ h => (execAlgnSlip_within _ h).mono rfl
theorem Keeps.algnDrop (src : Src) (link : Fin 20) (mask : BitVec 8) : Keeps.Statement (.algnDrop src link mask) := fun _ _ h => (execAlgnDrop_within _ h).mono rfl
theorem Keeps.retryPeriod (link : Fin 20) : Keeps.Statement (.retryPeriod link) := fun _ _ h => (execRetryPeriod_within _ h).mono rfl
theorem Keeps.soakEnd (link : Fin 20) (lane : Fin 8) (localErrs : Nat) (farPassed : Bool) : Keeps.Statement (.soakEnd link lane localErrs farPassed) := fun _ _ h => (execSoakEnd_within _ h).mono rfl
theorem Keeps.widenReq (link : Fin 20) (mask : BitVec 8) : Keeps.Statement (.widenReq link mask) := fun _ _ h => (execWidenReq_within _ h).mono rfl
theorem Keeps.widenAck (link : Fin 20) (mask : BitVec 8) : Keeps.Statement (.widenAck link mask) := fun _ _ h => (execWidenAck_within _ h).mono rfl
theorem Keeps.widenAckTimeout (link : Fin 20) : Keeps.Statement (.widenAckTimeout link) := fun _ _ h => (execWidenAckTimeout_within _ h).mono rfl
theorem Keeps.laneTest (src : Src) (link : Fin 20) (lane : Fin 8) (val : Word) : Keeps.Statement (.laneTest src link lane val) := fun _ _ h => (execLaneTest_within _ h).mono rfl
theorem Keeps.prbsInject (src : Src) (link : Fin 20) (lane : Fin 8) : Keeps.Statement (.prbsInject src link lane) := fun _ _ h => (execPrbsInject_within _ h).mono rfl
theorem Keeps.checkerLock (link : Fin 20) (lane : Fin 8) (syms : List (Fin 4)) : Keeps.Statement (.checkerLock link lane syms) := fun _ _ h => (execCheckerLock_within _ h).mono rfl
theorem Keeps.chkLoss (link : Fin 20) (lane : Fin 8) (syms : List (Fin 4)) : Keeps.Statement (.chkLoss link lane syms) := fun _ _ h => (execChkLoss_within _ h).mono rfl
theorem Keeps.portStandbyStart (link : Fin 20) : Keeps.Statement (.portStandbyStart link) := fun _ _ h => (execPortStandbyStart_within _ h).mono rfl
theorem Keeps.stbyAck (link : Fin 20) : Keeps.Statement (.stbyAck link) := fun _ _ h => (execStbyAck_within _ h).mono rfl
theorem Keeps.stbyTimeout (link : Fin 20) : Keeps.Statement (.stbyTimeout link) := fun _ _ h => (execStbyTimeout_within _ h).mono rfl
theorem Keeps.portWake (link : Fin 20) (locked : BitVec 8) : Keeps.Statement (.portWake link locked) := fun _ _ h => (execPortWake_within _ h).mono rfl
theorem Keeps.wakeLockTimeout (link : Fin 20) (lane : Fin 8) : Keeps.Statement (.wakeLockTimeout link lane) := fun _ _ h => (execWakeLockTimeout_within _ h).mono rfl
theorem Keeps.powerStateEntry : Keeps.Statement (.powerStateEntry) := fun _ _ h => (execPowerStateEntry_within _ h).mono rfl
theorem Keeps.deviceWake (cause : WakeCause) : Keeps.Statement (.deviceWake cause) := fun _ _ h => (execDeviceWake_within _ h).mono rfl
theorem Keeps.retain (src : Src) : Keeps.Statement (.retain src) := fun _ _ h => (execRetain_within _ h).mono rfl
theorem Keeps.retentionEntered : Keeps.Statement (.retentionEntered) := fun _ _ h => (execRetentionEntered_within _ h).mono rfl
theorem Keeps.retainAbandon : Keeps.Statement (.retainAbandon) := fun _ _ h => (execRetainAbandon_within _ h).mono rfl
theorem Keeps.retentionWake : Keeps.Statement (.retentionWake) := fun _ _ h => (execRetentionWake_within _ h).mono rfl
theorem Keeps.retentionExitDone : Keeps.Statement (.retentionExitDone) := fun _ _ h => (execRetentionExitDone_within _ h).mono rfl
theorem Keeps.trainingCampaign (ch : Fin 64) (kind : Campaign) : Keeps.Statement (.trainingCampaign ch kind) := fun _ _ h => (execTrainingCampaign_within _ h).mono rfl
theorem Keeps.campaignEnd (ch : Fin 64) (result : CampaignResult) : Keeps.Statement (.campaignEnd ch result) := fun _ _ h => (execCampaignEnd_within _ h).mono rfl
theorem Keeps.channelNoresp (ch : Fin 64) : Keeps.Statement (.channelNoresp ch) := fun _ _ h => (execChannelNoresp_within _ h).mono rfl
theorem Keeps.sweepGo (src : Src) (ch : Fin 64) : Keeps.Statement (.sweepGo src ch) := fun _ _ h => (execSweepGo_within _ h).mono rfl
theorem Keeps.sweepAbort (src : Src) (ch : Fin 64) (beats : List (List (BitVec 18))) : Keeps.Statement (.sweepAbort src ch beats) := fun _ _ h => (execSweepAbort_within _ h).mono rfl
theorem Keeps.sweepDone (ch : Fin 64) (beats : List (List (BitVec 18))) : Keeps.Statement (.sweepDone ch beats) := fun _ _ h => (execSweepDone_within _ h).mono rfl
theorem Keeps.sweepTruncate (ch : Fin 64) (beats : List (List (BitVec 18))) : Keeps.Statement (.sweepTruncate ch beats) := fun _ _ h => (execSweepTruncate_within _ h).mono rfl
theorem Keeps.urdataAccess (src : Src) (ch : Fin 64) (write : Option Word) : Keeps.Statement (.urdataAccess src ch write) := fun _ _ h => (execUrdataAccess_within _ h).mono rfl
theorem Keeps.dspreq (src : Src) (target : BitVec 2) : Keeps.Statement (.dspreq src target) := fun _ _ h => (execDspreq_within _ h).mono rfl
theorem Keeps.setPointChangeStart : Keeps.Statement (.setPointChangeStart) := fun _ _ h => (execSetPointChangeStart_within _ h).mono rfl
theorem Keeps.setPointChangeEnd : Keeps.Statement (.setPointChangeEnd) := fun _ _ h => (execSetPointChangeEnd_within _ h).mono rfl
theorem Keeps.almanacWrite : Keeps.Statement (.almanacWrite) := fun _ _ h => (execAlmanacWrite_within _ h).mono rfl
theorem Keeps.shortRetrainDone (ch : Fin 64) (pass : Bool) (found : Recentred) : Keeps.Statement (.shortRetrainDone ch pass found) := fun _ _ h => (execShortRetrainDone_within _ h).mono rfl
theorem Keeps.refclkQualified (ferr : Int) : Keeps.Statement (.refclkQualified ferr) := fun _ _ h => (execRefclkQualified_within _ h).mono rfl
theorem Keeps.freerun : Keeps.Statement (.freerun) := fun _ _ h => (execFreerun_within _ h).mono rfl
theorem Keeps.pllLock : Keeps.Statement (.pllLock) := fun _ _ h => (execPllLock_within _ h).mono rfl
theorem Keeps.refclkLoss : Keeps.Statement (.refclkLoss) := fun _ _ h => (execRefclkLoss_within _ h).mono rfl
theorem Keeps.refStep : Keeps.Statement (.refStep) := fun _ _ h => (execRefStep_within _ h).mono rfl
theorem Keeps.unlock : Keeps.Statement (.unlock) := fun _ _ h => (execUnlock_within _ h).mono rfl
theorem Keeps.relockRampStep : Keeps.Statement (.relockRampStep) := fun _ _ h => (execRelockRampStep_within _ h).mono rfl
theorem Keeps.phaseMeasured (dphi : Int) : Keeps.Statement (.phaseMeasured dphi) := fun _ _ h => (execPhaseMeasured_within _ h).mono rfl
theorem Keeps.pjcmdSlew (src : Src) : Keeps.Statement (.pjcmdSlew src) := fun _ _ h => (execPjcmdSlew_within _ h).mono rfl
theorem Keeps.pjcmdStep (src : Src) : Keeps.Statement (.pjcmdStep src) := fun _ _ h => (execPjcmdStep_within _ h).mono rfl
theorem Keeps.stepDone : Keeps.Statement (.stepDone) := fun _ _ h => (execStepDone_within _ h).mono rfl
theorem Keeps.clockMonitorFail (mon : Fin 8) : Keeps.Statement (.clockMonitorFail mon) := fun _ _ h => (execClockMonitorFail_within _ h).mono rfl
theorem Keeps.clkOutputEnable (src : Src) (out : Fin 6) (en : Bool) : Keeps.Statement (.clkOutputEnable src out en) := fun _ _ h => (execClkOutputEnable_within _ h).mono rfl
theorem Keeps.fdlyWrite (src : Src) (out : Fin 6) (fdly : BitVec 8) : Keeps.Statement (.fdlyWrite src out fdly) := fun _ _ h => (execFdlyWrite_within _ h).mono rfl
theorem Keeps.dseedWrite (src : Src) (seed : Word) : Keeps.Statement (.dseedWrite src seed) := fun _ _ h => (execDseedWrite_within _ h).mono rfl
theorem Keeps.clkClrcnt (src : Src) : Keeps.Statement (.clkClrcnt src) := fun _ _ h => (execClkClrcnt_within _ h).mono rfl
theorem Keeps.ldlySend (port : Fin 4) : Keeps.Statement (.ldlySend port) := fun _ _ h => (execLdlySend_within _ h).mono rfl
theorem Keeps.ldly (port : Fin 4) (group : TimeGroup) : Keeps.Statement (.ldly port group) := fun _ _ h => (execLdly_within _ h).mono rfl
theorem Keeps.syncSend : Keeps.Statement (.syncSend) := fun _ _ h => (execSyncSend_within _ h).mono rfl
theorem Keeps.sync (port : Fin 4) (group : TimeGroup) : Keeps.Statement (.sync port group) := fun _ _ h => (execSync_within _ h).mono rfl
theorem Keeps.syncLoss : Keeps.Statement (.syncLoss) := fun _ _ h => (execSyncLoss_within _ h).mono rfl
theorem Keeps.timeSet (src : Src) : Keeps.Statement (.timeSet src) := fun _ _ h => (execTimeSet_within _ h).mono rfl
theorem Keeps.epadopt (src : Src) : Keeps.Statement (.epadopt src) := fun _ _ h => (execEpadopt_within _ h).mono rfl
theorem Keeps.timeStep (src : Src) : Keeps.Statement (.timeStep src) := fun _ _ h => (execTimeStep_within _ h).mono rfl
theorem Keeps.timeSlew (src : Src) : Keeps.Statement (.timeSlew src) := fun _ _ h => (execTimeSlew_within _ h).mono rfl
theorem Keeps.resume (src : Src) : Keeps.Statement (.resume src) := fun _ _ h => (execResume_within _ h).mono rfl
theorem Keeps.timeClrcnt (src : Src) : Keeps.Statement (.timeClrcnt src) := fun _ _ h => (execTimeClrcnt_within _ h).mono rfl
theorem Keeps.roleChange (src : Src) (master : Bool) : Keeps.Statement (.roleChange src master) := fun _ _ h => (execRoleChange_within _ h).mono rfl
theorem Keeps.perlWrite (src : Src) (val : Word) : Keeps.Statement (.perlWrite src val) := fun _ _ h => (execPerlWrite_within _ h).mono rfl
theorem Keeps.perhWrite (src : Src) (val : Word) : Keeps.Statement (.perhWrite src val) := fun _ _ h => (execPerhWrite_within _ h).mono rfl
theorem Keeps.fsyncEdge : Keeps.Statement (.fsyncEdge) := fun _ _ h => (execFsyncEdge_within _ h).mono rfl
theorem Keeps.nowlRead (src : Src) : Keeps.Statement (.nowlRead src) := fun _ _ h => (execNowlRead_within _ h).mono rfl
theorem Keeps.kpw (port : Fin 4) (msg : RingMsg) : Keeps.Statement (.kpw port msg) := fun _ _ h => (execKpw_within _ h).mono rfl
theorem Keeps.kpack (port : Fin 4) (msg : RingMsg) : Keeps.Statement (.kpack port msg) := fun _ _ h => (execKpack_within _ h).mono rfl
theorem Keeps.mirrorDetach (entry : Fin 16) : Keeps.Statement (.mirrorDetach entry) := fun _ _ h => (execMirrorDetach_within _ h).mono rfl
theorem Keeps.mirrorEnable (src : Src) : Keeps.Statement (.mirrorEnable src) := fun _ _ h => (execMirrorEnable_within _ h).mono rfl
theorem Keeps.mirrorResyncDone (entry : Fin 16) : Keeps.Statement (.mirrorResyncDone entry) := fun _ _ h => (execMirrorResyncDone_within _ h).mono rfl
theorem Keeps.hocmdArm (src : Src) : Keeps.Statement (.hocmdArm src) := fun _ _ h => (execHocmdArm_within _ h).mono rfl
theorem Keeps.hocmdStart (src : Src) : Keeps.Statement (.hocmdStart src) := fun _ _ h => (execHocmdStart_within _ h).mono rfl
theorem Keeps.hocmdAbort (src : Src) : Keeps.Statement (.hocmdAbort src) := fun _ _ h => (execHocmdAbort_within _ h).mono rfl
theorem Keeps.hodata (port : Fin 4) (msg : RingMsg) : Keeps.Statement (.hodata port msg) := fun _ _ h => (execHodata_within _ h).mono rfl
theorem Keeps.horec (port : Fin 4) (msg : RingMsg) : Keeps.Statement (.horec port msg) := fun _ _ h => (execHorec_within _ h).mono rfl
theorem Keeps.horeg (port : Fin 4) (msg : RingMsg) : Keeps.Statement (.horeg port msg) := fun _ _ h => (execHoreg_within _ h).mono rfl
theorem Keeps.hostate (port : Fin 4) (msg : RingMsg) : Keeps.Statement (.hostate port msg) := fun _ _ h => (execHostate_within _ h).mono rfl
theorem Keeps.hoctlStart (port : Fin 4) (msg : RingMsg) : Keeps.Statement (.hoctlStart port msg) := fun _ _ h => (execHoctlStart_within (x1 := msg) _ h).mono rfl
theorem Keeps.hoctlArmed (port : Fin 4) (msg : RingMsg) : Keeps.Statement (.hoctlArmed port msg) := fun _ _ h => (execHoctlArmed_within (x1 := msg) _ h).mono rfl
theorem Keeps.hoctlSwitch (port : Fin 4) (msg : RingMsg) : Keeps.Statement (.hoctlSwitch port msg) := fun _ _ h => (execHoctlSwitch_within _ h).mono rfl
theorem Keeps.hoctlReady (port : Fin 4) (msg : RingMsg) : Keeps.Statement (.hoctlReady port msg) := fun _ _ h => (execHoctlReady_within _ h).mono rfl
theorem Keeps.hoctlAbort (port : Fin 4) (msg : RingMsg) : Keeps.Statement (.hoctlAbort port msg) := fun _ _ h => (execHoctlAbort_within _ h).mono rfl
theorem Keeps.hoctlDone (port : Fin 4) (msg : RingMsg) : Keeps.Statement (.hoctlDone port msg) := fun _ _ h => (execHoctlDone_within (x1 := msg) _ h).mono rfl
theorem Keeps.handoverPassEnd : Keeps.Statement (.handoverPassEnd) := fun _ _ h => (execHandoverPassEnd_within _ h).mono rfl
theorem Keeps.handoverFreeze : Keeps.Statement (.handoverFreeze) := fun _ _ h => (execHandoverFreeze_within _ h).mono rfl
theorem Keeps.handoverFinalCheck : Keeps.Statement (.handoverFinalCheck) := fun _ _ h => (execHandoverFinalCheck_within _ h).mono rfl
theorem Keeps.handoverLinkTimeout : Keeps.Statement (.handoverLinkTimeout) := fun _ _ h => (execHandoverLinkTimeout_within _ h).mono rfl
theorem Keeps.coldReset (cause : ColdCause) : Keeps.Statement (.coldReset cause) := fun _ _ h => (execColdReset_within _ h).mono rfl
theorem Keeps.coldResetRelease (straps : BitVec 5) : Keeps.Statement (.coldResetRelease straps) := fun _ _ h => (execColdResetRelease_within _ h).mono rfl
theorem Keeps.railTrip (outside : Nat) : Keeps.Statement (.railTrip outside) := fun _ _ h => (execRailTrip_within _ h).mono rfl
theorem Keeps.rstcmdCold (src : Src) : Keeps.Statement (.rstcmdCold src) := fun _ _ h => (execRstcmdCold_within _ h).mono rfl
theorem Keeps.rstcmdWarm (src : Src) : Keeps.Statement (.rstcmdWarm src) := fun _ _ h => (execRstcmdWarm_within _ h).mono rfl
theorem Keeps.rstcmdCore (src : Src) : Keeps.Statement (.rstcmdCore src) := fun _ _ h => (execRstcmdCore_within _ h).mono rfl
theorem Keeps.portReset (src : Src) (link : Fin 20) : Keeps.Statement (.portReset src link) := fun _ _ h => (execPortReset_within _ h).mono rfl
theorem Keeps.channelReset (src : Src) (ch : Fin 64) (bad : List Nat) : Keeps.Statement (.channelReset src ch bad) := fun _ _ h => (execChannelReset_within _ h).mono rfl
theorem Keeps.channelResetDone (ch : Fin 64) (pass : Bool) : Keeps.Statement (.channelResetDone ch pass) := fun _ _ h => (execChannelResetDone_within _ h).mono rfl
theorem Keeps.bayReset (src : Src) (bay : Fin 8) (bad : List (Fin 64 × Nat)) : Keeps.Statement (.bayReset src bay bad) := fun _ _ h => (execBayReset_within _ h).mono rfl
theorem Keeps.flashCheckDone (bad : List (Nat × FlashIn)) : Keeps.Statement (.flashCheckDone bad) := fun _ _ h => (execFlashCheckDone_within _ h).mono rfl
theorem Keeps.imageSelect (bad : List (Nat × FlashIn)) : Keeps.Statement (.imageSelect bad) := fun _ _ h => (execImageSelect_within _ h).mono rfl
theorem Keeps.bcmdSeal (src : Src) : Keeps.Statement (.bcmdSeal src) := fun _ _ h => (execBcmdSeal_within _ h).mono rfl
theorem Keeps.bcmdRun (src : Src) : Keeps.Statement (.bcmdRun src) := fun _ _ h => (execBcmdRun_within _ h).mono rfl
theorem Keeps.ready : Keeps.Statement (.ready) := fun _ _ h => (execReady_within _ h).mono rfl
theorem Keeps.startupTestsDone (device : BitVec 5) (pairs : List (Fin 64)) (chans : List (Fin 64)) : Keeps.Statement (.startupTestsDone device pairs chans) := fun _ _ h => (execStartupTestsDone_within _ h).mono rfl
theorem Keeps.wdkick (src : Src) (val : Word) : Keeps.Statement (.wdkick src val) := fun _ _ h => (execWdkick_within _ h).mono rfl
theorem Keeps.watchdogExpire : Keeps.Statement (.watchdogExpire) := fun _ _ h => (execWatchdogExpire_within _ h).mono rfl
theorem Keeps.mboxRead (src : Src) : Keeps.Statement (.mboxRead src) := fun _ _ h => (execMboxRead_within _ h).mono rfl
theorem Keeps.mboxProgram (src : Src) : Keeps.Statement (.mboxProgram src) := fun _ _ h => (execMboxProgram_within _ h).mono rfl
theorem Keeps.mboxErase (src : Src) : Keeps.Statement (.mboxErase src) := fun _ _ h => (execMboxErase_within _ h).mono rfl
theorem Keeps.mboxSuspend (src : Src) : Keeps.Statement (.mboxSuspend src) := fun _ _ h => (execMboxSuspend_within _ h).mono rfl
theorem Keeps.mboxResume (src : Src) : Keeps.Statement (.mboxResume src) := fun _ _ h => (execMboxResume_within _ h).mono rfl
theorem Keeps.mboxDone (rd : FlashIn) : Keeps.Statement (.mboxDone rd) := fun _ _ h => (execMboxDone_within _ h).mono rfl
theorem Keeps.flashOperationDone (bank : Fin 2) (verify : Bool) : Keeps.Statement (.flashOperationDone bank verify) := fun _ _ h => (execFlashOperationDone_within _ h).mono rfl
theorem Keeps.rwdataRead (src : Src) (rd : FlashIn) : Keeps.Statement (.rwdataRead src rd) := fun _ _ h => (execRwdataRead_within _ h).mono rfl
theorem Keeps.rotationStep (area : Fin 2) : Keeps.Statement (.rotationStep area) := fun _ _ h => (execRotationStep_within _ h).mono rfl
theorem Keeps.openSectorErase (sector : Fin 1024) : Keeps.Statement (.openSectorErase sector) := fun _ _ h => (execOpenSectorErase_within _ h).mono rfl
theorem Keeps.flashRefreshRead (area : Fin 2) (bad : List (Nat × FlashIn)) : Keeps.Statement (.flashRefreshRead area bad) := fun _ _ h => (execFlashRefreshRead_within _ h).mono rfl
theorem Keeps.flashClrcnt (src : Src) : Keeps.Statement (.flashClrcnt src) := fun _ _ h => (execFlashClrcnt_within _ h).mono rfl
theorem Keeps.faultLogWrite : Keeps.Statement (.faultLogWrite) := fun _ _ h => (execFaultLogWrite_within _ h).mono rfl
theorem Keeps.sbStart (pos : BusPos) : Keeps.Statement (.sbStart pos) := fun _ _ h => (execSbStart_within _ h).mono rfl
theorem Keeps.sbStop (pos : BusPos) : Keeps.Statement (.sbStop pos) := fun _ _ h => (execSbStop_within _ h).mono rfl
theorem Keeps.sbAddress (byte : Byte) (rd : FlashIn) : Keeps.Statement (.sbAddress byte rd) := fun _ _ h => (execSbAddress_within _ h).mono rfl
theorem Keeps.sbWriteWord (bytes : List Byte) (full : Bool) : Keeps.Statement (.sbWriteWord bytes full) := fun _ _ h => (execSbWriteWord_within _ h).mono rfl
theorem Keeps.sbReadWord (acked : ReadEnd) (rd : FlashIn) : Keeps.Statement (.sbReadWord acked rd) := fun _ _ h => (execSbReadWord_within _ h).mono rfl
theorem Keeps.sdaTo : Keeps.Statement (.sdaTo) := fun _ _ h => (execSdaTo_within _ h).mono rfl
theorem Keeps.sclTo : Keeps.Statement (.sclTo) := fun _ _ h => (execSclTo_within _ h).mono rfl
theorem Keeps.busHeld : Keeps.Statement (.busHeld) := fun _ _ h => (execBusHeld_within _ h).mono rfl
theorem Keeps.sbClrcnt (src : Src) : Keeps.Statement (.sbClrcnt src) := fun _ _ h => (execSbClrcnt_within _ h).mono rfl
theorem Keeps.safeEnter (cause : SafeCause) : Keeps.Statement (.safeEnter cause) := fun _ _ h => (execSafeEnter_within _ h).mono rfl
theorem Keeps.safeEntryDone : Keeps.Statement (.safeEntryDone) := fun _ _ h => (execSafeEntryDone_within _ h).mono rfl
theorem Keeps.scanPass (bad : List Nat) : Keeps.Statement (.scanPass bad) := fun _ _ h => (execScanPass_within _ h).mono rfl
theorem Keeps.tempSample (temps : List Int) : Keeps.Statement (.tempSample temps) := fun _ _ h => (execTempSample_within _ h).mono rfl
theorem Keeps.latentTestRound (failed : List (Fin 8 × Fin 64)) : Keeps.Statement (.latentTestRound failed) := fun _ _ h => (execLatentTestRound_within _ h).mono rfl
theorem Keeps.ltrun (src : Src) : Keeps.Statement (.ltrun src) := fun _ _ h => (execLtrun_within _ h).mono rfl
theorem Keeps.ltOverdue : Keeps.Statement (.ltOverdue) := fun _ _ h => (execLtOverdue_within _ h).mono rfl
theorem Keeps.diagLost : Keeps.Statement (.diagLost) := fun _ _ h => (execDiagLost_within _ h).mono rfl
theorem Keeps.monitorSelfCompare : Keeps.Statement (.monitorSelfCompare) := fun _ _ h => (execMonitorSelfCompare_within _ h).mono rfl
theorem Keeps.fnMismatch (level : Bool) : Keeps.Statement (.fnMismatch level) := fun _ _ h => (execFnMismatch_within _ h).mono rfl
theorem Keeps.safeClrcnt (src : Src) : Keeps.Statement (.safeClrcnt src) := fun _ _ h => (execSafeClrcnt_within _ h).mono rfl
theorem Keeps.tableLoad (src : Src) (group : Fin 8) : Keeps.Statement (.tableLoad src group) := fun _ _ h => (execTableLoad_within _ h).mono rfl
theorem Keeps.tableLoadDone (group : Fin 8) (errs : List RdErr) : Keeps.Statement (.tableLoadDone group errs) := fun _ _ h => (execTableLoadDone_within _ h).mono rfl
theorem Keeps.setv (src : Src) (group : Fin 8) : Keeps.Statement (.setv src group) := fun _ _ h => (execSetv_within _ h).mono rfl
theorem Keeps.twdataWrite (src : Src) (group : Fin 8) (val : Word) : Keeps.Statement (.twdataWrite src group val) := fun _ _ h => (execTwdataWrite_within _ h).mono rfl
theorem Keeps.twdataRead (src : Src) (group : Fin 8) : Keeps.Statement (.twdataRead src group) := fun _ _ h => (execTwdataRead_within _ h).mono rfl
theorem Keeps.unfence (src : Src) (group : Fin 8) (pair : Fin 8) : Keeps.Statement (.unfence src group pair) := fun _ _ h => (execUnfence_within _ h).mono rfl
theorem Keeps.unfenceTestDone (group : Fin 8) (pair : Fin 8) (pass : Bool) : Keeps.Statement (.unfenceTestDone group pair pass) := fun _ _ h => (execUnfenceTestDone_within _ h).mono rfl
theorem Keeps.cinval (src : Src) (group : Fin 8) : Keeps.Statement (.cinval src group) := fun _ _ h => (execCinval_within _ h).mono rfl
theorem Keeps.jgClrcnt (src : Src) (group : Fin 8) : Keeps.Statement (.jgClrcnt src group) := fun _ _ h => (execJgClrcnt_within _ h).mono rfl
theorem Keeps.slewEpochWithoutPulse : Keeps.Statement (.slewEpochWithoutPulse) := fun _ _ h => (execSlewEpochWithoutPulse_within _ h).mono rfl
theorem Keeps.timeSlewEnd : Keeps.Statement (.timeSlewEnd) := fun _ _ h => (execTimeSlewEnd_within _ h).mono rfl
theorem Keeps.tapInstruction (inst : TapInst) : Keeps.Statement (.tapInstruction inst) := fun _ _ h => (execTapInstruction_within _ h).mono rfl
theorem Keeps.partnerNoAnswer (link : Fin 20) : Keeps.Statement (.partnerNoAnswer link) := fun _ _ h => (execPartnerNoAnswer_within _ h).mono rfl

end Sys2Proof.Laws
end

