-- ==== Sys2Proof/WellFormed.lean ====
section
/-!
DEFINITION. Which commands are well formed: the lengths and codes that the rules give the operands, beyond what their types say.
The step checks none of this: it answers for ill-formed commands too.
-/

namespace Sys2Proof

/-- An error is one of a symbol of the codeword, and inverts at least one bit (R205). -/
def RdErr.wf (e : RdErr) : Bool := decide (e.pos < 72) && e.mask != 0

/-- Every error is well formed. -/
def errsWf (es : List RdErr) : Bool := es.all RdErr.wf

/-- A page read meets wrong bytes only where its check code could not correct them (R358). -/
def FlashIn.wf (f : FlashIn) : Bool := (f.uncor || f.flips.isEmpty) && f.flips.all fun e => e.2 != 0

/-- A campaign measures bytes 24 to 215 of the almanac entry (Table 8-6), and a fast path reads at three points (Table 8-3, F3). -/
def CampaignResult.wf (r : CampaignResult) : Bool := r.measured.length == 192 && r.check.fifo.length == 3

/-- A short retraining moves eight common delays and takes bytes 200 to 207 of the almanac entry anew (R254, Table 8-6). -/
def Recentred.wf (r : Recentred) : Bool := r.moves.length == 8 && r.osc.length == 8

/-- The opcode of a ring message (Table 10-3). -/
def RingMsg.opc (m : RingMsg) : Nat := m.hdr.toNat / 2 ^ 120

/-- The code of a HOCTL message, nothing for another message (Table 10-3). -/
def RingMsg.code (m : RingMsg) : Option Nat := if m.opc = 0x44 then some (m.hdr.toNat / 2 ^ 88 % 256) else none

/-- How many data bytes follow the header of a ring message (Table 10-3). -/
def RingMsg.bytes (m : RingMsg) : Nat :=
  match m.opc with
  | 0x40 => 64 * (m.hdr.toNat / 2 ^ 105 % 64 + 1)
  | 0x42 => 4096
  | 0x43 => 16
  | 0x45 => 16
  | 0x46 => 16
  | _ => 0

/-- A ring message carries as much data as its header says. -/
def RingMsg.wf (m : RingMsg) : Bool := m.data.length == m.bytes && m.poison.all fun i => decide (64 * (i + 1) ≤ m.bytes)

/-- Is the command well formed? -/
def Instr.wf : Instr → Bool
  | .registerWrite _ _ _ _ => true
  | .evtForce _ _ _ => true
  | .evtClr _ _ => true
  | .capClr _ _ => true
  | .meridianPulse => true
  | .blankingWindowOpen => true
  | .rd _ _ _ _ _ _ => true
  | .wrAck _ _ len _ _ data => data.length == 64 * (len.val + 1)
  | .wrPost _ len _ _ data => data.length == 64 * (len.val + 1)
  | .commit _ _ _ _ _ => true
  | .commitAccept _ => true
  | .fillForwardDone _ _ => true
  | .regRd _ _ _ _ page => page.wf
  | .regWr _ _ _ _ _ => true
  | .doorbell _ _ _ => true
  | .orderingPointPass _ => true
  | .schedulerSlot _ slot => errsWf slot.errs
  | .readComplete _ errs => errsWf errs
  | .phyFault _ _ => true
  | .refreshTick _ _ => true
  | .backgroundDue _ _ => true
  | .backgroundSlackOut _ _ => true
  | .oscMeasureDone _ _ => true
  | .mr4ReadDone _ _ _ => true
  | .scrubPassDeadline _ => true
  | .telemetrySnap _ _ => true
  | .chClrcnt _ _ => true
  | .powerdownEntry _ => true
  | .rowRedirect _ errs => errsWf errs
  | .redirectDone _ => true
  | .descriptorFetch _ errs => errsWf errs
  | .descriptorStart _ => true
  | .chunkTake _ _ => true
  | .chunkComplete _ _ faults => errsWf faults.errs
  | .groupReturn _ => true
  | .movePiece _ _ errs => errsWf errs
  | .jobComplete _ _ => true
  | .completionRecordPass _ _ => true
  | .qpidxWrite _ _ _ => true
  | .queueEnable _ _ => true
  | .queueDisable _ _ => true
  | .queueAbort _ _ => true
  | .queueClrcnt _ _ => true
  | .queueConfigWrite _ _ _ _ => true
  | .queueDrained _ => true
  | .irqSend _ => true
  | .holdExpire _ => true
  | .vectorFire _ => true
  | .vectorClrpend _ => true
  | .regionEnable _ => true
  | .initDone _ => true
  | .regionDisable _ => true
  | .regionClrcnt _ => true
  | .slotTableBuild => true
  | .kpResyncDone _ _ => true
  | .epchClrcnt _ => true
  | .flitReceive _ words _ => words.length == 17
  | .flitSend _ => true
  | .ackTimer _ => true
  | .replayTimeout _ => true
  | .xcmdClrcnt _ _ => true
  | .markerGroup _ words => decide (1 ≤ words.length ∧ words.length ≤ 8)
  | .markerGroupDue _ => true
  | .laneFault _ _ => true
  | .retireReq _ _ => true
  | .retireAck _ _ => true
  | .retireReqRepeat _ => true
  | .retireTo _ => true
  | .portEnable _ _ => true
  | .portDisable _ _ => true
  | .retrain _ _ => true
  | .laneClrcnt _ _ => true
  | .signalDetect _ _ => true
  | .cdrLock _ _ => true
  | .trainingBlock _ _ _ => true
  | .phaseTimeout _ => true
  | .listenPeriod _ => true
  | .algnSlip _ _ _ => true
  | .algnDrop _ _ _ => true
  | .retryPeriod _ => true
  | .soakEnd _ _ _ _ => true
  | .widenReq _ _ => true
  | .widenAck _ _ => true
  | .widenAckTimeout _ => true
  | .laneTest _ _ _ _ => true
  | .prbsInject _ _ _ => true
  | .checkerLock _ _ syms => decide (64 ≤ syms.length)
  | .chkLoss _ _ _ => true
  | .portStandbyStart _ => true
  | .stbyAck _ => true
  | .stbyTimeout _ => true
  | .portWake _ _ => true
  | .wakeLockTimeout _ _ => true
  | .powerStateEntry => true
  | .deviceWake _ => true
  | .retain _ => true
  | .retentionEntered => true
  | .retainAbandon => true
  | .retentionWake => true
  | .retentionExitDone => true
  | .trainingCampaign _ _ => true
  | .campaignEnd _ result => result.wf
  | .channelNoresp _ => true
  | .sweepGo _ _ => true
  | .sweepAbort _ _ _ => true
  | .sweepDone _ _ => true
  | .sweepTruncate _ _ => true
  | .urdataAccess _ _ _ => true
  | .dspreq _ _ => true
  | .setPointChangeStart => true
  | .setPointChangeEnd => true
  | .almanacWrite => true
  | .shortRetrainDone _ _ found => found.wf
  | .refclkQualified _ => true
  | .freerun => true
  | .pllLock => true
  | .refclkLoss => true
  | .refStep => true
  | .unlock => true
  | .relockRampStep => true
  | .phaseMeasured _ => true
  | .pjcmdSlew _ => true
  | .pjcmdStep _ => true
  | .stepDone => true
  | .clockMonitorFail _ => true
  | .clkOutputEnable _ _ _ => true
  | .fdlyWrite _ _ _ => true
  | .dseedWrite _ _ => true
  | .clkClrcnt _ => true
  | .ldlySend _ => true
  | .ldly _ group => group.words.length == 4
  | .syncSend => true
  | .sync _ group => group.words.length == 4
  | .syncLoss => true
  | .timeSet _ => true
  | .epadopt _ => true
  | .timeStep _ => true
  | .timeSlew _ => true
  | .resume _ => true
  | .timeClrcnt _ => true
  | .roleChange _ _ => true
  | .perlWrite _ _ => true
  | .perhWrite _ _ => true
  | .fsyncEdge => true
  | .nowlRead _ => true
  | .kpw _ msg => msg.wf && msg.opc == 0x40
  | .kpack _ msg => msg.wf && msg.opc == 0x41
  | .mirrorDetach _ => true
  | .mirrorEnable _ => true
  | .mirrorResyncDone _ => true
  | .hocmdArm _ => true
  | .hocmdStart _ => true
  | .hocmdAbort _ => true
  | .hodata _ msg => msg.wf && msg.opc == 0x42
  | .horec _ msg => msg.wf && msg.opc == 0x43
  | .horeg _ msg => msg.wf && msg.opc == 0x45
  | .hostate _ msg => msg.wf && msg.opc == 0x46
  | .hoctlStart _ msg => msg.wf && msg.code == some 1
  | .hoctlArmed _ msg => msg.wf && msg.code == some 2
  | .hoctlSwitch _ msg => msg.wf && msg.code == some 3
  | .hoctlReady _ msg => msg.wf && msg.code == some 4
  | .hoctlAbort _ msg => msg.wf && msg.code == some 5
  | .hoctlDone _ msg => msg.wf && msg.code == some 6
  | .handoverPassEnd => true
  | .handoverFreeze => true
  | .handoverFinalCheck => true
  | .handoverLinkTimeout => true
  | .coldReset _ => true
  | .coldResetRelease _ => true
  | .railTrip _ => true
  | .rstcmdCold _ => true
  | .rstcmdWarm _ => true
  | .rstcmdCore _ => true
  | .portReset _ _ => true
  | .channelReset _ _ _ => true
  | .channelResetDone _ _ => true
  | .bayReset _ bay bad => bad.all fun b => b.1.val / 8 == bay.val
  | .flashCheckDone bad => bad.all fun e => e.2.wf
  | .imageSelect bad => bad.all fun e => e.2.wf
  | .bcmdSeal _ => true
  | .bcmdRun _ => true
  | .ready => true
  | .startupTestsDone _ _ _ => true
  | .wdkick _ _ => true
  | .watchdogExpire => true
  | .mboxRead _ => true
  | .mboxProgram _ => true
  | .mboxErase _ => true
  | .mboxSuspend _ => true
  | .mboxResume _ => true
  | .mboxDone page => page.wf
  | .flashOperationDone _ _ => true
  | .rwdataRead _ page => page.wf
  | .rotationStep _ => true
  | .openSectorErase _ => true
  | .flashRefreshRead _ bad => bad.all fun b => b.2.wf
  | .flashClrcnt _ => true
  | .faultLogWrite => true
  | .sbStart _ => true
  | .sbStop _ => true
  | .sbAddress _ page => page.wf
  | .sbWriteWord bytes _ => decide (1 ≤ bytes.length) && decide (bytes.length ≤ 5)
  | .sbReadWord _ page => page.wf
  | .sdaTo => true
  | .sclTo => true
  | .busHeld => true
  | .sbClrcnt _ => true
  | .safeEnter _ => true
  | .safeEntryDone => true
  | .scanPass bad => bad.all fun p => decide (p < 256)
  | .tempSample temps => temps.length == 9
  | .latentTestRound _ => true
  | .ltrun _ => true
  | .ltOverdue => true
  | .diagLost => true
  | .monitorSelfCompare => true
  | .fnMismatch _ => true
  | .safeClrcnt _ => true
  | .tableLoad _ _ => true
  | .tableLoadDone _ errs => errsWf errs
  | .setv _ _ => true
  | .twdataWrite _ _ _ => true
  | .twdataRead _ _ => true
  | .unfence _ _ _ => true
  | .unfenceTestDone _ _ _ => true
  | .cinval _ _ => true
  | .jgClrcnt _ _ => true
  | .slewEpochWithoutPulse => true
  | .timeSlewEnd => true
  | .tapInstruction _ => true
  | .partnerNoAnswer _ => true

end Sys2Proof
end

