-- ==== Sys2Proof/Tests/Slice0.lean ====
section
/-!
SUPPORT. Tests: for every statement a concrete state that meets what it assumes, clause by clause, with what the command then does; and
an ill-formed command for each check of well-formedness. Expected values come from the rules that each test cites.
-/

namespace Sys2Proof.Tests

open Sys2Proof.Machine

set_option Elab.async false

/-! ### Helpers -/

/-- The command answers a next state that passes a check. -/
def run (c : Instr) (s : State) (p : State → Bool) : Bool :=
  match exec c s with
  | .next t => p t
  | _ => false

/-- The command answers a next state that passes a check against the state before. -/
def on (s : State) (c : Instr) (p : State → State → Bool) : Bool := run c s (p s)

/-- Is the part the same in both states? -/
def sameB (p : Part) (s t : State) : Bool :=
  match p with
  | .pending => decide (t.pending = s.pending)
  | .now => decide (t.now = s.now)
  | .freeCtr => decide (t.freeCtr = s.freeCtr)
  | .busResult => decide (t.busResult = s.busResult)
  | .fuses => decide (t.fuses = s.fuses)
  | .hdrs => decide (t.hdrs = s.hdrs)
  | .flds => decide (t.flds = s.flds)
  | .links => decide (t.links = s.links)
  | .accs => decide (t.accs = s.accs)
  | .nextId => decide (t.nextId = s.nextId)
  | .commits => decide (t.commits = s.commits)
  | .chans => decide (t.chans = s.chans)
  | .mem => decide (t.mem = s.mem)
  | .recs => decide (t.recs = s.recs)
  | .regions => decide (t.regions = s.regions)
  | .slots => decide (t.slots = s.slots)
  | .built => decide (t.built = s.built)
  | .queues => decide (t.queues = s.queues)
  | .jobs => decide (t.jobs = s.jobs)
  | .bells => decide (t.bells = s.bells)
  | .vecs => decide (t.vecs = s.vecs)
  | .groups => decide (t.groups = s.groups)
  | .merid => decide (t.merid = s.merid)
  | .pll => decide (t.pll = s.pll)
  | .time => decide (t.time = s.time)
  | .ring => decide (t.ring = s.ring)
  | .sb => decide (t.sb = s.sb)
  | .boot => decide (t.boot = s.boot)
  | .power => decide (t.power = s.power)
  | .flash => decide (t.flash = s.flash)
  | .safe => decide (t.safe = s.safe)
  | .tap => decide (t.tap = s.tap)

/-- Every part of the state but the listed ones is the same. -/
def only (ps : List Part) (s t : State) : Bool :=
  [Part.pending, .now, .freeCtr, .busResult, .fuses, .hdrs, .flds, .links, .accs, .nextId, .commits, .chans, .mem, .recs, .regions, .slots,
    .built, .queues, .jobs, .bells, .vecs, .groups, .merid, .pll, .time, .ring, .sb, .boot, .power, .flash, .safe, .tap].all
    fun p => ps.contains p || sameB p s t

/-- The messages waiting in a port, by header. -/
def heads (t : State) (l : Nat) : List (BitVec 128) := (t.link l).txq.map (·.hdr)

/-- The event is set. -/
def evt (t : State) (page bit : Nat) : Bool := (t.hdr page).evt.getLsbD bit

/-- The counter has gone up by 1 from below its maximum. -/
def up1 (page : Nat) (f : Fld) (s t : State) : Bool := fget t page f == fget s page f + 1

/-- Only the named links have changed. -/
def links (ls : List Nat) (s t : State) : Bool :=
  ((s.links ++ t.links).map (·.1)).all fun l => ls.contains l || decide (t.link l = s.link l)

/-- Only the listed fields of a page have changed among those written. -/
def fields (page : Nat) (fs : List Fld) (s t : State) : Bool :=
  ((s.flds ++ t.flds).map (·.1)).all fun k => (fs.any fun g => fkey page g.off g.lo == k) || decide (tget 9999999999 t.flds k = tget 9999999999 s.flds k)

/-- The device in READY: sealed, its management core running, its PLL locked. -/
def dev0 : State :=
  { State.reset with
    boot := { State.reset.boot with held := false, state := .ready, isSealed := true, coreUp := true, run := true, testsDone := true }
    pll := { State.reset.pll with state := .locked } }

/-- A port in ACTIVE on all eight lanes. -/
def port8 : Link := { state := .active, active := 0xFF, lanes := (List.range 8).map fun y => (y, { lock := true, sigdet := true }) }

/-- The device with a port in ACTIVE. -/
def withPort (l : Nat) (s : State) : State := setLink l port8 s

/-- Rights of a port for regions 0 to 15 and pages 0 to 15, all of them. -/
def withRights (p : Nat) (s : State) : State :=
  fset Pg.prot (F.PROT_MRIGHT.shift (0x40 * p)) 0xFFFFFFFF (fset Pg.prot (F.PROT_RRIGHT.shift (0x40 * p)) 0xFFFFFFFF s)

/-- Channel 0 in service with 1,024 blocks: MEMSIZE is 2 units of 2 MiB. -/
def chan0 : Chan := { state := .ready, present := true, answered := true, ublk := 1024 }

/-- A device with one channel and its slot table. -/
def store0 : State :=
  let s := setChan 0 chan0 { dev0 with built := true }
  { s with slots := slotsOf s }

/-- Region 0: one unit at address 0, one copy. -/
def flat : Region := { size := 1, en := true, cps := [{ role := .visible }] }

/-- Region 0 with two copies, copy 0 visible, written by port 0. -/
def twin : Region := { size := 1, copies := 2, en := true, cps := [{ role := .visible }, {}] }

/-- A device with region 0 and host port 0 in ACTIVE with its rights. -/
def host (r : Region) : State := withRights 0 (withPort 0 (setRegion 0 r store0))


/-- The joiner clock is on. -/
def joinOn (s : State) : State := fset Pg.clk (F.CLK_OUTk_EN.shift 4) 1 s

/-! ### The block as a whole -/

theorem test_StepRunsFront : (match step { dev0 with pending := [.bcmdRun .core, .bcmdSeal .core] }, exec (.bcmdRun .core) { dev0 with pending := [.bcmdSeal .core] } with
    | .next t, .next u => decide (t = u) && decide (t.pending = [.bcmdSeal .core])
    | _, _ => false) = true := by decide +kernel

theorem test_StepIdles : ((match step dev0 with | .next t => t.now == 32 && t.time.dev == 32 && only [.now, .time] dev0 t | _ => false)) = true := by decide +kernel

theorem test_StoredCanonicalAtReset : (Memory.wf State.reset.mem && State.reset.flash.wf) = true := by decide +kernel

theorem test_OnlyBusFaults : ((match exec (.registerWrite .core 0x0C000 0 false) dev0 with | .fault (.busFault a) => a == 0x0C000 | _ => false) &&
    run (.registerWrite (.host 0) 0x0C000 0 false) (host flat) fun _ => true) = true := by decide +kernel

/-! ### Counters and registers -/

/-- Each CLRCNT on a device whose first counter stands at 1. -/
theorem test_CountersClear :
    ((on (fset Pg.epch F.EPCH_LATE_COUNT 1 dev0) (.epchClrcnt .core) fun s t => fget t Pg.epch F.EPCH_LATE_COUNT == 0 && only [.flds] s t) &&
    (on (setRegion 0 { flat with rlate := 3, rskip := 4 } dev0) (.regionClrcnt .core) fun s t => decide ((t.region 0) = flat) && only [.regions] s t) &&
    (on (fset (Pg.ch 63) F.CH_UECNT_COUNT 1 dev0) (.chClrcnt .core 63) fun s t => fget t (Pg.ch 63) F.CH_UECNT_COUNT == 0 && only [.flds, .chans] s t) &&
    (on (fset (Pg.wq 255) (qfld 255 F.WQ_QCNT_DISC) 1 dev0) (.queueClrcnt .core 255) fun s t => fget t (Pg.wq 255) (qfld 255 F.WQ_QCNT_DISC) == 0 && only [.flds] s t) &&
    (on (fset (Pg.link 19) F.HP_XFECU_COUNT 1 dev0) (.xcmdClrcnt .core 19) fun s t => fget t (Pg.link 19) F.HP_XFECU_COUNT == 0 && only [.flds] s t) &&
    (on (fset (Pg.link 15) (laneFld 7 F.HP_LySERR_COUNT) 1 dev0) (.laneClrcnt .core 15) fun s t => fget t (Pg.link 15) (laneFld 7 F.HP_LySERR_COUNT) == 0 && only [.flds] s t) &&
    (on (fset Pg.clk F.CLK_CSTCNT_JUMPS 1 dev0) (.clkClrcnt .core) fun s t => fget t Pg.clk F.CLK_CSTCNT_JUMPS == 0 && only [.flds, .pll] s t) &&
    (on (fset Pg.time F.TIME_TCNT_BIGS 1 dev0) (.timeClrcnt .core) fun s t => fget t Pg.time F.TIME_TCNT_BIGS == 0 && only [.flds] s t) &&
    (on (fset Pg.flsh F.FLSH_FCNT_WEAKS 1 dev0) (.flashClrcnt .core) fun s t => fget t Pg.flsh F.FLSH_FCNT_WEAKS == 0 && only [.flds] s t) &&
    (on (fset Pg.sbnd F.SBND_XCNT_RD 1 dev0) (.sbClrcnt .core) fun s t => fget t Pg.sbnd F.SBND_XCNT_RD == 0 && only [.flds] s t) &&
    (on (fset Pg.safe F.SAFE_FCNT_GROUP 1 dev0) (.safeClrcnt .core) fun s t => fget t Pg.safe F.SAFE_FCNT_GROUP == 0 && only [.flds] s t) &&
    (on (fset (Pg.jg 7) F.JG_CCNT_MISS 1 dev0) (.jgClrcnt .core 7) fun s t => fget t (Pg.jg 7) F.JG_CCNT_MISS == 0 && only [.flds] s t)) = true := by
  decide +kernel

/-! ### Requests of the host ports -/

/-- A host access of one line to region 0. -/
def acc1 (src : AccSrc) (write : Bool) (addr : Nat) (data : List (List Byte)) : Acc :=
  { id := 0, src := src, write := write, cls := flat.cls, kp := false, addr := addr, lines := 1, maxage := 0, region := 0, data := data }

/-- RD, WR_ACK and WR_POST at the first and the last line of region 0; COMMIT and DOORBELL. -/
theorem test_RequestsAreAdmitted :
    (on (host flat) (.rd 0 511 0 0 0 0x1FFFC0) (fun s t => decide (t.accs = [acc1 (.hostNP 0 511) false 0x1FFFC0 []]) &&
      decide ((t.link 0).tags = [511]) && links [0] s t && only [.flds, .links, .accs, .nextId] s t) &&
    on (host flat) (.wrAck 0 0 0 0 0 (List.replicate 64 7)) (fun s t => decide (t.accs = [acc1 (.hostNP 0 0) true 0 [List.replicate 64 7]]) &&
      decide ((t.link 0).tags = [0]) && only [.flds, .links, .accs, .nextId] s t) &&
    on (host flat) (.wrPost 0 0 0 64 (List.replicate 64 7)) (fun s t => decide (t.accs = [acc1 (.hostPost 0) true 64 [List.replicate 64 7]]) &&
      decide ((t.link 0).tags = []) && only [.flds, .links, .accs, .nextId] s t) &&
    on (host twin) (.commit 0 5 true 0 9) (fun s t => decide (t.commits = [⟨.host 0 5, 0, 0, true, 9, 0, false, none, 0, [], false⟩]) &&
      only [.flds, .links, .nextId, .commits] s t) &&
    on (setQueue 0 { state := .run, pidx := 0xFFFF, retired := 0xFFFF } (host flat)) (.doorbell 0 0 15) (fun s t =>
      decide (t.queue 0 = { state := .run, pidx := 15, retired := 0xFFFF }) && only [.flds, .links, .queues, .bells] s t)) = true := by decide +kernel

/-- The port has one completion to send, and nothing but the port and its counters changed. -/
def refused (tag len : Nat) (st : Status) (d : Nat) (rg : Option Nat) (cls : TClass) (s t : State) : Bool :=
  decide ((t.link 0).txq = [{ kind := .cpl tag (cplHdr false tag len cls st d rg none), hdr := cplHdr false tag len cls st d rg none, data := [] }]) &&
    only [.flds, .links] s t

/-- A refusal that names the region or none. -/
def refusedAny (st : Status) (d len : Nat) (s t : State) : Bool :=
  refused 1 len st d none .bulk s t || refused 1 len st d (some 0) .bulk s t

/-- R30, R31: a line short of alignment, two lines over a block's end, an address at MEMSIZE, one in no region, one in a shadow. -/
theorem test_BadAddressesAreRefused :
    (on (host flat) (.rd 0 1 0 0 0 32) (refusedAny .unsupported 1 0) && on (host flat) (.rd 0 1 1 0 0 0xFC0) (refusedAny .unsupported 1 1) &&
    on (host flat) (.wrAck 0 1 0 0 0x400000 []) (refusedAny .unsupported 2 0) && on (host flat) (.rd 0 1 0 0 0 0x3FFFC0) (refusedAny .denied 3 0) &&
    on (host twin) (.rd 0 1 0 0 0 0x200000) (refusedAny .denied 4 0) &&
    on (host flat) (.wrPost 0 0 0 0x400000 []) fun _ t => evt t (Pg.link 0) E.HP_POSTED_DROP && decide ((t.link 0).txq = [])) = true := by decide +kernel

/-- R19: a device without rights. -/
theorem test_NoRightMeansDenied :
    (let s := withPort 0 (setRegion 0 flat store0)
    let denied (tag : Nat) (cls : TClass) (rg : Option Nat) (t : State) : Bool :=
      decide ((t.link 0).txq = [{ kind := .cpl tag (cplHdr false tag 0 cls .denied 5 rg none), hdr := cplHdr false tag 0 cls .denied 5 rg none, data := [] }]) &&
      only [.flds, .links] s t
    run (.rd 0 3 0 0 0 0) s (denied 3 flat.cls (some 0)) && run (.wrAck 0 3 0 0 0 []) s (denied 3 flat.cls (some 0)) &&
    run (.commit 0 3 false 0 0) s (denied 3 flat.cls (some 0)) && run (.regRd 0 3 0x0A014 false ⟨0, false, []⟩) s (denied 3 .bulk none) &&
    run (.regWr 0 3 0x0A014 0 false) s (denied 3 .bulk none) &&
    run (.wrPost 0 0 0 0 []) s fun t => evt t (Pg.link 0) E.HP_POSTED_DROP && decide ((t.link 0).txq = [])) = true := by decide +kernel

/-! ### Register accesses -/

theorem test_RegistersActByTheirType :
    (let s := modHdr Pg.rgn (fun h => { h with evt := 0xFF, cap0 := 1, cap1 := 2, evtCnt := 3 }) dev0
    run (.evtClr .core 0x0A) s (fun t => decide (t.hdr Pg.rgn = { (s.hdr Pg.rgn) with evt := 0 }) && only [.hdrs] s t) &&
    run (.capClr .core 0x0A) s (fun t => decide (t.hdr Pg.rgn = { evt := 0xFF }) && only [.hdrs] s t) &&
    run (.evtForce .core 0x0A 0xFFFFFFFF) s (fun t => decide ((t.hdr Pg.rgn).evt = 0xFF ||| evtMask Pg.rgn) &&
      t.safe.capture.length == popCount 32 (evtMask Pg.rgn).toNat && t.safe.capture.all (fun e => e.action == 0 && e.page == Pg.rgn) &&
      only [.hdrs, .vecs, .safe] s t) &&
    run (.evtForce .core 0x07 1) s (fun t => decide (t = s)) && run (.evtClr .core 0x07) s (fun t => decide (t = s)) &&
    run (.registerWrite .core 0x0A010 0x0F false) s (fun t => decide ((t.hdr Pg.rgn).evt = 0xF0) && only [.hdrs] s t) &&
    run (.registerWrite .core 0x0A014 0xFFFFFFFF false) s (fun t => decide ((t.hdr Pg.rgn).evtEn = evtMask Pg.rgn) && only [.hdrs] s t) &&
    run (.registerWrite .core 0x0A000 1 false) s (fun t => decide (t = s)) && run (.registerWrite .core 0x0A03C 1 false) s (fun t => decide (t = s)) &&
    run (.registerWrite .core 0x50 0xDEADBEEF false) s (fun t => fget t Pg.dev F.DEV_SCRATCH_DATA == 0xDEADBEEF && only [.flds] s t)) = true := by decide +kernel

theorem test_HostRegisterAccesses :
    (let s := modHdr Pg.rgn (fun h => { h with evtEn := 5 }) (host flat)
    run (.regRd 0 9 0x0A014 false ⟨0, false, []⟩) s (fun t => decide ((t.link 0).tags = [9]) && decide ((t.link 0).txq.map (·.hdr) =
      [cplHdr true 9 0 .bulk .ok 0 none (some 5)]) && only [.flds, .links] s t) &&
    run (.regWr 0 9 0x0A014 0x7 false) s (fun t => decide ((t.hdr Pg.rgn).evtEn = 7) && decide ((t.link 0).txq.map (·.hdr) =
      [cplHdr false 9 0 .bulk .ok 0 none none]) && only [.hdrs, .flds, .links] s t)) = true := by decide +kernel

/-- R8 on BOOT.BMODE's neighbour: an RWL field of PROT. -/
theorem test_SealedFieldsStay :
    (let s := host flat
    rwlChange s 0x07 0x100 5 && run (.regWr 0 9 0x07100 5 false) s (fun t => (t.hdr Pg.prot).denies == 1 && decide ((t.link 0).txq.map (·.hdr) =
      [cplHdr false 9 0 .bulk .denied 0x0B none none]) && fields (Pg.link 0) [F.HP_PSBY_REFUSED, F.HP_XSTS1_DENIED] s t && only [.hdrs, .flds, .links] s t) &&
    run (.registerWrite .sideband 0x07100 5 false) s (fun t => fget t Pg.sbnd F.SBND_ERRCNT_DENIED == 1 && fields Pg.sbnd [F.SBND_ERRCNT_DENIED] s t &&
      only [.hdrs, .flds, .vecs] s t)) = true := by decide +kernel

/-- R388: a training register, BCMD, WDKICK, and a page that SACC forbids. -/
theorem test_SidebandRefusals :
    (let s := fset Pg.sbnd F.SBND_SACC_WREN 0 dev0
    let refused (s t : State) : Bool := fget t Pg.sbnd F.SBND_ERRCNT_DENIED == 1 && evt t Pg.sbnd E.SBND_WR_DENIED &&
      fields Pg.sbnd [F.SBND_ERRCNT_DENIED] s t && only [.hdrs, .flds, .vecs] s t
    trainingReg 0x40 0x144 && run (.registerWrite .sideband 0x40144 1 false) dev0 (refused dev0) &&
    run (.registerWrite .sideband 0x02058 1 false) dev0 (refused dev0) && run (.registerWrite .sideband 0x02070 0x5A false) dev0 (refused dev0) &&
    run (.registerWrite .sideband 0x0A014 1 false) s (refused s)) = true := by decide +kernel

theorem test_RefusedWritesDoNothing :
    (let s := withPort 0 dev0
    !mayWrite s (.host 0) Pg.rgn F.RGN_RCMD_ENABLE.off && run (.regionEnable (.host 0)) s (fun t => only [.flds] s t) &&
    (let u := fset Pg.sbnd F.SBND_SACC_WREN 0 s
    !mayWrite u .sideband Pg.rgn F.RGN_RCMD_ENABLE.off && run (.regionEnable .sideband) u (fun t => only [.hdrs, .flds, .vecs] u t && evt t Pg.sbnd E.SBND_WR_DENIED))) =
    true := by decide +kernel

/-! ### The frame store -/

/-- Two channels in bays 0 and 1, 512 blocks of each in the reserve, and king-post region 1 there, at address 0x400000. -/
def kpStore : State :=
  let s := setChan 8 chan0 (setChan 0 chan0 (fset Pg.rgn F.RGN_SPLIT_RESERVE 1 { dev0 with built := true }))
  withPort 0 (setRegion 1 { base := 2, size := 1, kp := true, pbay := 0, mbay := 1, en := true, cps := [{ role := .visible }] } { s with slots := slotsOf s })

/-- The codeword of line `n` with its data. -/
def cw (n : Nat) (data : List Byte) : List Byte × List Byte := (data, lineCheck n data)

/-- A passed read with the codewords of its one line, primary and mirror. -/
def readAcc (region addr maxage : Nat) (cls : TClass) (got : List Got) : Acc :=
  { id := 4, src := .hostNP 0 5, write := false, cls := cls, kp := cls == .kp, addr := addr, lines := 1, maxage := maxage, region := region, data := [], phase := .passed, got := got }

/-- A read as it stands once it has passed: where its footprints lie, and their record lines. -/
def back (s : State) (a : Acc) : Acc :=
  let f := footLines s (s.region a.region) (s.region a.region).feet a.copy a.addr
  { a with feet := f, recs := f.map fun x => (x.1, recLineBytes s x.2.1 (x.2.2 / 256)) }

def zeros : List Byte := List.replicate 64 0
def sevens : List Byte := List.replicate 64 7

theorem test_OrderingPointsPass :
    (on { host flat with accs := [acc1 (.hostNP 0 5) false 0x1FFFC0 []] } (.orderingPointPass 0) (fun s t =>
      decide (t.accs.map (fun a => (a.phase, a.pinned)) = [(.passed, true)]) && decide ((t.chan 0).rq.map (fun e => (e.acc, e.n, e.idx)) = [(some 0, 256 * 64 + 63, 0)]) &&
      only [.hdrs, .flds, .accs, .nextId, .chans, .regions, .queues, .bells, .vecs] s t)) = true := by decide +kernel

theorem test_WritesPass :
    (on { host flat with accs := [acc1 (.hostNP 0 5) true 64 [sevens]] } (.orderingPointPass 0) (fun s t =>
      decide (t.accs = []) && decide (currentLine t 0 1 = (sevens, lineCheck 1 sevens)) && decide (t.mem = s.mem) &&
      decide (heads t 0 = [cplHdr false 5 0 .bulk .ok 0 (some 0) none]) &&
      only [.hdrs, .flds, .links, .accs, .nextId, .chans, .recs, .regions, .queues, .bells, .vecs, .groups, .ring] s t) &&
    on { host twin with accs := [acc1 (.hostNP 0 5) true 64 [sevens]] } (.orderingPointPass 0) (fun _ t =>
      decide (((t.region 0).cp 1).role = .writable))) = true := by decide +kernel

/-- Rows 2 to 5 of Table 2-5: no codeword, an uncorrectable record, a stale block, good data, an uncorrectable line. -/
theorem test_PlainReadsComplete :
    (let ok : List Got := [⟨false, 0, zeros, lineCheck 0 zeros⟩]
    let rd (maxage : Nat) (got : List Got) (errs : List RdErr) (st : Status) (detail : Nat) (data : List Byte) : Bool :=
      let s := host { flat with aged := true, stale := 0x01020304 }
      on { s with accs := [back s (readAcc 0 0 maxage .bulk got)] } (.readComplete 4 errs) fun _ t =>
        decide (t.accs = []) && decide ((t.link 0).txq.map (fun m => (m.hdr, m.data)) = [(cplHdr (data != []) 5 0 .bulk st detail (some 0) none, data)])
    rd 0 [] [] .poisoned 0x10 [] && rd 0 ok [⟨false, true, 0, 70, 1⟩] .poisoned 0x12 [] && rd 1 ok [] .stale 0 ((List.replicate 16 [4, 3, 2, 1]).flatten.map (BitVec.ofNat 8)) &&
    rd 0 ok [] .ok 0 zeros && rd 0 [⟨false, 1, zeros, lineCheck 0 zeros⟩] [] .poisoned 0x11 []) = true := by decide +kernel

/-- Table 2-6: one footprint alone, unequal copies, one good copy, a poison codeword, no copy. -/
theorem test_KingPostReadsComplete :
    (let p := accLoc (back kpStore (readAcc 1 0x400000 0 .kp [])) false
    let m := accLoc (back kpStore (readAcc 1 0x400000 0 .kp [])) true
    let n := p.2 * 64
    let rd (got : List Got) (q : State → State → Bool) : Bool :=
      on { kpStore with accs := [back kpStore (readAcc 1 0x400000 0 .kp got)] } (.readComplete 4 []) q
    let good (m : Bool) (d : List Byte) : Got := ⟨m, 0, d, lineCheck n d⟩
    let poison : Got := ⟨false, 0, zeros, poisonCheck n⟩
    decide (p = (0, 512)) && decide (m = (8, 512)) &&
    rd [good false zeros] (fun s t => decide ((t.link 0).txq.map (fun x => (x.hdr, x.data)) = [(cplHdr true 5 0 .kp .ok 0 (some 1) none, zeros)]) &&
      decide (t.mem = s.mem)) &&
    rd [good false sevens, good true zeros] (fun _ t => decide (heads t 0 = [cplHdr false 5 0 .kp .poisoned 0x13 (some 1) none]) &&
      evt t Pg.rgn E.RGN_KP_MISMATCH && decide (currentLine t 0 n = (zeros, poisonCheck n)) && decide (currentLine t 8 n = (zeros, poisonCheck n))) &&
    rd [poison, good true sevens] (fun _ t => decide (currentLine t 0 n = (sevens, lineCheck n sevens)) && evt t Pg.rgn E.RGN_KP_REPAIR) &&
    rd [poison] (fun s t => decide (heads t 0 = [cplHdr false 5 0 .kp .poisoned 0x13 (some 1) none]) && decide (t.mem = s.mem)) &&
    rd [] (fun s t => decide (heads t 0 = [cplHdr false 5 0 .kp .poisoned 0x13 (some 1) none]) && evt t Pg.rgn E.RGN_KP_LOST && decide (t.mem = s.mem))) = true := by
  decide +kernel

/-- A region with a writable copy whose line 0 of block 0 the visible copy's commit wrote. -/
def committing : State :=
  { host { twin with cps := [{ role := .visible, ord := some 0 }, { role := .writable }], nextOrd := 1 } with
    commits := [⟨.host 0 5, 0, 0, true, 9, 0, false, none, 0, [], true⟩] }

theorem test_CommitsArePendingThenFilled :
    (on committing (.commitAccept 0) (fun s t => decide (((t.region 0).cp 1).role = .pending) && ((t.region 0).cp 1).touch && decide ((t.region 0).frame = some 9) &&
      decide (t.commits.map (fun c => (c.accepted, c.copy)) = [(true, some 1)]) && only [.commits, .regions] s t) &&
    on (setRegion 0 { twin with en := false } committing) (.commitAccept 0) (fun s t => decide (heads t 0 = [cplHdr false 5 0 .bulk .denied 3 (some 0) none]) &&
      decide (t.commits = []) && only [.flds, .links, .commits] s t) &&
    on { committing with accs := [acc1 (.hostPost 0) true 0 [sevens]], commits := [⟨.host 0 5, 0, 0, true, 9, 1, false, none, 0, [], true⟩] } (.commitAccept 0) (fun s t => decide (t = s)) &&
    on (modRegion 0 (fun r => { r with init := true }) committing) (.commitAccept 0) (fun s t =>
      decide (heads t 0 = [cplHdr false 5 0 .bulk .busy 9 (some 0) none]) && decide (t.commits = []) && only [.flds, .links, .commits] s t)) = true := by decide +kernel

/-- A commit of region 0 whose fill-forward into copy 1 has some lines left. -/
def filling (fill : List (Nat × Nat)) : State :=
  { committing with
    regions := [(0, { twin with cps := [{ role := .visible, ord := some 0 }, { role := .pending }], nextOrd := 1 })]
    commits := [{ src := .host 0 5, port := 0, region := 0, touch := true, frame := 9, seq := 0, accepted := true, copy := some 1, fill := fill }] }

theorem test_FillForwardEndsTheCommit :
    (let x (bad : List (Nat × Nat)) := fillCopy (filling [(0, 0)]) ((filling [(0, 0)]).region 0) 0 1 bad (0, 0)
    on (filling []) (.fillForwardDone 0 []) (fun s t => ((t.region 0).cp 1).ffDone && decide (t.commits = []) &&
      decide (heads t 0 = [cplHdr false 5 0 .bulk .ok 0 (some 0) none]) && only [.flds, .links, .commits, .regions, .jobs] s t) &&
    (x []).can (filling [(0, 0)]) && decide (fillSource ((filling []).region 0) 1 = 0) && !(x []).dst.isEmpty &&
    on (filling [(0, 0)]) (.fillForwardDone 0 []) (fun s t => ((t.region 0).cp 1).ffDone && decide (t.commits = []) && decide (t.mem = s.mem) &&
      (x []).dst.all fun p => decide (currentLine t p.1 p.2 = (zeros, lineCheck p.2 zeros))) &&
    on (filling [(0, 0)]) (.fillForwardDone 0 [(0, 0)]) (fun _ t => (x [(0, 0)]).dst.all fun p => decide (currentLine t p.1 p.2 = (zeros, poisonCheck p.2))) &&
    (let s := modChan 0 (fun k => { k with state := .selfref }) (filling [(0, 0)])
    !(x []).can s && on s (.fillForwardDone 0 []) fun s t => only [.chans] s t)) = true := by decide +kernel

theorem test_CommitsWithoutACopy :
    (on (host flat) (.commit 0 5 true 0 9) (fun s t => decide (heads t 0 = [cplHdr false 5 0 .bulk .unsupported 8 (some 0) none]) && only [.flds, .links] s t) &&
    on (setRegion 0 { twin with cps := [{ role := .visible }, {}] } committing) (.commitAccept 0) (fun s t => decide ((t.region 0).frame = some 9) &&
      decide ((t.region 0).cps = [{ role := .visible }, {}]) && decide (t.commits = []) && decide (heads t 0 = [cplHdr false 5 0 .bulk .ok 0 (some 0) none]) &&
      only [.flds, .links, .commits, .regions, .jobs] s t)) = true := by decide +kernel

/-! ### DRAM channels -/

def slot0 : SlotIn := ⟨0, [], false, false⟩

/-- A queued operation on line `n`. -/
def qent (n : Nat) (acc : Option Nat) : QEnt := { seq := 1, acc := acc, cls := .bulk, n := n, data := if acc.isSome then [] else sevens }

/-- A channel whose row of line `n` is open. -/
def openAt (n : Nat) (k : Chan) : Chan := { k with openRow := [(placeBank k n, placeRow k n)] }

/-- What the slot of a channel chooses. -/
def chosen (s : State) (c : Nat) : SlotAct := chooseSlot (updateDrain c (moveDrift c s)) c 0

theorem test_SlotsMoveLines :
    (let w := setChan 0 { chan0 with wq := [qent 5 none], drain := true } store0
    let wo := setChan 0 (openAt 5 { chan0 with wq := [qent 5 none], drain := true }) store0
    let ro := { setChan 0 (openAt 5 { chan0 with rq := [qent 5 (some 4)] }) store0 with accs := [{ readAcc 0 0 0 .bulk [] with id := 4 }] }
    let so := setChan 0 (openAt 70000 { chan0 with sideq := [{ n := 70000, isRec := false, back := false, cls := .rt, seq := 1 }] }) store0
    decide (chosen w 0 = .op ⟨false, true, qent 5 none⟩) && !openHit (w.chan 0) (qent 5 none) &&
    on w (.schedulerSlot 0 slot0) (fun s t => decide (tget 9 (t.chan 0).openRow (placeBank (s.chan 0) 5) = placeRow (s.chan 0) 5) &&
      (t.chan 0).wq.all (fun e => e.started) && only [.flds, .chans] s t) &&
    decide (chosen wo 0 = .op ⟨false, true, qent 5 none⟩) && ((List.range 64).all fun i => (List.range 4).all fun j =>
      dataKey 0 (physLine (wo.chan 0) 5) i != chkAt (wo.chan 0) 0 5 j) &&
    on wo (.schedulerSlot 0 slot0) (fun s t => decide (lineData t 0 5 = sevens) && decide (lineChk t 0 5 = lineCheck 5 sevens) &&
      decide (lineData t 0 6 = zeros) && decide ((t.chan 0).wq = []) && only [.flds, .accs, .chans, .mem] s t) &&
    decide (chosen ro 0 = .op ⟨false, false, qent 5 (some 4)⟩) &&
    on ro (.schedulerSlot 0 slot0) (fun s t => decide (t.accs.map (·.got) = [[⟨false, 0, zeros, lineCheck 5 zeros⟩]]) && decide (t.mem = s.mem) &&
      decide ((t.chan 0).rq = []) && only [.flds, .accs, .chans, .mem] s t) &&
    on so (.schedulerSlot 0 slot0) (fun s t => decide ((t.chan 0).sideq = []) && (t.chan 0).checkCache.any (·.n == 70000) && only [.flds, .chans] s t)) =
    true := by decide +kernel

theorem test_SlotsRefresh :
    (let at_ (c : Int) : State := setChan 0 { chan0 with rank := [(0, { credit := c })] } store0
    let steer := fset (Pg.ch 0) F.CH_RFCFG_STEER 1 (at_ (-9))
    let act := setChan 0 { chan0 with rfmAt := 2, acts := [(3, 2)], openRow := [(3, 7), (4, 1)], wq := [qent 5 none] } store0
    let snap := setChan 0 { chan0 with due := [(.snap, 0)], rank := [(0, { credit := 64 })] } { store0 with merid := { store0.merid with epoch := 77 } }
    decide (chosen (at_ (-64)) 0 = .refAb 0 true) &&
    on (at_ (-64)) (.schedulerSlot 0 slot0) (fun s t => decide (((t.chan 0).rk 0).credit = -56) &&
      evt t (Pg.ch 0) E.CH_RFINTR && only [.hdrs, .flds, .chans, .vecs] s t) &&
    decide (chosen (at_ 64) 0 = .none) && on (at_ 64) (.schedulerSlot 0 slot0) (fun s t => only [.flds, .chans] s t) &&
    (match chosen (at_ (-1)) 0 with | .refPb _ _ => true | _ => false) &&
    on (at_ (-1)) (.schedulerSlot 0 slot0) (fun s t => decide (((t.chan 0).rk 0).credit = 0) && only [.flds, .chans] s t) &&
    (match chosen steer 0 with | .hold 0 _ => true | _ => false) &&
    on steer (.schedulerSlot 0 slot0) (fun s t => decide (((t.chan 0).rk 0).credit = -8) && decide (((t.chan 0).rk 0).held = none) && only [.flds, .chans] s t) &&
    decide (chosen act 0 = .rfm 3) && on act (.schedulerSlot 0 slot0) (fun s t => decide ((t.chan 0).openRow = [(4, 1)]) && decide ((t.chan 0).acts = []) &&
      only [.flds, .chans] s t) &&
    decide (chosen snap 0 = .bg .snap) && on snap (.schedulerSlot 0 slot0) (fun _ t => fget t (Pg.ch 0) F.CH_SNEP_EPOCH == 77 && decide ((t.chan 0).due = [])) &&
    on store0 (.schedulerSlot 0 ⟨0, [], true, false⟩) (fun s t => decide ((t.chan 0).state = .failed) && evt t (Pg.ch 0) E.CH_FAIL &&
      only [.hdrs, .flds, .links, .accs, .commits, .chans, .regions, .queues, .jobs, .vecs, .ring, .safe] s t) &&
    on { store0 with safe := { store0.safe with state := .safe } } (.schedulerSlot 0 ⟨0, [], true, false⟩) (fun s t => only [.hdrs, .vecs, .safe] s t)) = true := by decide +kernel

theorem test_ChannelsFail :
    (let s0 := { kpStore with accs := [readAcc 0 0 0 .bulk []], chans := tset kpStore.chans 8 { chan0 with rq := [qent 5 (some 4)], wq := [qent 6 none] } }
    queuedIn s0 8 (readAcc 0 0 0 .bulk []) &&
    on s0 (.phyFault 8 false) (fun s t => decide ((t.chan 8).state = .failed) && decide ((t.chan 8).rq = []) && decide ((t.chan 8).wq = [qent 6 none]) &&
      decide ((t.chan 0) = s.chan 0) && decide (t.accs = []) && decide ((t.region 1).kpState = .single) && (t.region 1).kpLost && evt t (Pg.ch 8) E.CH_FAIL &&
      only [.hdrs, .flds, .links, .accs, .commits, .chans, .regions, .queues, .jobs, .vecs, .ring, .safe] s t) &&
    on { s0 with safe := { s0.safe with state := .safe } } (.phyFault 8 true) (fun s t => only [.hdrs, .vecs, .safe] s t)) = true := by decide +kernel

theorem test_BackgroundComesDue :
    (on store0 (.refreshTick 0 0) (fun s t => decide (((t.chan 0).rk 0).credit = -1) && decide (488 * 32 ≤ 1000 * t.now + 1000) && only [.now, .chans, .time] s t) &&
    on (setChan 0 { chan0 with rank := [(0, { credit := -64 })] } store0) (.refreshTick 0 0) (fun _ t => decide (((t.chan 0).rk 0).credit = -64)) &&
    on store0 (.backgroundDue 0 .zq) (fun s t => (t.chan 0).due.any (fun d => d.1 == .zq) && decide (dueAt s 0 .zq ≤ t.now) && only [.now, .chans, .time] s t) &&
    on (setChan 0 { chan0 with due := [(.zq, 7)] } store0) (.backgroundSlackOut 0 .zq) (fun s t => (t.chan 0).urgent.contains .zq && 7 + ms 1 ≤ t.now &&
      only [.now, .chans, .time] s t) &&
    on store0 (.mr4ReadDone 0 0 .quarter) (fun s t => decide (((t.chan 0).rk 0).mult = .quarter) && evt t (Pg.ch 0) E.CH_HOT && only [.hdrs, .chans, .vecs] s t) &&
    on store0 (.mr4ReadDone 0 0 .half) (fun s t => decide (((t.chan 0).rk 0).mult = .half) && only [.chans] s t) &&
    on store0 (.scrubPassDeadline 0) (fun s t => evt t (Pg.ch 0) E.CH_SCRUB_LATE && (t.chan 0).scrubLate && only [.now, .hdrs, .chans, .vecs, .time] s t) &&
    on (setChan 0 { chan0 with scrubLate := true } store0) (.scrubPassDeadline 0) (fun s t => decide (t = s))) = true := by decide +kernel

theorem test_ChannelsTrackAndRepair :
    (let thr := fget store0 (Pg.ch 0) F.CH_CALCFG_OSCTHR
    let top := fget store0 (Pg.ch 0) F.CH_CALCFG_TRKMAX
    let s0 := setChan 0 { chan0 with delays := [(0, 500), (64, 500), (128, 500)] } store0
    let big := { chan0 with ublk := 30720 }
    decide (0 < thr) && decide (thr ≤ top) &&
    on s0 (.oscMeasureDone 0 (thr - 1)) (fun s t => decide (t = s)) &&
    on s0 (.oscMeasureDone 0 thr) (fun s t => decide (t.chan 0 = { (s.chan 0) with drift := driftSteps 0 thr }) && only [.chans] s t) &&
    on s0 (.oscMeasureDone 0 (-(top : Int))) (fun _ t => decide ((t.chan 0).drift = driftSteps 0 (-(top : Int)))) &&
    on s0 (.oscMeasureDone 0 (top + 1)) (fun s t => decide ((t.chan 0).state = .tracking) && evt t (Pg.ch 0) E.CH_TRACK && only [.hdrs, .chans, .regions, .vecs] s t) &&
    on (modChan 0 (fun k => { k with drift := 3 }) s0) (.schedulerSlot 0 slot0) (fun _ t => decide ((t.chan 0).delays = [(0, 503), (64, 503), (128, 503)]) &&
      decide ((t.chan 0).drift = 0)) &&
    on (setChan 0 { chan0 with state := .selfref, exiting := true, rank := [(0, { credit := 9 })] } store0) (.oscMeasureDone 0 0) (fun s t =>
      decide ((t.chan 0).state = .ready) && decide (((t.chan 0).rk 0).credit = 0) && only [.now, .chans, .time] s t) &&
    on store0 (.telemetrySnap .core 0) (fun s t => (t.chan 0).due.any (fun d => d.1 == .snap) && only [.chans] s t) &&
    on (fset (Pg.ch 0) F.CH_PDCFG_IDLE 100 store0) (.powerdownEntry 0) (fun s t => decide ((t.chan 0).state = .powerdown) && only [.now, .chans, .time] s t) &&
    on { store0 with power := { store0.power with state := .dim } } (.powerdownEntry 0) (fun s t => decide ((t.chan 0).state = .powerdown) && only [.chans] s t) &&
    decide (freeRedirect { big with cands := [69] } = some (0, 0)) && chRuns store0 0 && coreRuns store0 &&
    on (fset (Pg.ch 0) F.CH_ECFG_AUTORD 1 (setChan 0 { big with cands := [69] } store0)) (.rowRedirect 0 []) (fun s t =>
      decide ((t.chan 0).rowCopy = some ⟨0, 0, 5, 2, 0⟩) && decide ((t.chan 0).cands = []) && only [.chans] s t) &&
    (let n := rowFirstLine 1 69 + 4
    on (setChan 0 { big with rowCopy := some ⟨3, 0, 5, 2, 4⟩ } store0) (.rowRedirect 0 []) (fun s t =>
      decide ((t.chan 0).rowCopy = some ⟨3, 0, 5, 2, 5⟩) && decide (currentLine t 0 n = (zeros, lineCheck n zeros)) && only [.chans, .nextId] s t)) &&
    on (setChan 0 { big with rowCopy := some ⟨3, 0, 0, 0, 31⟩ } store0) (.redirectDone 0) (fun s t => decide (t = s)) &&
    on (setChan 0 { big with rowCopy := some ⟨3, 0, 0, 0, 32⟩ } store0) (.redirectDone 0) (fun s t => decide ((t.chan 0).rowCopy = none) &&
      (tget {} (t.chan 0).red 3).valid && evt t (Pg.ch 0) E.CH_RD_NEW && t.boot.almWant && only [.hdrs, .chans, .vecs, .boot] s t)) = true := by decide +kernel
/-! ### Epochs, pulses and regions -/

/-- A master whose pulses come: PERIOD 1 ms, the last one at device time 0. -/
def pulsing1 : State :=
  fset Pg.time F.TIME_TCFG_ROLE 1 { store0 with
    time := { store0.time with state := .master, running := true, sched := { period := 51200000 * 65536, epoch := 6 }, perSet := 51200000 * 65536 }
    merid := { store0.merid with epoch := 6 } }

theorem test_PulsesAndBlanking :
    (on store0 .meridianPulse (fun s t => decide (nextPulse s = none) && decide (t = s)) &&
    (nextPulse pulsing1).isSome && on pulsing1 .meridianPulse (fun s t => t.now % 32 == 0 && decide (t.merid.epoch = s.merid.epoch + 1) &&
      decide (t.merid.lastPulse = some t.now) && evt t Pg.epch E.EPCH_PULSE && (List.range 16).all (fun p => (t.vec (256 + p)).pending)) &&
    on { pulsing1 with merid := { pulsing1.merid with blankNow := 100 } } .blankingWindowOpen (fun s t => t.merid.inBlank &&
      only [.now, .hdrs, .flds, .vecs, .merid, .pll, .time] s t)) = true := by decide +kernel

/-- A region with two pending copies whose commits came in time. -/
def pendings2 : Region :=
  { size := 1, copies := 3, en := true, nextOrd := 3
    cps := [{ role := .visible, ord := some 0 }, { role := .pending, ord := some 1, ffDone := true }, { role := .pending, ord := some 2, ffDone := true }] }

theorem test_FlipsShowTheNewest :
    (let s := { setRegion 0 pendings2 store0 with now := us 1000 }
    let u := { setRegion 0 pendings2 store0 with now := us 10 }
    decide ((pendings2.pendings.filter (eligible s pendings2)).getLast? = some 2) && decide (((flipRegion 1 0 s).region 0).cps.map (·.role) = [.idle, .idle, .visible]) &&
    decide (pendings2.pendings.filter (eligible u pendings2) = []) && decide (((flipRegion 1 0 u).region 0).cps.map (·.role) = [.visible, .pending, .pending]) &&
    decide (((flipRegion 1 0 u).region 0).cps.map (·.late) = [false, true, true]) && evt (flipRegion 1 0 u) Pg.rgn E.RGN_LATE) = true := by decide +kernel

theorem test_RegionsAreEnabledWalkedAndLaidOut :
    (let off : Region := { size := 1, copies := 1 }
    on (setRegion 0 off store0) (.regionEnable .core) (fun s t => enableOk s 0 && (t.region 0).en && (t.region 0).init && decide ((t.region 0).cps = freshCopies 1) &&
      only [.hdrs, .regions, .vecs] s t) &&
    on (setRegion 0 flat store0) (.regionEnable .core) (fun s t => evt t Pg.rgn E.RGN_CFGERR && only [.hdrs, .vecs] s t) &&
    on (setRegion 0 { off with size := 3 } store0) (.regionEnable .core) (fun s t => evt t Pg.rgn E.RGN_CFGERR && only [.hdrs, .vecs] s t) &&
    on { setRegion 0 twin store0 with commits := [⟨.host 0 5, 0, 0, true, 9, 0, true, some 1, 0, [], true⟩] } (.regionDisable .core) (fun s t => !(t.region 0).en &&
      decide ((t.region 0).cps = []) && decide (t.commits = []) && only [.hdrs, .flds, .links, .accs, .commits, .regions, .queues, .jobs, .vecs] s t) &&
    on (forAll (List.range 63) (fun i => fset (Pg.ch (i + 1)) F.CH_TRSTAT_CAUSE 1) { setChan 0 { chan0 with present := false, ublk := 1024 } dev0 with
        boot := { dev0.boot with state := .dram } }) .slotTableBuild (fun s t => (List.range 64).all (startupOver s) && t.built &&
      decide (t.boot.state = .links) && (t.chan 0).present && t.slots.length == 256 &&
      only [.hdrs, .flds, .links, .accs, .commits, .chans, .regions, .slots, .built, .queues, .jobs, .vecs, .boot] s t) &&
    (let r := { (kpStore.region 1) with kpState := .resync, kpLost := true }
     let s := setRegion 1 { r with toCopy := some [] } kpStore
     let u := setRegion 1 { r with toCopy := some [(0, 0, 5)] } kpStore
     let x := resyncCopy u (u.region 1) [] (0, 0, 5)
     !((resChans kpStore r false ++ resChans kpStore r true).any (chHolds kpStore)) &&
     on s (.kpResyncDone 1 []) (fun s t => decide (t.region 1 = { r with kpState := .dual, toCopy := none }) && only [.chans, .recs, .regions] s t) &&
     x.can u && on u (.kpResyncDone 1 []) (fun s t => decide ((t.region 1).kpState = .dual) && decide (t.mem = s.mem) && !x.dst.isEmpty &&
       x.dst.all fun p => decide (currentLine t p.1 p.2 = (zeros, lineCheck p.2 zeros))) &&
     (let v := modChan 8 (fun k => { k with wq := (List.range 64).map fun i => qent (7000 + i) none }) u
      !x.can v && on v (.kpResyncDone 1 []) fun s t => only [.chans] s t))) = true := by decide +kernel

/-! ### Vectors -/

/-- Vector 5 triggered and not masked, on port 0. -/
def vec5 (v : Vec) : State := setVec 5 { v with mask := false, pending := true, gather := 1 } (withPort 0 dev0)

theorem test_VectorsSend :
    (on (vec5 {}) (.irqSend 5) (fun s t => maySend s 5 && !(t.vec 5).pending && (t.vec 5).inflight && decide (heads t 0 = [irqHdr 5 (s.vec 5)]) && only [.links, .vecs] s t) &&
    on (vec5 { dport := 1 }) (.irqSend 5) (fun s t => !maySend s 5 && waitsForPort s 5 && (t.vec 5).pending && evt t Pg.vec E.VEC_WAITPORT && only [.hdrs, .vecs] s t) &&
    on (vec5 { heldSince := some 9, hold := 2 }) (.holdExpire 5) (fun s t => (t.vec 5).holdDone && 9 + us 2 ≤ t.now && only [.now, .vecs, .time] s t) &&
    on dev0 (.vectorFire .core) (fun s t => (t.vec (selVec s)).pending && only [.hdrs, .vecs] s t) &&
    on (fset Pg.vec F.VEC_SEL_VECTOR 5 (vec5 {})) (.vectorClrpend .core) (fun s t => decide (selVec s = 5) && !(t.vec 5).pending && only [.vecs] s t)) = true := by decide +kernel

/-! ### Work queues -/

/-- A running queue 0 of 16 entries with its rings in region 0. -/
def queue0 (q : Queue) (s : State) : State := setQueue 0 q (fset (Pg.wq 0) (qfld 0 F.WQ_QCBASE_BLOCK) 256 s)

theorem test_QueuesAreControlled :
    (let run0 : Queue := { state := .run, pidx := 0xFFFF, retired := 0xFFFF }
    on (queue0 run0 (host flat)) (.qpidxWrite .core 0 15) (fun s t => decide (t.queue 0 = { run0 with pidx := 15 }) && only [.queues] s t) &&
    on (queue0 run0 (host flat)) (.qpidxWrite .core 0 16) (fun s t => decide (t.queue 0 = { run0 with state := .error, cause := 1 }) && evt t (Pg.wq 0) 0 &&
      only [.hdrs, .queues, .vecs] s t) &&
    on (queue0 run0 (host flat)) (.queueEnable .core 0) (fun s t => decide (t = s)) &&
    on (queue0 { state := .error, cause := 1 } (host flat)) (.queueEnable .core 0) (fun s t => ringsOk s 0 && decide (t.queue 0 = { state := .run }) && only [.queues] s t) &&
    on (queue0 {} store0) (.queueEnable .core 0) (fun s t => !ringsOk s 0 && decide ((t.queue 0).cause = 4) && evt t (Pg.wq 0) 0 && only [.hdrs, .queues, .vecs] s t) &&
    on (queue0 { ahead := [3] } { host flat with jobs := [{ queue := 0, idx := 0, group := 0, order := 0, dtype := 2, bytes := [] }] }) (.queueEnable .core 0) (fun s t =>
      !queueIdle s 0 && (t.queue 0).heldEnable && only [.queues] s t) &&
    on (queue0 run0 (host flat)) (.queueDisable .core 0) (fun s t => decide (t.queue 0 = { run0 with state := .disabled }) && only [.queues] s t) &&
    on { queue0 run0 (host flat) with jobs := [{ queue := 0, idx := 0, group := 0, order := 0, dtype := 2, bytes := [] }] } (.queueAbort .core 0) (fun s t =>
      decide (t.queue 0 = { run0 with state := .draining }) && decide (t.jobs.map (·.fin) = [some (2, 0)]) &&
      only [.accs, .commits, .regions, .queues, .jobs, .groups] s t) &&
    on (host flat) (.queueConfigWrite .core 255 .qcfg 0x0) (fun s t => !sealStops s .core (Pg.wq 255) (cfgOff 255 .qcfg) 0 && only [.flds] s t) &&
    on (setQueue 255 { state := .run } (host flat)) (.queueConfigWrite .core 255 .qbase 7) (fun s t => decide (t.queue 255 = { state := .run, cause := 5 }) &&
      evt t (Pg.wq 255) 15 && only [.hdrs, .queues, .vecs] s t) &&
    on (queue0 { state := .draining } (host flat)) (.queueDrained 0) (fun s t => decide ((t.queue 0).state = .disabled) && only [.queues] s t) &&
    on (queue0 { state := .disabled, heldEnable := true } (host flat)) (.queueDrained 0) (fun s t => decide (t.queue 0 = { state := .run }) && only [.queues] s t)) = true := by
  decide +kernel

/-- A FILL descriptor of two lines at address 0x10000 with pattern 1. -/
def fillDesc : List Byte := padTo 64 [3, 0, 0, 0, 0x44, 0x33, 0x22, 0x11, 0, 0, 1, 0, 0, 0, 0, 0, 1, 0, 0, 0, 1, 0, 0, 0]

/-- A COPY descriptor of one line from address 0x8000 to 0x10000. -/
def copyDesc : List Byte := padTo 64 [2, 0, 0, 0, 0, 0, 0, 0, 0, 0x80, 0, 0, 0, 0, 0, 0, 0, 0, 1, 0, 0, 0, 0, 0]

/-- A COMMIT descriptor of region 0 for epoch 3. -/
def commitDesc : List Byte := padTo 64 [4, 0, 0, 0, 0, 0, 0, 0, 0, 0, 0, 0, 3, 0, 0, 0]

/-- A MEASURE descriptor of one lamp at address 0. -/
def measureDesc : List Byte := padTo 64 [5, 0, 0, 0, 0, 0, 0, 0, 0, 0, 0, 0, 0, 0, 0, 0, 1, 0, 0, 0]

/-- A job of a descriptor of queue 0, at index 0 and group 0. -/
def job0 (bytes : List Byte) : Job := { queue := 0, idx := 0, group := 0, order := 0, dtype := leAt bytes 0 1, bytes := bytes }

/-- Queue 0 running with one descriptor presented, or fetched. -/
def running (fetched : List Fetched) : State := queue0 { state := .run, pidx := 1, fetch := if fetched = [] then 0 else 1, fetched := fetched } (host flat)

def withJob (j : Job) (s : State) : State := { s with jobs := [j] }

/-- A unit's read of one line of region 0 that is back with its codeword. -/
def reading (src : AccSrc) (addr : Nat) (got : List Got) (s : State) : State :=
  { s with accs := [back s { readAcc 0 addr 0 .bulk got with src := src, chosen := true }] }

theorem test_DescriptorsRun :
    (on (running []) (.descriptorFetch 0 []) (fun s t => (regionOf s (slotAddr s 0 F.WQ_QBASE_BLOCK 0)).isSome &&
      decide (t.accs.map (fun a => (a.src, a.write, a.addr, a.lines)) = [(.descr 0, false, 0, 1)]) && only [.accs, .nextId] s t) &&
    on (reading (.descr 0) 0 [⟨false, 0, zeros, lineCheck 0 zeros⟩] (running [])) (.descriptorFetch 0 []) (fun s t => s.accs.all (fun a => unitBack s a && unitFits s [] a) &&
      decide (t.accs = []) && decide ((t.queue 0).fetched = [{ idx := 0, bytes := zeros }]) && (t.queue 0).fetch == 1) &&
    on (reading (.descr 0) 0 [⟨false, 0, zeros, poisonCheck 0⟩] (running [])) (.descriptorFetch 0 []) (fun _ t => decide ((t.queue 0).fetched = []) &&
      decide (t.jobs.map (fun j => (j.idx, j.fin, j.recorded, j.slot)) = [(0, some (3, 0x11), true, false)])) &&
    on (running [{ idx := 0, bytes := fillDesc }]) (.descriptorStart 0) (fun s t => decide (nextQueue s 0 = some 0) && decide (startRefused s 0 0 fillDesc = none) &&
      decide (t.jobs.map (fun j => (j.dtype, j.idx, j.phase, j.fin)) = [(3, 0, .run, none)]) && only [.flds, .nextId, .commits, .recs, .regions, .queues, .jobs, .groups] s t) &&
    on (running [{ idx := 0, bytes := padTo 64 [9] }]) (.descriptorStart 0) (fun s t => decide (t.jobs.map (·.fin) = [some (5, 0)]) &&
      decide ((t.queue 0).fetched = []) && only [.nextId, .queues, .jobs, .groups] s t) &&
    on (running [{ idx := 0, bytes := commitDesc }]) (.descriptorStart 0) (fun s t => epochWaits 3 s.merid.epoch && decide (t.jobs.map (fun j => (j.phase, j.fin)) = [(.waitEpoch, none)])) &&
    on (withJob { job0 fillDesc with done := 2, nextChunk := 2 } (running [])) (.jobComplete 0 0) (fun s t => s.jobs.all (workDone s) &&
      decide (t.jobs.map (fun j => (j.fin, j.phase)) = [(some (0, 0), .record (recordBytes { job0 fillDesc with done := 2, nextChunk := 2 } 0 0) 0)]) && only [.regions, .jobs] s t) &&
    decide ((recordBytes { job0 fillDesc with done := 2 } 0 0).take 12 = [0, 0, 3, 0, 0x44, 0x33, 0x22, 0x11, 0, 0, 0, 0]) &&
    decide (leAt (recordBytes { job0 fillDesc with done := 2 } 0 0) 52 4 = 2) &&
    on (withJob { job0 fillDesc with fin := some (0, 0), phase := .record [1, 2, 3] 0 } (running [])) (.completionRecordPass 0 0) (fun s t => decide (t.jobs = []) &&
      decide ((currentLine t 0 (257 * 64)).1.take 4 = [1, 2, 3, 0]) && (t.queue 0).retired == 1 && (t.vec 0).pending && qget t 0 F.WQ_QCNT_DONE == 1 &&
      only [.hdrs, .flds, .links, .nextId, .chans, .recs, .regions, .queues, .jobs, .vecs, .groups, .ring] s t) &&
    on (withJob { job0 fillDesc with idx := 3, fin := some (2, 0), phase := .record [1, 2, 3] 2 } (running [])) (.completionRecordPass 0 3) (fun _ t =>
      decide ((t.queue 0).ahead = [3]) && (t.queue 0).retired == 0 && evt t (Pg.wq 0) 16)) = true := by decide +kernel

theorem test_MovesAdmitWholePieces :
    (on (withJob (job0 fillDesc) (running [])) (.movePiece 0 0 []) (fun s t => pieceLines (job0 fillDesc) == 2 && decide (t.mem = s.mem) &&
      decide (t.jobs.map (fun j => (j.nextChunk, j.done)) = [(2, 2)]) &&
      [0, 1].all (fun i => decide (currentLine t 0 (16 * 64 + i) = cw (16 * 64 + i) (List.replicate 16 [1, 0, 0, 0]).flatten))) &&
    on (withJob (job0 copyDesc) (running [])) (.movePiece 0 0 []) (fun s t => decide (t.accs.map (fun a => (a.src, a.addr, a.lines, a.chosen, a.copy)) =
      [(.move 0 0, 0x8000, 1, true, 0)]) && only [.accs, .nextId] s t) &&
    on (reading (.move 0 0) 0x8000 [⟨false, 0, sevens, lineCheck (8 * 64) sevens⟩] (withJob (job0 copyDesc) (running []))) (.movePiece 0 0 []) (fun _ t =>
      decide (currentLine t 0 (16 * 64) = cw (16 * 64) sevens) && decide (t.jobs.map (·.done) = [1])) &&
    on (reading (.move 0 0) 0x8000 [⟨false, 0, zeros, poisonCheck (8 * 64)⟩] (withJob (job0 copyDesc) (running []))) (.movePiece 0 0 []) (fun _ t =>
      decide (currentLine t 0 (16 * 64) = (zeros, poisonCheck (16 * 64))) && decide (t.jobs.map (·.done) = [1])) &&
    (let s := setRegion 0 { twin with cps := [{ role := .visible }, { role := .pending }] } (withJob (job0 fillDesc) (running []))
     on s (.movePiece 0 0 []) fun s t => decide (unitPut s 0x10000 2 .bulk = .noCopy) && t.jobs.all (·.lost) && only [.jobs] s t) &&
    (let s := modChan 0 (fun k => { k with state := .failed }) (withJob (job0 fillDesc) (running []))
     on s (.movePiece 0 0 []) fun s t => decide (unitPut s 0x10000 2 .bulk = .failed) && t.jobs.all (·.pois.isSome) && only [.jobs] s t) &&
    (let s := modChan 0 (fun k => { k with state := .selfref }) (withJob (job0 fillDesc) (running []))
     on s (.movePiece 0 0 []) fun s t => decide (unitPut s 0x10000 2 .bulk = .wait) && decide (t.jobs.map (·.waitOn) = [[0]]) && only [.jobs] s t)) = true := by
  decide +kernel

/-! ### Joiner groups -/

theorem test_TheTableWindow :
    (let s0 := fset (Pg.jg 1) F.JG_TWSEL_INDEX 4095 (fset (Pg.jg 1) F.JG_TWSEL_PRIM 2 (fset (Pg.jg 1) F.JG_TWSEL_TSET 3 (setGroup 1 { tvalid := 0xFF } dev0)))
    on s0 (.twdataWrite .core 1 0x54321) (fun s t => (t.group 1).entry 3 2 4095 == 0x4321 && fget t (Pg.jg 1) F.JG_TWSEL_INDEX == 0 &&
      fget t (Pg.jg 1) F.JG_TWSEL_PRIM == 2 && (t.group 1).tvalid == 0xF7 && only [.flds, .groups] s t) &&
    on { s0 with jobs := [{ job0 measureDesc with group := 1, rcfg := 0x03000000 }] } (.twdataWrite .core 1 7) (fun s t => evt t (Pg.jg 1) E.JG_CFGERR && only [.hdrs, .vecs] s t) &&
    on (setGroup 1 ({ : Group }.putEntry 3 2 4095 77) s0) (.twdataRead .core 1) (fun s t => decide (t.busResult = some 77) && fget t (Pg.jg 1) F.JG_TWSEL_INDEX == 0 &&
      only [.busResult, .flds] s t) &&
    on (fset (Pg.jg 1) F.JG_TLCMD_TSET 5 dev0) (.setv .core 1) (fun s t => (t.group 1).tvalid == 0x20 && only [.groups] s t)) = true := by decide +kernel

theorem test_TablesLoadAndPairsReturn :
    (on (setGroup 0 { tvalid := 0xFF } store0) (.tableLoad .core 0) (fun s t => (t.group 0).tvalid == 0xFE && decide ((t.group 0).tload = some (0, 0, false)) &&
      only [.groups] s t) &&
    on (setGroup 0 { tvalid := 0xFF } (host flat)) (.tableLoad .core 0) (fun _ t => decide ((t.group 0).tload = some (0, 0, true)) &&
      decide (t.accs.map (fun a => (a.src, a.addr, a.lines)) = (List.range 12).map fun i => (.table 0, 2048 * i, 32))) &&
    on (setGroup 0 { tload := some (0, 0, false) } store0) (.tableLoad .core 0) (fun s t => evt t (Pg.jg 0) E.JG_CFGERR && only [.hdrs, .vecs] s t) &&
    on (setGroup 0 { tload := some (0, 0, false) } store0) (.tableLoadDone 0 []) (fun _ t => evt t (Pg.jg 0) E.JG_CFGERR &&
      evt t (Pg.jg 0) E.JG_TLOAD_DONE && decide ((t.group 0).tload = none)) &&
    on (setGroup 0 { state := .returning } dev0) (.groupReturn 0) (fun s t => decide ((t.group 0).state = .inService) && only [.groups] s t) &&
    on (setGroup 0 { state := .returning, fence := 0xFF } dev0) (.groupReturn 0) (fun s t => decide ((t.group 0).state = .out) && evt t (Pg.jg 0) E.JG_OUTSVC &&
      only [.hdrs, .vecs, .groups] s t) &&
    on (setGroup 0 { fence := 4 } (joinOn dev0)) (.unfence .core 0 2) (fun s t => decide ((t.group 0).tests = [2]) && only [.groups] s t) &&
    on (setGroup 0 { fence := 4 } (joinOn dev0)) (.unfence .core 0 1) (fun s t => decide (t = s)) &&
    on (setGroup 0 { fence := 4, tests := [2] } (joinOn dev0)) (.unfenceTestDone 0 2 true) (fun s t => (t.group 0).fence == 0 && decide ((t.group 0).tests = []) && only [.groups] s t) &&
    on (setGroup 0 { fence := 0xFF, state := .out, tests := [2] } (joinOn dev0)) (.unfenceTestDone 0 2 true) (fun _ t => decide ((t.group 0).state = .inService)) &&
    on (setGroup 0 { fence := 4, tests := [2] } (joinOn dev0)) (.unfenceTestDone 0 2 false) (fun s t => (t.group 0).fence == 4 && evt t (Pg.jg 0) E.JG_UNFENCE_FAIL &&
      only [.hdrs, .vecs, .groups] s t) &&
    on (setGroup 0 { cache := [⟨1, 0, 4, [], []⟩, ⟨2, 64, 4, [], []⟩] } { dev0 with jobs := [{ job0 measureDesc with cacheKey := some 2 }] }) (.cinval .core 0) (fun s t =>
      decide ((t.group 0).cache.map (·.key) = [2]) && only [.groups] s t)) = true := by decide +kernel

/-- The group at work on the only chunk of a MEASURE, by joiner 0 or by pair 0 in lockstep. -/
def measuring (pair : Bool) : State :=
  withJob { job0 measureDesc with kp := pair, nextChunk := 1 } (joinOn (setGroup 0 { tvalid := 0xFF, work := [⟨0, 0, 0, 0, pair, 0⟩] } (host flat)))

theorem test_ChunksAreDealt :
    (let fresh (kp : Bool) (g : Group) := withJob { job0 measureDesc with kp := kp } (joinOn (setGroup 0 g (host flat)))
    let quiet : ChunkIn := ⟨[], false, none, false, false, [], 0, false⟩
    on (fresh true {}) (.chunkTake 0 3) (fun s t => decide ((t.group 0).work.map (fun w => (w.unit, w.pair, w.chunk)) = [(2, true, 0)]) &&
      decide (t.jobs.map (·.nextChunk) = [1]) && only [.accs, .nextId, .jobs, .groups] s t) &&
    on (fresh true { work := [⟨1, 0, 0, 2, false, 0⟩] }) (.chunkTake 0 3) (fun s t => decide (t = s)) &&
    on (fresh false {}) (.chunkTake 0 3) (fun s t => decide ((t.group 0).work.map (fun w => (w.unit, w.pair, w.chunk)) = [(3, false, 0)]) &&
      decide (t.accs.map (fun a => (a.src, a.addr)) = [(.chunk 0 3, 0)]) && only [.accs, .nextId, .jobs, .groups] s t) &&
    on (measuring false) (.chunkComplete 0 0 quiet) (fun s t => decide (t.accs.map (fun a => (a.src, a.addr)) = [(.chunk 0 0, 0)]) &&
      only [.flds, .accs, .nextId, .groups] s t && decide ((t.group 0).work = (s.group 0).work)) &&
    on (reading (.chunk 0 0) 0 [⟨false, 0, zeros, lineCheck 0 zeros⟩] (measuring false)) (.chunkComplete 0 0 quiet) (fun _ t => decide ((t.group 0).work = []) && decide (t.jobs.map (·.done) = [1]) &&
      decide (t.jobs.map (fun j => j.results.map (fun r => r.2.bytes)) = [[[0, 0, 0, 0]]])) &&
    on (measuring true) (.chunkComplete 0 1 { quiet with mismatch := true }) (fun _ t => evt t (Pg.jg 0) E.JG_LSMISM && evt t (Pg.jg 0) E.JG_FENCED &&
      (t.group 0).fence == 1 && decide ((t.group 0).state = .returning) && decide ((t.group 0).work = [])) &&
    on (measuring false) (.chunkComplete 0 0 { quiet with tpar := some 0 }) (fun _ t => evt t (Pg.jg 0) E.JG_TPAR && (t.group 0).tvalid == 0xFE && decide ((t.group 0).state = .returning)) &&
    on (measuring false) (.chunkComplete 0 0 { quiet with lsunc := true }) (fun _ t => evt t (Pg.jg 0) E.JG_LSUNC && (t.group 0).tvalid == 0xFF &&
      decide ((t.group 0).state = .returning))) = true := by decide +kernel

/-! ### Ports and lanes -/

def port (k : Link) : State := setLink 0 k dev0

/-- A kept flit. -/
def kept (seq : Nat) : TxFlit := { seq := seq, crcls := 0, crhdr := 0, crdat := 0, first := 15, payload := [], sentAt := 0, msgs := [] }

theorem test_PortsSendFlits :
    (let msg : Msg := { kind := .cpl 5 7, hdr := 7 }
    on (port port8) (.flitSend 0) (fun s t => creditClass s 0 (s.link 0) == 0 && (t.link 0).cwTx == 1 && (t.link 0).nextSeq == 0 && only [.links] s t) &&
    on (port { port8 with txq := [msg], tags := [5, 6] }) (.flitSend 0) (fun s t => msgReady s (s.link 0) msg && decide ((t.link 0).txq = []) && (t.link 0).nextSeq == 1 &&
      decide ((t.link 0).tags = [6]) && decide ((t.link 0).replay.map (fun f => (f.seq, f.first, f.payload.take 2, f.payload.length)) = [(0, 0, [7, 0], 240)]) && only [.links] s t) &&
    on (port { port8 with txq := [msg], standby := .entered false }) (.flitSend 0) (fun _ t => decide ((t.link 0).standby = .waking false t.now)) &&
    on (port { port8 with ackSince := some 9 }) (.ackTimer 0) (fun s t => (t.link 0).ackDue && decide (9 ≤ t.now) && only [.now, .links, .time] s t) &&
    on (port { port8 with replay := [kept 0, kept 1], nextSeq := 2 }) (.replayTimeout 0) (fun s t => decide (0 < fget s (Pg.link 0) F.HP_XCFG_RPLMAX) &&
      decide ((t.link 0).resend = [0, 1]) && (t.link 0).replays == 1 && evt t (Pg.link 0) E.HP_REPLAY && only [.now, .hdrs, .flds, .links, .vecs, .time] s t) &&
    on (port { port8 with replay := [kept 0], nextSeq := 1, replays := 15 }) (.replayTimeout 0) (fun _ t => decide ((t.link 0).state = .detect) &&
      evt t (Pg.link 0) E.HP_REPLAY_FAIL) &&
    on (port { port8 with cwTx := 16384, gseqTx := 65535 }) (.markerGroupDue 0) (fun s t => (t.link 0).cwTx == 0 && (t.link 0).gseqTx == 0 &&
      decide ((t.link 0).groupOut = some (0, 0xFF)) && only [.freeCtr, .links] s t)) = true := by decide +kernel

/-- TX flit 0 with ACKSEQ 4095: it returns 3 headers and 5 slots of class P and carries nothing (Table 4-1, R113, R115). -/
def txWords : List (BitVec 128) :=
  [0x00000000000000001000fff103005f10#128, 0, 0, 0, 0, 0, 0, 0, 0, 0, 0, 0, 0, 0, 0, 0xda1c16f22b0f000e0000000000000000#128, 0xba655fb893e813c2e3e5d9989d179693#128]

/-- A NULL flit that acknowledges flit 1. -/
def ackWords : List (BitVec 128) :=
  [0x00000000000000002fff001400000f10#128, 0, 0, 0, 0, 0, 0, 0, 0, 0, 0, 0, 0, 0, 0, 0xb9de6bd3a239cd8f0000000000000000#128, 0x3144eaadd7882f5ab05379dae2d19523#128]

def bytesOf (ws : List (BitVec 128)) : List Byte := (ws.map fun w => leBytes 16 w.toNat).flatten

/-- The codeword that a port takes from the words of unscrambled lanes. -/
def takes (s : State) (ws : List (BitVec 128)) : Bool :=
  decide (padTo 272 (((ws.map (Prod.mk (0 : Fin 4))).take 17).foldl takeWord (s.link 0, [])).2 = bytesOf ws)

/-- Both codewords are the ones that the device's own encoder makes, without an error, and their CRC is good. -/
theorem test_FlitsDecode :
    (decide (fecDecode (bytesOf txWords) = some ((bytesOf txWords).take 256, 0)) && crcGood ((bytesOf txWords).take 256) &&
      decide (leAt (bytesOf txWords) 0 8 = flitHdr 1 0 4095 0 1 3 5 15)) = true := by decide +kernel

theorem test_NullFlitsDecode :
    (decide (fecDecode (bytesOf ackWords) = some ((bytesOf ackWords).take 256, 0)) && crcGood ((bytesOf ackWords).take 256) &&
      decide (leAt (bytesOf ackWords) 0 8 = flitHdr 2 4095 1 1 0 0 0 15)) = true := by decide +kernel

/-- In order, out of order, an acknowledgement of a kept flit, one out of range; then 256 zeros, whose CRC is bad, and check bytes that nothing
corrects (R114, R115, R119, R120, R123). -/
theorem test_PortsReceiveFlits :
    (let s0 := port port8
    let s1 := port { port8 with expSeq := 7 }
    let s2 := port { port8 with replay := [kept 0, kept 1, kept 2], nextSeq := 3, replays := 2 }
    let s3 := port { port8 with nextSeq := 9 }
    receives s0 0 && takes s0 txWords && ackInRange (s0.link 0) 4095 && (s0.link 0).expSeq == 0 &&
      firstSlot (s0.link 0).rxNeed (pieces 16 (slice (bytesOf txWords) 8 240)) == 15 &&
    receives s1 0 && takes s1 txWords && ackInRange (s1.link 0) 4095 &&
    receives s2 0 && takes s2 ackWords && ackInRange (s2.link 0) 1 &&
    receives s3 0 && takes s3 txWords && !ackInRange (s3.link 0) 4095 &&
    on s0 (.flitReceive 0 (List.replicate 17 (0, 0)) false) (fun s t => (t.link 0).nakEpisode && (t.link 0).expSeq == 0 &&
      up1 (Pg.link 0) F.HP_XCRCE_COUNT s t && only [.flds, .links] s t) &&
    on s0 (.flitReceive 0 (List.replicate 16 (0, 0) ++ [(0, 0x0102030405060708090A0B0C0D0E0F10)]) false) (fun s t => (t.link 0).nakEpisode && (t.link 0).expSeq == 0 &&
      up1 (Pg.link 0) F.HP_XFECU_COUNT s t && only [.flds, .links] s t)) = true := by decide +kernel

/-- Lanes in training, in a phase of attempt 1. -/
def inPhase (st : PState) (lanes : List (Nat × Lane)) : State :=
  port { state := st, attempt := 1, lanes := lanes }

theorem test_PortsTrain :
    (let tr : Lane := { inTrain := true }
    let ok : Lane := { inTrain := true, passed := true }
    let seven := (List.range 7).map fun y => (y, ok)
    let serdes (s : State) := fset Pg.clk (F.CLK_OUTk_EN.shift 16) 1 s
    on (serdes dev0) (.portEnable .core 0) (fun s t => serdesOn s && decide ((t.link 0).state = .detect) && (t.link 0).attempt == 1 && only [.flds, .links, .boot] s t) &&
    on { serdes dev0 with boot := { dev0.boot with isSealed := false } } (.portEnable .core 0) (fun s t => evt t (Pg.link 0) E.HP_CFG_ERR && only [.hdrs, .vecs] s t) &&
    on (fset (Pg.link 0) F.HP_LCFG_ENABLE 1 { port port8 with accs := [readAcc 0 0 0 .bulk []] }) (.portDisable .core 0) (fun _ t => decide ((t.link 0).state = .off) &&
      decide (t.accs = []) && fget t (Pg.link 0) F.HP_LCFG_ENABLE == 0) &&
    on (port port8) (.retrain .core 0) (fun _ t => decide ((t.link 0).state = .detect)) &&
    on (inPhase .detect ((7, tr) :: seven)) (.signalDetect 0 7) (fun s t => ((t.link 0).lane 7).sigdet && decide ((t.link 0).state = .lock) && only [.links] s t) &&
    on (inPhase .detect [(6, tr), (7, tr)]) (.signalDetect 0 7) (fun _ t => decide ((t.link 0).state = .detect)) &&
    on (inPhase .lock ((7, tr) :: seven)) (.cdrLock 0 7) (fun s t => ((t.link 0).lane 7).lock && decide ((t.link 0).state = .align) && only [.links] s t) &&
    on (fset (Pg.link 0) F.HP_ALGN_WIN 4 (inPhase .align [(7, { tr with matched := 3 })])) (.trainingBlock 0 7 ⟨true, withCrc16 0, 0, false, 0⟩) (fun s t =>
      ((t.link 0).lane 7).aligned && only [.links] s t) &&
    on (fset (Pg.link 0) F.HP_ALGN_WIN 4 (inPhase .align [(7, { tr with matched := 2 })])) (.trainingBlock 0 7 ⟨true, withCrc16 0, 0, false, 0⟩) (fun _ t => !((t.link 0).lane 7).aligned) &&
    on (inPhase .align [(7, tr)]) (.trainingBlock 0 7 ⟨true, withCrc16 0 ^^^ 1, 0, false, 0⟩) (fun s t => evt t (Pg.link 0) E.HP_CTRL_ERR &&
      decide (((t.link 0).lane 7).sent.take 2 = [tsmWord, trainWord s 0 7 (blockDone (s.link 0) ((s.link 0).lane 7))]) && only [.hdrs, .links, .vecs] s t) &&
    on (inPhase .lock ((7, tr) :: seven)) (.phaseTimeout 0) (fun s t => decide (minWidth s 0 ≤ 7) && decide ((t.link 0).state = .align) && !((t.link 0).lane 7).inTrain &&
      ((t.link 0).lane 6).inTrain && decide (ms 2 ≤ t.now) && only [.now, .links, .time] s t) &&
    on (inPhase .lock [(0, ok), (1, tr)]) (.phaseTimeout 0) (fun s t => decide (1 < minWidth s 0) && decide ((t.link 0).state = .detect) && (t.link 0).attempt == 2 &&
      (t.link 0).failPh == PState.lock.code && evt t (Pg.link 0) E.HP_TRAIN_FAIL && decide (ms 2 ≤ t.now) && only [.now, .hdrs, .links, .vecs, .time] s t) &&
    on (port { state := .listen, inListen := true, listenSince := 5 }) (.listenPeriod 0) (fun s t => decide ((t.link 0).state = .detect) && (t.link 0).listenSince == t.now &&
      decide (5 ≤ t.now) && only [.now, .links, .time] s t) &&
    on (inPhase .align [(3, { tr with aligned := true, slips := 63 }), (4, { tr with slips := 1 }), (5, { tr with slips := 1 })]) (.algnSlip .core 0 0x18) (fun s t =>
      decide (((List.range 3).map fun i => ((t.link 0).lane (i + 3)).slips) = [63, 2, 1]) && !((t.link 0).lane 3).aligned && only [.links] s t) &&
    on (inPhase .align ((7, tr) :: seven)) (.algnDrop .core 0 0x80) (fun s t => !((t.link 0).lane 7).inTrain && ((t.link 0).lane 0).inTrain &&
      only [.hdrs, .flds, .links, .vecs] s t)) = true := by decide +kernel

theorem test_LanesRetire :
    (let marker : List (Option (Fin 4 × BitVec 128)) := (List.range 8).map fun n => some (0, groupWord 0 0xFF n n 1)
    let r (mine : Bool) : RetireX := { mask := 0xF, since := 3, lastReq := 5, mine := mine }
    on (port { port8 with standby := .waking true 0, wordRx := 3, cwRx := 9 }) (.markerGroup 0 marker) (fun s t => (t.link 0).wordRx == 0 && (t.link 0).cwRx == 0 &&
      decide ((t.link 0).state = .active) && decide ((t.link 0).standby = .none) && only [.hdrs, .links, .vecs] s t) &&
    on { port port8 with accs := [readAcc 0 0 0 .bulk []] } (.laneFault 0 7) (fun s t => decide (minWidth s 0 ≤ widthOf (widest 0x7F)) && decide ((t.link 0).state = .retire) &&
      decide ((t.link 0).retire = some ⟨0x7F, t.now, t.now, true⟩) && decide ((t.link 0).groupOut = some (1, 0x7F)) && decide (t.accs = [])) &&
    on { port { port8 with active := 0xF0 } with accs := [readAcc 0 0 0 .bulk []] } (.laneFault 0 7) (fun s t => decide (widthOf (widest 0x70) < minWidth s 0) &&
      decide ((t.link 0).state = .detect) && decide (t.accs = []) && up1 (Pg.link 0) F.HP_LCNT_RETRAINS s t) &&
    on (port { port8 with expSeq := 5, nextSeq := 7, replay := [kept 6] }) (.retireReq 0 0x0F) (fun _ t => decide ((t.link 0).state = .active) && (t.link 0).active == 0x0F &&
      decide ((t.link 0).retire = none) && (t.link 0).expSeq == 0 && (t.link 0).nextSeq == 0 && decide ((t.link 0).replay = [])) &&
    on (port port8) (.retireReq 0 0x01) (fun _ t => decide ((t.link 0).state = .detect)) &&
    on (port { port8 with state := .retire, retire := some (r true) }) (.retireAck 0 0xFF) (fun _ t => decide ((t.link 0).state = .active) && (t.link 0).active == 0x0F &&
      decide ((t.link 0).retire = none)) &&
    on (port { port8 with state := .retire, retire := some (r true) }) (.retireAck 0 0x01) (fun _ t => decide ((t.link 0).state = .detect)) &&
    on (port { port8 with state := .retire, retire := some (r true) }) (.retireReqRepeat 0) (fun s t => decide ((t.link 0).retire = some { r true with lastReq := t.now }) &&
      decide (5 + us 1 ≤ t.now) && only [.now, .freeCtr, .links, .time] s t) &&
    on (port { port8 with state := .retire, retire := some (r true) }) (.retireTo 0) (fun _ t => decide ((t.link 0).state = .detect) && evt t (Pg.link 0) E.HP_RETIRE_TO &&
      decide (3 + us 16 ≤ t.now))) = true := by decide +kernel

theorem test_LanesWiden :
    (let half : Link := { port8 with active := 0x0F, retired := 0xF0 }
    let soak (fails : Nat) : State := port { half with lanes := tset half.lanes 7 { lock := true, sigdet := true, trained := true, retry := .soaking, fails := fails } }
    let auto (k : Link) : State := fset (Pg.link 0) F.HP_LCFG_AUTOWIDEN 1 (port { k with good := 0xF0, tags := [3], expSeq := 4 })
    on (port { half with lanes := tset half.lanes 6 { lock := true, trained := true } }) (.retryPeriod 0) (fun s t => decide (((t.link 0).lane 6).retry = .soaking) &&
      decide (((t.link 0).lane 7).retry = .training) && decide (((t.link 0).lane 0).retry = .none) && (t.link 0).retryAt == t.now && only [.now, .freeCtr, .links, .time] s t) &&
    on (soak 1) (.soakEnd 0 7 0 true) (fun s t => (t.link 0).good == 0x80 && ((t.link 0).lane 7).fails == 0 && only [.now, .freeCtr, .links, .time] s t) &&
    on (modLink 0 (fun k => { k with lanes := tset k.lanes 7 { k.lane 7 with soakErrs := 3 } }) (soak 0)) (.soakEnd 0 7 0 true) (fun s t => (t.link 0).good == 0 && ((t.link 0).lane 7).fails == 1 && only [.now, .freeCtr, .hdrs, .flds, .links, .vecs, .time] s t) &&
    on (fset (Pg.link 0) F.HP_LRET_RETRYMAX 2 (soak 1)) (.soakEnd 0 7 0 false) (fun _ t => (t.link 0).failed == 0x80 && (t.link 0).retired == 0x70 && evt t (Pg.link 0) E.HP_LANE_FAILED) &&
    on (auto half) (.widenReq 0 0xFF) (fun s t => (t.link 0).active == 0xFF && decide ((t.link 0).state = .active) && (t.link 0).expSeq == 4 && decide ((t.link 0).tags = [3]) &&
      evt t (Pg.link 0) E.HP_WIDEN && only [.freeCtr, .hdrs, .flds, .links, .vecs, .ring] s t) &&
    on (auto { half with widen := some (0xFF, 0) }) (.widenAck 0 0xFF) (fun s t => (t.link 0).active == 0xFF && decide ((t.link 0).widen = none) && evt t (Pg.link 0) E.HP_WIDEN &&
      only [.freeCtr, .hdrs, .flds, .links, .vecs, .ring] s t) &&
    on (auto { half with widen := some (0xFF, 7) }) (.widenAckTimeout 0) (fun s t => decide ((t.link 0).widen = none) && (t.link 0).active == 0x0F && decide (7 + us 10 ≤ t.now) &&
      only [.now, .links, .time] s t)) = true := by decide +kernel

theorem test_LanesAreTested :
    (let serdes (s : State) := fset Pg.clk (F.CLK_OUTk_EN.shift 16) 1 s
    let testing (a : Lane) : State := fset (Pg.link 0) (laneFld 2 F.HP_LyCTL_TXPAT) 1 (fset (Pg.link 0) (laneFld 2 F.HP_LyCTL_RXCHK) 1 (serdes (port { state := .test, lanes := [(2, a)] })))
    let a : Lane := { chk := 1, chkGood := 63, chkLost := true }
    let good : List (Fin 4) := [0, 1, 2, 3]
    on (serdes dev0) (.laneTest .core 0 2 0x05000000) (fun s t => decide ((t.link 0).state = .test) && ((t.link 0).lane 2).gen == 8191 && fget t (Pg.link 0) (laneFld 2 F.HP_LyCTL_RXCHK) == 1 &&
      only [.flds, .links] s t) &&
    on (serdes (fset (Pg.link 0) F.HP_LCFG_ENABLE 1 (port port8))) (.laneTest .core 0 2 0x05000000) (fun s t => evt t (Pg.link 0) E.HP_CFG_ERR && only [.hdrs, .flds, .vecs] s t) &&
    on (testing a) (.prbsInject .core 0 2) (fun s t => ((t.link 0).lane 2).inject && only [.links] s t) &&
    (good.filter (fun sym : Fin 4 => prbsBit 1 1 == pairOf sym % 2 && prbsBit 1 ((2 + pairOf sym % 2) % 8192) == pairOf sym / 2)).length == 1 &&
    good.any (fun sym : Fin 4 => prbsBit 1 1 == pairOf sym % 2 && prbsBit 1 ((2 + pairOf sym % 2) % 8192) == pairOf sym / 2 &&
      on (testing a) (.checkerLock 0 2 [sym]) (fun s t => ((t.link 0).lane 2).chkLock && up1 (Pg.link 0) (laneFld 2 F.HP_LyLOSS_RELOCK) s t &&
        decide (t = checkSyms 0 2 [sym] s))) &&
    on (testing { a with chkLock := true, chkErrs := List.replicate 256 true }) (.chkLoss 0 2 [3]) (fun _ t => !((t.link 0).lane 2).chkLock && evt t (Pg.link 0) E.HP_CHK_LOSS)) = true := by decide +kernel

/-! ### Power -/

/-- Port 0 tolerates 40 µs and the device may go down to DARK. -/
def tolerant (k : Link) (s : State) : State :=
  fset (Pg.link 0) F.HP_LTOL_EN 1 (fset (Pg.link 0) F.HP_LTOL_VALUE 40 (fset (Pg.link 0) F.HP_LTOL_SCALE 2 (fset Pg.pwr F.PWR_PCFG_MAXST 3 (setLink 0 k s))))

/-- No lane of the port has its lock. -/
def dark8 : List (Nat × Lane) := (List.range 8).map fun y => (y, { sigdet := true })

theorem test_PortsAndDeviceStandBy :
    (let s0 := tolerant port8 dev0
    let down := tolerant { port8 with standby := .entered true } dev0
    on s0 (.portStandbyStart 0) (fun s t => targetState s == 3 && portQuiet s 0 && decide ((t.link 0).standby = .asked true t.now) && decide ((t.link 0).groupOut = some (6, 0xFF)) &&
      only [.now, .freeCtr, .links, .time] s t) &&
    on (tolerant { port8 with standby := .asked true 0 } dev0) (.stbyAck 0) (fun s t => decide ((t.link 0).standby = .entered true) && up1 (Pg.link 0) F.HP_PSBY_ENTRIES s t &&
      only [.freeCtr, .flds, .links] s t) &&
    on (tolerant { port8 with standby := .asked true 9 } dev0) (.stbyTimeout 0) (fun s t => decide ((t.link 0).standby = .none) && up1 (Pg.link 0) F.HP_PSBY_REFUSED s t &&
      decide (9 + us 10 ≤ t.now) && only [.now, .flds, .links, .time] s t) &&
    on (port { port8 with standby := .waking true 0, lanes := dark8, gseqTx := 77 }) (.portWake 0 0xFF) (fun s t => (t.link 0).gseqTx == 1 && decide ((t.link 0).groupOut = some (0, 0xFF)) &&
      only [.freeCtr, .links] s t) &&
    on (port { port8 with standby := .waking true 0, lanes := dark8 }) (.portWake 0 0xFE) (fun s t => decide ((t.link 0).groupOut = none) && ((t.link 0).lane 7).lock && only [.links] s t) &&
    on (port { port8 with standby := .entered true }) (.portWake 0 0) (fun s t => decide ((t.link 0).standby = .waking true t.now) && !((t.link 0).lane 7).lock && only [.freeCtr, .links] s t) &&
    on (port { port8 with standby := .waking true 9, lanes := tset port8.lanes 7 {} }) (.wakeLockTimeout 0 7) (fun _ t => decide (9 + us 80 ≤ t.now) && decide ((t.link 0).standby = .none) &&
      decide ((t.link 0).state = .retire)) &&
    on down .powerStateEntry (fun s t => deviceQuiet s && min (targetState s) (standbyLevel s) == 3 && decide (t.power.state = .dark) && only [.now, .time, .power] s t) &&
    on (tolerant { port8 with standby := .entered false } dev0) .powerStateEntry (fun s t => min (targetState s) (standbyLevel s) == 2 && decide (t.power.state = .dim)) &&
    on { down with jobs := [job0 fillDesc] } .powerStateEntry (fun s t => !deviceQuiet s && decide (t = s)) &&
    on { setChan 0 { chan0 with state := .powerdown } down with power := { down.power with state := .dark } } (.deviceWake (.laneSignal 0)) (fun s t => decide (t.power.state = .active) &&
      fget t Pg.pwr F.PWR_WAKESRC_KIND == 1 && up1 Pg.pwr F.PWR_PCNT_WAKES s t && evt t Pg.pwr E.PWR_WAKE && decide ((t.link 0).standby = .waking true t.now) &&
      decide ((t.chan 0).state = .ready) && only [.freeCtr, .hdrs, .flds, .links, .chans, .vecs, .power] s t) &&
    on down (.deviceWake .core) (fun s t => decide (t = s))) = true := by decide +kernel

theorem test_RetentionIsEnteredAndLeft :
    (let may (s : State) := fset Pg.pwr F.PWR_PCFG_RETEN 1 s
    let into (p : Power) (s : State) : State := { s with power := p }
    let s0 := withPort 0 (setGroup 0 { tvalid := 0xFF } store0)
    on (may dev0) (.retain .core) (fun s t => retainRefusal s == 0 && decide (t.power.state = .entering) && only [.power] s t) &&
    on dev0 (.retain .core) (fun s t => retainRefusal s == 1 && t.power.refuse == 1 && evt t Pg.pwr E.PWR_RET_REFUSED && only [.hdrs, .vecs, .power] s t) &&
    on (into { state := .entering } s0) .retentionEntered (fun s t => !entryWaits s && decide (t.power.state = .retention) && decide (t.pll.state = .off) && decide (t.time.state = .free) &&
      (t.group 0).tvalid == 0 && decide (t.power.wasActive = [0]) && decide ((t.link 0).standby = .entered true) && decide ((t.chan 0).state = .selfref) &&
      up1 Pg.pwr F.PWR_PCNT_RETS s t && only [.flds, .links, .accs, .chans, .mem, .groups, .merid, .pll, .time, .ring, .power] s t) &&
    on (into { state := .entering, addrMatch := true } s0) .retentionEntered (fun _ t => decide (t.power.state = .waking) && decide (t.pll.state = .waitref) && !t.power.addrMatch) &&
    on { into { state := .entering } s0 with accs := [readAcc 0 0 0 .bulk []] } .retentionEntered (fun s t => entryWaits s && decide (t = s)) &&
    on { into { state := .entering, since := 5 } s0 with accs := [readAcc 0 0 0 .bulk []] } .retainAbandon (fun s t => anyOpen s && decide (t.power.state = .active) && t.power.refuse == 7 &&
      evt t Pg.pwr E.PWR_RET_REFUSED && decide (5 + ms 1 ≤ t.now) && only [.now, .hdrs, .vecs, .time, .power] s t) &&
    on (into { state := .entering } s0) .retentionWake (fun s t => t.power.addrMatch && only [.sb, .power] s t) &&
    on { into { state := .retention, wasActive := [0] } s0 with pll := { s0.pll with state := .off } } .retentionWake (fun s t => decide (t.power.state = .waking) &&
      decide (t.pll.state = .waitref) && t.pll.since == t.now && decide (t.sb.state = .ignoring) && only [.links, .pll, .sb, .power] s t) &&
    on { into { state := .waking, wasActive := [0] } (setLink 0 { port8 with standby := .waking true 0, lanes := dark8 } store0) with
        pll := { store0.pll with state := .acquire } } .retentionExitDone (fun s t => decide (t = s)) &&
    on (into { state := .waking, wasActive := [0] } (setLink 0 { port8 with standby := .waking true 0, lanes := dark8 } store0)) .retentionExitDone (fun s t =>
      decide (s.pll.state = .locked) && decide (t.power.state = .active) && decide (t.power.wasActive = []) &&
      fget t Pg.pwr F.PWR_WAKESRC_KIND == 3 && evt t Pg.pwr E.PWR_RET_WOKE && decide ((t.link 0).standby = .none) && (t.link 0).gseqTx == 1 &&
      only [.freeCtr, .hdrs, .flds, .links, .vecs, .merid, .power] s t) &&
    on (into { state := .waking, wasActive := [0] } s0) (.partnerNoAnswer 0) (fun s t => decide ((t.link 0).state = .detect) && up1 (Pg.link 0) F.HP_LCNT_RETRAINS s t &&
      decide (t.power.wasActive = []))) = true := by decide +kernel

/-! ### Training and set points -/

def passing : CampaignResult := ⟨⟨false, 2, 0, 5, 0, true⟩, ⟨false, [0, 0, 0], 0, 0⟩, none, []⟩

/-- A channel in a campaign. -/
def training (m : Camp) : State := setChan 3 { chan0 with state := if m.kind = .short then .tracking else .training, camp := some m, delays := [(0, 500)] } dev0

theorem test_ChannelsTrain :
    (let fail : CampaignResult := { passing with fail := some .wck, check := ⟨true, [], 0, 0⟩ }
    let odd : CampaignResult := { passing with parts := { passing.parts with fits := false } }
    let boot (s : State) : State := { s with boot := { s.boot with state := .dram } }
    on (setChan 3 { chan0 with state := .tracking } dev0) (.trainingCampaign 3 .short) (fun s t => decide ((t.chan 3).camp = some { kind := .short, since := t.now, ready := true }) &&
      fget t (Pg.ch 3) F.CH_TRSTAT_PATH == 3 && only [.flds, .chans] s t) &&
    on (boot dev0) (.trainingCampaign 3 .full) (fun s t => startupMay s 3 && decide ((t.chan 3).state = .training) &&
      decide ((t.chan 3).camp = some { kind := .full, startup := true, since := t.now }) && fget t (Pg.ch 3) F.CH_TRSTAT_STEP == 1 && t.boot.drst == (boot dev0).boot.drst ||| 1 &&
      only [.flds, .chans, .boot] s t) &&
    on (training { kind := .full, stopped := true }) (.trainingCampaign 3 .full) (fun s t => decide ((t.chan 3).camp.map (·.stopped) = some false) && only [.flds, .chans, .boot] s t) &&
    on (training { kind := .full, startup := true }) (.campaignEnd 3 odd) (fun s t => decide ((t.chan 3).state = .absent) && fget t (Pg.ch 3) F.CH_TRSTAT_CAUSE == 2 &&
      fget t (Pg.ch 3) F.CH_TRSTAT_STEP == 1 && only [.flds, .chans] s t) &&
    on (training { kind := .setPoint, setPoint := true }) (.campaignEnd 3 fail) (fun _ t => decide ((t.chan 3).state = .failed) && evt t (Pg.ch 3) E.CH_FAIL && evt t Pg.clk E.CLK_DSP_FAIL &&
      fget t (Pg.ch 3) F.CH_TRSTAT_CAUSE == 4) &&
    on (training { kind := .fast, setPoint := true }) (.campaignEnd 3 fail) (fun _ t => decide ((t.chan 3).camp.map (·.kind) = some .setPoint) && decide ((t.chan 3).state = .training)) &&
    on (training { kind := .full, startup := true }) (.campaignEnd 3 fail) (fun s t => decide ((t.chan 3).state = .absent) && decide ((t.chan 3).camp = none) &&
      fget t (Pg.ch 3) F.CH_TRSTAT_STEP == 5 && fget t (Pg.ch 3) F.CH_TRSTAT_CAUSE == 4 && only [.flds, .chans] s t) &&
    on (training { kind := .full, startup := true, since := 4 }) (.channelNoresp 3) (fun s t => decide ((t.chan 3).state = .absent) && fget t (Pg.ch 3) F.CH_TRSTAT_CAUSE == 1 &&
      decide (4 + ms 10 ≤ t.now) && only [.now, .flds, .chans, .time] s t) &&
    on (training { kind := .short }) (.shortRetrainDone 3 false ⟨[], []⟩) (fun s t => decide ((t.chan 3).camp.map (·.tries) = some 1) && only [.chans] s t) &&
    on (training { kind := .short, tries := 1 }) (.shortRetrainDone 3 false ⟨[], []⟩) (fun _ t => decide ((t.chan 3).state = .failed)) &&
    (let s := training { kind := .fast }
     coreRuns s && !inSafe s && (s.chan 3).camp.isSome)) = true := by decide +kernel

/-- These read the almanac, of which the flash holds no copy. -/
theorem test_PassesReachReady :
    (on (training { kind := .full, startup := true }) (.campaignEnd 3 passing) (fun s t => decide ((t.chan 3).state = .ready) && (t.chan 3).density == 2 && (t.chan 3).ranks == 1 &&
      fget t (Pg.ch 3) F.CH_TRSTAT_STEP == 10 && up1 (Pg.ch 3) F.CH_TRCNT_FULL s t)) = true := by decide +kernel

theorem test_ShortRetrainingsMoveDelays :
    (on (training { kind := .short }) (.shortRetrainDone 3 true ⟨[-5, 0, 0, 0, 0, 0, 0, 0], [9]⟩) (fun s t => decide ((t.chan 3).state = .ready) && tget 0 (t.chan 3).delays 0 == 495 &&
      decide ((t.chan 3).osc = [9, 0, 0, 0, 0, 0, 0, 0]) && up1 (Pg.ch 3) F.CH_TRCNT_SHORT s t)) = true := by decide +kernel

theorem test_SweepsAndPatterns :
    (let swept : Sweep := { key := 64, saved := 200, points := 2, since := 6 }
    let s0 := fset (Pg.ch 3) F.CH_SWRANGE_START 10 (fset (Pg.ch 3) F.CH_SWRANGE_STOP 13 (fset (Pg.ch 3) F.CH_SWCTL_STEP 3 (training { kind := .full })))
    let s1 := setChan 3 { chan0 with state := .training, sweep := some swept, delays := [(64, 13)] } dev0
    let beat : List (BitVec 18) := List.replicate 16 1
    on s0 (.sweepGo .core 3) (fun s t => decide (sweepPoints s 3 = some 2) && decide ((t.chan 3).sweep.map (fun w => (w.points, w.saved)) = some (2, 500)) &&
      decide ((t.chan 3).results = []) && only [.flds, .chans] s t) &&
    on (fset (Pg.ch 3) F.CH_SWCTL_STEP 0 s0) (.sweepGo .core 3) (fun s t => decide (sweepPoints s 3 = none) && evt t (Pg.ch 3) E.CH_CFGERR && only [.hdrs, .vecs] s t) &&
    on (fset (Pg.ch 3) F.CH_URSEL_INDEX 63 s0) (.urdataAccess .core 3 (some 0x7FFFF)) (fun s t => tget 0 (t.chan 3).userRam 63 == 0x3FFFF && fget t (Pg.ch 3) F.CH_URSEL_INDEX == 0 &&
      only [.flds, .chans] s t) &&
    on store0 (.sweepGo .core 0) (fun s t => evt t (Pg.ch 0) E.CH_CFGERR && only [.hdrs, .vecs] s t) &&
    on s1 (.sweepDone 3 [beat, beat, beat]) (fun s t => decide ((t.chan 3).sweep = none) && decide ((t.chan 3).delays = [(64, 200)]) && (t.chan 3).results.length == 2 &&
      fget t (Pg.ch 3) F.CH_SWSTAT_NPTS == 2 && fget t (Pg.ch 3) F.CH_SWSTAT_TRUNC == 0 && only [.flds, .chans] s t) &&
    on s1 (.sweepTruncate 3 [beat]) (fun s t => fget t (Pg.ch 3) F.CH_SWSTAT_NPTS == 1 && fget t (Pg.ch 3) F.CH_SWSTAT_TRUNC == 1 && decide (6 + ms 1 ≤ t.now) &&
      only [.now, .flds, .chans, .time] s t) &&
    on (setChan 3 { chan0 with userRam := [(0, 7)] } dev0) (.urdataAccess .core 3 none) (fun s t => decide (t.busResult = some 7) && fget t (Pg.ch 3) F.CH_URSEL_INDEX == 1 &&
      only [.busResult, .flds] s t)) = true := by decide +kernel

theorem test_SetPointsChange :
    (let cur := fget dev0 Pg.clk F.CLK_DSPSTAT_CURRENT
    let other : BitVec 2 := BitVec.ofNat 2 (cur + 1)
    let dsp (n : Nat) (s : State) : State := fset Pg.clk F.CLK_DSPSTAT_STATE n s
    on dev0 (.dspreq .core (BitVec.ofNat 2 cur)) (fun s t => evt t Pg.clk E.CLK_DSP_DONE && only [.hdrs, .flds, .vecs] s t) &&
    on kpStore (.dspreq .core other) (fun s t => kpSum s != 0 && fget t Pg.clk F.CLK_DSPSTAT_REFUSED == 1 && evt t Pg.clk E.CLK_DSP_REFUSED && only [.hdrs, .flds, .vecs] s t) &&
    on (dsp 2 dev0) (.dspreq .core other) (fun _ t => fget t Pg.clk F.CLK_DSPSTAT_REFUSED == 2 && evt t Pg.clk E.CLK_DSP_REFUSED) &&
    on (dsp 1 dev0) (.dspreq .core other) (fun s t => fget t Pg.clk F.CLK_DSPSTAT_TARGET == other.toNat && only [.flds] s t) &&
    on (training { kind := .short }) (.dspreq .core other) (fun s t => dspState t == 1 && evt t Pg.clk E.CLK_DSP_DEFER && only [.hdrs, .flds, .vecs] s t) &&
    on dev0 (.dspreq .core other) (fun s t => kpSum s == 0 && dspState s == 0 && dspState t == 2 && t.pll.wck == other.toNat && only [.flds, .accs, .chans, .mem, .pll] s t) &&
    on (dsp 2 dev0) .setPointChangeEnd (fun s t => !dspCamp s (fun _ => true) && dspState t == 0 && evt t Pg.clk E.CLK_DSP_DONE && t.boot.almWant && only [.hdrs, .flds, .vecs, .boot] s t) &&
    on { dsp 2 store0 with boot := { store0.boot with waiting := [(0, [])] } } .setPointChangeEnd (fun _ t => dspState t == 0 && decide ((t.chan 0).state = .reset) && (t.chan 0).inReset &&
      decide (t.boot.waiting = []))) = true := by decide +kernel

/-- A change trains the channels in service, and a deferred one abandons their campaigns. -/
theorem test_ChangesTrainChannels :
    (on store0 (.dspreq .core 1) (fun s t => dspTrains s 0 && decide ((t.chan 0).state = .training) && (t.chan 0).rate == 1 &&
      decide ((t.chan 0).camp.map (fun m => (m.kind, m.setPoint)) = some (.setPoint, true)) && only [.flds, .accs, .chans, .mem, .pll] s t) &&
    on (fset Pg.clk F.CLK_DSPSTAT_STATE 1 (fset Pg.clk F.CLK_DSPSTAT_TARGET 1 (training { kind := .short }))) .setPointChangeStart (fun s t => t.pll.wck == 1 && decide (2 ≤ dspState t) &&
      up1 (Pg.ch 3) F.CH_TRCNT_ABANDON s t && decide ((t.chan 3).camp.map (·.setPoint) = some true) && only [.flds, .accs, .chans, .mem, .pll] s t)) = true := by decide +kernel

/-- A core that runs with no copy of the almanac and an area that may be erased. -/
theorem test_AlmanacMayBeWritten : (coreRuns dev0 && !inSafe dev0 && bankFree dev0 0 && !areaWorn dev0 0 && decide (almBest dev0 = none)) = true := by decide +kernel

/-! ### The root PLL and the outputs -/

def pllAt (st : PllState) : State := { dev0 with pll := { dev0.pll with state := st } }

theorem test_ThePllFollowsItsReference :
    (let pj (n : Nat) (s : State) : State := fset Pg.clk F.CLK_PJCFG_AUTO n s
    on (pllAt .waitref) (.refclkQualified 5) (fun s t => decide (t.pll.state = .acquire) && t.pll.refpres && only [.pll] s t) &&
    on (pllAt .coast) (.refclkQualified 200001) (fun s t => decide (t.pll = { s.pll with refpres := true, ferr := 32767 }) &&
      decide (s.pll.since + ms (fget s Pg.clk F.CLK_CSTCFG_QUALT) ≤ t.now) && only [.now, .pll, .time] s t) &&
    on (pllAt .coast) (.refclkQualified (-200000)) (fun s t => decide (t.pll.state = .relock) && decide (t.pll.ramp = -200000) && decide (t.pll.ferr = -32767) && only [.now, .pll, .time] s t) &&
    on { pllAt .waitref with boot := { dev0.boot with state := .pll, held := false } } .freerun (fun s t => decide (t.pll.state = .freerun) && evt t Pg.clk E.CLK_FREERUN &&
      decide (s.pll.since + ms 10 ≤ t.now) && decide (t.boot.state = .flashchk) && only [.now, .hdrs, .vecs, .pll, .time, .boot, .safe] s t) &&
    on (pllAt .acquire) .pllLock (fun s t => decide (t.pll.state = .locked) && evt t Pg.clk E.CLK_LOCK && decide (t.boot = s.boot) && only [.hdrs, .vecs, .pll, .boot] s t) &&
    on (setChan 0 { chan0 with state := .selfref } { pllAt .acquire with power := { dev0.power with state := .waking } }) .pllLock (fun s t => (t.chan 0).exiting &&
      only [.hdrs, .chans, .vecs, .pll, .boot] s t) &&
    [(Instr.refclkLoss, E.CLK_COAST), (.refStep, E.CLK_REF_STEP), (.unlock, E.CLK_UNLOCK)].all (fun c => on (pllAt .locked) c.1 (fun s t => decide (t.pll.state = .coast) &&
      evt t Pg.clk E.CLK_COAST && evt t Pg.clk c.2 && up1 Pg.clk F.CLK_CSTCNT_COASTS s t && decide (t.pll.coastSince = some t.now) && only [.hdrs, .flds, .vecs, .pll] s t)) &&
    on (pllAt .pjwait) .refclkLoss (fun _ t => decide (t.pll.state = .coast) && !t.pll.refpres && evt t Pg.clk E.CLK_COAST) &&
    on (pllAt .acquire) .refclkLoss (fun s t => decide (t.pll.state = .waitref) && only [.pll] s t) &&
    on (pllAt .step) .refclkLoss (fun s t => decide (t.pll.state = .step) && t.pll.stepLost && only [.pll] s t) &&
    [((2001 : Int), (1 : Int)), (-2001, -1), (2000, 0)].all (fun x => on { pllAt .relock with pll := { (pllAt .relock).pll with ramp := x.1 } } .relockRampStep (fun s t =>
      decide (t.pll = { s.pll with ramp := x.2, rampAt := us 10 }) && decide (t.now = us 10) && only [.now, .pll, .time] s t)) &&
    on (pllAt .relock) (.phaseMeasured 0) (fun s t => decide (t.pll.state = .locked) && evt t Pg.clk E.CLK_RELOCK && evt t Pg.clk E.CLK_SLEW_DONE && only [.hdrs, .flds, .vecs, .pll] s t) &&
    on (pllAt .relock) (.phaseMeasured (-1000)) (fun s t => decide (t.pll.state = .slew) && decide (t.pll.offset = -1000) && !t.pll.hostSlew && only [.flds, .pll] s t) &&
    on (pj 0 (pllAt .relock)) (.phaseMeasured 1001) (fun s t => decide (t.pll.state = .pjwait) && decide (t.pll.jump = 1001) && evt t Pg.clk E.CLK_PHASE_JUMP &&
      up1 Pg.clk F.CLK_CSTCNT_JUMPS s t && only [.hdrs, .flds, .vecs, .pll] s t) &&
    on (pj 1 (pllAt .relock)) (.phaseMeasured (-5000)) (fun _ t => decide (t.pll.state = .slew) && t.pll.hostSlew) &&
    on (pj 2 (pllAt .relock)) (.phaseMeasured 4999) (fun _ t => decide (t.pll.state = .pjwait) || decide (t.pll.state = .step))) = true := by decide +kernel

theorem test_PhaseJumpsAndOutputs :
    (let jump (d : Int) : State := { pllAt .pjwait with pll := { (pllAt .pjwait).pll with offset := d, coastSince := some 0 } }
    let window (open_ : Bool) (s : State) : State := { s with
      time := { s.time with state := .locked, sched := { period := 51200000 * 65536 } }, merid := { s.merid with blankNow := 2000, inBlank := open_, openedAt := 0 } }
    let slewing (d : Int) (h : Bool) : State := fset Pg.clk F.CLK_PJCFG_SLEWRATE 40 { pllAt .slew with pll := { (pllAt .slew).pll with offset := d, hostSlew := h } }
    let stepping (lost : Bool) : State := { pllAt .step with pll := { (pllAt .step).pll with offset := 2000, stepAt := 3, stepLost := lost } }
    on (jump 2000) (.pjcmdSlew .core) (fun s t => decide (t.pll.state = .slew) && t.pll.hostSlew && decide (t.pll.offset = 2000) && only [.flds, .pll] s t) &&
    on (window true (jump 2000)) (.pjcmdStep .core) (fun s t => pjWindow s && stepFits s && decide (t.pll.state = .step) && only [.flds, .pll] s t) &&
    on (window false (jump 2000)) (.pjcmdStep .core) (fun s t => pjWindow s && !stepFits s && t.pll.stepWait && decide (t.pll.state = .pjwait) && only [.pll] s t) &&
    on (jump 2000) (.pjcmdStep .core) (fun s t => !pjWindow s && evt t Pg.clk E.CLK_CFGERR && only [.hdrs, .vecs] s t) &&
    on (pllAt .locked) (.pjcmdSlew .core) (fun s t => evt t Pg.clk E.CLK_CFGERR && only [.hdrs, .vecs] s t) &&
    on (slewing 100 true) .slewEpochWithoutPulse (fun s t => decide (t.pll.offset = 60) && decide (s.pll.slewAt + ms 10 ≤ t.now) && only [.now, .pll, .time] s t) &&
    on (slewing 100 false) .slewEpochWithoutPulse (fun _ t => decide (t.pll.offset = 90)) &&
    on (slewing (-40) true) .slewEpochWithoutPulse (fun s t => decide (t.pll.state = .locked) && decide (t.pll.offset = 0) && evt t Pg.clk E.CLK_SLEW_DONE && evt t Pg.clk E.CLK_RELOCK &&
      only [.now, .hdrs, .vecs, .pll, .time] s t) &&
    on (stepping false) .stepDone (fun s t => decide (t.pll.state = .locked) && decide (t.pll.offset = 0) && evt t Pg.clk E.CLK_STEP_DONE && decide (3 + stepUnits 2000 ≤ t.now) &&
      only [.now, .hdrs, .vecs, .pll, .time] s t) &&
    on (stepping true) .stepDone (fun _ t => decide (t.pll.state = .coast) && evt t Pg.clk E.CLK_COAST) &&
    [6, 7, 0].all (fun m => on dev0 (.clockMonitorFail m) (fun _ t => decide (t.safe.state = .entering) && evt t Pg.clk (if m = 6 then E.CLK_SYNC_ERR else E.CLK_MON_FAIL))) &&
    on dev0 (.clkOutputEnable .core 1 true) (fun s t => fget t Pg.clk (F.CLK_OUTk_EN.shift 4) == 1 && only [.flds] s t) &&
    on (joinOn dev0) (.clkOutputEnable .core 1 false) (fun s t => fget t Pg.clk (F.CLK_OUTk_EN.shift 4) == 0 && only [.flds] s t) &&
    on dev0 (.clkOutputEnable .core 0 false) (fun s t => fget s Pg.clk F.CLK_OUTk_EN == 1 && evt t Pg.clk E.CLK_CFGERR && only [.hdrs, .vecs] s t) &&
    on dev0 (.fdlyWrite .core 0 200) (fun s t => fget t Pg.clk F.CLK_OUTk_FDLY == 128 && fget t Pg.clk (F.CLK_OUTk_FDLY.shift 4) == 128 && fineNow t 0 == fineNow s 0 && only [.flds, .pll] s t) &&
    on dev0 (.fdlyWrite .core 1 200) (fun s t => decide (t = s)) &&
    on dev0 (.fdlyWrite .core 5 20) (fun s t => fget t Pg.clk (F.CLK_OUTk_FDLY.shift 20) == 20 && only [.flds, .pll] s t) &&
    on dev0 (.dseedWrite .core 0) (fun s t => t.pll.lfsr == 0xFFFFFFFF && only [.flds, .pll] s t)) = true := by decide +kernel

/-! ### Time -/

/-- Ring ports E (link 16) and W (link 17) in ACTIVE. -/
def ringed (s : State) : State := setLink 17 port8 (setLink 16 port8 s)

/-- A member of a ring on which SYNCs come. -/
def member (st : TState) : State := ringed { dev0 with time := { dev0.time with state := st } }

/-- A master. -/
def master (s : State) : State := fset Pg.time F.TIME_TCFG_ROLE 1 { s with time := { s.time with state := .master } }

theorem test_TimeGroupsTravel :
    (let sched : Schedule := { ptime := 100, epoch := 7, period := 5000, gmid := 3, domain := 0 }
    let good : List (BitVec 128) := ldlyWords 0 9 1000 (some (400, 600, 4)) 77
    let sync (hops : Nat) : List (BitVec 128) := syncWords 0 hops false 8 2000 256 sched
    let s0 := setRlink 0 { fresh := 0, ldlySeq := 65535 } (member .locked)
    on s0 (.ldlySend 0) (fun s t => (t.rlink 0).ldlySeq == 0 && decide ((t.rlink 0).sent = ldlyWords 0 65535 s.time.dev none s.fuses.devId) && only [.freeCtr, .links, .ring] s t) &&
    on s0 .syncSend (fun s t => decide (originPorts s = []) && decide (t = s)) &&
    on (master s0) .syncSend (fun s t => decide (originPorts s = [0, 1]) && t.time.syncSeq == 1 && decide ((t.rlink 1).sent = (t.rlink 0).sent) &&
      groupFld (t.rlink 0).sent 0 40 8 == 0 && groupGood (t.rlink 0).sent && only [.freeCtr, .links, .time, .ring] s t) &&
    on s0 (.ldly 0 ⟨lset 0 good 2 0, 1600⟩) (fun s t => evt t (Pg.link 16) E.HP_CTRL_ERR && only [.now, .hdrs, .links, .vecs, .time] s t) &&
    on s0 (.ldly 0 ⟨good, 1600⟩) (fun s t => groupIs 0x20 good && decide ((t.rlink 0).echo = some (1000, 1600, 9)) && (t.rlink 0).nbr == 77 && decide ((t.rlink 0).rt = 1200 - 400) &&
      only [.now, .hdrs, .flds, .links, .vecs, .time, .ring] s t) &&
    on s0 (.sync 0 ⟨sync 16, 2100⟩) (fun s t => !ringEntry s (ringOf 0) && evt t Pg.time E.TIME_HOPS && only [.now, .hdrs, .links, .vecs, .time] s t) &&
    on s0 (.sync 0 ⟨sync 15, 2100⟩) (fun s t => decide (t.time.sched = sched) && t.time.hops == 16 && decide (t.time.dirE.theta = (100 - 1) * 512) && t.time.dirE.seq == 8 &&
      groupFld (t.rlink 1).sent 0 40 8 == 16 && groupFld (t.rlink 1).sent 1 64 64 == 2000 &&
      only [.now, .freeCtr, .hdrs, .flds, .links, .vecs, .merid, .time, .ring] s t) &&
    on { s0 with time := { s0.time with dirE := { seen := some 50 } } } .syncLoss (fun s t => holdable s && decide (t.time.state = .hold) && up1 Pg.time F.TIME_TCNT_LOSSES s t &&
      evt t Pg.time E.TIME_SYNC_LOSS && decide (50 + 3 * syncInt s < t.now) && only [.now, .hdrs, .flds, .vecs, .time] s t)) = true := by decide +kernel

theorem test_TheTimeUnitObeys :
    (let big (blank : Nat) (open_ : Bool) : State := { member .bigwait with
      time := { (member .bigwait).time with theta := 51200, dev := 1000, sched := { period := 51200000 * 65536 } }, merid := { (member .bigwait).merid with blankNow := blank, inBlank := open_ } }
    let m0 := master (member .free)
    let runs := { m0 with time := { m0.time with running := true, sched := { period := 51200000 * 65536 } } }
    on (fset Pg.time F.TIME_SETH_TIME 1 (fset Pg.time F.TIME_SETL_TIME 5 m0)) (.timeSet .core) (fun s t => t.time.dev == 0x100000005 && only [.time, .ring] s t) &&
    on m0 (.epadopt .core) (fun s t => t.time.adopt && only [.time] s t) &&
    on (big 2000 true) (.timeStep .core) (fun s t => pjWindow s && timeFits s && t.time.dev == 900 && decide (t.time.state = .locked) && evt t Pg.time E.TIME_STEP_DONE &&
      only [.hdrs, .vecs, .time] s t) &&
    on (big 2000 false) (.timeStep .core) (fun s t => pjWindow s && !timeFits s && decide (t.time.state = .step) && only [.time] s t) &&
    on (big 0 false) (.timeStep .core) (fun s t => !pjWindow s && evt t Pg.time E.TIME_CFGERR && only [.hdrs, .vecs] s t) &&
    on (big 0 false) (.timeSlew .core) (fun s t => decide (t.time.state = .slew) && decide (t.time.corr = 100000000000) && only [.time] s t) &&
    on (member .hold) (.resume .core) (fun s t => t.time.resume && only [.time] s t) &&
    [Instr.timeSet .core, .timeStep .core, .resume .core].all (fun c => on (member .locked) c (fun s t => evt t Pg.time E.TIME_CFGERR && only [.hdrs, .vecs] s t)) &&
    on (member .slew) .timeSlewEnd (fun s t => decide (t.time.state = .locked) && evt t Pg.time E.TIME_SLEW_DONE && only [.now, .hdrs, .vecs, .time] s t) &&
    on m0 (.roleChange .core true) (fun s t => decide (t = s)) &&
    on (member .locked) (.roleChange .core true) (fun s t => decide (t.time.state = .master) && t.time.hops == 0 && fget t Pg.time F.TIME_TCFG_ROLE == 1 && only [.flds, .merid, .time] s t) &&
    on runs (.roleChange .core false) (fun s t => decide (t.time.state = .free) && !t.time.running && t.time.hops == 31 && only [.flds, .merid, .time] s t) &&
    on m0 (.perlWrite .core 5) (fun s t => decide (t.time.perlHeld = some 5) && only [.time] s t) &&
    on { runs with time := { runs.time with perlHeld := some 5 } } (.perhWrite .core 0x70002) (fun s t => decide (t.time.perNext = some 0x200000005) && decide (t.time.perlHeld = none) &&
      only [.time] s t) &&
    on m0 (.perhWrite .core 1) (fun s t => t.time.running && t.time.sched.period == 0x100000000 && t.time.lastPtime == s.time.dev && only [.time] s t) &&
    on m0 (.perhWrite .core 0) (fun s t => !t.time.running && only [.time] s t) &&
    on (member .locked) (.perhWrite .core 0) (fun s t => evt t Pg.time E.TIME_CFGERR && only [.hdrs, .vecs] s t) &&
    (let sync0 := fset Pg.time F.TIME_TCFG_FSYNC 1 runs
     on { sync0 with time := { sync0.time with dev := BitVec.ofNat 64 (us 1) } } .fsyncEdge (fun s t => pulsing s && decide (t.time.fsMove = us 1 * 1000000000) && only [.time] s t) &&
     on { sync0 with time := { sync0.time with dev := BitVec.ofNat 64 (us 1 + 1) } } .fsyncEdge (fun s t => evt t Pg.time E.TIME_FSYNC_ERR && only [.hdrs, .vecs] s t)) &&
    on { dev0 with time := { dev0.time with dev := 0x300000007 } } (.nowlRead .core) (fun s t => decide (t.busResult = some 7) && t.time.nowh == 3 && only [.busResult, .time] s t)) = true := by decide +kernel

/-! ### Mirroring and handover -/

/-- The king-post store with ring ports in ACTIVE and mirror entry 2 for region 1. -/
def mirroring (m : Mirror) : State :=
  let s := setMirror 2 m (ringed kpStore)
  { s with ring := { s.ring with kpwLast := some 8 } }

def dest : Mirror := { en := true, dest := true, lreg := 1, state := .attached }

theorem test_RegionsAreMirrored :
    (let kpw : RingMsg := ⟨kpwHdr 9 1 1 0 0x55 .kp, sevens, []⟩
    let ack : RingMsg := ⟨kpackHdr 9 .ok, [], []⟩
    let waits (acc : Option Nat) (s : State) : State := { s with ring := { s.ring with kpwOut := [{ seq := 9, entry := 2, addr := 0x400000, data := sevens, tag := 0x55, since := 4, acc := acc }] } }
    let src : Mirror := { dest with dest := false }
    on { mirroring dest with safe := { dev0.safe with state := .safe } } (.kpw 0 kpw) (fun s t => decide (t = s)) &&
    on (let s := mirroring dest; { s with ring := { s.ring with kpwLast := some 9 } }) (.kpw 0 kpw) (fun s t => kpwSeen s 9 && decide (heads t 16 = [kpackHdr 9 .ok]) && only [.links] s t) &&
    on (mirroring {}) (.kpw 0 kpw) (fun s t => decide (destEntry s 1 = none) && decide (heads t 16 = [kpackHdr 9 .denied]) && decide (t.ring.kpwLast = some 9) && only [.links, .ring] s t) &&
    on (mirroring dest) (.kpw 0 kpw) (fun s t => decide (t.accs.map (fun a => a.src) = [.kpw 0 9 0x55]) && (t.accs.all fun a => a.write && a.region == 1 &&
      a.addr == 0x400000 && decide (a.data = [sevens]) && a.cls == .kp) && only [.accs, .nextId] s t && t.accs.all fun a => kpwWaits t 9 && on t (.kpw 0 kpw) (fun t u => decide (u = t)) &&
      on { t with ring := { t.ring with kpwLast := some 7 } } (.orderingPointPass a.id) (fun t u => kpwNextIn t == 8 && decide (u = t)) &&
      on t (.orderingPointPass a.id) (fun t u => decide (t.accs.find? (fun b => b.id == a.id && b.phase == .waiting) = some a) && a.chosen && a.copy == 0 &&
        !waitsBehind t a && !outranked t a && writeAdmits t (footLines t (t.region 1) (t.region 1).writeFeet 0 a.addr) a.lines a.cls &&
        (footLines t (t.region 1) (t.region 1).writeFeet 0 a.addr).any (fun f => !chFailed t f.2.1) &&
        decide (heads u 16 = [kpackHdr 9 .ok]) && decide (u.ring.kpwLast = some 9) && (u.brec 0 512).tag == 0x55 && (u.brec 8 512).tag == 0x55 &&
        decide ((currentLine u 8 (512 * 64)).1 = sevens) && only [.links, .accs, .nextId, .chans, .recs, .groups, .ring] t u)) &&
    on (mirroring src) (.kpack 0 ack) (fun s t => decide (t = s)) &&
    on (waits none (mirroring src)) (.kpack 0 ack) (fun s t => decide (t.ring.kpwOut = []) && only [.ring] s t) &&
    on { waits (some 4) (mirroring src) with accs := [{ readAcc 1 0x400000 0 .kp [] with write := true }] } (.kpack 0 ack) (fun s t => decide (t.accs = []) && decide (t.ring.kpwOut = []) &&
      decide (heads t 0 = [cplHdr false 5 0 .kp .ok 0 (some 1) none]) && only [.flds, .links, .accs, .ring] s t) &&
    on (setMirror 2 src kpStore) (.mirrorDetach 2) (fun s t => decide (namedLinks s = []) && decide ((t.mirror 2).state = .detached) && (t.mirror 2).detaches == 1 &&
      evt t (Pg.link 16) E.RING_M_DETACH && only [.hdrs, .flds, .links, .accs, .vecs, .ring] s t) &&
    on (waits none (mirroring src)) (.mirrorDetach 2) (fun s t => decide ((t.mirror 2).state = .detached) && decide (t.ring.kpwOut = []) && decide (4 + us 20 ≤ t.now) &&
      only [.now, .hdrs, .flds, .links, .accs, .vecs, .time, .ring] s t) &&
    on (fset (Pg.link 16) F.RING_MSEL_ENTRY 2 (mirroring dest)) (.mirrorEnable .core) (fun s t => decide (t = s)) &&
    on (fset (Pg.link 16) F.RING_MSEL_ENTRY 2 (mirroring { dest with en := false, state := .off })) (.mirrorEnable .core) (fun s t => mirrorOk s 1 && decide ((t.mirror 2).state = .resync) &&
      only [.ring] s t) &&
    on (fset (Pg.link 16) F.RING_MSEL_ENTRY 2 (mirroring { dest with en := false, lreg := 7 })) (.mirrorEnable .core) (fun s t => !mirrorOk s 7 && evt t (Pg.link 16) E.HP_CFG_ERR &&
      only [.hdrs, .vecs] s t) &&
    on (mirroring { dest with state := .resync }) (.mirrorResyncDone 2) (fun s t => decide ((t.mirror 2).state = .attached) && evt t (Pg.link 16) E.RING_M_ATTACH &&
      only [.hdrs, .vecs, .ring] s t)) = true := by decide +kernel

/-- A failed pair of channels: a block in them is sent as poison at once. -/
def down (s : State) : State := setChan 8 { s.chan 8 with state := .failed } (setChan 0 { s.chan 0 with state := .failed } s)

/-- The last block of a copy: one that cannot be read stays, one in failed channels goes as poison lines. -/
theorem test_MirrorsCopyBlockByBlock :
    (let x : BlockRead := { region := 1, copy := 0, block := 5 }
    let src : Mirror := { dest with dest := false, state := .resync, left := some [5] }
    let held (s : State) : State := { s with accs := [{ readAcc 1 0x405000 0 .kp [] with phase := .waiting }] }
    on (held (mirroring src)) (.mirrorResyncDone 2) (fun s t => !x.can s && decide (((sendRegion 2 s).mirror 2).left.getD [] ≠ []) && decide (t.mirror 2 = s.mirror 2) &&
      decide (t = sendRegion 2 s) && only [.flds, .chans, .ring] s t) &&
    on (down (mirroring src)) (.mirrorResyncDone 2) (fun s t => x.can s && decide (((sendRegion 2 s).mirror 2).left.getD [] = []) && decide ((t.mirror 2).state = .attached) &&
      evt t (Pg.link 16) E.RING_M_ATTACH && decide (heads t 16 = [kpwHdr 0 64 0 0x5000 0 .bulk]) &&
      (t.link 16).txq.all fun m => decide (m.poison = List.range 64) && m.data.all (· == 0))) = true := by decide +kernel

/-- A device LOCKED with the domain's number, with ring ports or without, in a handover. -/
def handing (h : Handover) (s : State) : State :=
  { s with time := { s.time with state := .locked, epOk := true, sched := { ptime := 0, epoch := 3, period := 51200000 * 65536 } }, ring := { s.ring with ho := h } }

theorem test_HandoversBegin :
    (let st : RingMsg := ⟨hoctlHdr 1 0 0, [], []⟩
    let late (s : State) : State := { s with time := { s.time with state := .free } }
    let base := ringed (setRegion 0 flat store0)
    on (handing {} base) (.hocmdArm .core) (fun s t => decide (t.ring.ho = { state := .armed }) && only [.ring] s t) &&
    on (handing {} dev0) (.hocmdArm .core) (fun _ t => decide (t.ring.ho.linkDown = some t.now)) &&
    on (handing { state := .copy } base) (.hocmdStart .core) (fun s t => evt t (Pg.link 16) E.HP_CFG_ERR && only [.hdrs, .vecs] s t) &&
    on (handing {} base) (.hocmdStart .core) (fun _ t => decide (t.ring.ho.state = .check) && t.ring.ho.sender && decide (t.ring.ho.dirty = List.range 8) &&
      decide (heads t 16 = [hoctlHdr 1 0 0, hoHdr 0x45 0 0 0])) &&
    on (late (handing {} base)) (.hocmdStart .core) (fun _ t => decide (t.ring.ho.state = .aborted) && t.ring.ho.cause == 4 && evt t (Pg.link 16) E.RING_HO_ABORT) &&
    on (handing { state := .copy, sender := true, dirty := [3] } base) (.hocmdAbort .core) (fun s t => decide (t.ring.ho.state = .aborted) && t.ring.ho.cause == 6 && decide (t.ring.ho.dirty = []) &&
      decide (heads t 16 = [hoctlHdr 5 0 6]) && only [.hdrs, .links, .vecs, .ring] s t) &&
    on (handing {} base) (.hocmdAbort .core) (fun s t => decide (t = s)) &&
    on (handing { state := .armed } base) (.hoctlStart 0 st) (fun s t => decide (t.ring.ho.state = .check) && decide (heads t 16 = [hoctlHdr 2 0 0]) && only [.links, .ring] s t) &&
    on (late (handing { state := .armed } base)) (.hoctlStart 0 st) (fun _ t => decide (t.ring.ho.state = .aborted) && t.ring.ho.cause == 4) &&
    on (handing {} base) (.hoctlStart 0 st) (fun s t => decide (heads t 16 = [hoctlHdr 5 0 3]) && only [.links] s t) &&
    on (handing { state := .check, sender := true } base) (.hoctlArmed 0 st) (fun s t => decide (t.ring.ho.state = .copy) && t.ring.ho.pass == 1 && only [.links, .ring] s t) &&
    on (fset (Pg.link 16) F.RING_HOCFG_PORTS 2 (handing { state := .check, sender := true, dirty := [5] } (setLink 17 {} base))) (.hoctlArmed 0 st) (fun s t => decide (namedLinks s = []) &&
      decide (t.ring.ho = { state := .copy, sender := true, dirty := [5], pass := 1 }) && only [.ring] s t) &&
    on { handing { state := .check, sender := true, dirty := [5] } base with regions := [] } (.hoctlArmed 0 st) (fun s t => decide (t.ring.ho.state = .copy) && t.ring.ho.pass == 1 &&
      decide (t.ring.ho.dirty = []) && decide (t.ring.ho.left = []) && only [.ring] s t) &&
    on (handing { state := .check } base) (.horeg 0 ⟨hoHdr 0x45 0 0 0, horegData flat, []⟩) (fun s t => decide (t.ring.ho.regsSeen = [0]) && only [.ring] s t) &&
    on (handing { state := .check } base) (.horeg 0 ⟨hoHdr 0x45 0 0 0, horegData twin, []⟩) (fun _ t => decide (t.ring.ho.state = .aborted) && t.ring.ho.cause == 3) &&
    on (handing { state := .copy } base) (.hoctlAbort 0 ⟨hoctlHdr 5 0 6, [], []⟩) (fun _ t => decide (t.ring.ho.state = .aborted) && t.ring.ho.cause == 6 && evt t (Pg.link 16) E.RING_HO_ABORT) &&
    on (handing { state := .armed, linkDown := some 8 } dev0) .handoverLinkTimeout (fun s t => decide (namedLinks s = []) && t.ring.ho.cause == 2 &&
      decide (8 + ms (fget s (Pg.link 16) F.RING_HOCFG_LINKTO) ≤ t.now))) = true := by decide +kernel

theorem test_HandoversSwitch :
    (let base := ringed (setRegion 0 flat store0)
    let rcv : Handover := { state := .receiving, regsSeen := [0] }
    let frz : Handover := { state := .freeze, sender := true, sent := true, pulse := some 51200000, epoch := 4 }
    let none_ : RingMsg := ⟨0, [], []⟩
    let few (n : Nat) (s : State) : State := fset (Pg.link 16) F.RING_HOCFG_FINAL n s
    (regionOf (handing rcv base) 0).isSome &&
    on (handing rcv base) (.horec 0 ⟨hoHdr 0x43 0 0 0x1000, recBytes false { tag := 6 }, []⟩) (fun s t => decide (t.brec 0 1 = { tag := 6 }) && only [.recs] s t) &&
    on (handing rcv base) (.hodata 0 ⟨hoHdr 0x42 0 0 0x1000, sevens, []⟩) (fun s t => t.accs.length == 1 && only [.accs, .nextId] s t &&
      t.accs.all fun a => a.write && a.chosen && a.copy == 0 && a.addr == 0x1000 && a.data.length == 64 && decide (a.data.head? = some sevens) &&
        on t (.horec 0 ⟨hoHdr 0x43 0 0 0x1000, recBytes false { tag := 6 }, []⟩) (fun t u => only [.accs] t u && u.accs.all fun b =>
          decide (b.recIn = some (recBytes false { tag := 6 })) && on u (.orderingPointPass b.id) (fun u v =>
            decide (v.brec 0 1 = { tag := 6 }) && decide (v.accs = []) && only [.accs, .nextId, .chans, .recs, .groups, .ring] u v))) &&
    on (handing rcv base) (.hostate 0 ⟨hoHdr 0x46 0 0 0, hostateData flat, []⟩) (fun s t => decide (t.ring.ho.states.map (·.region) = [0]) && only [.ring] s t) &&
    on (handing rcv base) (.hoctlSwitch 0 ⟨hoctlHdr 3 4 0, [], []⟩) (fun s t => decide (t.ring.ho.pulse = some 51200000) && t.ring.ho.ready && decide (heads t 16 = [hoctlHdr 4 4 0]) &&
      only [.links, .ring] s t) &&
    on (handing rcv base) (.hoctlSwitch 0 ⟨hoctlHdr 3 3 0, [], []⟩) (fun s t => decide (t = s)) &&
    on (handing { state := .check } base) (.hodata 0 none_) (fun _ t => decide (t.ring.ho.state = .aborted) && t.ring.ho.cause == 3) &&
    on (handing frz base) (.hoctlReady 0 ⟨hoctlHdr 4 4 0, [], []⟩) (fun s t => t.ring.ho.ready && only [.ring] s t) &&
    on (handing { frz with ready := true } base) (.hoctlDone 0 none_) (fun _ t => decide (t.ring.ho.state = .done) && evt t (Pg.link 16) E.RING_HO_DONE && !(t.region 0).en) &&
    on (few 1 (handing { state := .copy, sender := true, dirty := [1, 2, 3, 4] } base)) .handoverPassEnd (fun s t => decide (t.ring.ho.pulse = some 51200000) && t.ring.ho.epoch == 4 &&
      only [.ring] s t) &&
    on (few 1 (handing { state := .copy, sender := true, dirty := [1, 2, 3, 4, 5] } store0)) .handoverPassEnd (fun s t => t.ring.ho.pass == 1 && t.ring.ho.dirty.length == 5 && only [.ring] s t) &&
    on (handing frz store0) .handoverPassEnd (fun s t => decide (t = s)) &&
    on (down (handing { state := .copy, sender := true, left := [0x5000] } base)) .handoverPassEnd (fun s t => decide (t.ring.ho.left = []) && decide (heads t 16 = [hoHdr 0x42 63 0 0x5000, hoHdr 0x43 0 0 0x5000]) &&
      decide ((t.link 16).txq.map (·.poison) = [List.range 64, []]) && decide ((t.link 16).txq.getLast?.map (·.data) = some (recBytes false (s.brec 0 5))) &&
      (t.link 16).txq.all fun m => m.hdr != hoHdr 0x42 63 0 0x5000 || m.data.all (· == 0)) &&
    on { handing { state := .copy, sender := true, left := [0x5000] } base with accs := [{ readAcc 0 0x5000 0 .bulk [] with phase := .waiting }] } .handoverPassEnd
      (fun s t => !({ region := 0, copy := 0, block := 5 } : BlockRead).can s && decide (t = s)) &&
    on (handing { state := .copy, sender := true, pulse := some 51200000 } store0) .handoverFreeze (fun s t => decide (t.ring.ho.state = .freeze) && t.ring.ho.frozen &&
      only [.now, .time, .ring] s t) &&
    on (handing { frz with sent := false } base) .handoverFinalCheck (fun _ t => t.ring.ho.sent && decide (heads t 16 = [hoHdr 0x46 0 0 0, hoctlHdr 3 4 0])) &&
    on (handing { frz with sent := false, dirty := [1] } base) .handoverFinalCheck (fun s t => !t.ring.ho.sent && only [.now, .time, .pll, .merid] s t)) = true := by decide +kernel

/-! ### Resets and boot -/

def booting (b : Boot) : State := { State.reset with boot := b, pll := { State.reset.pll with state := .locked } }

/-- What a cold reset leaves, and its cause. -/
def coldOf (f : Fld) (t : State) : Bool :=
  t.boot.held && decide (t.boot.state = .pll) && decide (t.links = []) && decide (t.mem = []) && fget t Pg.boot f == 1 && decide (t.pll.state = .off)

theorem test_TheDeviceIsReset :
    (let busy := withPort 0 (setChan 0 chan0 { dev0 with accs := [readAcc 0 0 0 .bulk []], nextId := 7 })
    on busy (.coldReset .pwrok) (fun _ t => coldOf F.BOOT_RCAUSE_PWRON t) && on busy (.railTrip 2001) (fun _ t => coldOf F.BOOT_RCAUSE_RESETN t) &&
    on busy (.railTrip 2000) (fun s t => decide (t = s)) &&
    on State.reset (.coldResetRelease 0x1D) (fun s t => !t.boot.held && t.boot.mode == 1 && t.boot.sa == 7 && decide (t.pll.state = .waitref) && only [.flds, .pll, .boot] s t) &&
    on busy (.coldResetRelease 0) (fun s t => decide (t = s)) &&
    on busy (.rstcmdCold .core) (fun _ t => coldOf F.BOOT_RCAUSE_SWCOLD t) &&
    on busy (.rstcmdWarm .core) (fun s t => t.boot.warm && decide (t.boot.state = .warm) && inWarm t && t.boot.since == s.now && on t (.rstcmdWarm .core) (fun t u => decide (u = t)) && decide (t.links = []) && decide (t.accs = []) && decide ((t.chan 0).state = .selfref) &&
      up1 Pg.boot F.BOOT_RCNT_WARMS s t && decide (t.time = s.time)) &&
    on (setChan 0 { chan0 with state := .failed } busy) (.rstcmdWarm .core) (fun _ t => (t.chan 0).lost) &&
    on busy (.rstcmdCore .core) (fun s t => decide (t.boot.back = some .ready) && t.boot.path == 0 && decide (t.links = s.links) && decide (t.accs = s.accs) && fget t Pg.boot F.BOOT_RCAUSE_CORE == 1) &&
    on dev0 (.tapInstruction .other) (fun s t => decide (t.tap = .bypass) && only [.tap] s t) && on dev0 (.tapInstruction .idcode) (fun _ t => decide (t.tap = .idcode)) &&
    on (booting { mode := 2 }) (.tapInstruction .extest) (fun _ t => decide (t.tap = .extest))) = true := by decide +kernel

theorem test_PartsAreReset :
    (let held (k : Chan) : State := setChan 0 { k with state := .training, inReset := true } store0
    on (fset (Pg.link 0) F.HP_LCFG_ENABLE 1 { withPort 0 dev0 with accs := [readAcc 0 0 0 .bulk []] }) (.portReset .core 0) (fun s t => decide ((t.link 0).state = .detect) &&
      decide (t.accs = []) && evt t Pg.boot E.BOOT_RST_DONE && up1 Pg.boot F.BOOT_RCNT_PARTS s t && fget t (Pg.link 0) F.HP_LCFG_ENABLE == 1) &&
    on (withPort 0 dev0) (.portReset .core 0) (fun _ t => decide ((t.link 0).state = .off)) &&
    on dev0 (.channelReset .core 3 []) (fun s t => evt t Pg.boot E.BOOT_CFGERR && only [.hdrs, .vecs] s t) &&
    on (fset Pg.clk F.CLK_DSPSTAT_STATE 2 store0) (.channelReset .core 0 [4]) (fun s t => decide (t.boot.waiting = [(0, [4])]) && only [.flds, .boot] s t) &&
    on (setChan 0 { chan0 with rq := [qent 5 (some 4)], wq := [qent 6 none] } store0) (.channelReset .core 0 []) (fun s t => decide ((t.chan 0).state = .reset) && (t.chan 0).inReset &&
      decide ((t.chan 0).rq = []) && (t.chan 0).wq.length == 1 && up1 Pg.boot F.BOOT_RCNT_PARTS s t) &&
    on { store0 with ring := { store0.ring with ho := { state := .receiving } } } (.channelReset .core 0 []) (fun s t => hoBusy s && decide (t.ring.ho.state = .aborted) && t.ring.ho.cause == 8) &&
    on { held chan0 with safe := { dev0.safe with state := .safe } } (.channelResetDone 0 true) (fun s t => decide (t = s)) &&
    on (held { chan0 with wq := [qent 6 none] }) (.channelResetDone 0 true) (fun s t => resetPassed s 0 && decide ((t.chan 0).state = .ready) && decide ((t.chan 0).wq = []) && decide (lineData t 0 6 = sevens) &&
      evt t Pg.boot E.BOOT_RST_DONE && decide (t.recs = s.recs)) &&
    on (fset (Pg.ch 0) F.CH_TRSTAT_CAUSE 3 (held chan0)) (.channelResetDone 0 false) (fun s t => !resetPassed s 0 && decide ((t.chan 0).state = .failed) && !(t.chan 0).inReset && only [.hdrs, .chans, .vecs, .boot] s t) &&
    ((held { chan0 with decayed := true }).chan 0).decayed &&
    on (setGroup 0 { tvalid := 3 } store0) (.bayReset .core 0 []) (fun s t => decide (t.boot.bayWait = [0]) && decide ((t.group 0).state = .returning) && (t.group 0).tvalid == 0 &&
      decide ((t.chan 0).state = .reset) && up1 (Pg.bay 0) F.BAY_BCNT_RESETS s t)) = true := by decide +kernel

theorem test_TheDeviceBoots :
    (let wd (s : State) : State := fset Pg.boot F.BOOT_WDCFG_EN 1 { s with boot := { s.boot with wdOn := true, wdWantA5 := true, wdSince := 5, wdPeriod := 300, consec := 2 } }
    let inImage (mode : BitVec 2) : State := booting { state := .image, held := false, mode := mode, coreUp := true }
    let links (s : State) : State := { s with boot := { s.boot with state := .links, testsDone := true, held := false } }
    on (booting { state := .flashchk, held := false, coreUp := true }) (.flashCheckDone []) (fun s t => decide (t.boot.state = .image) && fget t Pg.boot F.BOOT_SEQA_SEQ == 0 &&
      only [.hdrs, .flds, .vecs, .boot, .flash] s t) &&
    on (booting { state := .warm, since := 4, held := false, coreUp := true }) (.flashCheckDone [(0xFFFF00, ⟨0, true, []⟩)]) (fun s t => decide (t.boot.state = .image) &&
      decide (t.now = 4 + us 200) && checkPage 0xFFFF00 && readUncor t 0xFFFF00 ⟨0, false, []⟩ && only [.now, .hdrs, .flds, .vecs, .time, .boot, .flash] s t) &&
    on (booting { state := .flashchk, held := false, coreUp := true }) (.flashCheckDone [(0xFFFF00, ⟨0, true, []⟩)]) (fun s t => evt t Pg.flsh E.FLSH_UNCOR && up1 Pg.flsh F.FLSH_FCNT_UNCORS s t) &&
    on (inImage 1) (.imageSelect []) (fun s t => decide (t.boot.state = .recovery) && t.boot.isSealed && evt t Pg.boot E.BOOT_SEALED &&
      only [.hdrs, .flds, .vecs, .boot] s t) &&
    on { (inImage 1) with boot := { (inImage 1).boot with isSealed := true } } (.imageSelect []) (fun s t => decide (t.boot.state = .recovery) && decide (t.flds = s.flds)) &&
    on (inImage 0) (.imageSelect []) (fun s t => slotFailure s 0 false == 1 && slotFailure s 1 false == 1 && decide (t.boot.state = .noimage) && evt t Pg.boot E.BOOT_IMG_FAIL &&
      fget t Pg.boot F.BOOT_IMGSTAT_FAILB == 1 && only [.hdrs, .flds, .vecs, .boot] s t) &&
    on (booting { state := .config, coreUp := true, held := false }) (.bcmdSeal .core) (fun s t => t.boot.isSealed && decide (t.boot.state = .dram) && evt t Pg.boot E.BOOT_SEALED &&
      only [.hdrs, .vecs, .boot] s t) &&
    on (wd dev0) (.bcmdRun .core) (fun s t => t.boot.run && t.boot.consec == 0 && only [.boot] s t) &&
    on (wd dev0) (.wdkick .core 0xA5) (fun s t => !t.boot.wdWantA5 && t.boot.wdSince == s.now && only [.boot] s t) &&
    on (withRights 3 (withPort 3 dev0)) (.bcmdSeal (.host 3)) (fun s t => evt t Pg.boot E.BOOT_CFGERR && only [.hdrs, .vecs] s t) &&
    on (wd dev0) .watchdogExpire (fun s t => decide (t.boot.state = .flashchk) && t.boot.consec == 3 && up1 Pg.boot F.BOOT_RCNT_WDEXP s t && evt t Pg.boot E.BOOT_WD_EXPIRE &&
      decide (5 + ms 300 ≤ t.now)) &&
    on (wd dev0) (.wdkick .core 0x5A) (fun s t => decide (t.boot.state = .flashchk) && fget t Pg.boot F.BOOT_RCAUSE_WD == 1 && up1 Pg.boot F.BOOT_RCNT_WDEXP s t) &&
    on (links store0) .ready (fun s t => readyMet s && decide (t.boot.state = .ready) && evt t Pg.boot E.BOOT_READY && !t.safe.fnDrv && only [.hdrs, .flds, .vecs, .boot, .safe] s t) &&
    on { links store0 with safe := { store0.safe with corrupt := [9] } } .ready (fun s t => readyMet s && decide (t.safe.state = .entering) && t.safe.fnDrv && decide (t.boot = s.boot)) &&
    on { store0 with boot := { store0.boot with testsDone := false } } (.startupTestsDone 0 [9] [0]) (fun s t => t.boot.testsDone && t.safe.testFail && (t.group 1).fence == 2 &&
      decide ((t.chan 0).state = .failed) && decide (t.safe.state = s.safe.state)) &&
    on { dev0 with boot := { dev0.boot with testsDone := false } } (.startupTestsDone 2 [] []) (fun _ t => t.safe.testFail && decide (t.safe.state = .entering))) = true := by decide +kernel

/-! ### Flash -/

/-- A bank with an operation. -/
def working (b : Nat) (k : FlashBank) (s : State) : State := setFbank b k s

def quiet : FlashIn := ⟨0, false, []⟩

def fop (w : FlashWork) : FlashOp := ⟨w, .mailbox, 3⟩

theorem test_TheMailboxServes :
    (let at_ (a : Nat) : State := fset Pg.flsh F.FLSH_MADDR_ADDR a dev0
    let mb (m : Mbox) (s : State) : State := { s with flash := { s.flash with mbox := some m } }
    let data : Nat := logAddr 0 40
    mboxServed dev0 &&
    on (mb ⟨1, 0, true, false, none, 0⟩ dev0) (.mboxErase .core) (fun s t => evt t Pg.flsh E.FLSH_CFGERR && only [.hdrs, .vecs] s t) &&
    on (at_ 0x300) (.mboxRead .core) (fun s t => decide (t.flash.mbox.map (fun m => (m.op, m.addr)) = some (1, 0x300)) && only [.flash] s t) &&
    on (at_ 0x2000100) (.mboxProgram .core) (fun s t => mboxMay s true 0x2000100 && decide (((t.fbank 1).op.map (·.work)).isSome) && decide (t.flash.bytes = s.flash.bytes) &&
      decide ((t.fbank 1).op = some ⟨.program (512 * 65536 + 0x100) (mbufBytes s), .mailbox, s.now⟩) && only [.boot, .flash] s t) &&
    on (at_ 0x2010000) (.mboxErase .core) (fun s t => decide ((t.fbank 1).op = some ⟨.erase 513 1 none 0, .mailbox, s.now⟩) && only [.boot, .flash] s t) &&
    on (at_ data) (.mboxErase .core) (fun s t => !areaWorn s 0 && decide (nextSector s 0 = some 0) && decide ((t.fbank 0).op = some ⟨.erase 256 1 (some 40) 0, .mailbox, s.now⟩)) &&
    on (working 0 { op := some (fop (.erase 4 2 none 0)) } (at_ 0)) (.mboxSuspend .core) (fun s t => decide ((t.fbank 0).op = none) && decide ((t.fbank 0).susp = some (fop (.erase 4 2 none 0))) &&
      (t.fbank 0).suspends == 1 && only [.flash] s t) &&
    on (working 0 { susp := some (fop (.erase 4 2 none 0)) } (at_ 0)) (.mboxResume .core) (fun s t => decide ((t.fbank 0).op.map (·.work) = some (.erase 4 2 none 0)) &&
      decide ((t.fbank 0).susp = none) && only [.flash] s t) &&
    on (mb ⟨1, 0x300, false, false, none, 0⟩ (working 0 { op := some (fop (.erase 4 2 none 0)) } (at_ 0))) (.mboxSuspend .core) (fun s t => decide ((t.fbank 0).op = none) &&
      decide (t.flash.mbox = s.flash.mbox) && only [.flash] s t && on t (.mboxResume .core) (fun t u => decide ((u.fbank 0).op.map (·.work) = some (.erase 4 2 none 0)) && only [.flash] t u)) &&
    on (mb ⟨3, 0, true, true, some 2, 0⟩ dev0) (.mboxDone quiet) (fun s t => decide (t.flash.mbox = none) && t.flash.mbResult == 2 && evt t Pg.flsh E.FLSH_MBOX_DONE && only [.hdrs, .vecs, .flash] s t) &&
    on (mb ⟨1, 0x300, true, true, none, 0⟩ { dev0 with flash := { dev0.flash with bytes := [(0x304, 0x12)] } }) (.mboxDone quiet) (fun s t => !readUncor s 0x300 quiet && t.flash.mbResult == 0 &&
      fget t Pg.flsh (F.FLSH_MBUFk_DATA.shift 4) == 0xFFFFFF12 && evt t Pg.flsh E.FLSH_MBOX_DONE)) = true := by decide +kernel

theorem test_FlashOperationsRun :
    (let prog : FlashOp := fop (.program 0x400 [1, 2])
    let er (step tries : Nat) : State := working 0 { op := some (fop (.erase 4 step (some 9) tries)) } (setCell 4 (mkCell 0 7 none) { dev0 with flash := { dev0.flash with bytes := [(4 * 65536 + 1, 8)] } })
    let rw (s : State) : State := fset Pg.flsh F.FLSH_RWADDR_ADDR 1 s
    let rot : State := fset Pg.flsh F.FLSH_FCFG_ROTLOW 31 (setCell (areaSector 0 12) (mkCell 0 1 (some (5, 1))) { dev0 with flash := { dev0.flash with head := [10, 0], tail := [12, 0] } })
    on (working 0 { op := some prog } dev0) (.flashOperationDone 0 true) (fun s t => decide (t.flash.bytes = [(0x400, 1), (0x401, 2)]) && decide ((t.fbank 0).op = none) && only [.flash] s t) &&
    on (er 2 0) (.flashOperationDone 0 true) (fun s t => decide (t.flash.bytes = []) && decide ((t.fbank 0).op.map (·.work) = some (.erase 4 3 (some 9) 0)) && only [.flash] s t) &&
    on (er 2 0) (.flashOperationDone 0 false) (fun s t => decide (t.flash.bytes = s.flash.bytes) && decide ((t.fbank 0).op.map (·.work) = some (.erase 4 2 (some 9) 1)) && only [.flash] s t) &&
    on (er 2 1) (.flashOperationDone 0 false) (fun s t => decide ((t.fbank 0).op.map (·.work) = some (.erase 4 6 (some 9) 1)) && decide (t.flash.cells = s.flash.cells) && only [.flash] s t) &&
    (let rt (step : Nat) : State := working 0 { op := some ⟨.erase 5 step none 0, .rotation 4 9, 3⟩ } (er 2 0)
     on (rt 3) (.flashOperationDone 0 true) (fun _ t => decide (t.cell 5 = mkCell 0 0 none) && decide ((t.fbank 0).op.map (·.work) = some (.erase 5 4 none 0))) &&
     on (rt 4) (.flashOperationDone 0 true) (fun s t => decide (t.flash.bytes = s.flash.bytes ++ [(5 * 65536 + 1, 8)]) && decide ((t.fbank 0).op.map (·.work) = some (.erase 5 5 none 0))) &&
     on (rt 5) (.flashOperationDone 0 true) (fun s t => decide (t.cell 5 = mkCell 0 0 (some (9, 1))) && decide (t.flash.bytes = s.flash.bytes) && decide ((t.fbank 0).op = none))) &&
    on (er 6 1) (.flashOperationDone 0 false) (fun s t => decide ((t.fbank 0).op = none) && (t.cell 4).isRetired && evt t Pg.flsh E.FLSH_RETIRE && up1 Pg.flsh F.FLSH_FCNT_RETIRES s t) &&
    on (er 3 0) (.flashOperationDone 0 true) (fun s t => decide (t.cell 4 = mkCell 0 7 (some (9, 1))) && decide ((t.fbank 0).op = none) && only [.flash] s t) &&
    decide (((er 1 0).fbank 0).op.map (·.work) = some (.erase 4 1 (some 9) 0)) &&
    on (rw { dev0 with flash := { dev0.flash with bytes := [(5, 0x77)] } }) (.rwdataRead .core quiet) (fun s t => decide (t.busResult = some 0xFFFF77FF) && fget t Pg.flsh F.FLSH_RWADDR_ADDR == 2 &&
      only [.busResult, .hdrs, .flds, .vecs, .flash] s t) &&
    (let busy := working 0 { op := some prog } (rw (withRights 3 (withPort 3 dev0)))
     windowBusy busy && on busy (.rwdataRead (.host 3) quiet) (fun s t => up1 (Pg.link 3) F.HP_XSTS2_BUSY s t && only [.flds] s t) &&
     on busy (.rwdataRead .sideband quiet) (fun s t => t.sb.nak == 2 && evt t Pg.sbnd E.SBND_BUSY_NAK && only [.hdrs, .flds, .vecs, .sb] s t) &&
     (match exec (.rwdataRead .core quiet) busy with | .fault (.busFault a) => a == 0x504C | _ => false)) &&
    on (setCell 6 (mkCell 1 2 none) dev0) (.openSectorErase 6) (fun s t => (s.cell 6).isOpen && decide ((t.fbank 0).op = some ⟨.erase 6 1 none 0, .firmware, s.now⟩) && only [.boot, .flash] s t) &&
    on dev0 (.flashRefreshRead 1 []) (fun s t => decide (t.flash.refreshed = [0, s.now]) && only [.flash] s t) &&
    on dev0 (.flashRefreshRead 0 [(0x100, ⟨0, true, []⟩)]) (fun s t => evt t Pg.flsh E.FLSH_UNCOR && up1 Pg.flsh F.FLSH_FCNT_UNCORS s t && only [.hdrs, .flds, .vecs, .flash] s t) &&
    on rot (.rotationStep 0) (fun s t => rotationDue s 0 && decide (nextSector s 0 = some 10) &&
      decide ((t.fbank 0).op = some ⟨.erase (areaSector 0 10) 1 none 0, .rotation (areaSector 0 12) 5, s.now⟩) && only [.boot, .flash] s t)) = true := by decide +kernel

def entry1 : Capture := ⟨7, 0, 0, 9, 5, 0, 3, 4, 1, 0, 0, 0⟩

theorem test_FaultsAreLogged :
    (let s0 := setCell (areaSector 0 3) (mkCell 0 1 (some (2, 1))) (setCell (areaSector 1 4) (mkCell 0 1 (some (2, 1))) { dev0 with
      safe := { dev0.safe with capture := [entry1] }, flash := { dev0.flash with logNext := 1, head := [10, 10], tail := [3, 4] } })
    let programs (s : State) (d a : Nat) (want : List Byte) : Bool := match (s.fbank d).op with
      | some ⟨.program b data, .faultLog, _⟩ => b == a && decide (data.take 16 = want)
      | _ => false
    on s0 .faultLogWrite (fun s t => bankFree s 0 && decide (t.flash.logJob = some ⟨0, 2⟩) && programs t 0 (areaSector 0 3 * 65536 + 512) ((captureBytes s entry1).take 16) &&
      only [.boot, .flash] s t) &&
    on { s0 with flash := { s0.flash with logNext := 255 } } .faultLogWrite (fun s t => decide (nextSector s 0 = some 10) && decide (t.flash.logJob = some ⟨0, 0⟩) &&
      decide ((t.fbank 0).op = some ⟨.erase (areaSector 0 10) 1 (some 3) 0, .faultLog, 0⟩)) &&
    on { s0 with flash := { s0.flash with logJob := some ⟨1, 1⟩ } } .faultLogWrite (fun s t => programs t 1 (areaSector 1 4 * 65536) ((logHeader s 7).take 16)) &&
    on (working 0 { op := some (fop (.program 0 [])) } s0) .faultLogWrite (fun s t => decide (t.flash = { s.flash with logJob := some ⟨0, 0⟩ })) &&
    on { s0 with flash := { s0.flash with logJob := some ⟨2, 0⟩ } } .faultLogWrite (fun s t => decide (t.safe.capture = []) && t.flash.logNext == 2 && t.flash.logSeq == 7 &&
      fget t Pg.safe F.SAFE_LOGSTAT_LASTSEQ == 7 && only [.flds, .flash, .safe] s t) &&
    on (working 1 { op := some ⟨.program 0x400 [1], .faultLog, 0⟩ } { s0 with flash := { s0.flash with logJob := some ⟨1, 2⟩ } }) (.flashOperationDone 1 true) (fun s t =>
      decide (t.safe.capture = []) && t.flash.logNext == 2 && decide (t.flash.bytes = [(0x400, 1)]) && decide ((t.fbank 1).op = none) && only [.flds, .flash, .safe] s t)) = true := by decide +kernel

/-! ### The sideband -/

def sbAt (b : Sideband) : State := { dev0 with sb := b }

theorem test_TheSidebandTalks :
    (let err (s t : State) : Bool := up1 Pg.sbnd F.SBND_ERRCNT_PROTO s t && evt t Pg.sbnd E.SBND_PROTO
    let evtEn : Nat := Pg.pwr * 4096 + 0x14
    let wr : Sideband := { state := .write, raddr := evtEn, crc := 5 }
    let reach (s : State) : State := fset Pg.sbnd F.SBND_SACC_WREN 1 s
    let word : List Byte := [2, 0, 0, 0]
    on (sbAt { wr with fresh := true }) (.sbStart .boundary) (fun s t => decide (t.sb.state = .address) && t.sb.expectAddr && t.sb.afterSr && t.sb.raddr == evtEn && only [.sb] s t) &&
    on (sbAt wr) (.sbStop .boundary) (fun s t => decide (t.sb.state = .idle) && only [.sb] s t) &&
    on (sbAt wr) (.sbStart .inByte) (fun s t => decide (t.sb.state = .address) && err s t) && on (sbAt wr) (.sbStop .inAck) (fun s t => decide (t.sb.state = .idle) && err s t) &&
    on (sbAt { wr with got := [1] }) (.sbStop .boundary) (fun s t => decide (t.sb.state = .idle) && err s t && only [.hdrs, .flds, .vecs, .sb] s t) &&
    on (sbAt { wr with got := [1, 2, 3] }) (.sbStop .boundary) (fun s t => err s t) &&
    (let adr : Sideband := { state := .address, expectAddr := true }
     on (sbAt adr) (.sbAddress 0xB2 quiet) (fun s t => decide (t.sb.state = .ignoring) && only [.sb] s t) &&
     on (sbAt adr) (.sbAddress 0xB0 quiet) (fun s t => !sbDeaf s && !t.sb.expectAddr && t.sb.crc == pecByte 0 0xB0 && only [.sb] s t) &&
     on (sbAt { adr with afterSr := true, raddr := 0x4 }) (.sbAddress 0xB1 quiet) (fun s t => !busyWord s 4 && decide (t.sb.state = .read) &&
       decide (t.sb.word = some (regRead 0 4 quiet s).1)) &&
     on { sbAt adr with power := { dev0.power with state := .retention } } (.sbAddress 0xB0 quiet) (fun s t => sbDeaf s && t.sb.nak == 1 && decide (t.sb.state = .ignoring) &&
       only [.links, .pll, .power, .sb] s t) &&
     on (sbAt { adr with expectAddr := false, addr := [0x14] }) (.sbAddress 0x30 quiet) (fun s t => decide (t.sb.addr = [0x14, 0x30]) && only [.sb] s t) &&
     on (sbAt { adr with expectAddr := false, addr := [0x14, 0x30] }) (.sbAddress 0x80 quiet) (fun s t => sbThird 0x80 0x3014 s && decide (t.sb.state = .write) && t.sb.raddr == 0x3014 && t.sb.p &&
       only [.sb] s t) &&
     on (sbAt { adr with expectAddr := false, addr := [0x15, 0x30] }) (.sbAddress 0 quiet) (fun s t => !sbThird 0 0x3015 s && decide (t.sb.state = .ignoring) && t.sb.nak == 3 && err s t)) &&
    on (sbAt { wr with got := [1] }) (.sbWriteWord [2, 3] false) (fun s t => decide (t.sb.got = [1, 2, 3]) && only [.sb] s t) &&
    on (reach (sbAt wr)) (.sbWriteWord word false) (fun s t => (t.hdr Pg.pwr).evtEn == 2 &&& evtMask Pg.pwr && t.sb.raddr == evtEn + 4 && up1 Pg.sbnd F.SBND_XCNT_WR s t &&
      only [.hdrs, .flds, .sb] s t) &&
    on (reach (sbAt { wr with p := true })) (.sbWriteWord (word ++ leBytes 1 (pecRun 5 word)) false) (fun s t => (t.hdr Pg.pwr).evtEn == 2 &&& evtMask Pg.pwr && t.sb.crc == 0 && only [.hdrs, .flds, .sb] s t) &&
    on (reach (sbAt { wr with p := true })) (.sbWriteWord (word ++ leBytes 1 (pecRun 5 word + 1)) false) (fun s t => t.sb.nak == 5 && evt t Pg.sbnd E.SBND_PEC_ERR && up1 Pg.sbnd F.SBND_ERRCNT_PEC s t) &&
    on (reach (sbAt wr)) (.sbWriteWord word true) (fun s t => t.sb.nak == 4 && evt t Pg.sbnd E.SBND_BUSY_NAK && up1 Pg.sbnd F.SBND_ERRCNT_BUSY s t) &&
    (let rd : Sideband := { state := .read, raddr := 0x5048, word := some 9 }
     on (sbAt rd) (.sbReadWord ⟨2, false⟩ quiet) (fun s t => decide (t.busResult = some 9) && decide (t.sb.state = .ignoring) && only [.busResult, .sb] s t) &&
     on (sbAt { rd with p := true }) (.sbReadWord ⟨4, true⟩ quiet) (fun _ t => decide (t.sb.state = .read) && t.sb.out == 4 && on t (.sbStop .inByte) (fun t u => decide (u.sb.state = .idle) && err t u)) &&
     on (working 0 { op := some (fop (.erase 4 2 none 0)) } (sbAt rd)) (.sbReadWord ⟨4, false⟩ quiet) (fun s t => busyWord s 0x504C && t.sb.aborted && t.sb.raddr == 0x504C && evt t Pg.sbnd E.SBND_RD_ABORT &&
       only [.busResult, .hdrs, .vecs, .sb] s t) &&
     on (sbAt rd) (.sbReadWord ⟨4, false⟩ quiet) (fun s t => !busyWord s 0x504C && decide (t.busResult = some 9) && decide (t.sb.state = .read) && t.sb.word.isSome && t.sb.raddr == 0x504C)) &&
    on (sbAt {}) .sdaTo (fun s t => !sbDrives s.sb && decide (t = s)) &&
    [(Instr.sdaTo, E.SBND_SDA_TO, 2), (.sclTo, E.SBND_SCL_TO, 3), (.busHeld, E.SBND_BUS_HELD, 2)].all (fun c => on (sbAt { wr with sdato := 2, sclto := 3, lastAt := 7 }) c.1 (fun s t =>
      decide (t.sb.state = .idle) && evt t Pg.sbnd c.2.1 && decide (t.now = 7 + ms c.2.2) && up1 Pg.sbnd F.SBND_ERRCNT_PROTO s t && only [.now, .hdrs, .flds, .vecs, .time, .sb] s t))) = true := by decide +kernel

/-! ### The safety monitor -/

def inSafe0 : State := { store0 with safe := { store0.safe with state := .safe } }

theorem test_FaultsLeadToSafe :
    (let entered (mech page : Nat) (s t : State) : Bool := decide (t.safe.state = .entering) && t.safe.fnDrv && fget t Pg.safe F.SAFE_FCAUSE_MECH == mech &&
      fget t Pg.safe F.SAFE_FCAUSE_PAGE == page && t.safe.capture.any (fun a => a.mech == mech && a.scope == 5 && a.action == 3) &&
      only [.hdrs, .flds, .links, .accs, .commits, .regions, .queues, .jobs, .vecs, .ring, .safe] s t
    let high : State := { dev0 with safe := { dev0.safe with fnDrv := false, fnRb := false } }
    [(Instr.safeEnter (.command .core 0xA5C3), 0xFF, Pg.safe), (.safeEnter (.parity 1), 0x0A, 1), (.safeEnter (.bounds 3), 0x0A, 0x13), (.safeEnter .dataPath, 0x0B, 0), (.monitorSelfCompare, 0x0D, Pg.safe),
      (.fnMismatch true, 0x0D, Pg.safe), (.scanPass [9], 9, 9)].all (fun c => on dev0 c.1 (entered c.2.1 c.2.2)) &&
    on { dev0 with boot := { dev0.boot with state := .links, warm := true } } (.safeEnter .dataPath) (fun s t => inWarm s && decide (t.safe.state = .normal) &&
      t.safe.capture.any (fun a => a.scope == 5 && a.action == 0) && only [.hdrs, .vecs, .safe] s t) &&
    on dev0 (.scanPass [9]) (fun _ t => decide (t.safe.corrupt = [9])) &&
    on dev0 (.safeEnter (.parity 0x13)) (fun s t => decide (t.safe.state = .normal) && up1 Pg.safe F.SAFE_FCNT_PORT s t && t.safe.capture.any (fun a => a.mech == 10 && a.scope == 1 && a.unit == 3 && a.action == 1)) &&
    on dev0 (.safeEnter (.command .core 0xA5C2)) (fun s t => evt t Pg.safe E.SAFE_CFGERR && only [.hdrs, .vecs] s t) &&
    on store0 (.safeEnter (.parity 0x40)) (fun _ t => decide ((t.chan 0).state = .failed)) &&
    on high (.fnMismatch false) (fun s t => !fnDriven s && t.safe.fnRb && evt t Pg.safe E.SAFE_FN_MISMATCH && decide (t.safe.state = .normal) && only [.hdrs, .vecs, .safe] s t) &&
    on inSafe0 (.safeEnter .dataPath) (fun s t => decide (t.safe.state = .safe) && t.safe.capture.length == s.safe.capture.length + 1 && only [.safe] s t) &&
    on { store0 with safe := { store0.safe with state := .entering }, accs := [readAcc 0 0 0 .bulk []] } .safeEntryDone (fun s t => decide (t.safe.state = .safe) && decide (t.accs = []) &&
      decide ((t.chan 0).state = .selfref) && up1 Pg.safe F.SAFE_FCNT_SAFE s t && evt t Pg.safe E.SAFE_SAFE_ENTRY)) = true := by decide +kernel

theorem test_TheMonitorChecks :
    (let warn : Int := 16 * fget dev0 Pg.safe F.SAFE_SCFG_TWARN
    let all (x : Int) : List Int := List.replicate 9 x
    let safe (f : SafeUnit → SafeUnit) (s : State) : State := { s with safe := f s.safe }
    let lt := safe (fun m => { m with ltRun := true }) store0
    on dev0 (.scanPass []) (fun s t => up1 Pg.safe F.SAFE_SCAN_PASSES s t && only [.flds, .safe] s t) &&
    on dev0 (.tempSample (all (warn + 1))) (fun s t => decide (warn + 1 ≤ 1840) && !t.safe.armed && evt t Pg.safe E.SAFE_TEMP_WARN && only [.hdrs, .vecs, .safe] s t) &&
    on (safe (fun m => { m with armed := false }) dev0) (.tempSample (all (warn - 32))) (fun s t => t.safe.armed && only [.hdrs, .vecs, .safe] s t) &&
    on (safe (fun m => { m with armed := false }) dev0) (.tempSample (all (warn - 31))) (fun _ t => !t.safe.armed) &&
    on dev0 (.tempSample (all 1841)) (fun _ t => t.safe.hotRun == 1 && decide (t.safe.state = .normal)) &&
    on (safe (fun m => { m with hotRun := 1 }) dev0) (.tempSample (all 1841)) (fun _ t => decide (t.safe.state = .entering)) &&
    on (safe (fun m => { m with ltRun := true, ltOverdue := 3 }) { dev0 with now := 9 }) (.latentTestRound []) (fun s t => decide (t.safe = { s.safe with
      ltRun := false, ltAt := 9, ltPass := List.replicate 8 9, ltOverdue := 0 }) && only [.safe] s t) &&
    on dev0 (.latentTestRound []) (fun s t => decide (s.safe.ltAt + ltPeriod s ≤ t.now) && t.safe.ltAt == t.now && only [.now, .time, .safe] s t) &&
    on lt (.latentTestRound [(0, 0)]) (fun _ t => decide ((t.chan 0).state = .failed) && t.safe.ltFail == 1) &&
    on lt (.latentTestRound [(2, 9)]) (fun _ t => (t.group 1).fence == 2 && t.safe.ltFail == 4) &&
    on lt (.latentTestRound [(5, 0)]) (fun _ t => decide (t.safe.state = .entering) && t.safe.ltFail == 0x20) &&
    on lt (.latentTestRound [(6, 0)]) (fun s t => evt t Pg.safe E.SAFE_LT_FAIL && t.safe.ltFail == 0x40 && only [.hdrs, .vecs, .safe] s t) &&
    on (safe (fun m => { m with state := .safe }) lt) (.latentTestRound [(2, 9)]) (fun s t => t.safe.ltFail == 4 && t.safe.capture.length == s.safe.capture.length + 1 && only [.safe] s t) &&
    on dev0 (.ltrun .core) (fun s t => t.safe.ltRun && only [.safe] s t) &&
    on (safe (fun m => { m with ltPass := [9, 9, 5, 9, 9, 9, 9, 9] }) dev0) .ltOverdue (fun s t => t.safe.ltOverdue.getLsbD 2 && evt t Pg.safe E.SAFE_LT_OVERDUE &&
      decide (5 + 2 * ltPeriod s < t.now) && only [.now, .hdrs, .vecs, .time, .safe] s t) &&
    on { dev0 with boot := { dev0.boot with state := .halted } } .diagLost (fun s t => evt t Pg.safe E.SAFE_DIAG_LOST && only [.hdrs, .vecs, .safe] s t) &&
    on { dev0 with boot := { dev0.boot with coreUp := false, since := 4 } } .diagLost (fun s t => evt t Pg.safe E.SAFE_DIAG_LOST && decide (4 + ltPeriod s < t.now) &&
      only [.now, .hdrs, .vecs, .time, .safe] s t)) = true := by decide +kernel

/-! ### The statements about every step -/

theorem test_ResetValues : (State.reset.boot.held && !State.reset.boot.isSealed && State.reset.pending.isEmpty && State.reset.safe.fnDrv) = true := by decide +kernel

/-- A state in canonical form, with bytes stored, from which a write slot steps. -/
theorem test_StoredStaysCanonical :
    (let s := { setChan 0 (openAt 5 { chan0 with wq := [qent 5 none], drain := true }) (putRaw 0 5 [3] [4] store0) with pending := [.schedulerSlot 0 slot0] }
    Memory.wf s.mem && !s.mem.isEmpty && (match step s with | .next t => Memory.wf t.mem && decide (lineData t 0 5 = sevens) | _ => false)) = true := by decide +kernel

theorem test_CommandsStayInTheirParts :
    ([Instr.mr4ReadDone 0 0 .half, .ackTimer 0, .powerStateEntry].all fun c => on store0 c (only (touches c))) = true := by decide +kernel

/-! ### Well-formed commands: an ill-formed one for each check -/

theorem test_wf_errors : ([Instr.readComplete 0 [⟨false, false, 0, 72, 1⟩], .rowRedirect 0 [⟨false, false, 0, 3, 0⟩], .schedulerSlot 0 ⟨0, [⟨false, false, 0, 72, 1⟩], false, false⟩,
    .descriptorFetch 0 [⟨false, false, 0, 72, 1⟩], .movePiece 0 0 [⟨false, false, 0, 0, 0⟩], .tableLoadDone 0 [⟨false, false, 0, 99, 1⟩],
    .chunkComplete 0 0 ⟨[⟨false, false, 0, 72, 1⟩], false, none, false, false, [], 0, false⟩].all fun c => !c.wf) = true := by decide +kernel

theorem test_wf_lengths : ([Instr.wrAck 0 0 1 0 0 [], .wrPost 0 0 0 0 (List.replicate 65 0), .flitReceive 0 (List.replicate 16 (0, 0)) false, .markerGroup 0 [],
    .markerGroup 0 (List.replicate 9 none), .checkerLock 0 0 (List.replicate 63 0), .shortRetrainDone 0 true ⟨[1], List.replicate 8 0⟩, .shortRetrainDone 0 true ⟨List.replicate 8 0, [1]⟩, .ldly 0 ⟨[0, 0, 0], 0⟩, .sync 0 ⟨[], 0⟩,
    .sbWriteWord [] false, .sbWriteWord [1, 2, 3, 4, 5, 6] false, .tempSample (List.replicate 8 0), .campaignEnd 0 passing, .campaignEnd 0 { passing with measured := List.replicate 192 0, check := ⟨false, [], 0, 0⟩ }].all fun c => !c.wf) = true := by decide +kernel

theorem test_wf_pages : (let bad : FlashIn := ⟨1, false, [(0, 1)]⟩
    [Instr.regRd 0 0 0x504C false bad, .mboxDone bad, .rwdataRead .core bad, .flashRefreshRead 0 [(0, bad)], .sbAddress 0 bad, .sbReadWord ⟨0, false⟩ ⟨0, true, [(0, 0)]⟩, .flashCheckDone [(0, bad)], .imageSelect [(0, bad)]].all
    fun c => !c.wf) = true := by decide +kernel

theorem test_wf_messages : (let m : RingMsg := ⟨0, [], []⟩
    [Instr.kpw 0 m, .kpw 0 ⟨kpwHdr 0 1 0 0 0 .kp, [], []⟩, .kpw 0 ⟨kpwHdr 0 1 0 0 0 .kp, zeros, [1]⟩, .kpack 0 m, .hodata 0 m, .horec 0 m, .horeg 0 m, .hostate 0 m, .hoctlStart 0 m, .hoctlArmed 0 m, .hoctlSwitch 0 m,
      .hoctlReady 0 m, .hoctlAbort 0 m, .hoctlDone 0 ⟨hoctlHdr 5 0 0, [], []⟩].all fun c => !c.wf) = true := by decide +kernel

theorem test_wf_places : ([Instr.bayReset .core 1 [(7, 0)], .scanPass [256]].all fun c => !c.wf) = true := by decide +kernel

/-- Well-formed commands are taken. -/
theorem test_wf_good : ([Instr.hoctlDone 0 ⟨hoctlHdr 6 0 0, [], []⟩, .kpw 0 ⟨kpwHdr 0 1 0 0 0 .kp, zeros, [0]⟩, .wrAck 0 0 0 0 0 zeros, .sbWriteWord [1, 2, 3, 4] false,
    .campaignEnd 0 { passing with measured := List.replicate 192 0 }].all Instr.wf) = true := by decide +kernel


/-! ### Further clauses -/

/-- While RETENTION is entered a doorbell is dropped (R351); an access of the core or the sideband to a unit asleep wakes the device (R349). -/
theorem test_ADeviceThatSleeps :
    (let power (st : PwrState) (s : State) : State := { s with power := { s.power with state := st } }
    let waking (fill : Option Nat) : State := { power .waking (withPort 0 store0) with power := { store0.power with state := .waking, wasActive := [0], filledAt := fill } }
    on (power .entering (host flat)) (.doorbell 0 0 15) (fun s t => evt t (Pg.link 0) E.HP_POSTED_DROP && only [.hdrs, .flds, .links, .vecs] s t) &&
    [PwrState.dim, PwrState.dark].all (fun st =>
      on (power st store0) (.registerWrite .core (BitVec.ofNat 20 (Pg.ch 0 * 4096 + 0x10)) 0 false) (fun _ t => sleeps (Pg.ch 0) && decide (t.power.state = .active) &&
        fget t Pg.pwr F.PWR_WAKESRC_KIND == 4 && evt t Pg.pwr E.PWR_WAKE) &&
      on (power st store0) (.registerWrite .sideband (BitVec.ofNat 20 (Pg.ch 0 * 4096 + 0x10)) 0 false) (fun _ t => decide (t.power.state = .active) &&
        fget t Pg.pwr F.PWR_WAKESRC_KIND == 3)) &&
    [PwrState.entering, .retention, .waking].all (fun st => on (power st store0) (.retain .core) (fun s t => evt t Pg.pwr E.PWR_CFGERR && only [.hdrs, .vecs] s t)) &&
    on (waking (some 9)) (.partnerNoAnswer 0) (fun _ t => decide (9 + us 40 ≤ t.now) && decide ((t.link 0).state = .detect) && decide (t.power.wasActive = [])) &&
    on { waking none with pll := { store0.pll with state := .waitref } } (.partnerNoAnswer 0) (fun s t => clocksOff s && decide (t = s)) &&
    on (fset Pg.pwr F.PWR_PCMD_RETAIN 0 (waking none)) .retentionExitDone (fun s t =>
      decide (t.power.state = (if targetState s = 3 then .dark else if targetState s = 2 then .dim else .active)))) = true := by decide +kernel

/-- Row 1 of Table 2-5: in SAFE a read that is back is discarded, plain or king-post (R60). -/
theorem test_ReadsInSafeAreDiscarded :
    (let safe (s : State) : State := { s with safe := { s.safe with state := .safe } }
    let gone (a : Acc) (s : State) : Bool := on { safe s with accs := [back s a] } (.readComplete 4 []) fun s t =>
      decide (heads t 0 = [cplHdr false 5 0 a.cls .discarded 0x16 (some a.region) none]) && decide (t.accs = []) && only [.flds, .links, .accs, .regions] s t
    gone (readAcc 0 0 0 .bulk [⟨false, 0, zeros, lineCheck 0 zeros⟩]) (host flat) &&
    gone (readAcc 1 0x400000 0 .kp [⟨false, 0, zeros, lineCheck (512 * 64) zeros⟩]) kpStore) = true := by decide +kernel

/-- A poison line of a KPW is stored as a poison codeword (log 89). -/
theorem test_PoisonTravelsWithAKpw :
    (let s0 := mirroring dest
    let a : Acc := { acc1 (.kpw 0 9 0x55) true 0x400000 [sevens, sevens] with region := 1, kp := true, cls := .kp, lines := 2, chosen := true, poison := [1] }
    let n := 512 * 64
    on { s0 with accs := [a] } (.orderingPointPass 0) (fun _ t => decide (currentLine t 0 n = (sevens, lineCheck n sevens)) &&
      decide (currentLine t 8 (n + 1) = (zeros, poisonCheck (n + 1))))) = true := by decide +kernel

/-- In power-down only a refresh that is due runs, and the channel sleeps on (R228); a parity error of a table fails it (R230). -/
theorem test_SlotsInPowerDown :
    (let at_ (c : Int) : State := setChan 0 { chan0 with state := .powerdown, rank := [(0, { credit := c })] } store0
    (match downSlot (at_ (-1)) 0 0 with | .refPb _ _ => true | _ => false) &&
    on (at_ (-1)) (.schedulerSlot 0 slot0) (fun s t => decide (((t.chan 0).rk 0).credit = 0) && decide (((t.chan 0).rk 0).lastRef = s.now) &&
      decide ((t.chan 0).state = .powerdown) && only [.chans] s t) &&
    decide (downSlot (at_ 0) 0 0 = .none) && on (at_ 0) (.schedulerSlot 0 slot0) (fun s t => decide (t = s)) &&
    on store0 (.schedulerSlot 0 ⟨0, [], false, true⟩) (fun _ t => decide ((t.chan 0).state = .failed) && evt t (Pg.ch 0) E.CH_FAIL)) = true := by decide +kernel

/-- The block record of a block that is resynchronised is copied after its lines (R67, R208). -/
theorem test_RecordsAreResynchronised :
    (let r : Region := { (kpStore.region 1) with kpState := .resync, kpLost := true, toCopy := some [(0, 0, 64)] }
    let s0 := setRegion 1 r (setRec 0 512 { (kpStore.brec 0 512) with tag := 0x77 } kpStore)
    on s0 (.kpResyncDone 1 []) (fun s t => decide ((t.region 1).kpState = .dual) && (t.brec 8 512).tag == 0x77 &&
      decide (t.brec 8 512 = s.brec 0 512) && only [.chans, .recs, .regions] s t)) = true := by decide +kernel

/-- A control group of TYPE 7 is the answer to STBY_REQ (R347); errors that the checker counted fail a soak (R106). -/
theorem test_GroupsAndSoaks :
    (let half : Link := { port8 with active := 0x0F, retired := 0xF0 }
    let soak (n : Nat) : State := port { half with lanes := tset half.lanes 7 { lock := true, sigdet := true, trained := true, retry := .soaking, soakErrs := n } }
    on (soak 1) (.soakEnd 0 7 0 true) (fun _ t => (t.link 0).good == 0 && ((t.link 0).lane 7).fails == 1) &&
    on (soak 0) (.soakEnd 0 7 0 true) (fun _ t => (t.link 0).good == 0x80)) = true := by decide +kernel

/-- A sweep that did not reach its last point ends with TRUNC (R243); in SAFE a set-point change is only noted (R406). -/
theorem test_SweepsCutShort :
    (let beat : List (BitVec 18) := List.replicate 16 1
    let s1 := setChan 3 { chan0 with state := .training, sweep := some { key := 64, saved := 200, points := 2, since := 6 }, delays := [(64, 13)] } dev0
    on s1 (.sweepDone 3 [beat]) (fun s t => decide ((t.chan 3).sweep = none) && decide ((t.chan 3).delays = [(64, 200)]) && fget t (Pg.ch 3) F.CH_SWSTAT_NPTS == 1 &&
      fget t (Pg.ch 3) F.CH_SWSTAT_TRUNC == 1 && decide (6 + ms 1 ≤ t.now) && only [.now, .flds, .chans, .time] s t) &&
    on inSafe0 (.dspreq .core 1) (fun s t => only [.flds] s t)) = true := by decide +kernel

/-- The core writes the almanac operation by operation: it waits for the bank, opens a sector, programs pages, and is done (R245). -/
theorem test_TheAlmanacIsWritten :
    (let want : State := { dev0 with boot := { dev0.boot with almWant := true } }
    let copy : List Byte := List.replicate 256 0xFF ++ [1]
    let at_ (n : Nat) : State := setCell (areaSector 0 3) (mkCell 0 1 (some (0, 1))) { dev0 with flash := { dev0.flash with almJob := some ⟨0, copy, n⟩ } }
    on dev0 .almanacWrite (fun s t => decide (t = s)) &&
    on (working 0 { op := some (fop (.program 0 [])) } want) .almanacWrite (fun s t => decide (almTarget s = 0) && decide ((t.flash.almJob.map (·.next)) = some 0) &&
      !t.boot.almWant && only [.boot, .flash] s t) &&
    (match nextSector want 0 with
     | some p => on want .almanacWrite (fun s t => decide ((t.fbank 0).op = some ⟨.erase (areaSector 0 p) 1 (some 0) 0, .almanac, s.now⟩) && decide (t.flash.bytes = s.flash.bytes) &&
        only [.boot, .flash] s t)
     | none => false) &&
    decide (nextPage copy 0 = some 1) && decide (nextPage copy 512 = none) &&
    on (at_ 2) .almanacWrite (fun _ t => decide ((t.fbank 0).op.map (·.work) = some (.program (areaSector 0 3 * 65536 + 256) (almPage copy 1))) &&
      decide (t.flash.almJob.map (·.next) = some 3)) &&
    on (at_ 514) .almanacWrite (fun s t => decide (t.flash = { s.flash with almJob := none }) && only [.chans, .flash] s t)) = true := by decide +kernel

/-- A step in PJWAIT, a loss of lock in STEP and of edges in COAST (R270, R271, R273). -/
theorem test_TheReferenceIsWatched :
    ([(PllState.pjwait, Instr.refStep, E.CLK_REF_STEP), (.step, .unlock, E.CLK_UNLOCK)].all (fun x => on (pllAt x.1) x.2.1 (fun s t => decide (t.pll.state = .coast) &&
      decide (t.pll.offset = offsetNow s) && evt t Pg.clk E.CLK_COAST && evt t Pg.clk x.2.2 && only [.hdrs, .flds, .vecs, .pll] s t)) &&
    on { pllAt .coast with now := 77 } .refclkLoss (fun s t => decide (t.pll = { s.pll with refpres := false, since := 77 }) && only [.pll] s t)) = true := by decide +kernel
end Sys2Proof.Tests
end

section
/-!
PROOF. Sealed fields (R8, R430): where the RWL fields stand, and what the refused write of one comes to at a host port and on the sideband.
-/

namespace Sys2Proof.Machine

section

variable {s t : State} {page off raddr port tag len d : Nat} {val : Word}

/-! ### Readers of a part that an operation leaves alone -/

theorem Within.hdr_eq {P : List Part} {j : Nat} (h : Within P s t) (hp : P.contains .hdrs = false) : t.hdr j = s.hdr j := by
  rw [State.hdr, State.hdr, h.same .hdrs hp]

theorem Within.link_eq {P : List Part} {j : Nat} (h : Within P s t) (hp : P.contains .links = false) : t.link j = s.link j := by
  rw [State.link, State.link, h.same .links hp]

theorem Within.fget_eq {P : List Part} {p : Nat} {f : Fld} (h : Within P s t) (hp : P.contains .flds = false) : fget t p f = fget s p f := by
  rw [fget, fget, h.same .flds hp]

/-! ### Where the RWL fields stand (Table 16-5) -/

/-- The RWL fields of a register entry, if it has any, are fields of a word at the entry's own offset, and the entry is one of SAFE, SBND or PROT, or QCFG
of a WQ page. -/
def rwlPlaced (type : Nat) (e : RegEnt) : Bool :=
  e.flds.all fun f => decide (f.ty = .rwl →
    f.off = e.off ∧ f.lo < 32 ∧ type ∈ [0x04, 0x06, 0x07, 0x90] ∧ (type = 0x90 → e.off = 0x108 ∧ e.stride = 0x40))

theorem regMap_rwlPlaced (page : Nat) : (regMap page).all (rwlPlaced (pageType page)) = true := by
  unfold regMap
  split
  -- the two RING pages have maps of their own, and a page of no type has none
  case h_18 hty => rw [hty]; split <;> decide
  case h_19 => rfl
  all_goals rename_i hty; rw [hty]; decide

/-- The bits of a written word that the register takes: of PROT only those of assigned pages (R431). -/
def takenBits (page off : Nat) (val : Word) : Nat := if page = Pg.prot then val.toNat.land (protBits off) else val.toNat

/-- A write would change an RWL field when an RWL field of the register at its offset holds another value than the one written. -/
theorem rwlChange_iff : rwlChange s page off val = true ↔ ∃ e ∈ regMap page, ∃ i < e.cnt, e.off + e.stride * i = off ∧
    ∃ f ∈ e.flds, f.ty = .rwl ∧ ext (takenBits page off val) f.lo f.w ≠ fget s page (f.shift (e.stride * i)) := by
  simp [rwlChange, takenBits]

/-- The place of an RWL field that stands in the register map. -/
theorem rwl_place {e : RegEnt} {f : Fld} (he : e ∈ regMap page) (hf : f ∈ e.flds) (hr : f.ty = .rwl) :
    f.off = e.off ∧ f.lo < 32 ∧ pageType page ∈ [0x04, 0x06, 0x07, 0x90] ∧ (pageType page = 0x90 → e.off = 0x108 ∧ e.stride = 0x40) := by
  have h := List.all_eq_true.mp (List.all_eq_true.mp (regMap_rwlPlaced page) e he) f hf
  exact of_decide_eq_true h hr

theorem rwlChange_type (h : rwlChange s page off val = true) : pageType page ∈ [0x04, 0x06, 0x07, 0x90] := by
  obtain ⟨e, he, _, _, _, f, hf, hr, _⟩ := rwlChange_iff.mp h
  obtain ⟨_, _, hty, _⟩ := rwl_place he hf hr
  exact hty

theorem rwlChange_type_ne {type : Nat} (h : rwlChange s page off val = true) (ht : type ∉ [0x04, 0x06, 0x07, 0x90]) : pageType page ≠ type := fun e =>
  ht (e ▸ rwlChange_type h)

/-- QPIDX holds no RWL field, so a write that would change one is no doorbell. -/
theorem rwlChange_not_bell {src : Src} (h : rwlChange s page off val = true) : bellOfOther t src page off = false := by
  obtain ⟨e, he, i, _, ho, f, hf, hr, _⟩ := rwlChange_iff.mp h
  obtain ⟨_, _, _, hq⟩ := rwl_place he hf hr
  have hoff : pageType page = 0x90 → off % 0x40 ≠ 0x10 := fun hty => by
    obtain ⟨h1, h2⟩ := hq hty
    rw [h1, h2] at ho
    omega
  unfold bellOfOther
  by_cases hty : pageType page = 0x90
  · simp [hoff hty]
  · simp [hty]

/-- What a write would change depends on no other field than those of its register. -/
theorem rwlChange_of_fields (h : rwlChange s page off val = true) (hk : ∀ f : Fld, f.off = off → f.lo < 32 → fget t page f = fget s page f) :
    rwlChange t page off val = true := by
  obtain ⟨e, he, i, hi, ho, f, hf, hr, hne⟩ := rwlChange_iff.mp h
  obtain ⟨hfo, hlo, _, _⟩ := rwl_place he hf hr
  refine rwlChange_iff.mpr ⟨e, he, i, hi, ho, f, hf, hr, ?_⟩
  rw [hk (f.shift (e.stride * i)) (by rw [← ho, ← hfo]; rfl) hlo]
  exact hne

/-! ### The count of the page (R430) -/

theorem noteDeny_hdr (h : s.boot.isSealed = true) :
    (noteDeny page s).hdr page = { s.hdr page with denies := min 0xFFFF ((s.hdr page).denies + 1) } := by
  unfold noteDeny onlyIf modHdr
  rw [if_pos h, setHdr_hdr_same]

theorem noteDeny_fget {p : Nat} {f : Fld} : fget (noteDeny page s) p f = fget s p f := noteDeny_within.fget_eq rfl

/-! ### The refusal on the sideband (R388) -/

theorem sbRefused_fget {p : Nat} {f : Fld} : fget (sbRefused raddr s) p f = fget (fbump Pg.sbnd F.SBND_ERRCNT_DENIED s) p f :=
  sbEvt_within.fget_eq rfl

theorem sbRefused_other : OtherFields Pg.sbnd [F.SBND_ERRCNT_DENIED] s (sbRefused raddr s) := fun p f hf =>
  sbRefused_fget.trans (fset_otherFields p f hf)

theorem sbRefused_counts : fget (sbRefused raddr s) Pg.sbnd F.SBND_ERRCNT_DENIED = min (fget s Pg.sbnd F.SBND_ERRCNT_DENIED + 1) 255 := by
  rw [sbRefused_fget, fbump, fadd, fget_fset_same]
  exact Nat.mod_eq_of_lt (Nat.lt_of_le_of_lt (Nat.min_le_right _ _) (by decide))

/-- A sideband write that would change a sealed field is refused; at a register outside the sideband's reach the page does not count it. -/
theorem sbWrite_sealed (hs : s.boot.isSealed = true) (h : rwlChange s page off val = true) :
    sbWrite page off val s = sbRefused (page * 4096 + off) (if sbReach s page off then noteDeny page s else s) := by
  have hboot : page ≠ Pg.boot := fun e => rwlChange_type_ne (type := 0x02) h (by decide) (by rw [e]; rfl)
  have htrain : trainingReg page off = false := by simp [trainingReg, rwlChange_type_ne (type := 0x40) h (by decide)]
  have hstop : sealStops s .sideband page off val = true := by simp [sealStops, hs, h]
  unfold sbWrite
  cases sbReach s page off <;> simp [hboot, htrain, hstop]

/-- What a sideband write of a sealed field does: the page's count, ERRCNT.DENIED, and the event. -/
theorem sbWrite_sealed_effect (hs : s.boot.isSealed = true) (h : rwlChange s page off val = true) :
    Within [.hdrs, .flds, .vecs] s (sbWrite page off val s) ∧ OtherFields Pg.sbnd [F.SBND_ERRCNT_DENIED] s (sbWrite page off val s) ∧
      fget (sbWrite page off val s) Pg.sbnd F.SBND_ERRCNT_DENIED = min (fget s Pg.sbnd F.SBND_ERRCNT_DENIED + 1) 255 := by
  rw [sbWrite_sealed hs h]
  split
  · refine ⟨Within.step sbRefused_within rfl (noteDeny_within.mono rfl), fun p f hf => ?_, ?_⟩
    · rw [sbRefused_other p f hf, noteDeny_fget]
    · rw [sbRefused_counts, noteDeny_fget]
  · exact ⟨sbRefused_within, sbRefused_other, sbRefused_counts⟩

/-! ### The refusal at a host port (R131, R140) -/

theorem complete_denied_flds {cls : TClass} {region : Option Nat} : (complete port tag len cls .denied d region s).flds = s.flds := by
  unfold complete onlyIf
  split <;> exact sendMsg_within.same .flds rfl

/-- A refusal with DENIED changes no register field but XSTS1.DENIED of the port. -/
theorem refuseNP_denied_other {cls : TClass} {region : Option Nat} :
    OtherFields (Pg.link port) [F.HP_XSTS1_DENIED] s (refuseNP port tag len cls .denied d region s) :=
  otherFields_of fset_otherFields (complete_denied_flds (s := countRefused port .denied s))

/-- Pages with RWL fields are not those of host ports, whose standby a request may refuse. -/
theorem rwlChange_heard {port : Fin 16} (h : rwlChange s page off val = true) (ho : off < 4096) : rwlChange (heard port s) page off val = true := by
  refine rwlChange_of_fields h fun f hfo hlo => heard_fget fun e => ?_
  have hp : page = Pg.link port := by
    unfold fkey at e
    omega
  have hport : pageType (Pg.link port) = 0x10 := by
    unfold pageType Pg.link
    rw [if_pos port.isLt, if_neg (by omega), if_pos (by omega)]
  exact rwlChange_type_ne h (by decide) (hp ▸ hport)

/-- After the seal, the checks of a register write end at the RWL field that it would change, when nothing before refuses it (Table 4-7). -/
theorem checkReg_sealed (hs : s.boot.isSealed = true) (hn : inSafe s = false) (hp : s.power.state ≠ .entering) (ha : raddr % 4 = 0)
    (hpage : pageAssigned (raddr / 4096) = true) (hr : regRight s port (raddr / 4096) true = true)
    (h : rwlChange s (raddr / 4096) (raddr % 4096) val = true) : checkReg s port true raddr val = some (.denied, 0x0B) := by
  have hstop (src : Src) : sealStops s src (raddr / 4096) (raddr % 4096) val = true := by simp [sealStops, hs, h]
  unfold checkReg
  simp [hn, hp, ha, hpage, hr, rwlChange_not_bell h, hstop]

/-- A REG_WR of a sealed field takes its tag and is refused, with the page's count. -/
theorem hostRegWr_sealed {port : Fin 16} {parity : Bool} (ht : (s.link port).tags.contains tag = false)
    (hc : checkReg s port true raddr val = some (.denied, 0x0B)) :
    hostRegWr port tag raddr val parity s = refuseNP port tag 0 .bulk .denied 0x0B none (noteDeny (raddr / 4096) (useTag port tag s)) := by
  unfold hostRegWr hostReg
  rw [ht, if_neg (by decide)]
  simp [hc, noteRefusal]

/-- What a REG_WR of a sealed field does at an ACTIVE port: the page's count, the port's, and the completion. -/
theorem hostRegWr_sealed_effect {port : Fin 16} {parity : Bool} (hs : s.boot.isSealed = true) (hu : linkUp s port = true)
    (ht : (s.link port).tags.contains tag = false) (hc : checkReg (heard port s) port true raddr val = some (.denied, 0x0B)) :
    let t := hostRegWr port tag raddr val parity (heard port s)
    Within [.hdrs, .flds, .links] s t ∧ OtherFields (Pg.link port) [F.HP_PSBY_REFUSED, F.HP_XSTS1_DENIED] s t ∧
      (t.hdr (raddr / 4096)).denies = min 0xFFFF ((s.hdr (raddr / 4096)).denies + 1) ∧ Completes port tag 0 .bulk .denied 0x0B none s t := by
  intro t
  let u := useTag port tag (heard port s)
  have huw : Within [.flds, .links] s u := Within.step useTag_within rfl heard_within
  have hut : t = refuseNP port tag 0 .bulk .denied 0x0B none (noteDeny (raddr / 4096) u) := hostRegWr_sealed (by rw [tags_heard]; exact ht) hc
  obtain ⟨hstate, htxq⟩ := useTag_heard_link (port := port) (tag := tag) (s := s)
  rw [hut]
  refine ⟨refuseNP_within.step rfl (noteDeny_within.step rfl (huw.mono rfl)), ?_, ?_, ?_⟩
  · have hfu : OtherFields (Pg.link port) [F.HP_PSBY_REFUSED] s u := otherFields_of heard_other (useTag_within.same .flds rfl)
    exact (otherFields_of hfu (noteDeny_within.same .flds rfl)).step refuseNP_denied_other
  · have hsu : u.boot.isSealed = true := by rw [huw.same .boot rfl]; exact hs
    rw [refuseNP_within.hdr_eq rfl, noteDeny_hdr hsu, huw.hdr_eq rfl]
  · have hl : (noteDeny (raddr / 4096) u).link port = u.link port := noteDeny_within.link_eq rfl
    exact refuseNP_queued hu (by rw [hl]; exact hstate) (by rw [hl]; exact htxq)

end

/-- Settles O14: the checks of the host port and the sideband end at the sealed field, and each refusal counts. -/
theorem sealedFieldsStay : Obligations.SealedFieldsStay := by
  unfold Obligations.SealedFieldsStay
  intro s a val hs ha hpage hch
  have hoff : a.toNat % 4096 < 4096 := Nat.mod_lt _ (by decide)
  constructor
  · intro port tag parity hlink ht hn hp hr
    have hal := heard_alike port s
    have hc : checkReg (heard port s) port true a.toNat val = some (.denied, 0x0B) :=
      checkReg_sealed (by rw [hal.boot]; exact hs) (by rw [inSafe, hal.safe]; exact hn) (by rw [hal.power]; exact hp) ha hpage
        (by rw [hal.regRight port.isLt (by have := a.isLt; omega)]; exact hr) (rwlChange_heard hch hoff)
    refine ⟨hostRegWr port tag a.toNat val parity (heard port s), ?_, hostRegWr_sealed_effect hs (linkUp_of hlink) ht hc⟩
    show Host.Outcome.next (arrives port _ s) = _
    rw [arrives, if_pos hlink]
  · refine ⟨sbWrite (a.toNat / 4096) (a.toNat % 4096) val s, ?_, sbWrite_sealed_effect hs hch⟩
    show thenParity false (a.toNat / 4096) (writeBy .sideband a.toNat val s) = _
    simp [writeBy, thenParity, onlyIf, hpage, ha]

end Sys2Proof.Machine
end

section
/-!
PROOF. Missing rights (R19): the checks of Table 4-7 end at row 7 for a memory request, a commit and a register request whose right is missing,
before and after the port has been heard, and what the refusal comes to at the port.
-/

namespace Sys2Proof.Machine

section

variable {s t : State} {c : Instr} {f : State → State} {port : Fin 16} {tag len addr lines rn : Nat} {r : Region} {write : Bool}

/-! ### The checks end at the right (Table 4-7, row 7) -/

/-- A memory request of `lines` lines that passes the rows of Table 4-7 before row 7, and whose port lacks the right on the region it names. -/
structure LacksRight (s : State) (port : Nat) (write : Bool) (addr lines rn : Nat) (r : Region) : Prop where
  normal : inSafe s = false
  awake : s.power.state ≠ .entering
  inBlock : addr % 64 = 0 ∧ addr % 4096 / 64 + lines ≤ 64
  below : addr < (geom s).memsize * 2 ^ 21
  region : regionOf s addr = some (rn, r)
  number : rn < 256
  shadow : inShadow r addr = false
  noRight : memRight s port rn write = false

theorem LacksRight.alike (h : Alike s t) (k : LacksRight s port write addr lines rn r) : LacksRight t port write addr lines rn r :=
  { normal := by rw [inSafe, h.safe]; exact k.normal
    awake := by rw [h.power]; exact k.awake
    inBlock := k.inBlock
    below := by rw [h.geom]; exact k.below
    region := by rw [regionOf_eq h.regions]; exact k.region
    number := k.number
    shadow := k.shadow
    noRight := by rw [h.right port.isLt k.number]; exact k.noRight }

theorem LacksRight.checkMem {ma : Nat} (k : LacksRight s port write addr lines rn r) :
    checkMem s port write addr lines ma = some ⟨.denied, 5, some rn⟩ := by
  obtain ⟨hnormal, hawake, ⟨halign, hblock⟩, hbelow, hregion, _, hshadow, hright⟩ := k
  unfold Machine.checkMem
  simpa [hnormal, hawake, halign, Nat.not_lt.mpr hblock, hregion, hshadow, hright] using hbelow

theorem LacksRight.clsAt (k : LacksRight s port write addr lines rn r) : clsAt s addr = r.cls := by
  rw [Machine.clsAt, k.region]

theorem checkCommit_noRight (hn : inSafe s = false) (hp : s.power.state ≠ .entering) (he : (s.region rn).en = true)
    (hr : memRight s port rn true = false) : checkCommit s port rn = some (.denied, 5) := by
  unfold checkCommit
  simp [hn, hp, he, hr]

theorem checkReg_noRight {raddr : Nat} {val : Word} (hn : inSafe s = false) (hp : s.power.state ≠ .entering) (ha : raddr % 4 = 0)
    (hpage : pageAssigned (raddr / 4096) = true) (hr : regRight s port (raddr / 4096) write = false) :
    checkReg s port write raddr val = some (.denied, 5) := by
  unfold checkReg
  simp [hn, hp, ha, hpage, hr]

/-! ### The refusal at the port (R140) -/

/-- A request that arrives at an ACTIVE port is carried out on the state in which the port has been heard. -/
theorem answers_of_arrives {post : State → Prop} (hlink : linkActive s port = true) (he : exec c s = .next (arrives port f s))
    (hpost : post (f (heard port s))) : Answers c s post :=
  ⟨f (heard port s), by rw [he, arrives, if_pos hlink], hpost⟩

/-- A non-posted request that is refused takes its tag, is counted and completes; nothing but the port and its counts changes. -/
theorem refuseNP_effect {cls : TClass} {st : Status} {d : Nat} {region : Option Nat} (hlink : linkActive s port = true) :
    let t := refuseNP port tag len cls st d region (useTag port tag (heard port s))
    Within [.flds, .links] s t ∧ Completes port tag len cls st d region s t := by
  obtain ⟨hstate, htxq⟩ := useTag_heard_link (port := port) (tag := tag) (s := s)
  exact ⟨refuseNP_within.step rfl (useTag_within.step rfl heard_within), refuseNP_queued (linkUp_of hlink) hstate htxq⟩

theorem dropPosted_sets {st : Status} {d : Nat} : EventSet (dropPosted port st d s) (Pg.link port) E.HP_POSTED_DROP := by
  have hpage : Pg.link port ≠ Pg.vec := by
    unfold Pg.link Pg.vec
    rw [if_pos port.isLt]
    omega
  rw [EventSet, dropPosted, hpEvt, raiseCaps_hdr hpage]
  exact evtHdr_bit (by decide)

/-- A posted write that is dropped sets POSTED_DROP and sends nothing. -/
theorem dropPosted_effect {st : Status} {d : Nat} :
    let t := dropPosted port st d (heard port s)
    Within [.hdrs, .flds, .links, .vecs] s t ∧ (t.link port).txq = (s.link port).txq ∧ EventSet t (Pg.link port) E.HP_POSTED_DROP := by
  obtain ⟨sb, hheard⟩ := heard_link (l := port) (s := s)
  refine ⟨dropPosted_within.step rfl (heard_within.mono rfl), ?_, dropPosted_sets⟩
  rw [dropPosted_within.link_eq rfl, hheard]

/-! ### Each request without its right -/

theorem hostRd_noRight {ma : Nat} (ht : (s.link port).tags.contains tag = false) (k : LacksRight s port false addr (len + 1) rn r) :
    hostRd port tag len ma addr s = refuseNP port tag len r.cls .denied 5 (some rn) (useTag port tag s) := by
  unfold hostRd
  rw [ht, k.checkMem, k.clsAt]
  rfl

theorem hostWrAck_noRight {data : List Byte} (ht : (s.link port).tags.contains tag = false)
    (k : LacksRight s port true addr (len + 1) rn r) :
    hostWrAck port tag len addr data s = refuseNP port tag len r.cls .denied 5 (some rn) (useTag port tag s) := by
  unfold hostWrAck
  rw [ht, k.checkMem, k.clsAt]
  rfl

theorem hostWrPost_noRight {data : List Byte} (k : LacksRight s port true addr (len + 1) rn r) :
    hostWrPost port len addr data s = dropPosted port .denied 5 s := by
  unfold hostWrPost
  rw [k.checkMem]

theorem hostCommit_refused {touch : Bool} {frame : BitVec 16} {st : Status} {d : Nat} (ht : (s.link port).tags.contains tag = false)
    (hc : checkCommit s port rn = some (st, d)) :
    hostCommit port tag touch rn frame s = refuseNP port tag 0 (s.region rn).cls st d (some rn) (useTag port tag s) := by
  unfold hostCommit
  rw [ht, hc]
  rfl

theorem hostReg_noRight {opc raddr : Nat} {val : Word} (ht : (s.link port).tags.contains tag = false)
    (hc : checkReg s port write raddr val = some (.denied, 5)) :
    hostReg port tag opc write raddr val f s = refuseNP port tag 0 .bulk .denied 5 none (useTag port tag s) := by
  unfold hostReg
  rw [ht, hc]
  rfl

end

/-- Settles O11: the checks of each request end at the missing right, and the refusal changes nothing but the port. -/
theorem noRightMeansDenied : Obligations.NoRightMeansDenied := by
  unfold Obligations.NoRightMeansDenied
  intro s port tag hlink htag hn hp
  have hal := heard_alike port s
  have ht : ((heard port s).link port).tags.contains tag.val = false := by rw [tags_heard]; exact htag
  have hn' : inSafe (heard port s) = false := by rw [inSafe, hal.safe]; exact hn
  have hp' : (heard port s).power.state ≠ .entering := by rw [hal.power]; exact hp
  refine ⟨?memory, ?commit, ?register⟩
  case memory =>
    intro len _ maxage addr data rn r halign hblock hbelow hregion hnum hshadow
    have hlacks (write : Bool) (h : memRight s port rn write = false) :
        LacksRight (heard port s) port write addr.toNat (len + 1) rn r :=
      LacksRight.alike hal ⟨hn, hp, ⟨halign, hblock⟩, hbelow, hregion, hnum, hshadow, h⟩
    refine ⟨fun h => ?_, fun h => ?_, fun h => ?_⟩
    · refine answers_of_arrives hlink rfl ?_
      rw [hostRd_noRight ht (hlacks false h)]
      exact refuseNP_effect hlink
    · refine answers_of_arrives hlink rfl ?_
      rw [hostWrAck_noRight ht (hlacks true h)]
      exact refuseNP_effect hlink
    · refine answers_of_arrives hlink rfl ?_
      rw [hostWrPost_noRight (hlacks true h)]
      exact dropPosted_effect
  case commit =>
    intro touch rn frame hen hright
    have hregion : (heard port s).region rn = s.region rn := by rw [State.region, State.region, hal.regions]
    refine answers_of_arrives hlink rfl ?_
    rw [hostCommit_refused ht (checkCommit_noRight hn' hp' (by rw [hregion]; exact hen) (by rw [hal.right port.isLt rn.isLt]; exact hright)), hregion]
    exact refuseNP_effect hlink
  case register =>
    intro a v parity rd ha hpage
    have hnum : a.toNat / 4096 < 256 := by have := a.isLt; omega
    have hcheck (write : Bool) (val : Word) (h : regRight s port (a.toNat / 4096) write = false) :
        checkReg (heard port s) port write a.toNat val = some (.denied, 5) :=
      checkReg_noRight hn' hp' ha hpage (by rw [hal.regRight port.isLt hnum]; exact h)
    refine ⟨fun h => ?_, fun h => ?_⟩
    · refine answers_of_arrives hlink rfl ?_
      rw [hostRegRd, hostReg_noRight ht (hcheck false 0 h)]
      exact refuseNP_effect hlink
    · refine answers_of_arrives hlink rfl ?_
      rw [hostRegWr, hostReg_noRight ht (hcheck true v h)]
      exact refuseNP_effect hlink

end Sys2Proof.Machine
end

section
/-!
PROOF. Bad addresses (R30, R31): the checks of Table 4-7 end at rows 3 to 6 for a memory request whose address or length is out of place, whether it
reads, writes or posts, and with any answer of those checks the port's request is refused.
-/

namespace Sys2Proof.Machine

section

variable {s t : State} {port : Fin 16} {tag len addr lines ma : Nat} {write : Bool} {data : List Byte} {st : Status} {d : Nat}

/-- The address of a memory request of `lines` lines is out of place, and the refusal that answers it (Table 4-7 and Table 4-9). -/
inductive BadAddress (s : State) (addr lines : Nat) : Status → Nat → Prop where
  | outOfBlock (h : addr % 64 ≠ 0 ∨ 64 < addr % 4096 / 64 + lines) : BadAddress s addr lines .unsupported 1
  | beyondMemory (halign : addr % 64 = 0) (hblock : addr % 4096 / 64 + lines ≤ 64) (h : (geom s).memsize * 2 ^ 21 ≤ addr) :
      BadAddress s addr lines .unsupported 2
  | noRegion (halign : addr % 64 = 0) (hblock : addr % 4096 / 64 + lines ≤ 64) (hbelow : addr < (geom s).memsize * 2 ^ 21)
      (h : regionOf s addr = none) : BadAddress s addr lines .denied 3
  | shadow (halign : addr % 64 = 0) (hblock : addr % 4096 / 64 + lines ≤ 64) (hbelow : addr < (geom s).memsize * 2 ^ 21) (rn : Nat)
      (r : Region) (hregion : regionOf s addr = some (rn, r)) (h : inShadow r addr = true) : BadAddress s addr lines .denied 4

theorem BadAddress.alike (hal : Alike s t) (k : BadAddress s addr lines st d) : BadAddress t addr lines st d := by
  have hregion : regionOf t addr = regionOf s addr := regionOf_eq hal.regions addr
  cases k with
  | outOfBlock h => exact .outOfBlock h
  | beyondMemory halign hblock h => exact .beyondMemory halign hblock (by rw [hal.geom]; exact h)
  | noRegion halign hblock hbelow h => exact .noRegion halign hblock (by rw [hal.geom]; exact hbelow) (hregion.trans h)
  | shadow halign hblock hbelow rn r hr h => exact .shadow halign hblock (by rw [hal.geom]; exact hbelow) rn r (hregion.trans hr) h

/-- The checks of Table 4-7 end at the address when the device is neither in SAFE nor entering RETENTION. -/
theorem BadAddress.checkMem (k : BadAddress s addr lines st d) (hn : inSafe s = false) (hp : s.power.state ≠ .entering) :
    ∃ region, checkMem s port write addr lines ma = some ⟨st, d, region⟩ := by
  unfold Machine.checkMem
  cases k with
  | outOfBlock h => exact ⟨(regionOf s addr).map (·.1), by simp [hn, hp, h]⟩
  | beyondMemory halign hblock h => exact ⟨none, by simp [hn, hp, halign, Nat.not_lt.mpr hblock]; omega⟩
  | noRegion halign hblock hbelow h => exact ⟨none, by simp [hn, hp, halign, Nat.not_lt.mpr hblock, h]; omega⟩
  | shadow halign hblock hbelow rn r hregion h => exact ⟨some rn, by simp [hn, hp, halign, Nat.not_lt.mpr hblock, hregion, h]; omega⟩

/-! ### A request that the checks of Table 4-7 refuse (R140) -/

theorem hostRd_refused {e : Refused} (ht : (s.link port).tags.contains tag = false) (hc : checkMem s port false addr (len + 1) ma = some e) :
    hostRd port tag len ma addr s = refuseNP port tag len (clsAt s addr) e.st e.detail e.region (useTag port tag s) := by
  unfold hostRd
  rw [ht, hc]
  rfl

theorem hostWrAck_refused {e : Refused} (ht : (s.link port).tags.contains tag = false)
    (hc : checkMem s port true addr (len + 1) 0 = some e) :
    hostWrAck port tag len addr data s = refuseNP port tag len (clsAt s addr) e.st e.detail e.region (useTag port tag s) := by
  unfold hostWrAck
  rw [ht, hc]
  rfl

theorem hostWrPost_refused {e : Refused} (hc : checkMem s port true addr (len + 1) 0 = some e) :
    hostWrPost port len addr data s = dropPosted port e.st e.detail s := by
  unfold hostWrPost
  rw [hc]

end

/-- Settles O10: the checks of each memory request end at its address, and the refusal changes nothing but the port and its counts. -/
theorem badAddressesAreRefused : Obligations.BadAddressesAreRefused := by
  unfold Obligations.BadAddressesAreRefused
  intro s port tag len _ maxage addr data st detail hlink htag hn hp haddr
  have hbad : BadAddress s addr.toNat (len + 1) st detail := by
    obtain ⟨h, rfl, rfl⟩ | ⟨halign, hblock, ⟨h, rfl, rfl⟩ | ⟨hbelow, ⟨h, rfl, rfl⟩ | ⟨⟨rn, r, hregion, h⟩, rfl, rfl⟩⟩⟩ := haddr
    · exact .outOfBlock h
    · exact .beyondMemory halign hblock h
    · exact .noRegion halign hblock hbelow h
    · exact .shadow halign hblock hbelow rn r hregion h
  have hal := heard_alike port s
  have ht : ((heard port s).link port).tags.contains tag.val = false := by rw [tags_heard]; exact htag
  have hcheck (write : Bool) (ma : Nat) :
      ∃ region, checkMem (heard port s) port write addr.toNat (len + 1) ma = some ⟨st, detail, region⟩ :=
    (hbad.alike hal).checkMem (by rw [inSafe, hal.safe]; exact hn) (by rw [hal.power]; exact hp)
  refine ⟨?read, ?acknowledged, ?posted⟩
  case read =>
    obtain ⟨region, hc⟩ := hcheck false maxage.toNat
    refine ⟨clsAt (heard port s) addr.toNat, region, answers_of_arrives hlink rfl ?_⟩
    rw [hostRd_refused ht hc]
    exact refuseNP_effect hlink
  case acknowledged =>
    obtain ⟨region, hc⟩ := hcheck true 0
    refine ⟨clsAt (heard port s) addr.toNat, region, answers_of_arrives hlink rfl ?_⟩
    rw [hostWrAck_refused ht hc]
    exact refuseNP_effect hlink
  case posted =>
    obtain ⟨region, hc⟩ := hcheck true 0
    refine answers_of_arrives hlink rfl ?_
    rw [hostWrPost_refused hc]
    exact dropPosted_effect

end Sys2Proof.Machine
end

section
/-!
PROOF. Commits without a copy (R49): the checks of Table 4-7 end at row 11 for a region that is not epoch-buffered, and the acceptance of a commit that
finds no writable copy records its FRAME, takes it off the list and answers OK.
-/

namespace Sys2Proof.Machine

section

variable {s u : State} {rn : Nat} {c : Commit}

/-- A commit that has its right and names no epoch-buffered region ends at row 11 of Table 4-7. -/
theorem checkCommit_unbuffered {port : Nat} (hn : inSafe s = false) (hp : s.power.state ≠ .entering) (he : (s.region rn).en = true)
    (hr : memRight s port rn true = true) (hm : mirrorDest s rn = false) (hb : (s.region rn).buffered = false) :
    checkCommit s port rn = some (.unsupported, 8) := by
  unfold checkCommit
  simp [hn, hp, he, hr, hm, hb]

/-! ### What the answer to a commit does (R52, R160) -/

theorem endCommit_region {st : Status} {d : Nat} {ec : Word} {r : Nat} : (endCommit c st d ec s).region r = s.region r := by
  rw [State.region, State.region, endCommit_within.same .regions rfl]

theorem endCommit_commits {st : Status} {d : Nat} {ec : Word} : (endCommit c st d ec s).commits = s.commits :=
  endCommit_within.same .commits rfl

/-- A host's commit that ends with OK completes to its port. -/
theorem endCommit_completes {port tag : Nat} {ec : Word} (hsrc : c.src = .host port tag) (hu : linkUp s port = true) (hl : u.link port = s.link port) :
    Completes port tag 0 (u.region c.region).cls .ok 0 (some c.region) s (endCommit c .ok 0 ec u) := by
  unfold endCommit
  rw [hsrc]
  exact complete_queued hu (by rw [hl]) (by rw [hl])

/-- A queue's commit that ends with OK gives its job that outcome. -/
theorem endCommit_finishes {q idx : Nat} {ec : Word} {j : Job} (hsrc : c.src = .queue q idx) (hj : j ∈ s.jobs) (hi : j.is q idx = true) :
    ∃ j' ∈ (endCommit c .ok 0 ec s).jobs, j'.is q idx = true ∧ j'.fin = some (0, 0) := by
  unfold endCommit
  rw [hsrc]
  exact ⟨_, List.mem_map_of_mem hj, by rw [if_pos hi]; exact ⟨hi, rfl⟩⟩

/-! ### The acceptance (R48 to R50, R130) -/

/-- The first waiting commit of region `rn` can be accepted, and the region has no writable copy. -/
structure FindsNoCopy (s : State) (rn : Nat) (c : Commit) : Prop where
  first : s.commits.find? (fun d => d.region == rn && !d.accepted) = some c
  normal : inSafe s = false
  unblocked : commitBlocked s c = false
  enabled : (s.region rn).en = true
  walked : (s.region rn).init = false
  noCopy : (s.region rn).idxOf .writable = none

theorem FindsNoCopy.region_eq (k : FindsNoCopy s rn c) : c.region = rn := by
  have h := List.find?_some k.first
  simp only [Bool.and_eq_true, beq_iff_eq] at h
  exact h.1

/-- The commit has been taken off the list and its FRAME is the region's record; the region's copies and every other region are as before. -/
structure FrameRecorded (rn : Nat) (c : Commit) (s u : State) : Prop where
  within : Within [.commits, .regions] s u
  region : u.region rn = { (s.region rn) with frame := some c.frame }
  others : ∀ r, r ≠ rn → u.region r = s.region r
  commits : u.commits = s.commits.filter (fun d => d.seq != c.seq)

/-- An answered commit leaves the list. -/
def dropCommit (c : Commit) (s : State) : State := { s with commits := s.commits.filter fun d => d.seq != c.seq }

theorem dropCommit_within : Within [.commits] s (dropCommit c s) :=
  Within.leaf (Within.refl _ s) (fun p hp => by cases p with | commits => cases hp | _ => rfl) (Nat.le_refl _) (Nat.le_refl _) id id

/-- A commit that finds no copy is answered with OK once its FRAME is recorded, whether or not the region held that FRAME already (R130). -/
theorem FindsNoCopy.commitAccept (k : FindsNoCopy s rn c) :
    ∃ u, commitAccept rn s = endCommit c .ok 0 s.merid.epoch u ∧ FrameRecorded rn c s u := by
  obtain ⟨hfirst, hnormal, hfree, hen, hinit, hcopy⟩ := k
  by_cases hframe : (s.region rn).frame = some c.frame
  · refine ⟨dropCommit c s, ?_, dropCommit_within.mono rfl, ?_, fun _ _ => rfl, rfl⟩
    · unfold Machine.commitAccept
      simp [hfirst, hnormal, hfree, hen, hinit, hframe, dropCommit]
    · rw [← hframe]
      rfl
  · refine ⟨setRegion rn { (s.region rn) with frame := some c.frame } (dropCommit c s), ?_, setRegion_within.step rfl (dropCommit_within.mono rfl),
      setRegion_region_same, fun r hr => setRegion_region_ne hr, rfl⟩
    unfold Machine.commitAccept
    simp [hfirst, hnormal, hfree, hen, hinit, hframe, hcopy, dropCommit]

end

/-- Settles O21: the host's commit ends at the checks, and the acceptance without a copy records the FRAME and answers OK. -/
theorem commitsWithoutACopy : Obligations.CommitsWithoutACopy := by
  unfold Obligations.CommitsWithoutACopy
  refine ⟨?unbuffered, ?noCopy⟩
  case unbuffered =>
    intro s port tag touch rn frame hlink htag hn hp hen hright hdest hbuf
    have hal := heard_alike port s
    have hregion : (heard port s).region rn = s.region rn := by rw [State.region, State.region, hal.regions]
    have hcheck : checkCommit (heard port s) port rn = some (.unsupported, 8) :=
      checkCommit_unbuffered (by rw [inSafe, hal.safe]; exact hn) (by rw [hal.power]; exact hp) (by rw [hregion]; exact hen)
        (by rw [hal.right port.isLt rn.isLt]; exact hright) (by rw [mirrorDest_eq hal.ring]; exact hdest) (by rw [hregion]; exact hbuf)
    refine answers_of_arrives hlink rfl ?_
    rw [hostCommit_refused (by rw [tags_heard]; exact htag) hcheck, hregion]
    exact refuseNP_effect hlink
  case noCopy =>
    intro s rn c hfirst hn hfree hen hinit hcopy
    have hfinds : FindsNoCopy s rn c := ⟨hfirst, hn, hfree, hen, hinit, hcopy⟩
    obtain ⟨u, hu, hwithin, hregion, hothers, hcommits⟩ := hfinds.commitAccept
    refine ⟨endCommit c .ok 0 s.merid.epoch u, congrArg Host.Outcome.next hu, endCommit_within.step rfl (hwithin.mono rfl),
      endCommit_region.trans hregion, fun r hr => endCommit_region.trans (hothers r hr), endCommit_commits.trans hcommits, ?_, ?_⟩
    · intro port tag hsrc hup
      have h := endCommit_completes (ec := s.merid.epoch) hsrc hup (hwithin.link_eq rfl)
      rw [hfinds.region_eq, hregion] at h
      exact h
    · intro q idx hsrc j hj hi
      exact endCommit_finishes hsrc (by rw [hwithin.same .jobs rfl]; exact hj) hi

end Sys2Proof.Machine
end

section
/-!
PROOF. The table window (R178): what waking the device leaves of a joiner group's registers, an entry of a transfer table after a store, and the effect
of each access of the window and of SETV.
-/

namespace Sys2Proof.Machine

section

variable {s : State} {g p kind port : Nat} {f : Fld} {src : Src} {val : Word}

/-! ### What waking the device leaves (R349) -/

/-- Fields of two pages lie apart. -/
theorem fkey_ne_of_page_ne {q : Nat} {e : Fld} (h : p ≠ q) (hfo : f.off < 4096) (hfl : f.lo < 32) (heo : e.off < 4096) (hel : e.lo < 32) :
    fkey p f.off f.lo ≠ fkey q e.off e.lo := by
  unfold fkey
  omega

theorem fget_withChans {t : State} {cs : Tab Chan} : fget { t with chans := cs } p f = fget t p f := rfl

/-- Waking the device writes no field of a page but PWR. -/
theorem wakeDevice_fget (hp : p ≠ Pg.pwr) (hfo : f.off < 4096) (hfl : f.lo < 32) : fget (wakeDevice kind port s) p f = fget s p f := by
  have hfset {e : Fld} {v : Nat} {t : State} (heo : e.off < 4096) (hel : e.lo < 32) : fget (fset Pg.pwr e v t) p f = fget t p f :=
    fget_fset_ne (fkey_ne_of_page_ne hp hfo hfl heo hel)
  have hports (t : State) : fget (forAll (List.range 16) wakePort t) p f = fget t p f :=
    (forAll_within (P := [.freeCtr, .links]) (fun _ _ h => wakePort_within.step rfl h) (Within.refl _ t)).fget_eq rfl
  unfold wakeDevice
  split
  · rw [raise_within.fget_eq rfl, fget_withChans, hports, hfset (by decide) (by decide), hfset (by decide) (by decide), fbump, fadd,
      hfset (by decide) (by decide)]
    rfl
  · rfl

theorem wakeFor_fget {page : Nat} (hp : p ≠ Pg.pwr) (hfo : f.off < 4096) (hfl : f.lo < 32) : fget (wakeFor src page s) p f = fget s p f := by
  have hwake (kind : Nat) : fget (onlyIf (sleeps page) (wakeDevice kind 0) s) p f = fget s p f := by
    unfold onlyIf
    split
    · exact wakeDevice_fget hp hfo hfl
    · rfl
  cases src with
  | host _ => rfl
  | sideband => exact hwake 3
  | core => exact hwake 4

theorem wakeFor_group {page : Nat} : (wakeFor src page s).group g = s.group g := by
  rw [State.group, State.group, wakeFor_within.same .groups rfl]

theorem setInUse_wakeFor {page set : Nat} : setInUse (wakeFor src page s) g set = setInUse s g set := by
  rw [setInUse, setInUse, wakeFor_within.same .jobs rfl]

/-- The page of a joiner group is not PWR, so a group is woken with its registers as they were. -/
theorem wakeFor_fget_jg {page : Nat} (hfo : f.off < 4096) (hfl : f.lo < 32) : fget (wakeFor src page s) (Pg.jg g) f = fget s (Pg.jg g) f :=
  wakeFor_fget (by simp only [Pg.jg, Pg.pwr]; omega) hfo hfl

/-! ### Entries and sets of a group (R175) -/

theorem tabKey_inj {a b e a' b' e' : Nat} (hb : b < 4) (he : e < 4096) (hb' : b' < 4) (he' : e' < 4096)
    (h : tabKey a b e = tabKey a' b' e') : (a, b, e) = (a', b', e') := by
  unfold tabKey at h
  have ha : a = a' := by omega
  have hbb : b = b' := by omega
  have hee : e = e' := by omega
  rw [ha, hbb, hee]

/-- A cleared bit of TVALID reads 0; a bit beyond the eight sets does so anyhow. -/
theorem getLsbD_clearBit {v : BitVec 8} {n : Nat} : (v &&& ~~~(BitVec.ofNat 8 (2 ^ n))).getLsbD n = false := by
  by_cases h : n < 8
  · simp only [BitVec.getLsbD_and, BitVec.getLsbD_not, BitVec.getLsbD_ofNat, Nat.testBit_two_pow_self, h, decide_true, Bool.and_self,
      Bool.not_true, Bool.and_false]
  · exact BitVec.getLsbD_of_ge _ _ (Nat.not_lt.mp h)

/-! ### Events of a group (R197) -/

theorem jgEvt_eventSet {bit joiner low : Nat} (hb : bit < 32) : EventSet (jgEvt g bit joiner low s) (Pg.jg g) bit := by
  unfold EventSet jgEvt raise
  rw [raiseCaps_hdr (by simp only [Pg.jg, Pg.vec]; omega)]
  exact evtHdr_bit hb

/-! ### The window moves on (R178) -/

theorem stepWindow_index : fget (stepWindow g s) (Pg.jg g) F.JG_TWSEL_INDEX = (fget s (Pg.jg g) F.JG_TWSEL_INDEX + 1) % 4096 :=
  fget_fset_same

theorem stepWindow_otherFields : OtherFields (Pg.jg g) [F.JG_TWSEL_INDEX] s (stepWindow g s) := fset_otherFields

/-- A read of TWDATA returns the selected entry and moves the window on. -/
theorem regRead_twdata {rd : FlashIn} (hg : g < 16) :
    regRead (Pg.jg g) F.JG_TWDATA_ENTRY.off rd s = (BitVec.ofNat 32 (windowEntry s g), stepWindow g s) := by
  have htype : pageType (Pg.jg g) = 0x80 := by
    unfold pageType Pg.jg
    repeat' split
    all_goals omega
  have hpage {n : Nat} (hn : n < 0x80) : Pg.jg g ≠ n := by unfold Pg.jg; omega
  unfold regRead
  simp [htype, hpage, Pg.time, Pg.flsh, Pg.clk, Pg.jg]

/-! ### A write of the window (R176, R178) -/

/-- The group after the entry that TWSEL selects was stored: the set of that entry is no longer valid. -/
def windowStored (g : Nat) (val : Word) (s : State) : Group :=
  { (s.group g).putEntry (fget s (Pg.jg g) F.JG_TWSEL_TSET) (fget s (Pg.jg g) F.JG_TWSEL_PRIM) (fget s (Pg.jg g) F.JG_TWSEL_INDEX) val.toNat with
    tvalid := (s.group g).tvalid &&& ~~~(BitVec.ofNat 8 (2 ^ fget s (Pg.jg g) F.JG_TWSEL_TSET)) }

theorem windowStored_entry_same :
    (windowStored g val s).entry (fget s (Pg.jg g) F.JG_TWSEL_TSET) (fget s (Pg.jg g) F.JG_TWSEL_PRIM) (fget s (Pg.jg g) F.JG_TWSEL_INDEX) =
      val.toNat % 65536 :=
  tget_cset_same _ _ _ _

theorem windowStored_entry_ne {a b e : Nat}
    (hne : (a, b, e) ≠ (fget s (Pg.jg g) F.JG_TWSEL_TSET, fget s (Pg.jg g) F.JG_TWSEL_PRIM, fget s (Pg.jg g) F.JG_TWSEL_INDEX))
    (hprim : fget s (Pg.jg g) F.JG_TWSEL_PRIM < 4) (hindex : fget s (Pg.jg g) F.JG_TWSEL_INDEX < 4096) (hb : b < 4) (he : e < 4096) :
    (windowStored g val s).entry a b e = (s.group g).entry a b e :=
  tget_cset_ne _ _ fun hkey => hne (tabKey_inj hb he hprim hindex hkey)

theorem windowStored_invalid : (windowStored g val s).tvalid.getLsbD (fget s (Pg.jg g) F.JG_TWSEL_TSET) = false := getLsbD_clearBit

theorem writeWindow_accepted (h : setInUse s g (fget s (Pg.jg g) F.JG_TWSEL_TSET) = false) :
    writeWindow g val s = stepWindow g (setGroup g (windowStored g val s) s) := by
  simp only [writeWindow, h]
  rfl

theorem writeWindow_refused (h : setInUse s g (fget s (Pg.jg g) F.JG_TWSEL_TSET) = true) :
    writeWindow g val s = jgEvt g E.JG_CFGERR 0xF (fget s (Pg.jg g) F.JG_TWSEL_TSET) s := by
  simp only [writeWindow, h, if_true]

/-! ### SETV (R176 to R178) -/

theorem markValid_accepted (hload : (s.group g).tload = none) (h : setInUse s g (fget s (Pg.jg g) F.JG_TLCMD_TSET) = false) :
    markValid g s =
      setGroup g { (s.group g) with tvalid := (s.group g).tvalid ||| BitVec.ofNat 8 (2 ^ fget s (Pg.jg g) F.JG_TLCMD_TSET) } s := by
  simp [markValid, hload, h]

end

/-- Settles O32: every access finds the group awake with its registers, tables and jobs as they were, and has its one effect there. -/
theorem theTableWindow : Obligations.TheTableWindow := by
  unfold Obligations.TheTableWindow
  intro s src g
  have hinUse {f : Fld} (hfo : f.off < 4096) (hfl : f.lo < 32) :
      setInUse (wakeFor src (Pg.jg g) s) g (fget (wakeFor src (Pg.jg g) s) (Pg.jg g) f) = setInUse s g (fget s (Pg.jg g) f) := by
    rw [setInUse_wakeFor, wakeFor_fget_jg hfo hfl]
  refine ⟨fun hmay => ⟨?accepted, ?refused⟩, ?read, ?setv⟩
  case accepted =>
    intro val hfree
    refine Answers.woken rfl hmay ?_
    rw [writeWindow_accepted ((hinUse (by decide) (by decide)).trans hfree)]
    refine ⟨stepWindow_within.step rfl (setGroup_within.mono rfl), stepWindow_otherFields, stepWindow_index, ?_⟩
    unfold stepWindow
    simp only [fset_group, setGroup_group_same]
    exact ⟨windowStored_entry_same, fun _ _ _ => windowStored_entry_ne, windowStored_invalid, fun _ => setGroup_group_ne⟩
  case refused =>
    intro val hused
    refine Answers.woken rfl hmay ?_
    rw [writeWindow_refused ((hinUse (by decide) (by decide)).trans hused)]
    exact ⟨jgEvt_within, jgEvt_eventSet (by decide)⟩
  case read =>
    intro hmay
    refine ⟨_, congrArg Host.Outcome.next (viaRead_admitted hmay), ?_⟩
    rw [regRead_twdata (by omega)]
    exact ⟨busResult_within.step rfl (stepWindow_within.mono rfl), rfl, stepWindow_otherFields, stepWindow_index⟩
  case setv =>
    intro hmay hload hfree
    refine Answers.woken rfl hmay ?_
    rw [markValid_accepted (wakeFor_group.symm ▸ hload) ((hinUse (by decide) (by decide)).trans hfree)]
    exact ⟨setGroup_within, setGroup_group_same, fun _ => setGroup_group_ne⟩

end Sys2Proof.Machine
end

section
/-!
PROOF. Sideband refusals (R388, Table 14-6): what the refusal of a committed word comes to, that no event of another page undoes it, and the grounds
on which a word is refused.
-/

namespace Sys2Proof.Machine

section

variable {s t : State} {page off raddr bit : Nat} {val c0 c1 : Word}

/-! ### The refusal -/

/-- The refusal of a committed word (R388): it is counted in ERRCNT.DENIED and sets WR_DENIED; no other register field and nothing of the transaction
changes. -/
structure SbDenied (s t : State) : Prop where
  within : Within [.hdrs, .flds, .vecs] s t
  others : OtherFields Pg.sbnd [F.SBND_ERRCNT_DENIED] s t
  counted : fget t Pg.sbnd F.SBND_ERRCNT_DENIED = min (fget s Pg.sbnd F.SBND_ERRCNT_DENIED + 1) 255
  event : EventSet t Pg.sbnd E.SBND_WR_DENIED

theorem sbRefused_eventSet : EventSet (sbRefused raddr s) Pg.sbnd E.SBND_WR_DENIED := by
  unfold EventSet sbRefused sbEvt raise
  rw [raiseCaps_hdr (by decide)]
  exact evtHdr_bit (by decide)

theorem sbRefused_denied : SbDenied s (sbRefused raddr s) :=
  ⟨sbRefused_within, sbRefused_other, sbRefused_counts, sbRefused_eventSet⟩

/-- The count of the page that holds the sealed field (R430) is none of the refusal's own registers. -/
theorem SbDenied.of_noteDeny (h : SbDenied (noteDeny page s) t) : SbDenied s t where
  within := h.within.step rfl (noteDeny_within.mono rfl)
  others := fun p f hf => (h.others p f hf).trans noteDeny_fget
  counted := by rw [h.counted, noteDeny_fget]
  event := h.event

/-- An event of another page leaves the refusal as it was. -/
theorem SbDenied.after_raise (h : SbDenied s t) (hp : page ≠ Pg.sbnd) : SbDenied s (raise page bit c0 c1 t) where
  within := (raise_within (x0 := page)).step rfl h.within
  others := otherFields_of h.others (raise_within.same .flds rfl)
  counted := by rw [raise_within.fget_eq rfl, h.counted]
  event := by
    unfold EventSet raise
    rw [raiseCaps_hdr_ne (by decide) hp.symm]
    exact h.event

theorem SbDenied.after_bootCfgErr (h : SbDenied s t) : SbDenied s (bootCfgErr t) := by
  unfold bootCfgErr bootEvt
  exact h.after_raise (by decide)

theorem SbDenied.after_chCfgErr {c : Nat} (h : SbDenied s t) : SbDenied s (chCfgErr c t) := by
  unfold chCfgErr chEvt
  exact h.after_raise (by simp only [Pg.ch, Pg.sbnd]; omega)

/-! ### The grounds of a refusal -/

theorem sbReach_training (h : trainingReg page off = true) : sbReach s page off = false := by
  have hsbnd : page ≠ Pg.sbnd := by
    rintro rfl
    simp [trainingReg, pageType, Pg.sbnd] at h
  simp [sbReach, hsbnd, h]

/-- BCMD and WDKICK, by their offsets in Table 11-8. -/
theorem sbReach_coreBoot (h : off = 0x58 ∨ off = 0x70) : sbReach s Pg.boot off = false := by
  have hsbnd : (Pg.boot == Pg.sbnd) = false := rfl
  simp [sbReach, hsbnd, h]

theorem sbReach_forbidden (hp : page ≠ Pg.sbnd)
    (h : fget s Pg.sbnd (if mailboxReg page off then F.SBND_SACC_MBOX else F.SBND_SACC_WREN) = 0) : sbReach s page off = false := by
  unfold sbReach
  cases hm : mailboxReg page off with
  | true =>
    rw [hm, if_pos rfl] at h
    simp [hp, h]
  | false =>
    rw [hm, if_neg Bool.false_ne_true] at h
    simp [hp, h]

/-- A word outside the sideband's reach is refused; some pages also report the write with their CFGERR. -/
theorem sbWrite_unreached (h : sbReach s page off = false) : SbDenied s (sbWrite page off val s) := by
  have hden : SbDenied s (sbRefused (page * 4096 + off) s) := sbRefused_denied
  unfold sbWrite
  simp only [h, Bool.not_false, if_true]
  split
  · exact hden.after_bootCfgErr
  · split
    · exact hden.after_chCfgErr
    · exact hden

/-- A word that would change an RWL field is refused, before the seal as well as after it (R8, R321), wherever it goes. -/
theorem sbWrite_rwlChange (h : rwlChange s page off val = true) : SbDenied s (sbWrite page off val s) := by
  cases hr : sbReach s page off with
  | false => exact sbWrite_unreached hr
  | true =>
    have hstop : sealStops s .sideband page off val = true := by simp [sealStops, h]
    have heq : sbWrite page off val s = sbRefused (page * 4096 + off) (noteDeny page s) := by simp [sbWrite, hr, hstop]
    exact heq ▸ sbRefused_denied.of_noteDeny

end

/-- Settles O15: an RWL field stops the word itself, and each other ground puts the register outside the sideband's reach. -/
theorem sidebandRefusals : Obligations.SidebandRefusals := by
  unfold Obligations.SidebandRefusals
  intro s a val ha hpage hground
  have hden : SbDenied s (sbWrite (a.toNat / 4096) (a.toNat % 4096) val s) := by
    obtain hrwl | htrain | ⟨hboot, hoff⟩ | ⟨hsbnd, hsacc⟩ := hground
    · exact sbWrite_rwlChange hrwl
    · exact sbWrite_unreached (sbReach_training htrain)
    · rw [hboot]
      exact sbWrite_unreached (sbReach_coreBoot hoff)
    · exact sbWrite_unreached (sbReach_forbidden hsbnd hsacc)
  refine ⟨_, ?_, hden.within, hden.within.same .sb rfl, hden.others, hden.counted, hden.event⟩
  show thenParity false (a.toNat / 4096) (writeBy .sideband a.toNat val s) = _
  simp [writeBy, thenParity, onlyIf, hpage, ha]

end Sys2Proof.Machine
end
